-- ==== Sys2Proof/Word.lean ====
section
/-!
DEFINITION. The word types of the YB8 (R7) and the two keyed containers the state is built from. Operations on the
containers stand in Machine/Store.lean.
-/
namespace Sys2Proof

/-- A byte (R7). -/
abbrev Byte := BitVec 8
/-- A half (R7). -/
abbrev Half := BitVec 16
/-- A word (R7); also one vector lane (R143). -/
abbrev Word := BitVec 32
/-- A dword (R7); also one scalar register (R110). -/
abbrev Dword := BitVec 64
/-- An op (R7, R72). -/
abbrev Op := BitVec 128

/-- Data by key, held as pairs with strictly rising keys, no pair equal to what an unlisted key reads as. -/
abbrev Sparse (α : Type) := List (Nat × α)

/-- Records by key, held as pairs with strictly rising keys; an unlisted key has no record. -/
abbrev Assoc (α : Type) := List (Nat × α)

end Sys2Proof
end

