-- ==== Sys2Proof/Syntax.lean ====
section
/-!
DEFINITION. The instructions of the YB8: one constructor per row of the opcode table. The ops of the 128-bit
instruction set (R72 to R88) come first, each with its header and the fields of its payload layout exactly as stored,
the fields that must be zero included. After them stand the events: what the device's engines, and the parties
outside the device, do of their own accord, with the operands that say which work is meant.
-/
namespace Sys2Proof

/-- The op header, bits [47:0] but for OPC (Table 3.1, R80). -/
structure Hdr where
  /-- TY, bits [47:44]: the type code. -/
  ty   : BitVec 4
  /-- SINC, bits [43:40]: the signal increment. -/
  sinc : BitVec 4
  /-- SSEM, bits [39:32]: the semaphore to signal. -/
  ssem : BitVec 8
  /-- WCNT, bits [31:24]: the wait threshold. -/
  wcnt : BitVec 8
  /-- WSEM, bits [23:16]: the semaphore to wait on. -/
  wsem : BitVec 8
  /-- GNEG, bit 15: invert the guard. -/
  gneg : BitVec 1
  /-- GRD, bits [14:9]: the guard select. -/
  grd  : BitVec 6
  /-- STOP, bit 8: the last op of its bundle. -/
  stop : BitVec 1
  deriving DecidableEq, Repr

/-- The TRI layout (Table 3.2). -/
structure Tri where
  /-- IMM44, bits [127:84]. -/
  imm : BitVec 44
  /-- FN, bits [83:76]. -/
  fn  : BitVec 8
  /-- C, bits [75:69]. -/
  c   : BitVec 7
  /-- B, bits [68:62]. -/
  b   : BitVec 7
  /-- A, bits [61:55]. -/
  a   : BitVec 7
  /-- D, bits [54:48]. -/
  d   : BitVec 7
  deriving DecidableEq, Repr

/-- The WIDE layout (Table 3.3). -/
structure Wide where
  /-- Bits [127:119], zero. -/
  z   : BitVec 9
  /-- IMM64, bits [118:55]. -/
  imm : BitVec 64
  /-- D, bits [54:48]. -/
  d   : BitVec 7
  deriving DecidableEq, Repr

/-- The BRANCH layout (Table 3.4). -/
structure Branch where
  /-- Bits [127:116], zero. -/
  z1  : BitVec 12
  /-- OFF, bits [115:84]: signed offset in ops. -/
  off : BitVec 32
  /-- FN, bits [83:76]. -/
  fn  : BitVec 8
  /-- Bits [75:62], zero. -/
  z2  : BitVec 14
  /-- A, bits [61:55]. -/
  a   : BitVec 7
  /-- Bits [54:48], zero. -/
  z3  : BitVec 7
  deriving DecidableEq, Repr

/-- The MEM layout (Table 3.5). -/
structure MemF where
  /-- Bits [127:124], zero. -/
  z1    : BitVec 4
  /-- ORDER, bit 123. -/
  order : BitVec 1
  /-- SCALE, bits [122:120]. -/
  scale : BitVec 3
  /-- DISP, bits [119:92]. -/
  disp  : BitVec 28
  /-- DUE, bits [91:84]. -/
  due   : BitVec 8
  /-- FN, bits [83:76]. -/
  fn    : BitVec 8
  /-- Bits [75:69], zero. -/
  z2    : BitVec 7
  /-- B, bits [68:62]. -/
  b     : BitVec 7
  /-- A, bits [61:55]. -/
  a     : BitVec 7
  /-- D, bits [54:48]. -/
  d     : BitVec 7
  deriving DecidableEq, Repr

/-- The MAT layout (Table 3.6). -/
structure Mat where
  /-- Bits [127:100], zero. -/
  z1 : BitVec 28
  /-- K, bits [99:91]. -/
  k  : BitVec 9
  /-- EB, bits [90:84]. -/
  eb : BitVec 7
  /-- FN, bits [83:76]. -/
  fn : BitVec 8
  /-- EA, bits [75:69]. -/
  ea : BitVec 7
  /-- B, bits [68:62]. -/
  b  : BitVec 7
  /-- A, bits [61:55]. -/
  a  : BitVec 7
  /-- D, bits [54:48]. -/
  d  : BitVec 7
  deriving DecidableEq, Repr

/-- The JOB layout (Table 3.7). -/
structure JobF where
  /-- IMM44, bits [127:84]. -/
  imm : BitVec 44
  /-- FN, bits [83:76]. -/
  fn  : BitVec 8
  /-- Bits [75:62], zero. -/
  z2  : BitVec 14
  /-- A, bits [61:55]. -/
  a   : BitVec 7
  /-- Bits [54:48], zero. -/
  z3  : BitVec 7
  deriving DecidableEq, Repr

/-! ## Operands of the engine events -/

/-- Who asks for a translation (R452, R454): an access of a context's port, a fetch, a beat of a copy job, the Courier of
a core for a VF, or a master of the I/O die for a VF at an address. -/
inductive Master where
  | port (ctx id : Nat)
  | fetch (ctx : Nat)
  | beat (job beat : Nat)
  | courier (core vf : Nat)
  | outside (vf va : Nat)
  deriving DecidableEq, Repr

/-- Who loads from an ember cell (R311): an access of a context's port, or a read beat of a copy job. -/
inductive Loader where
  | port (ctx id : Nat)
  | beat (job beat : Nat)
  /-- The read of a remote device's request, by packet (R229). -/
  | remote (pkt : Nat)
  deriving DecidableEq, Repr

/-- A restore command of the supervisor (R444): the slot that the SAVED context reserves, its save area, the destination
slot, the window bases, the split. -/
structure RestoreCmd where
  part    : Nat
  old     : Nat
  area    : Nat
  ctx     : Nat
  semBase : Nat
  spBase  : Nat
  spBlk   : Nat
  deriving DecidableEq, Repr

/-- A write through a partition's table window (R451, R456). -/
structure TableWrite where
  part  : Nat
  addr  : Nat
  value : BitVec 64
  deriving DecidableEq, Repr

/-- A partition at its creation (R459): its cores, HBM units and shares. -/
structure PartitionCmd where
  part    : Nat
  cores   : List Nat
  /-- HBM units of 1 GiB. -/
  units   : List Nat
  /-- Its entries of the context set table. -/
  sets    : List Nat
  /-- Its share of the key slots: first and number. -/
  keys    : Nat × Nat
  /-- Intake rings it may have. -/
  rings   : Nat
  /-- Its share of the collective store: first word and number (R240). -/
  coll    : Nat × Nat
  deriving DecidableEq, Repr

/-- A write of a key slot by the partition's supervisor (R375, R376). -/
structure KeySlotCmd where
  part   : Nat
  slot   : Nat
  /-- OWNER; none for 0xFF. -/
  owner  : Option Nat
  /-- STATE: 0 EMPTY, 1 ACTIVE, 2 ROTATING. -/
  state  : Nat
  epoch  : Bool
  key0   : BitVec 256
  key1   : BitVec 256
  /-- USE: TSS when set, MACSEC otherwise. -/
  tss    : Bool
  deriving DecidableEq, Repr

/-- A multi-chip reduction window (R401): home device, VF base and length, REDOP, destination type, LSB. -/
structure ReductionWindow where
  home  : Nat
  vf    : Nat
  base  : Nat
  len   : Nat
  redop : Nat
  ty    : Nat
  lsb   : Int
  deriving DecidableEq, Repr

/-- A write of a configuration register that has no command of its own (R481). -/
inductive SupReg where
  /-- LIMIT of a partition (R127, R471). -/
  | limit (part value : Nat)
  /-- PREPTIME and the INDOUBT interval, in microseconds (R423). -/
  | preptime (part us : Nat)
  | indoubt (part us : Nat)
  /-- Envelope records of a partition, and staging entries of a VF (R405, R406). -/
  | records (part n : Nat)
  | staging (vf n : Nat)
  /-- L2 way quotas of a partition and of a VF, and the residency mode (Tables 16.4 and 16.5). -/
  | wayQuota (part n : Nat)
  | vfWays (vf n : Nat)
  | residency (part : Nat) (hint : Bool)
  /-- A partition's share of a die's TLB entries and walk slots (R453). -/
  | tlbShare (part die entries walks : Nat)
  /-- ROOT and POLICY of a VF (Table 16.5). -/
  | root (vf value : Nat)
  | policy (vf : Nat) (freeze : Bool)
  /-- The frame quota of a VF on a core (R332). -/
  | frames (core vf n : Nat)
  /-- A fabric peer entry: the VF on a device, or VALID clear (R392). -/
  | peer (vf dev : Nat) (target : Option Nat)
  /-- An entry of the host window table: queue pair, remote address, remote key, length; none when invalid (R373). -/
  | hostEntry (vf idx : Nat) (entry : Option (Nat × Nat × Nat × Nat))
  /-- A device-memory window: base, length, remote key, read and write rights; none when absent (Table 13.3). -/
  | window (vf idx : Nat) (win : Option (Nat × Nat × Nat × Bool × Bool))
  /-- The path MTU of a queue pair of a VF (Table 13.2). -/
  | queuePair (vf qp mtu : Nat)
  /-- A ring of a VF created: base, size, policy, notified context and semaphore (R377). -/
  | ring (vf idx base size policy : Nat) (notify : Option (Nat × Nat))
  /-- Remote keys of the launch and the status window (R371). -/
  | windowKeys (vf launch status : Nat)
  /-- The MAC address of a VF on a port, and a port's mode: 1 × 1.6 Tb/s, or 2 × 800 Gb/s when set (R367, R368). -/
  | mac (port vf value : Nat)
  | portMode (port : Nat) (split : Bool)
  /-- The signature policy of a partition and its trusted keys (R470). -/
  | signature (part : Nat) (required : Bool) (keys : List (List Byte))
  /-- The fabric map: the device's own FABXY, the columns and rows of the fabric, and the links between other devices that are
  out of every route, as pairs of FABXY (R391, R397). -/
  | fabric (xy cols rows : Nat) (broken : List (Nat × Nat))
  deriving DecidableEq, Repr

/-! ## The fabric -/

/-- A request's place in a stream (R398): source device, copy engine, stream sequence number; and the job and beat it
belongs to. -/
structure Stream where
  dev    : Nat
  engine : Nat
  seq    : Nat
  job    : Nat
  beat   : Nat
  deriving DecidableEq, Repr

/-- A remote request (R398, R401). -/
structure RemoteReq where
  /-- The streams it answers to: several once routers have merged packets (R402). -/
  streams : List Stream
  vf      : Nat
  /-- 0 read, 1 write, 2 reduction. -/
  kind    : Nat
  kindle  : Bool
  /-- Bytes read, by address and number. -/
  reads   : List (Nat × Nat)
  /-- Bytes written: address, bits written, value. -/
  writes  : List (Nat × Byte × Byte)
  /-- Elements combined: address and operand in the destination's type. -/
  terms   : List (Nat × List Byte)
  /-- The wire values among the operands that their `f32` patterns do not hold exactly, in the order of `terms`: whole number
  and exponent (R219). -/
  wide    : List (Option (Int × Int)) := []
  redop   : Nat
  /-- The reduction window that makes it eligible for merging (R401). -/
  window  : Option Nat
  deriving DecidableEq, Repr

/-- The answer to a remote request: the bytes read, or an error code of Table 13.15 and the address that failed. -/
structure RemoteAns where
  stream : Stream
  data   : List Byte
  error  : Nat
  addr   : Nat
  deriving DecidableEq, Repr

/-- A SEAL message (Table 14.7): target VF, staged bytes with their masks, the bytes it counts for RCVD, the participant
mask, and the envelope order number; none for a beat of a sealed copy job. `port` is the sealed store's port entry. -/
structure SealMsg where
  eid    : Nat
  stream : Stream
  port   : Option (Nat × Nat)
  vf     : Nat
  writes : List (Nat × Byte × Byte)
  bytes  : Nat
  mask   : BitVec 64
  order  : Option Nat
  deriving DecidableEq, Repr

/-- A SEALACK message (Table 14.7). -/
structure SealAck where
  eid    : Nat
  stream : Stream
  port   : Option (Nat × Nat)
  bytes  : Nat
  fault  : Bool
  deriving DecidableEq, Repr

/-- What a fabric packet carries (Table 14.7, R364, R398). -/
inductive Msg where
  | seal (m : SealMsg)
  | sealack (m : SealAck)
  | fail (eid dev cause : Nat)
  | prepare (eid count : Nat)
  | ready (eid dev : Nat)
  | publish (eid : Nat)
  | discard (eid cause : Nat)
  | done (eid dev : Nat)
  | query (eid dev : Nat)
  | remote (r : RemoteReq)
  | answer (a : RemoteAns)
  /-- A 512-byte unit of a collective step: the partition and device list of the step, and the unit (R364). -/
  | unit (part list : Nat) (data : List Byte)
  deriving DecidableEq, Repr

/-- A fabric packet, with its source and destination device (FABXY), and the hops it has made. -/
structure Packet where
  src : Nat
  dst : Nat
  msg : Msg
  hops : Nat := 0
  deriving DecidableEq, Repr

/-- A flit as it arrives (Table 13.14): `valid` says that its tag is right under the key of its epoch. A packet travels in
as many data flits as its data need, in order: `part` counts them from 0, and the last of `parts` completes the packet.
(DESIGN CHOICE: log 142) -/
structure Flit where
  seq   : Nat
  ack   : Nat
  epoch : Nat
  /-- 0 data, 1 idle, 2 replay request. -/
  kind  : Nat
  vc    : Nat
  valid : Bool
  pkt   : Option Packet
  part  : Nat := 0
  parts : Nat := 1
  deriving DecidableEq, Repr

/-- What a key rotation of a link brings (R396, R482): the port, the neighbour's new ephemeral value, and whether it is signed
with that device's identity key. -/
structure LinkRotation where
  port   : Nat
  peer   : List Byte
  signed : Bool
  deriving DecidableEq, Repr

/-! ## The Ethernet ports -/

/-- An RDMA request of the host (R370, R371) on a queue pair of the VF: windows 0 to 7 are device memory, 8 the launch and 9 the
status window. -/
structure RdmaReq where
  qp     : Nat
  window : Nat
  rkey   : Nat
  off    : Nat
  len    : Nat
  data   : List Byte
  deriving DecidableEq, Repr

/-- A packet of the Ultra Ethernet Transport (R374, R376, R379): ring, key slot, epoch, FLOW, message number, place of its
bytes in the message, length of the message, reliable delivery, whether it passes GCM verification under the key it
names, its congestion mark, and the port counter at its arrival, which the port stamps (R3). -/
structure UetPacket where
  ring  : Nat
  slot  : Nat
  epoch : Bool
  flow  : BitVec 32
  msg   : Nat
  off   : Nat
  data  : List Byte
  total : Nat
  rud   : Bool
  valid : Bool
  ecn   : Bool
  ts    : Dword
  deriving DecidableEq, Repr

/-- What a frame carries. -/
inductive EthBody where
  /-- An RDMA WRITE or READ request of the host. -/
  | write (r : RdmaReq)
  | read (r : RdmaReq)
  /-- A RoCEv2 request that Table 13.2 does not allow. -/
  | invalid
  /-- The host's answer to a request of a beat: its bytes, or a NAK or retry exhaustion (R373). -/
  | answer (job beat : Nat) (data : List Byte) (nak : Bool)
  /-- A congestion notification for a queue pair (Table 13.2). -/
  | cnp (qp : Nat)
  | uet (p : UetPacket)
  deriving DecidableEq, Repr

/-- A received Ethernet frame (R367 to R369): its port and, on a port of two MACs, which of them; its length up to the MTU;
the counts of the port's counter since its previous frame (R3). `secure` says that its MACsec verification succeeds, `ecn` that a
RoCEv2 frame bears a congestion mark (R370). -/
structure EthFrame where
  port   : Nat
  lane   : Nat
  bytes  : Nat
  ticks  : Nat
  dest   : Nat
  secure : Bool
  ecn    : Bool := false
  body   : EthBody
  deriving DecidableEq, Repr

/-- One constructor per row of the opcode table: the ops, then the events. -/
inductive Instr where
  | nop (h : Hdr) (f : Tri)
  | add (h : Hdr) (f : Tri)
  | sub (h : Hdr) (f : Tri)
  | mul (h : Hdr) (f : Tri)
  | mulh (h : Hdr) (f : Tri)
  | div (h : Hdr) (f : Tri)
  | rem (h : Hdr) (f : Tri)
  | and (h : Hdr) (f : Tri)
  | or (h : Hdr) (f : Tri)
  | xor (h : Hdr) (f : Tri)
  | shl (h : Hdr) (f : Tri)
  | shr (h : Hdr) (f : Tri)
  | sar (h : Hdr) (f : Tri)
  | min (h : Hdr) (f : Tri)
  | max (h : Hdr) (f : Tri)
  | addi (h : Hdr) (f : Tri)
  | li (h : Hdr) (f : Wide)
  | lea (h : Hdr) (f : Tri)
  | ext (h : Hdr) (f : Tri)
  | exts (h : Hdr) (f : Tri)
  | ins (h : Hdr) (f : Tri)
  | clz (h : Hdr) (f : Tri)
  | popc (h : Hdr) (f : Tri)
  | sel (h : Hdr) (f : Tri)
  | cmp (h : Hdr) (f : Tri)
  | plog (h : Hdr) (f : Tri)
  | br (h : Hdr) (f : Branch)
  | bri (h : Hdr) (f : Branch)
  | call (h : Hdr) (f : Branch)
  | callIndirect (h : Hdr) (f : Branch)
  | ret (h : Hdr) (f : Branch)
  | loop (h : Hdr) (f : Branch)
  | lbrk (h : Hdr) (f : Branch)
  | mfk (h : Hdr) (f : Tri)
  | mtk (h : Hdr) (f : Tri)
  | tset (h : Hdr) (f : Tri)
  | tdset (h : Hdr) (f : Tri)
  | trap (h : Hdr) (f : Tri)
  | eret (h : Hdr) (f : Tri)
  | yield (h : Hdr) (f : Tri)
  | halt (h : Hdr) (f : Tri)
  | hsig (h : Hdr) (f : Tri)
  | hget (h : Hdr) (f : Tri)
  | wbind (h : Hdr) (f : Tri)
  | wunb (h : Hdr) (f : Tri)
  | wstat (h : Hdr) (f : Tri)
  | dbg (h : Hdr) (f : Tri)
  | vadd (h : Hdr) (f : Tri)
  | vsub (h : Hdr) (f : Tri)
  | vmul (h : Hdr) (f : Tri)
  | vfma (h : Hdr) (f : Tri)
  | vmin (h : Hdr) (f : Tri)
  | vmax (h : Hdr) (f : Tri)
  | vabs (h : Hdr) (f : Tri)
  | vneg (h : Hdr) (f : Tri)
  | vrcp (h : Hdr) (f : Tri)
  | vrsq (h : Hdr) (f : Tri)
  | vexp2 (h : Hdr) (f : Tri)
  | vlog2 (h : Hdr) (f : Tri)
  | vand (h : Hdr) (f : Tri)
  | vor (h : Hdr) (f : Tri)
  | vxor (h : Hdr) (f : Tri)
  | vshl (h : Hdr) (f : Tri)
  | vshr (h : Hdr) (f : Tri)
  | vsar (h : Hdr) (f : Tri)
  | vcmp (h : Hdr) (f : Tri)
  | vsel (h : Hdr) (f : Tri)
  | vcvt (h : Hdr) (f : Tri)
  | vq4x (h : Hdr) (f : Tri)
  | vdq4x (h : Hdr) (f : Tri)
  | vbcast (h : Hdr) (f : Tri)
  | vmovsExtract (h : Hdr) (f : Tri)
  | vmovsInsert (h : Hdr) (f : Tri)
  | vperm (h : Hdr) (f : Tri)
  | vshuf (h : Hdr) (f : Tri)
  | vred (h : Hdr) (f : Tri)
  | vscan (h : Hdr) (f : Tri)
  | vpopc (h : Hdr) (f : Tri)
  | vdot (h : Hdr) (f : Tri)
  | vclip (h : Hdr) (f : Tri)
  | vmov (h : Hdr) (f : Tri)
  | vbany (h : Hdr) (f : Tri)
  | vball (h : Hdr) (f : Tri)
  | vplog (h : Hdr) (f : Tri)
  | vhash (h : Hdr) (f : Tri)
  | vfind (h : Hdr) (f : Tri)
  | vtrd (h : Hdr) (f : Tri)
  | vtwr (h : Hdr) (f : Tri)
  | mma (h : Hdr) (f : Mat)
  | mmz (h : Hdr) (f : Mat)
  | mrdTile (h : Hdr) (f : Tri)
  | mrdVector (h : Hdr) (f : Tri)
  | mclr (h : Hdr) (f : Tri)
  | macc (h : Hdr) (f : Tri)
  | mstat (h : Hdr) (f : Tri)
  | tlds (h : Hdr) (f : Tri)
  | tsts (h : Hdr) (f : Tri)
  | ttr (h : Hdr) (f : Tri)
  | tmov (h : Hdr) (f : Tri)
  | tfill (h : Hdr) (f : Tri)
  | tq4x (h : Hdr) (f : Tri)
  | xseta (h : Hdr) (f : Tri)
  | xsetb (h : Hdr) (f : Tri)
  | xfill (h : Hdr) (f : Tri)
  | xrd (h : Hdr) (f : Tri)
  | lds (h : Hdr) (f : MemF)
  | sts (h : Hdr) (f : MemF)
  | vlds (h : Hdr) (f : MemF)
  | vsts (h : Hdr) (f : MemF)
  | vgat (h : Hdr) (f : MemF)
  | vsca (h : Hdr) (f : MemF)
  | ldf (h : Hdr) (f : MemF)
  | stf (h : Hdr) (f : MemF)
  | vldf (h : Hdr) (f : MemF)
  | vstf (h : Hdr) (f : MemF)
  | pref (h : Hdr) (f : MemF)
  | fence (h : Hdr) (f : Tri)
  | cflush (h : Hdr) (f : MemF)
  | resv (h : Hdr) (f : Tri)
  | amo (h : Hdr) (f : MemF)
  | cas (h : Hdr) (f : MemF)
  | red (h : Hdr) (f : MemF)
  | wta (h : Hdr) (f : MemF)
  | bar (h : Hdr) (f : Tri)
  | barr (h : Hdr) (f : Tri)
  | barw (h : Hdr) (f : Tri)
  | gleave (h : Hdr) (f : Tri)
  | hsigr (h : Hdr) (f : Tri)
  | cpj (h : Hdr) (f : JobF)
  | cpq (h : Hdr) (f : Tri)
  | cpc (h : Hdr) (f : JobF)
  | bbw (h : Hdr) (f : Tri)
  | bbrd (h : Hdr) (f : Tri)
  | coll (h : Hdr) (f : JobF)
  | emake (h : Hdr) (f : MemF)
  | efill (h : Hdr) (f : MemF)
  | epeek (h : Hdr) (f : MemF)
  | efail (h : Hdr) (f : MemF)
  | earm (h : Hdr) (f : MemF)
  | estat (h : Hdr) (f : MemF)
  | sopen (h : Hdr) (f : Tri)
  | sst (h : Hdr) (f : MemF)
  | svst (h : Hdr) (f : MemF)
  | spost (h : Hdr) (f : Tri)
  | svoid (h : Hdr) (f : Tri)
  | swait (h : Hdr) (f : Tri)
  | sstat (h : Hdr) (f : Tri)
  | itake (h : Hdr) (f : Tri)
  | igive (h : Hdr) (f : Tri)
  | istat (h : Hdr) (f : Tri)
  | boundOp (opc : BitVec 8) (h : Hdr) (f : Tri)
  | roundStart (core : Nat)
  | landingDataArrival (ctx : Nat) (id : Nat)
  | farFaultArrival (ctx : Nat) (id : Nat)
  | farStoreAck (ctx : Nat) (id : Nat)
  | semaphoreSignal (ctx : Nat) (id : Nat)
  | arrayOpPerform (ctx : Nat)
  | boundRoutineStart (ctx : Nat)
  | microStep (ctx : Nat)
  | courierFetch (core : Nat) (vf : Nat)
  | courierFetchComplete (core : Nat) (vf : Nat)
  | beatStart (job : Nat) (beat : Nat)
  | beatComplete (job : Nat) (beat : Nat) (order : List Nat)
  | collectiveMicroStep (job : Nat)
  | farLoadPerform (ctx : Nat) (id : Nat) (lines : List Nat)
  | farStorePerform (ctx : Nat) (id : Nat) (lines : List Nat)
  | emberLoadResend (ctx : Nat) (id : Nat)
  | emblimitExpiry (cell : Nat)
  | amoPerform (ctx : Nat) (id : Nat)
  | casPerform (ctx : Nat) (id : Nat)
  | redPerform (ctx : Nat) (id : Nat)
  | redlogAppend (ctx : Nat) (id : Nat)
  | wtaArrival (ctx : Nat) (id : Nat)
  | wtaTimeout (ctx : Nat) (id : Nat)
  | barrierArrival (ctx : Nat) (id : Nat)
  | barrierRelease (ctx : Nat) (set : Nat)
  | gleavePerform (ctx : Nat) (id : Nat)
  | hsigrDeliver (ctx : Nat) (id : Nat)
  | emakePerform (ctx : Nat) (id : Nat)
  | efillPerform (ctx : Nat) (id : Nat)
  | efailPerform (ctx : Nat) (id : Nat)
  | earmPerform (ctx : Nat) (id : Nat)
  | epeekPerform (ctx : Nat) (id : Nat)
  | estatPerform (ctx : Nat) (id : Nat)
  | itakePerform (ctx : Nat) (id : Nat)
  | igivePerform (ctx : Nat) (id : Nat)
  | istatPerform (ctx : Nat) (id : Nat)
  | startRecordArrival (vf : Nat) (rec : Nat)
  | slotDrainComplete (ctx : Nat)
  | stopFlagSet (ctx : Nat) (area : Dword)
  | saveComplete (ctx : Nat)
  | restore (r : RestoreCmd)
  | tlbMiss (m : Master)
  | walkComplete (walk : Nat)
  | faultRecordPost (walk : Nat)
  | map (part : Nat) (rec : Nat)
  | refuse (part : Nat) (rec : Nat)
  | tableWindowWrite (w : TableWrite)
  | invalidate (vf : Nat) (va : Nat) (len : Nat)
  | invalidateComplete (vf : Nat) (va : Nat) (len : Nat)
  | functionLevelReset (vf : Nat)
  | resetDrainComplete (vf : Nat)
  | setEntryRewrite (part : Nat) (set : Nat) (members : List Nat)
  | vfWeightWrite (core : Nat) (vf : Nat) (w : Nat)
  | vfCreate (vf : Nat) (root : Nat) (freeze : Bool)
  | partitionCreate (p : PartitionCmd)
  | keySlotWrite (k : KeySlotCmd)
  | reductionWindowRegister (part : Nat) (idx : Nat) (w : ReductionWindow)
  | collectiveRoutineLoad (part : Nat) (base : Nat) (words : List (BitVec 256)) (lists : List (Nat × List Nat))
  | supervisorRegisterWrite (r : SupReg)
  | hostPublish (eid : Nat)
  | hostDiscard (eid : Nat)
  | extend (reg : Nat) (value : List Byte)
  | powerCapSet (watts : Nat)
  | load (vf : Nat)
  | launch (vf : Nat)
  | unload (vf : Nat)
  | unloadForce (vf : Nat)
  | getVersion
  | getCapabilities
  | negotiateAlgorithms (sha384 : Bool) (brainpool : Bool)
  | getDigests
  | getCertificate
  | challenge (nonce : List Byte)
  | getMeasurements (reg : Nat) (nonce : Option (List Byte))
  | powerOn (failing : Option Nat)
  | powerSample (watts : Nat)
  | coolantTemperatureChange (celsius : Nat)
  | ethernetFrameReceive (f : EthFrame)
  | rdmaWrite (frame : Nat)
  | rdmaRead (frame : Nat)
  | uetPacketReceive (frame : Nat)
  | reassemblyTimeout (msg : Nat)
  | flitReceive (port : Nat) (f : Flit)
  | replayRequest (port : Nat) (seq : Nat)
  | linkRetrain (port : Nat)
  | linkFailure (port : Nat)
  | linkKeyEstablish (port : Nat) (peerValue : List Byte) (signed : Bool)
  | linkKeyRotation (port : LinkRotation)
  | packetForward (pkt : Nat) (port : Nat) (merged : Option Nat)
  | remoteRequestReceive (pkt : Nat)
  | seal (pkt : Nat)
  | sealack (pkt : Nat)
  | fail (pkt : Nat)
  | envelopePrepareSend (eid : Nat)
  | prepare (pkt : Nat)
  | ready (pkt : Nat)
  | publish (pkt : Nat)
  | discard (pkt : Nat)
  | done (pkt : Nat)
  | query (pkt : Nat)
  | queryResend (eid : Nat)
  | decisionResend (eid : Nat)
  | preptimeExpiry (eid : Nat)
  | indoubtIntervalExpiry (eid : Nat)
  | remoteError (job : Nat) (beat : Nat)
  | darotXTranslation (vf : Nat) (input : List Byte) (version : Nat)
  deriving DecidableEq, Repr

end Sys2Proof
end

