-- ==== Sys2Proof/Decode.lean ====
section
/-!
DEFINITION. Encoding and decoding of ops (R72, R80 to R90), and the checks of one op that R90 makes in its step 3.
An op is decoded on any 128 bits; what is not a valid op is rejected by the reason that R89 records.
-/
namespace Sys2Proof

/-! ## Fields of an op -/

/-- Bits [47:0] of an op with its header and major opcode (Table 3.1). -/
def Hdr.pack (h : Hdr) (opc : BitVec 8) : BitVec 48 :=
  h.ty ++ h.sinc ++ h.ssem ++ h.wcnt ++ h.wsem ++ h.gneg ++ h.grd ++ h.stop ++ opc

/-- The header of an op (Table 3.1). -/
def Hdr.unpack (w : Op) : Hdr where
  ty   := w.extractLsb' 44 4
  sinc := w.extractLsb' 40 4
  ssem := w.extractLsb' 32 8
  wcnt := w.extractLsb' 24 8
  wsem := w.extractLsb' 16 8
  gneg := w.extractLsb' 15 1
  grd  := w.extractLsb' 9 6
  stop := w.extractLsb' 8 1

/-- Bits [127:48] in the TRI layout (Table 3.2). -/
def Tri.pack (f : Tri) : BitVec 80 := f.imm ++ f.fn ++ f.c ++ f.b ++ f.a ++ f.d

/-- The TRI fields of an op (Table 3.2). -/
def Tri.unpack (w : Op) : Tri where
  imm := w.extractLsb' 84 44
  fn  := w.extractLsb' 76 8
  c   := w.extractLsb' 69 7
  b   := w.extractLsb' 62 7
  a   := w.extractLsb' 55 7
  d   := w.extractLsb' 48 7

/-- Bits [127:48] in the WIDE layout (Table 3.3). -/
def Wide.pack (f : Wide) : BitVec 80 := f.z ++ f.imm ++ f.d

/-- The WIDE fields of an op (Table 3.3). -/
def Wide.unpack (w : Op) : Wide where
  z   := w.extractLsb' 119 9
  imm := w.extractLsb' 55 64
  d   := w.extractLsb' 48 7

/-- Bits [127:48] in the BRANCH layout (Table 3.4). -/
def Branch.pack (f : Branch) : BitVec 80 := f.z1 ++ f.off ++ f.fn ++ f.z2 ++ f.a ++ f.z3

/-- The BRANCH fields of an op (Table 3.4). -/
def Branch.unpack (w : Op) : Branch where
  z1  := w.extractLsb' 116 12
  off := w.extractLsb' 84 32
  fn  := w.extractLsb' 76 8
  z2  := w.extractLsb' 62 14
  a   := w.extractLsb' 55 7
  z3  := w.extractLsb' 48 7

/-- Bits [127:48] in the MEM layout (Table 3.5). -/
def MemF.pack (f : MemF) : BitVec 80 :=
  f.z1 ++ f.order ++ f.scale ++ f.disp ++ f.due ++ f.fn ++ f.z2 ++ f.b ++ f.a ++ f.d

/-- The MEM fields of an op (Table 3.5). -/
def MemF.unpack (w : Op) : MemF where
  z1    := w.extractLsb' 124 4
  order := w.extractLsb' 123 1
  scale := w.extractLsb' 120 3
  disp  := w.extractLsb' 92 28
  due   := w.extractLsb' 84 8
  fn    := w.extractLsb' 76 8
  z2    := w.extractLsb' 69 7
  b     := w.extractLsb' 62 7
  a     := w.extractLsb' 55 7
  d     := w.extractLsb' 48 7

/-- Bits [127:48] in the MAT layout (Table 3.6). -/
def Mat.pack (f : Mat) : BitVec 80 := f.z1 ++ f.k ++ f.eb ++ f.fn ++ f.ea ++ f.b ++ f.a ++ f.d

/-- The MAT fields of an op (Table 3.6). -/
def Mat.unpack (w : Op) : Mat where
  z1 := w.extractLsb' 100 28
  k  := w.extractLsb' 91 9
  eb := w.extractLsb' 84 7
  fn := w.extractLsb' 76 8
  ea := w.extractLsb' 69 7
  b  := w.extractLsb' 62 7
  a  := w.extractLsb' 55 7
  d  := w.extractLsb' 48 7

/-- Bits [127:48] in the JOB layout (Table 3.7). -/
def JobF.pack (f : JobF) : BitVec 80 := f.imm ++ f.fn ++ f.z2 ++ f.a ++ f.z3

/-- The JOB fields of an op (Table 3.7). -/
def JobF.unpack (w : Op) : JobF where
  imm := w.extractLsb' 84 44
  fn  := w.extractLsb' 76 8
  z2  := w.extractLsb' 62 14
  a   := w.extractLsb' 55 7
  z3  := w.extractLsb' 48 7

/-- The payload of an op in the layout its major opcode selects (Table 3.8). -/
inductive Payload where
  | tri    (f : Tri)
  | wide   (f : Wide)
  | branch (f : Branch)
  | mem    (f : MemF)
  | mat    (f : Mat)
  | job    (f : JobF)
  deriving DecidableEq, Repr

/-- Bits [127:48] of an op. -/
def Payload.pack : Payload → BitVec 80
  | .tri f => f.pack
  | .wide f => f.pack
  | .branch f => f.pack
  | .mem f => f.pack
  | .mat f => f.pack
  | .job f => f.pack

/-- The major opcode, header and payload of an op; none for an event. -/
def Instr.op? : Instr → Option (BitVec 8 × Hdr × Payload)
  | .nop h f => some (0x00, h, .tri f)
  | .add h f => some (0x01, h, .tri f)
  | .sub h f => some (0x02, h, .tri f)
  | .mul h f => some (0x03, h, .tri f)
  | .mulh h f => some (0x04, h, .tri f)
  | .div h f => some (0x05, h, .tri f)
  | .rem h f => some (0x06, h, .tri f)
  | .and h f => some (0x07, h, .tri f)
  | .or h f => some (0x08, h, .tri f)
  | .xor h f => some (0x09, h, .tri f)
  | .shl h f => some (0x0A, h, .tri f)
  | .shr h f => some (0x0B, h, .tri f)
  | .sar h f => some (0x0C, h, .tri f)
  | .min h f => some (0x0D, h, .tri f)
  | .max h f => some (0x0E, h, .tri f)
  | .addi h f => some (0x0F, h, .tri f)
  | .li h f => some (0x10, h, .wide f)
  | .lea h f => some (0x11, h, .tri f)
  | .ext h f => some (0x12, h, .tri f)
  | .exts h f => some (0x12, h, .tri f)
  | .ins h f => some (0x13, h, .tri f)
  | .clz h f => some (0x14, h, .tri f)
  | .popc h f => some (0x15, h, .tri f)
  | .sel h f => some (0x16, h, .tri f)
  | .cmp h f => some (0x17, h, .tri f)
  | .plog h f => some (0x18, h, .tri f)
  | .br h f => some (0x19, h, .branch f)
  | .bri h f => some (0x1A, h, .branch f)
  | .call h f => some (0x1B, h, .branch f)
  | .callIndirect h f => some (0x1B, h, .branch f)
  | .ret h f => some (0x1C, h, .branch f)
  | .loop h f => some (0x1D, h, .branch f)
  | .lbrk h f => some (0x1E, h, .branch f)
  | .mfk h f => some (0x1F, h, .tri f)
  | .mtk h f => some (0x20, h, .tri f)
  | .tset h f => some (0x21, h, .tri f)
  | .tdset h f => some (0x22, h, .tri f)
  | .trap h f => some (0x23, h, .tri f)
  | .eret h f => some (0x24, h, .tri f)
  | .yield h f => some (0x25, h, .tri f)
  | .halt h f => some (0x26, h, .tri f)
  | .hsig h f => some (0x27, h, .tri f)
  | .hget h f => some (0x28, h, .tri f)
  | .wbind h f => some (0x29, h, .tri f)
  | .wunb h f => some (0x2A, h, .tri f)
  | .wstat h f => some (0x2B, h, .tri f)
  | .dbg h f => some (0x2C, h, .tri f)
  | .vadd h f => some (0x30, h, .tri f)
  | .vsub h f => some (0x31, h, .tri f)
  | .vmul h f => some (0x32, h, .tri f)
  | .vfma h f => some (0x33, h, .tri f)
  | .vmin h f => some (0x34, h, .tri f)
  | .vmax h f => some (0x35, h, .tri f)
  | .vabs h f => some (0x36, h, .tri f)
  | .vneg h f => some (0x37, h, .tri f)
  | .vrcp h f => some (0x38, h, .tri f)
  | .vrsq h f => some (0x39, h, .tri f)
  | .vexp2 h f => some (0x3A, h, .tri f)
  | .vlog2 h f => some (0x3B, h, .tri f)
  | .vand h f => some (0x3C, h, .tri f)
  | .vor h f => some (0x3D, h, .tri f)
  | .vxor h f => some (0x3E, h, .tri f)
  | .vshl h f => some (0x3F, h, .tri f)
  | .vshr h f => some (0x40, h, .tri f)
  | .vsar h f => some (0x41, h, .tri f)
  | .vcmp h f => some (0x42, h, .tri f)
  | .vsel h f => some (0x43, h, .tri f)
  | .vcvt h f => some (0x44, h, .tri f)
  | .vq4x h f => some (0x45, h, .tri f)
  | .vdq4x h f => some (0x46, h, .tri f)
  | .vbcast h f => some (0x47, h, .tri f)
  | .vmovsExtract h f => some (0x48, h, .tri f)
  | .vmovsInsert h f => some (0x48, h, .tri f)
  | .vperm h f => some (0x49, h, .tri f)
  | .vshuf h f => some (0x4A, h, .tri f)
  | .vred h f => some (0x4B, h, .tri f)
  | .vscan h f => some (0x4C, h, .tri f)
  | .vpopc h f => some (0x4D, h, .tri f)
  | .vdot h f => some (0x4E, h, .tri f)
  | .vclip h f => some (0x4F, h, .tri f)
  | .vmov h f => some (0x50, h, .tri f)
  | .vbany h f => some (0x51, h, .tri f)
  | .vball h f => some (0x52, h, .tri f)
  | .vplog h f => some (0x53, h, .tri f)
  | .vhash h f => some (0x54, h, .tri f)
  | .vfind h f => some (0x55, h, .tri f)
  | .vtrd h f => some (0x56, h, .tri f)
  | .vtwr h f => some (0x57, h, .tri f)
  | .mma h f => some (0x60, h, .mat f)
  | .mmz h f => some (0x61, h, .mat f)
  | .mrdTile h f => some (0x62, h, .tri f)
  | .mrdVector h f => some (0x62, h, .tri f)
  | .mclr h f => some (0x63, h, .tri f)
  | .macc h f => some (0x64, h, .tri f)
  | .mstat h f => some (0x65, h, .tri f)
  | .tlds h f => some (0x66, h, .tri f)
  | .tsts h f => some (0x67, h, .tri f)
  | .ttr h f => some (0x68, h, .tri f)
  | .tmov h f => some (0x69, h, .tri f)
  | .tfill h f => some (0x6A, h, .tri f)
  | .tq4x h f => some (0x6B, h, .tri f)
  | .xseta h f => some (0x78, h, .tri f)
  | .xsetb h f => some (0x79, h, .tri f)
  | .xfill h f => some (0x7A, h, .tri f)
  | .xrd h f => some (0x7B, h, .tri f)
  | .lds h f => some (0x80, h, .mem f)
  | .sts h f => some (0x81, h, .mem f)
  | .vlds h f => some (0x82, h, .mem f)
  | .vsts h f => some (0x83, h, .mem f)
  | .vgat h f => some (0x84, h, .mem f)
  | .vsca h f => some (0x85, h, .mem f)
  | .ldf h f => some (0x86, h, .mem f)
  | .stf h f => some (0x87, h, .mem f)
  | .vldf h f => some (0x88, h, .mem f)
  | .vstf h f => some (0x89, h, .mem f)
  | .pref h f => some (0x8A, h, .mem f)
  | .fence h f => some (0x8B, h, .tri f)
  | .cflush h f => some (0x8C, h, .mem f)
  | .resv h f => some (0x8D, h, .tri f)
  | .amo h f => some (0x90, h, .mem f)
  | .cas h f => some (0x91, h, .mem f)
  | .red h f => some (0x92, h, .mem f)
  | .wta h f => some (0x93, h, .mem f)
  | .bar h f => some (0x94, h, .tri f)
  | .barr h f => some (0x95, h, .tri f)
  | .barw h f => some (0x96, h, .tri f)
  | .gleave h f => some (0x97, h, .tri f)
  | .hsigr h f => some (0x98, h, .tri f)
  | .cpj h f => some (0x99, h, .job f)
  | .cpq h f => some (0x9A, h, .tri f)
  | .cpc h f => some (0x9B, h, .job f)
  | .bbw h f => some (0x9C, h, .tri f)
  | .bbrd h f => some (0x9D, h, .tri f)
  | .coll h f => some (0x9E, h, .job f)
  | .emake h f => some (0xA0, h, .mem f)
  | .efill h f => some (0xA1, h, .mem f)
  | .epeek h f => some (0xA2, h, .mem f)
  | .efail h f => some (0xA3, h, .mem f)
  | .earm h f => some (0xA4, h, .mem f)
  | .estat h f => some (0xA5, h, .mem f)
  | .sopen h f => some (0xA8, h, .tri f)
  | .sst h f => some (0xA9, h, .mem f)
  | .svst h f => some (0xAA, h, .mem f)
  | .spost h f => some (0xAB, h, .tri f)
  | .svoid h f => some (0xAC, h, .tri f)
  | .swait h f => some (0xAD, h, .tri f)
  | .sstat h f => some (0xAE, h, .tri f)
  | .itake h f => some (0xB0, h, .tri f)
  | .igive h f => some (0xB1, h, .tri f)
  | .istat h f => some (0xB2, h, .tri f)
  | .boundOp opc h f => some (opc, h, .tri f)
  | .roundStart _ => none
  | .landingDataArrival _ _ => none
  | .farFaultArrival _ _ => none
  | .farStoreAck _ _ => none
  | .semaphoreSignal _ _ => none
  | .arrayOpPerform _ => none
  | .boundRoutineStart _ => none
  | .microStep _ => none
  | .courierFetch _ _ => none
  | .courierFetchComplete _ _ => none
  | .beatStart _ _ => none
  | .beatComplete _ _ _ => none
  | .collectiveMicroStep _ => none
  | .farLoadPerform _ _ _ => none
  | .farStorePerform _ _ _ => none
  | .emberLoadResend _ _ => none
  | .emblimitExpiry _ => none
  | .amoPerform _ _ => none
  | .casPerform _ _ => none
  | .redPerform _ _ => none
  | .redlogAppend _ _ => none
  | .wtaArrival _ _ => none
  | .wtaTimeout _ _ => none
  | .barrierArrival _ _ => none
  | .barrierRelease _ _ => none
  | .gleavePerform _ _ => none
  | .hsigrDeliver _ _ => none
  | .emakePerform _ _ => none
  | .efillPerform _ _ => none
  | .efailPerform _ _ => none
  | .earmPerform _ _ => none
  | .epeekPerform _ _ => none
  | .estatPerform _ _ => none
  | .itakePerform _ _ => none
  | .igivePerform _ _ => none
  | .istatPerform _ _ => none
  | .startRecordArrival _ _ => none
  | .slotDrainComplete _ => none
  | .stopFlagSet _ _ => none
  | .saveComplete _ => none
  | .restore _ => none
  | .tlbMiss _ => none
  | .walkComplete _ => none
  | .faultRecordPost _ => none
  | .map _ _ => none
  | .refuse _ _ => none
  | .tableWindowWrite _ => none
  | .invalidate _ _ _ => none
  | .invalidateComplete _ _ _ => none
  | .functionLevelReset _ => none
  | .resetDrainComplete _ => none
  | .setEntryRewrite _ _ _ => none
  | .vfWeightWrite _ _ _ => none
  | .vfCreate _ _ _ => none
  | .partitionCreate _ => none
  | .keySlotWrite _ => none
  | .reductionWindowRegister _ _ _ => none
  | .collectiveRoutineLoad _ _ _ _ => none
  | .supervisorRegisterWrite _ => none
  | .hostPublish _ => none
  | .hostDiscard _ => none
  | .extend _ _ => none
  | .powerCapSet _ => none
  | .load _ => none
  | .launch _ => none
  | .unload _ => none
  | .unloadForce _ => none
  | .getVersion => none
  | .getCapabilities => none
  | .negotiateAlgorithms _ _ => none
  | .getDigests => none
  | .getCertificate => none
  | .challenge _ => none
  | .getMeasurements _ _ => none
  | .powerOn _ => none
  | .powerSample _ => none
  | .coolantTemperatureChange _ => none
  | .ethernetFrameReceive _ => none
  | .rdmaWrite _ => none
  | .rdmaRead _ => none
  | .uetPacketReceive _ => none
  | .reassemblyTimeout _ => none
  | .flitReceive _ _ => none
  | .replayRequest _ _ => none
  | .linkRetrain _ => none
  | .linkFailure _ => none
  | .linkKeyEstablish _ _ _ => none
  | .linkKeyRotation _ => none
  | .packetForward _ _ _ => none
  | .remoteRequestReceive _ => none
  | .seal _ => none
  | .sealack _ => none
  | .fail _ => none
  | .envelopePrepareSend _ => none
  | .prepare _ => none
  | .ready _ => none
  | .publish _ => none
  | .discard _ => none
  | .done _ => none
  | .query _ => none
  | .queryResend _ => none
  | .decisionResend _ => none
  | .preptimeExpiry _ => none
  | .indoubtIntervalExpiry _ => none
  | .remoteError _ _ => none
  | .darotXTranslation _ _ _ => none

/-- The op that 128 bits hold by their major opcode, fields as they stand (Table 3.8); none for a reserved opcode. -/
def parseOp (w : Op) : Option Instr :=
  match (w.extractLsb' 0 8).toNat with
  | 0x00 => some (.nop (Hdr.unpack w) (Tri.unpack w))
  | 0x01 => some (.add (Hdr.unpack w) (Tri.unpack w))
  | 0x02 => some (.sub (Hdr.unpack w) (Tri.unpack w))
  | 0x03 => some (.mul (Hdr.unpack w) (Tri.unpack w))
  | 0x04 => some (.mulh (Hdr.unpack w) (Tri.unpack w))
  | 0x05 => some (.div (Hdr.unpack w) (Tri.unpack w))
  | 0x06 => some (.rem (Hdr.unpack w) (Tri.unpack w))
  | 0x07 => some (.and (Hdr.unpack w) (Tri.unpack w))
  | 0x08 => some (.or (Hdr.unpack w) (Tri.unpack w))
  | 0x09 => some (.xor (Hdr.unpack w) (Tri.unpack w))
  | 0x0A => some (.shl (Hdr.unpack w) (Tri.unpack w))
  | 0x0B => some (.shr (Hdr.unpack w) (Tri.unpack w))
  | 0x0C => some (.sar (Hdr.unpack w) (Tri.unpack w))
  | 0x0D => some (.min (Hdr.unpack w) (Tri.unpack w))
  | 0x0E => some (.max (Hdr.unpack w) (Tri.unpack w))
  | 0x0F => some (.addi (Hdr.unpack w) (Tri.unpack w))
  | 0x10 => some (.li (Hdr.unpack w) (Wide.unpack w))
  | 0x11 => some (.lea (Hdr.unpack w) (Tri.unpack w))
  | 0x12 => some (if (Tri.unpack w).imm.getLsbD 13 then .exts (Hdr.unpack w) (Tri.unpack w)
      else .ext (Hdr.unpack w) (Tri.unpack w))
  | 0x13 => some (.ins (Hdr.unpack w) (Tri.unpack w))
  | 0x14 => some (.clz (Hdr.unpack w) (Tri.unpack w))
  | 0x15 => some (.popc (Hdr.unpack w) (Tri.unpack w))
  | 0x16 => some (.sel (Hdr.unpack w) (Tri.unpack w))
  | 0x17 => some (.cmp (Hdr.unpack w) (Tri.unpack w))
  | 0x18 => some (.plog (Hdr.unpack w) (Tri.unpack w))
  | 0x19 => some (.br (Hdr.unpack w) (Branch.unpack w))
  | 0x1A => some (.bri (Hdr.unpack w) (Branch.unpack w))
  | 0x1B => some (if (Branch.unpack w).fn.getLsbD 0 then .callIndirect (Hdr.unpack w) (Branch.unpack w)
      else .call (Hdr.unpack w) (Branch.unpack w))
  | 0x1C => some (.ret (Hdr.unpack w) (Branch.unpack w))
  | 0x1D => some (.loop (Hdr.unpack w) (Branch.unpack w))
  | 0x1E => some (.lbrk (Hdr.unpack w) (Branch.unpack w))
  | 0x1F => some (.mfk (Hdr.unpack w) (Tri.unpack w))
  | 0x20 => some (.mtk (Hdr.unpack w) (Tri.unpack w))
  | 0x21 => some (.tset (Hdr.unpack w) (Tri.unpack w))
  | 0x22 => some (.tdset (Hdr.unpack w) (Tri.unpack w))
  | 0x23 => some (.trap (Hdr.unpack w) (Tri.unpack w))
  | 0x24 => some (.eret (Hdr.unpack w) (Tri.unpack w))
  | 0x25 => some (.yield (Hdr.unpack w) (Tri.unpack w))
  | 0x26 => some (.halt (Hdr.unpack w) (Tri.unpack w))
  | 0x27 => some (.hsig (Hdr.unpack w) (Tri.unpack w))
  | 0x28 => some (.hget (Hdr.unpack w) (Tri.unpack w))
  | 0x29 => some (.wbind (Hdr.unpack w) (Tri.unpack w))
  | 0x2A => some (.wunb (Hdr.unpack w) (Tri.unpack w))
  | 0x2B => some (.wstat (Hdr.unpack w) (Tri.unpack w))
  | 0x2C => some (.dbg (Hdr.unpack w) (Tri.unpack w))
  | 0x30 => some (.vadd (Hdr.unpack w) (Tri.unpack w))
  | 0x31 => some (.vsub (Hdr.unpack w) (Tri.unpack w))
  | 0x32 => some (.vmul (Hdr.unpack w) (Tri.unpack w))
  | 0x33 => some (.vfma (Hdr.unpack w) (Tri.unpack w))
  | 0x34 => some (.vmin (Hdr.unpack w) (Tri.unpack w))
  | 0x35 => some (.vmax (Hdr.unpack w) (Tri.unpack w))
  | 0x36 => some (.vabs (Hdr.unpack w) (Tri.unpack w))
  | 0x37 => some (.vneg (Hdr.unpack w) (Tri.unpack w))
  | 0x38 => some (.vrcp (Hdr.unpack w) (Tri.unpack w))
  | 0x39 => some (.vrsq (Hdr.unpack w) (Tri.unpack w))
  | 0x3A => some (.vexp2 (Hdr.unpack w) (Tri.unpack w))
  | 0x3B => some (.vlog2 (Hdr.unpack w) (Tri.unpack w))
  | 0x3C => some (.vand (Hdr.unpack w) (Tri.unpack w))
  | 0x3D => some (.vor (Hdr.unpack w) (Tri.unpack w))
  | 0x3E => some (.vxor (Hdr.unpack w) (Tri.unpack w))
  | 0x3F => some (.vshl (Hdr.unpack w) (Tri.unpack w))
  | 0x40 => some (.vshr (Hdr.unpack w) (Tri.unpack w))
  | 0x41 => some (.vsar (Hdr.unpack w) (Tri.unpack w))
  | 0x42 => some (.vcmp (Hdr.unpack w) (Tri.unpack w))
  | 0x43 => some (.vsel (Hdr.unpack w) (Tri.unpack w))
  | 0x44 => some (.vcvt (Hdr.unpack w) (Tri.unpack w))
  | 0x45 => some (.vq4x (Hdr.unpack w) (Tri.unpack w))
  | 0x46 => some (.vdq4x (Hdr.unpack w) (Tri.unpack w))
  | 0x47 => some (.vbcast (Hdr.unpack w) (Tri.unpack w))
  | 0x48 => some (if (Tri.unpack w).fn.getLsbD 3 then .vmovsInsert (Hdr.unpack w) (Tri.unpack w)
      else .vmovsExtract (Hdr.unpack w) (Tri.unpack w))
  | 0x49 => some (.vperm (Hdr.unpack w) (Tri.unpack w))
  | 0x4A => some (.vshuf (Hdr.unpack w) (Tri.unpack w))
  | 0x4B => some (.vred (Hdr.unpack w) (Tri.unpack w))
  | 0x4C => some (.vscan (Hdr.unpack w) (Tri.unpack w))
  | 0x4D => some (.vpopc (Hdr.unpack w) (Tri.unpack w))
  | 0x4E => some (.vdot (Hdr.unpack w) (Tri.unpack w))
  | 0x4F => some (.vclip (Hdr.unpack w) (Tri.unpack w))
  | 0x50 => some (.vmov (Hdr.unpack w) (Tri.unpack w))
  | 0x51 => some (.vbany (Hdr.unpack w) (Tri.unpack w))
  | 0x52 => some (.vball (Hdr.unpack w) (Tri.unpack w))
  | 0x53 => some (.vplog (Hdr.unpack w) (Tri.unpack w))
  | 0x54 => some (.vhash (Hdr.unpack w) (Tri.unpack w))
  | 0x55 => some (.vfind (Hdr.unpack w) (Tri.unpack w))
  | 0x56 => some (.vtrd (Hdr.unpack w) (Tri.unpack w))
  | 0x57 => some (.vtwr (Hdr.unpack w) (Tri.unpack w))
  | 0x60 => some (.mma (Hdr.unpack w) (Mat.unpack w))
  | 0x61 => some (.mmz (Hdr.unpack w) (Mat.unpack w))
  | 0x62 => some (if (Tri.unpack w).fn.getLsbD 3 then .mrdVector (Hdr.unpack w) (Tri.unpack w)
      else .mrdTile (Hdr.unpack w) (Tri.unpack w))
  | 0x63 => some (.mclr (Hdr.unpack w) (Tri.unpack w))
  | 0x64 => some (.macc (Hdr.unpack w) (Tri.unpack w))
  | 0x65 => some (.mstat (Hdr.unpack w) (Tri.unpack w))
  | 0x66 => some (.tlds (Hdr.unpack w) (Tri.unpack w))
  | 0x67 => some (.tsts (Hdr.unpack w) (Tri.unpack w))
  | 0x68 => some (.ttr (Hdr.unpack w) (Tri.unpack w))
  | 0x69 => some (.tmov (Hdr.unpack w) (Tri.unpack w))
  | 0x6A => some (.tfill (Hdr.unpack w) (Tri.unpack w))
  | 0x6B => some (.tq4x (Hdr.unpack w) (Tri.unpack w))
  | 0x78 => some (.xseta (Hdr.unpack w) (Tri.unpack w))
  | 0x79 => some (.xsetb (Hdr.unpack w) (Tri.unpack w))
  | 0x7A => some (.xfill (Hdr.unpack w) (Tri.unpack w))
  | 0x7B => some (.xrd (Hdr.unpack w) (Tri.unpack w))
  | 0x80 => some (.lds (Hdr.unpack w) (MemF.unpack w))
  | 0x81 => some (.sts (Hdr.unpack w) (MemF.unpack w))
  | 0x82 => some (.vlds (Hdr.unpack w) (MemF.unpack w))
  | 0x83 => some (.vsts (Hdr.unpack w) (MemF.unpack w))
  | 0x84 => some (.vgat (Hdr.unpack w) (MemF.unpack w))
  | 0x85 => some (.vsca (Hdr.unpack w) (MemF.unpack w))
  | 0x86 => some (.ldf (Hdr.unpack w) (MemF.unpack w))
  | 0x87 => some (.stf (Hdr.unpack w) (MemF.unpack w))
  | 0x88 => some (.vldf (Hdr.unpack w) (MemF.unpack w))
  | 0x89 => some (.vstf (Hdr.unpack w) (MemF.unpack w))
  | 0x8A => some (.pref (Hdr.unpack w) (MemF.unpack w))
  | 0x8B => some (.fence (Hdr.unpack w) (Tri.unpack w))
  | 0x8C => some (.cflush (Hdr.unpack w) (MemF.unpack w))
  | 0x8D => some (.resv (Hdr.unpack w) (Tri.unpack w))
  | 0x90 => some (.amo (Hdr.unpack w) (MemF.unpack w))
  | 0x91 => some (.cas (Hdr.unpack w) (MemF.unpack w))
  | 0x92 => some (.red (Hdr.unpack w) (MemF.unpack w))
  | 0x93 => some (.wta (Hdr.unpack w) (MemF.unpack w))
  | 0x94 => some (.bar (Hdr.unpack w) (Tri.unpack w))
  | 0x95 => some (.barr (Hdr.unpack w) (Tri.unpack w))
  | 0x96 => some (.barw (Hdr.unpack w) (Tri.unpack w))
  | 0x97 => some (.gleave (Hdr.unpack w) (Tri.unpack w))
  | 0x98 => some (.hsigr (Hdr.unpack w) (Tri.unpack w))
  | 0x99 => some (.cpj (Hdr.unpack w) (JobF.unpack w))
  | 0x9A => some (.cpq (Hdr.unpack w) (Tri.unpack w))
  | 0x9B => some (.cpc (Hdr.unpack w) (JobF.unpack w))
  | 0x9C => some (.bbw (Hdr.unpack w) (Tri.unpack w))
  | 0x9D => some (.bbrd (Hdr.unpack w) (Tri.unpack w))
  | 0x9E => some (.coll (Hdr.unpack w) (JobF.unpack w))
  | 0xA0 => some (.emake (Hdr.unpack w) (MemF.unpack w))
  | 0xA1 => some (.efill (Hdr.unpack w) (MemF.unpack w))
  | 0xA2 => some (.epeek (Hdr.unpack w) (MemF.unpack w))
  | 0xA3 => some (.efail (Hdr.unpack w) (MemF.unpack w))
  | 0xA4 => some (.earm (Hdr.unpack w) (MemF.unpack w))
  | 0xA5 => some (.estat (Hdr.unpack w) (MemF.unpack w))
  | 0xA8 => some (.sopen (Hdr.unpack w) (Tri.unpack w))
  | 0xA9 => some (.sst (Hdr.unpack w) (MemF.unpack w))
  | 0xAA => some (.svst (Hdr.unpack w) (MemF.unpack w))
  | 0xAB => some (.spost (Hdr.unpack w) (Tri.unpack w))
  | 0xAC => some (.svoid (Hdr.unpack w) (Tri.unpack w))
  | 0xAD => some (.swait (Hdr.unpack w) (Tri.unpack w))
  | 0xAE => some (.sstat (Hdr.unpack w) (Tri.unpack w))
  | 0xB0 => some (.itake (Hdr.unpack w) (Tri.unpack w))
  | 0xB1 => some (.igive (Hdr.unpack w) (Tri.unpack w))
  | 0xB2 => some (.istat (Hdr.unpack w) (Tri.unpack w))
  | opc => if 0xC0 ≤ opc then some (.boundOp (w.extractLsb' 0 8) (Hdr.unpack w) (Tri.unpack w)) else none

/-- The 128 bits of an op (R72, R80); zero for an event, which has none. -/
def encode (i : Instr) : Op :=
  match i.op? with
  | some (opc, h, p) => p.pack ++ h.pack opc
  | none => 0

/-- The bytes of a value in memory, lowest address first (R6). -/
def bytesLE {w : Nat} (n : Nat) (v : BitVec w) : List Byte := (List.range n).map fun i => v.extractLsb' (8 * i) 8

/-- The value that bytes in memory hold, lowest address first (R6). -/
def natOfBytes : List Byte → Nat
  | [] => 0
  | b :: bs => b.toNat + 256 * natOfBytes bs

/-! ## Slot classes and reasons -/

/-- The slot class of an op (R74, Table 3.8). -/
inductive SlotClass where
  | s | v | m | x | c
  deriving DecidableEq, Repr

/-- The class order of R74. -/
def SlotClass.rank : SlotClass → Nat
  | .s => 0
  | .v => 1
  | .m => 2
  | .x => 3
  | .c => 4

/-- The class that a major opcode fixes; `bound` is the class its binding declares (R74, R87, R88). -/
def slotClass (bound : SlotClass) (opc : BitVec 8) : SlotClass :=
  if opc.toNat < 0x30 then .s
  else if opc.toNat < 0x60 then .v
  else if opc.toNat < 0x78 then .m
  else if opc.toNat < 0x80 then .x
  else if opc.toNat < 0xC0 then .c
  else bound

/-- Why an encoding is refused (Table 3.11). -/
inductive IllOp where
  | opcode | field | guard | type | regfield | semfield | linecross | slotorder | slotover | v1branch | duefield | kfield
  deriving DecidableEq, Repr

/-- The reason code of Table 3.11. -/
def IllOp.code : IllOp → Nat
  | .opcode => 1
  | .field => 2
  | .guard => 3
  | .type => 4
  | .regfield => 5
  | .semfield => 6
  | .linecross => 7
  | .slotorder => 8
  | .slotover => 9
  | .v1branch => 10
  | .duefield => 11
  | .kfield => 12

/-! ## Type codes (Table 3.9) -/

namespace Ty
def n8 : Nat := 0
def n16 : Nat := 1
def n32 : Nat := 2
def n64 : Nat := 3
def s8 : Nat := 4
def s16 : Nat := 5
def s32 : Nat := 6
def s64 : Nat := 7
def f32 : Nat := 8
def bf16 : Nat := 9
def f16 : Nat := 10
def e4m3 : Nat := 11
def e5m2 : Nat := 12
def q4x : Nat := 13
def s4 : Nat := 14

/-- `n8` to `s64` (Table 4.1). -/
def int64 : List Nat := [n8, n16, n32, n64, s8, s16, s32, s64]
/-- INT of Table 5.4. -/
def int : List Nat := [n8, n16, n32, s8, s16, s32]
/-- FLT of Table 5.4. -/
def flt : List Nat := [f32, bf16, f16]
/-- ARI of Table 5.4. -/
def ari : List Nat := int ++ flt
/-- CVT of R155. -/
def cvt : List Nat := [n8, n16, n32, s4, s8, s16, s32, f32, bf16, f16, e4m3, e5m2]
/-- SCAL of R186: codes 0 to 12. -/
def scal : List Nat := List.range 13
/-- GT of R186. -/
def gt : List Nat := [n8, s8, n16, s16, n32, s32, f32, bf16, f16, e4m3, e5m2]
/-- The types of `amo` and `red` (Table 8.1). -/
def atomic : List Nat := [n32, s32, n64, s64, f32]
/-- The types of a tile (R128). -/
def tile : List Nat := [s4, s8, e4m3, e5m2, bf16, f16, f32, q4x]

/-- The width of an element in bits (Tables 3.9, 5.1); 0 for the reserved code. -/
def width (t : Nat) : Nat :=
  if t = 0 ∨ t = 4 ∨ t = 11 ∨ t = 12 then 8
  else if t = 1 ∨ t = 5 ∨ t = 9 ∨ t = 10 then 16
  else if t = 2 ∨ t = 6 ∨ t = 8 then 32
  else if t = 3 ∨ t = 7 then 64
  else if t = 13 ∨ t = 14 then 4
  else 0

/-- Is the type a signed integer (R115, R149)? -/
def signed (t : Nat) : Bool := t = 4 || t = 5 || t = 6 || t = 7 || t = 14
/-- Is the type a floating-point format (Table 5.2)? -/
def isFloat (t : Nat) : Bool := t = 8 || t = 9 || t = 10 || t = 11 || t = 12
/-- Elements of the type in a vector register (Table 5.1). -/
def count (t : Nat) : Nat := if width t = 0 then 0 else 4096 / width t
end Ty

/-! ## The encoding tables -/

/-- What a 7-bit register field names (R86, R145). -/
inductive FieldKind where
  /-- Unused: zero. -/
  | zero
  /-- `s0`–`s63`. -/
  | s
  /-- `v0`–`v63` as a destination, or in an op that is no V op. -/
  | v
  /-- A V-op source: `v0`–`v63`, or `s0`–`s63` broadcast at 64–127. -/
  | vs
  /-- A V-op source marked `v` alone. -/
  | vOnly
  /-- A V-op source marked `s`: 64–127. -/
  | sOnly
  | p
  | q
  | t
  | a
  | lc
  | bb
  /-- Any value: a field of a bound op. -/
  | any
  /-- A count of 0–63 that is no register (`pref`). -/
  | count
  deriving DecidableEq, Repr

/-- Does a field value break a rule whose reason is FIELD? -/
def FieldKind.fieldBad (k : FieldKind) (x : BitVec 7) : Bool :=
  match k with
  | .zero => x != 0
  | .vOnly => 64 ≤ x.toNat
  | .sOnly => x.toNat < 64
  | .count => 64 ≤ x.toNat
  | _ => false

/-- Does a field value lie outside its file, whose reason is REGFIELD (R86, Table 3.10)? -/
def FieldKind.regBad (k : FieldKind) (x : BitVec 7) : Bool :=
  match k with
  | .s | .v => 64 ≤ x.toNat
  | .p => 32 ≤ x.toNat
  | .q | .bb => 16 ≤ x.toNat
  | .t => 12 ≤ x.toNat
  | .a => 2 ≤ x.toNat
  | .lc => 6 ≤ x.toNat
  | _ => false

/-- One op held against its row of the encoding tables. -/
structure Row where
  /-- The type codes the op accepts; an empty list for an op without a type, which needs TY = 0 (R84). -/
  types : List Nat
  /-- May the op stand under a lane guard, if it is a V op (R157)? -/
  lane  : Bool := true
  /-- A type named outside TY is accepted too (SRCTY of `vcvt`, R168). -/
  typeOk : Bool := true
  /-- The FN, IMM44 and reserved bits keep the row's rules (R85). -/
  fields : Bool
  d : FieldKind := .zero
  a : FieldKind := .zero
  b : FieldKind := .zero
  c : FieldKind := .zero

/-- Bits set outside a mask. -/
def outside {w : Nat} (x mask : BitVec w) : Bool := (x &&& ~~~mask) != 0

/-- FN holds nothing outside the mask, and IMM44 nothing at or above bit `n`. -/
def Tri.only (f : Tri) (fnMask : BitVec 8) (n : Nat) : Bool := !outside f.fn fnMask && f.imm.toNat < 2 ^ n

/-- The mould of the typed scalar ops (Table 4.1): D, A and B with the immediate form at FN bit `immBit`. -/
def typedRow (f : Tri) (fnMask : BitVec 8) (immBit : Nat) (d c : FieldKind) : Row where
  types := Ty.int64
  fields := !outside f.fn fnMask && (f.fn.getLsbD immBit || f.imm == 0)
  d := d
  a := .s
  b := if f.fn.getLsbD immBit then .zero else .s
  c := c

/-- RM and SAT of an arithmetic V op: RM is zero for integer types (R152). -/
def rmOk (ty : Nat) (fn : BitVec 8) : Bool := Ty.isFloat ty || fn.extractLsb' 0 2 == 0

/-- A lane-wise V op of two sources. -/
def vecRow2 (ts : List Nat) (fields : Bool) : Row := { types := ts, fields := fields, d := .v, a := .vs, b := .vs }

/-- FN of a far access is free; DUE, ORDER and the type differ. -/
def memRow (f : MemF) (ts : List Nat) (d b : FieldKind) (fnMask : BitVec 8) (order : Bool) : Row where
  types := ts
  fields := f.z1 == 0 && f.z2 == 0 && !outside f.fn fnMask && (order || f.order == 0)
  d := d
  a := .s
  b := b

/-- AOP of a home-agent op (R244). -/
def MemF.aop (f : MemF) : Nat := (f.disp.extractLsb' 24 4).toNat

/-- Is the AOP one the table allows (Tables 8.1, 8.2)? `lo` is the least. -/
def aopOk (ty : BitVec 4) (f : MemF) (lo : Nat) : Bool :=
  lo ≤ f.aop && f.aop ≤ 6 && (ty.toNat != Ty.f32 || f.aop ≤ 1 || 5 ≤ f.aop)

/-- A row of the ember ops (R322). -/
def emberRow (f : MemF) (d : FieldKind) (pair order : Bool) : Row :=
  let r := memRow f [] d .s 0xFF order
  { r with fields := r.fields && f.fn.extractLsb' 4 2 == 2 && (!pair || f.d != 63) }

/-- A row of the sealed stores (R408). -/
def sealedRow (f : MemF) (d : FieldKind) : Row :=
  let r := memRow f [] d .s 0x3F false
  { r with fields := r.fields && f.fn.extractLsb' 4 2 == 3 }

/-- A row of the job ops (R234): BB is zero when BBEN is. -/
def jobRow (f : JobF) (immOk : Bool) : Row where
  types := []
  fields := f.z2 == 0 && f.z3 == 0 && !outside f.fn 0x1F && (f.fn.getLsbD 4 || f.fn == 0) && immOk
  a := .s

/-- The control register numbers of Table 4.2. -/
def controlAssigned (n : Nat) : Bool :=
  n ≤ 0x008 || n = 0x010 || n = 0x011 || (0x018 ≤ n && n ≤ 0x01B) || (0x020 ≤ n && n ≤ 0x024) || n = 0x028 ||
    n = 0x029 || (0x030 ≤ n && n ≤ 0x03B) || (0x040 ≤ n && n ≤ 0x045) || (0x100 ≤ n && n ≤ 0x167)

/-- PART of `vcvt` and the divisor k of R168. -/
def cvtParts (src dst : Nat) : Nat :=
  if Ty.width src < Ty.width dst then Ty.width dst / Ty.width src
  else if Ty.width dst < Ty.width src then Ty.width src / Ty.width dst else 1

/-- A row of a plain branch op: A, OFF and FN as Table 4.1 allows. -/
def branchRow (f : Branch) (a : FieldKind) (ok : Bool) : Row where
  types := []
  fields := f.z1 == 0 && f.z2 == 0 && f.z3 == 0 && ok
  a := a

/-- Needle bytes at or above count are zero, and a range has 2 or 4 of them (R177). -/
def needleOk (f : Tri) : Bool :=
  let count := (f.fn.extractLsb' 3 2).toNat + 1
  f.imm.toNat < 2 ^ (8 * count) && (!f.fn.getLsbD 6 || count = 2 || count = 4)

/-- Each op beside its row of the encoding tables: Table 4.1 (S), 5.4 (V), 10.1 (M, X), 6.1, 8.1, 7.9, 11.6, 14.4 and
13.8 (C). A bound op's TRI fields are free (R88). None for an event. Field C of `vq4x`, which names v registers
written, takes the check of a v field (R145). The reserved SRCTY 15 of `vcvt` differs from every width, so that a guard is refused first.
(DEDUCED: log 28, DESIGN CHOICE: log 119, DESIGN CHOICE: log 170) -/
def Instr.row : Instr → Option Row
  | .nop _ f => some { types := [], fields := f.only 0 0 }
  | .add _ f => some (typedRow f 3 1 .s .zero)
  | .sub _ f => some (typedRow f 3 1 .s .zero)
  | .mul _ f => some (typedRow f 3 1 .s .zero)
  | .mulh _ f => some (typedRow f 2 1 .s .zero)
  | .div _ f => some (typedRow f 3 1 .s .zero)
  | .rem _ f => some (typedRow f 2 1 .s .zero)
  | .and _ f => some (typedRow f 2 1 .s .zero)
  | .or _ f => some (typedRow f 2 1 .s .zero)
  | .xor _ f => some (typedRow f 2 1 .s .zero)
  | .shl _ f => some (typedRow f 3 1 .s .zero)
  | .shr _ f => some (typedRow f 2 1 .s .zero)
  | .sar _ f => some (typedRow f 2 1 .s .zero)
  | .min _ f => some (typedRow f 2 1 .s .zero)
  | .max _ f => some (typedRow f 2 1 .s .zero)
  | .addi _ f => some { types := [], fields := f.only 0 44, d := .s, a := .s }
  | .li _ f => some { types := [], fields := f.z == 0, d := .s }
  | .lea _ f => some { types := [], fields := f.only 7 44, d := .s, a := .s, b := .s }
  | .ext _ f => some { types := [], fields := f.only 0 13 && bitFieldOk f, d := .s, a := .s }
  | .exts _ f => some { types := [], fields := f.only 0 14 && f.imm.getLsbD 13 && bitFieldOk f, d := .s, a := .s }
  | .ins _ f => some { types := [], fields := f.only 0 13 && bitFieldOk f, d := .s, a := .s, b := .s }
  | .clz _ f => some { types := Ty.int64, fields := f.only 0 0, d := .s, a := .s }
  | .popc _ f => some { types := Ty.int64, fields := f.only 0 0, d := .s, a := .s }
  | .sel _ f => some { types := [], fields := f.only 0x3F 0, d := .s, a := .s, b := .s }
  | .cmp _ f =>
    let r := typedRow f 0x17 4 .p .p
    some r
  | .plog _ f => some { types := [], fields := f.only 0x0F 0, d := .p, a := .p, b := .p }
  | .br _ f => some (branchRow f .zero (f.fn == 0))
  | .bri _ f => some (branchRow f .s (f.fn == 0 && f.off == 0))
  | .call _ f => some (branchRow f .zero (f.fn == 0))
  | .callIndirect _ f => some (branchRow f .s (f.fn == 1 && f.off == 0))
  | .ret _ f => some (branchRow f .zero (f.fn == 0 && f.off == 0))
  | .loop _ f => some (branchRow f .lc (!f.fn.getLsbD 7 && 0 < f.off.toInt))
  | .lbrk _ f => some (branchRow f .lc (f.fn == 0))
  | .mfk _ f => some { types := [], fields := f.only 0 12 && controlAssigned f.imm.toNat, d := .s }
  | .mtk _ f => some { types := [], fields := f.only 0 12 && controlAssigned f.imm.toNat, a := .s }
  | .tset _ f => some { types := Ty.tile, fields := f.only 0 22, d := .t }
  | .tdset _ f => some { types := [], fields := f.only 0 6, b := .v }
  | .trap _ f => some { types := [], fields := f.only 0 16 }
  | .eret _ f => some { types := [], fields := f.only 0 0 }
  | .yield _ f => some { types := [], fields := f.only 0 0 }
  | .halt _ f => some { types := [], fields := f.only 0 0 }
  | .hsig _ f => some { types := [], fields := f.only 1 (if f.fn.getLsbD 0 then 24 else 8),
                        a := if f.fn.getLsbD 0 then .zero else .s }
  | .hget _ f => some { types := [], fields := f.only 0 8, d := .s }
  | .wbind _ f => some { types := [], fields := f.only 0 8 && 0xC0 ≤ f.imm.toNat, d := .s, b := .v }
  | .wunb _ f => some { types := [], fields := f.only 0 8 && 0xC0 ≤ f.imm.toNat, d := .s }
  | .wstat _ f => some { types := [], fields := f.only 7 8 && f.fn != 7 && 0xC0 ≤ f.imm.toNat, d := .s }
  | .dbg _ f => some { types := [], fields := f.only 0 16 }
  | .vadd h f => some (vecRow2 Ty.ari (f.only 7 0 && rmOk h.ty.toNat f.fn))
  | .vsub h f => some (vecRow2 Ty.ari (f.only 7 0 && rmOk h.ty.toNat f.fn))
  | .vmul h f => some (vecRow2 Ty.ari (f.only 0xF 0 && rmOk h.ty.toNat f.fn &&
      (!f.fn.getLsbD 3 || !Ty.isFloat h.ty.toNat)))
  | .vfma h f => some { vecRow2 Ty.ari (f.only 0x1F 0 && rmOk h.ty.toNat f.fn) with c := .vs }
  | .vmin _ f => some (vecRow2 Ty.ari (f.only 0 0))
  | .vmax _ f => some (vecRow2 Ty.ari (f.only 0 0))
  | .vabs h f => some { vecRow2 Ty.ari (f.only 4 0 && (f.fn == 0 || !Ty.isFloat h.ty.toNat)) with b := .zero }
  | .vneg h f => some { vecRow2 Ty.ari (f.only 4 0 && (f.fn == 0 || !Ty.isFloat h.ty.toNat)) with b := .zero }
  | .vrcp _ f => some { vecRow2 Ty.flt (f.only 7 0) with b := .zero }
  | .vrsq _ f => some { vecRow2 Ty.flt (f.only 7 0) with b := .zero }
  | .vexp2 _ f => some { vecRow2 Ty.flt (f.only 7 0) with b := .zero }
  | .vlog2 _ f => some { vecRow2 Ty.flt (f.only 7 0) with b := .zero }
  | .vand _ f => some (vecRow2 Ty.int (f.only 0 0))
  | .vor _ f => some (vecRow2 Ty.int (f.only 0 0))
  | .vxor _ f => some (vecRow2 Ty.int (f.only 0 0))
  | .vshl _ f => some (vecRow2 Ty.int (f.only 4 0))
  | .vshr _ f => some (vecRow2 Ty.int (f.only 0 0))
  | .vsar _ f => some (vecRow2 Ty.int (f.only 0 0))
  | .vcmp _ f => some { vecRow2 Ty.ari (f.only 0xF8 0 && (!f.fn.getLsbD 6 || !f.fn.getLsbD 7)) with
      d := if f.fn.getLsbD 6 then .v else .q }
  | .vsel _ f => some { vecRow2 Ty.ari (f.only 0 0) with c := .q }
  | .vcvt h f =>
    let src := (f.fn.extractLsb' 3 4).toNat
    let dst := h.ty.toNat
    some { types := Ty.cvt, lane := Ty.width src = Ty.width dst, typeOk := Ty.cvt.contains src,
           fields := f.only 0x7F 3 && f.imm.toNat < cvtParts src dst &&
             (Ty.isFloat src || Ty.isFloat dst || f.fn.extractLsb' 0 2 == 0),
           d := .v, a := .vs }
  | .vq4x h f => some { types := [Ty.f32, Ty.bf16], lane := false,
                        fields := f.only 0x78 0 && (h.ty.toNat == Ty.f32 || !f.fn.getLsbD 6), d := .v, a := .vOnly, b := .sOnly, c := .vOnly }
  | .vdq4x h f => some { types := [Ty.f32, Ty.bf16], lane := false,
                         fields := f.only 0x77 0 && (h.ty.toNat == Ty.f32 || !f.fn.getLsbD 6), d := .v, a := .vOnly, b := .sOnly, c := .vOnly }
  | .vbcast h f => some { types := Ty.ari, fields := f.only 0 10 && f.imm.toNat < Ty.count h.ty.toNat, d := .v, a := .vOnly }
  | .vmovsExtract h f => some { types := Ty.ari, lane := false,
                                fields := f.only 0 10 && f.imm.toNat < Ty.count h.ty.toNat, d := .s, a := .vOnly }
  | .vmovsInsert h f => some { types := Ty.ari, lane := false,
                               fields := f.only 8 10 && f.fn == 8 && f.imm.toNat < Ty.count h.ty.toNat, d := .v, b := .sOnly }
  | .vperm _ f => some { types := Ty.ari, fields := f.only 8 0, d := .v, a := .vOnly, b := .vOnly,
                         c := if f.fn.getLsbD 3 then .vOnly else .zero }
  | .vshuf h f =>
    let pat := (f.fn.extractLsb' 3 4).toNat
    some { types := Ty.ari,
           fields := f.only 0x78 10 && pat ≤ 6 &&
             (if pat = 0 ∨ pat = 6 then f.imm.toNat < Ty.count h.ty.toNat else f.imm == 0),
           d := .v, a := .vOnly, b := if pat = 0 ∨ pat = 5 then .zero else .vOnly }
  | .vred h f => some { types := Ty.ari, fields := f.only 0x3F 0 && rmOk h.ty.toNat f.fn && scanOpOk h f, d := .v, a := .vOnly }
  | .vscan h f => some { types := Ty.ari, fields := f.only 0x3F 0 && rmOk h.ty.toNat f.fn && scanOpOk h f, d := .v, a := .vOnly }
  | .vpopc _ f => some { vecRow2 Ty.int (f.only 0 0) with b := .zero }
  | .vdot h f => some { vecRow2 [Ty.s4, Ty.s8, Ty.n8, Ty.e4m3, Ty.e5m2, Ty.bf16, Ty.f16]
      (f.only 7 0 && rmOk h.ty.toNat f.fn) with c := .vs }
  | .vclip _ f => some { vecRow2 Ty.ari (f.only 0 0) with c := .vs }
  | .vmov _ f =>
    let kind := (f.fn.extractLsb' 3 2).toNat
    some { types := [], fields := f.only 0x18 0, d := if kind ≤ 1 then .v else .q,
           a := if kind = 0 then .vs else if kind = 2 then .vOnly else .q }
  | .vbany _ f => some { types := [], fields := f.only 0 44, a := .q }
  | .vball _ f => some { types := [], fields := f.only 0 44, a := .q }
  | .vplog _ f => some { types := [], fields := f.only 0x78 0, d := .q, a := .q, b := .q }
  | .vhash _ f => some { types := [Ty.n32], fields := f.only 0x18 0, d := .v, a := .vs, c := .vs }
  | .vfind _ f => some { types := [Ty.n8], fields := f.only 0x78 32 && needleOk f,
                         d := if f.fn.getLsbD 5 then .v else .q, a := .vOnly }
  | .vtrd _ f => some { types := [], fields := f.only 0 7, d := .v, a := .t }
  | .vtwr _ f => some { types := [], fields := f.only 0 7, d := .t, a := .vOnly }
  | .mma _ f => some (matRow f)
  | .mmz _ f => some (matRow f)
  | .mrdTile h f =>
    let q := h.ty.toNat == Ty.q4x
    some { types := [Ty.f32, Ty.bf16, Ty.f16, Ty.e4m3, Ty.q4x],
           fields := f.only (if q then 0x30 else 0x27) 0, d := .t, a := .a, c := if q then .v else .zero }
  | .mrdVector h f => some { types := [Ty.f32, Ty.bf16, Ty.f16, Ty.e4m3], fields := f.only 0x2F 6 && f.fn.getLsbD 3,
                             d := .v, a := .a, b := if h.ty.toNat == Ty.e4m3 then .s else .zero }
  | .mclr _ f => some { types := [], fields := f.only 0 0, d := .a }
  | .macc _ f => some { types := [], fields := f.only 0 0, d := .a, a := .a }
  | .mstat _ f => some { types := [], fields := f.only 0 0, d := .s, a := .a }
  | .tlds _ f => some { types := [], fields := f.only 0 44, d := .t, a := .s, b := .s }
  | .tsts _ f => some { types := [], fields := f.only 0 44, d := .t, a := .s, b := .s }
  | .ttr _ f => some { types := [], fields := f.only 0 0, d := .t, a := .t }
  | .tmov _ f => some { types := [], fields := f.only 7 0, d := .t, a := .t }
  | .tfill _ f => some { types := [], fields := f.only 1 (if f.fn.getLsbD 0 then 32 else 0), d := .t,
                         a := if f.fn.getLsbD 0 then .zero else .s }
  | .tq4x _ f => some { types := [], fields := f.only (if f.fn.getLsbD 4 then 0x17 else 0x08) 0, d := .t, a := .t, c := .v }
  | .xseta _ f => some { types := [], fields := f.only 0 0, a := .v }
  | .xsetb _ f => some { types := [], fields := f.only 0 0, a := .v }
  | .xfill _ f => some { types := [], fields := f.only 3 4 && f.fn != 0 }
  | .xrd _ f => some { types := [], fields := f.only 1 0, d := .v }
  | .lds _ f => some (memRow f Ty.scal .s .s 0 false)
  | .sts _ f => some (memRow f Ty.scal .s .s 0 false)
  | .vlds _ f => some (memRow f [] .v .s 0x0F false)
  | .vsts _ f => some (memRow f [] .v .s 0x0F false)
  | .vgat _ f => some (memRow f Ty.gt .v .v 0x0F false)
  | .vsca _ f => some (memRow f Ty.gt .v .v 0x0F false)
  | .ldf _ f => some (memRow f Ty.scal .s .s 0xFF true)
  | .stf _ f => some (memRow f Ty.scal .s .s 0xFF true)
  | .vldf _ f => some (memRow f [] .v .s 0xFF true)
  | .vstf _ f => some (memRow f [] .v .s 0xFF true)
  | .pref _ f => some (memRow f [] .count .s 0xFF false)
  | .fence _ f => some { types := [], fields := f.only 0x30 16 }
  | .cflush _ f =>
    let r := memRow f [] .s .s 0xFF false
    some { r with fields := r.fields && f.fn.extractLsb' 6 2 != 3 }
  | .resv _ f => some { types := [], fields := f.only 0 16 && (f.imm.extractLsb' 3 9).toNat ≤ 256, a := .s, b := .s }
  | .amo h f =>
    let r := memRow f Ty.atomic .s .s 0xFF true
    some { r with fields := r.fields && aopOk h.ty f 0 }
  | .cas _ f =>
    let r := memRow f [Ty.n32, Ty.s32, Ty.n64, Ty.s64] .s .s 0xFF true
    some { r with fields := r.fields && f.aop == 0 && f.d != 63 }
  | .red h f =>
    let r := memRow f Ty.atomic .s .s 0xFF false
    some { r with fields := r.fields && aopOk h.ty f 1 }
  | .wta _ f =>
    let r := memRow f [Ty.n64] .s .s 0xFF false
    some { r with fields := r.fields && f.aop == 0 && f.d != 63 && f.fn.extractLsb' 4 2 == 2 }
  | .bar _ f => some { types := [], fields := f.only 0 8 }
  | .barr _ f => some { types := [], fields := f.only 0 8 }
  | .barw _ f => some { types := [], fields := f.only 0 8 }
  | .gleave _ f => some { types := [], fields := f.only 0 8 }
  | .hsigr _ f => some { types := [], fields := f.only 1 (if f.fn.getLsbD 0 then 32 else 16),
                         a := if f.fn.getLsbD 0 then .zero else .s }
  | .cpj _ f => some (jobRow f (f.imm == 0))
  | .cpq _ f => some { types := [], fields := f.only 0 2 && f.imm != 3, d := .s }
  | .cpc _ f => some (jobRow f (1 ≤ f.imm.toNat && f.imm.toNat ≤ 64))
  | .bbw _ f => some { types := [], fields := f.only 0 0, d := .s, a := .bb }
  | .bbrd _ f => some { types := [], fields := f.only 0 0, d := .s, a := .bb }
  | .coll _ f => some (jobRow f (f.imm.toNat < 2 ^ 23 && 2 ^ 11 ≤ f.imm.toNat))
  | .emake _ f => some (emberRow f .s true true)
  | .efill _ f => some (emberRow f .s true false)
  | .epeek _ f => some (emberRow f .s true false)
  | .efail _ f => some (emberRow f .s false false)
  | .earm _ f => some (emberRow f .zero false false)
  | .estat _ f => some (emberRow f .s true false)
  | .sopen _ f => some { types := [], fields := f.only 0 4, a := .s }
  | .sst _ f => some (sealedRow f .s)
  | .svst _ f => some (sealedRow f .v)
  | .spost _ f => some { types := [], fields := f.only 0 4 }
  | .svoid _ f => some { types := [], fields := f.only 0 4 }
  | .swait _ f => some { types := [], fields := f.only 0 4, d := .s }
  | .sstat _ f => some { types := [], fields := f.only 0 4, d := .s }
  | .itake _ f => some { types := [], fields := f.only 0 6, d := .s }
  | .igive _ f => some { types := [], fields := f.only 0 6, a := .s }
  | .istat _ f =>
    let ok := !f.imm.getLsbD 6 && !f.imm.getLsbD 7 && counterOk (f.imm.extractLsb' 8 5).toNat
    some { types := [], fields := f.only 0 13 && ok, d := .s }
  | .boundOp _ _ _ => some { types := Ty.scal ++ [Ty.q4x, Ty.s4], fields := true, d := .any, a := .any, b := .any, c := .any }
  | _ => none
where
  /-- wid is not 0 and pos + wid at most 64 (R117). -/
  bitFieldOk (f : Tri) : Bool :=
    let pos := (f.imm.extractLsb' 0 6).toNat
    let wid := (f.imm.extractLsb' 6 7).toNat
    wid != 0 && pos + wid ≤ 64
  /-- OP of `vred` and `vscan`: 0–5, and 3–5 for integer types only (R173). -/
  scanOpOk (h : Hdr) (f : Tri) : Bool :=
    let op := (f.fn.extractLsb' 3 3).toNat
    op ≤ 2 || (op ≤ 5 && !Ty.isFloat h.ty.toNat)
  /-- The MAT rows of Table 10.1. -/
  matRow (f : Mat) : Row :=
    { types := [Ty.q4x, Ty.s4, Ty.s8, Ty.e4m3, Ty.bf16, Ty.f16, Ty.e5m2], fields := f.z1 == 0 && f.fn == 0,
      d := .a, a := .t, b := .t }
  /-- The counters that Table 13.9 defines. -/
  counterOk (n : Nat) : Bool := n ≤ 5 || (8 ≤ n && n ≤ 13) || (16 ≤ n && n ≤ 21)

/-! ## The checks of one op (R90, step 3) -/

/-- The register fields D, A, B, C of a payload, as far as its layout has them. -/
def Payload.regs : Payload → BitVec 7 × BitVec 7 × BitVec 7 × BitVec 7
  | .tri f => (f.d, f.a, f.b, f.c)
  | .wide f => (f.d, 0, 0, 0)
  | .branch f => (0, f.a, 0, 0)
  | .mem f => (f.d, f.a, f.b, 0)
  | .mat f => (f.d, f.a, f.b, 0)
  | .job f => (0, f.a, 0, 0)

/-- GUARD (R81, R82, R157): what GRD may hold in an op of class `cls`. -/
def guardBad (cls : SlotClass) (lane : Bool) (h : Hdr) : Bool :=
  h.grd.getLsbD 5 && (cls != .v || h.grd.getLsbD 4 || !lane)

/-- TYPE (R84): TY outside the row's list, or set in an op that has no type. -/
def typeBad (r : Row) (h : Hdr) : Bool :=
  (if r.types.isEmpty then h.ty != 0 else !r.types.contains h.ty.toNat) || !r.typeOk

/-- The MEM-layout landing ops (R187). -/
def isMemLanding (opc : BitVec 8) : Bool := [0x86, 0x88, 0x90, 0x91, 0x93, 0xA2, 0xA5].contains opc.toNat

/-- DUEFIELD (R85). -/
def dueBad (opc : BitVec 8) : Payload → Bool
  | .mem f => if isMemLanding opc then f.due.toNat < 6 else f.due != 0
  | _ => false

/-- KFIELD (R85). -/
def kBad : Payload → Bool
  | .mat f => f.k.toNat = 0 || 256 < f.k.toNat
  | _ => false

/-- EA and EB of a MAT op name scalar registers (Table 10.1). -/
def expBad : Payload → Bool
  | .mat f => 64 ≤ f.ea.toNat || 64 ≤ f.eb.toNat
  | _ => false

/-- SEMFIELD (R26): a semaphore named with a zero count. -/
def semBad (h : Hdr) : Bool := (h.wcnt == 0 && h.wsem != 0) || (h.sinc == 0 && h.ssem != 0)

/-- The first check of one op that fails, from GUARD on (R90, step 3); `cls` is the op's class. -/
def checkOp (cls : SlotClass) (i : Instr) : Option IllOp :=
  match i.op?, i.row with
  | some (opc, h, p), some r =>
    let (rd, ra, rb, rc) := p.regs
    if guardBad cls r.lane h then some .guard
    else if typeBad r h then some .type
    else if !r.fields || r.d.fieldBad rd || r.a.fieldBad ra || r.b.fieldBad rb || r.c.fieldBad rc then some .field
    else if r.d.regBad rd || r.a.regBad ra || r.b.regBad rb || r.c.regBad rc || expBad p then some .regfield
    else if semBad h then some .semfield
    else if dueBad opc p then some .duefield
    else if kBad p then some .kfield
    else none
  | _, _ => none

/-- The class by which an op is checked when no binding is at hand: a bound op may be declared V, whose guards are the
wider set (R81, R82, R88). -/
def Instr.freeClass (i : Instr) : SlotClass :=
  match i.op? with
  | some (opc, _, _) => slotClass .v opc
  | none => .s

/-- An op decoded on any bits: the instruction, or the first reason of R90's step 3 against it. UNBOUND, and the class
a binding declares, are the context's and are tested at issue. -/
def decode (w : Op) : Except IllOp Instr :=
  match parseOp w with
  | none => .error .opcode
  | some i =>
    match checkOp i.freeClass i with
    | some r => .error r
    | none => .ok i

/-- The instruction the decoder reads from an op whose bits are `w`, bit 0 the least significant (R72); the bits above
`nbits` are zero in `w`. -/
def decodeTableWord (nbits w : Nat) : Option Instr :=
  match decode (BitVec.ofNat 128 (w % 2 ^ nbits)) with
  | .ok i => some i
  | .error _ => none

end Sys2Proof
end

