-- ==== Sys2Proof/Machine/Flags.lean ====
section
/-!
DEFINITION. The flag computations: fitting an exact integer into a type (R115, R152), the sticky flags of FPSTAT (R153)
and of CTXST (Table 4.3).
-/
namespace Sys2Proof.Machine
open Sys2Proof

/-- The sticky flags of FPSTAT (Table 5.3), bit by bit. -/
abbrev FpFlags := BitVec 7

namespace Fp
/-- NV, bit 0. -/
def nv : FpFlags := 1
/-- OF, bit 1. -/
def of : FpFlags := 2
/-- DZ, bit 2. -/
def dz : FpFlags := 4
/-- NX, bit 3. -/
def nx : FpFlags := 8
/-- UF, bit 4. -/
def uf : FpFlags := 16
/-- CLAMP, bit 5. -/
def clamp : FpFlags := 32
/-- MALF, bit 6. -/
def malf : FpFlags := 64
end Fp

/-- A flag when a condition holds. -/
def flagIf (b : Bool) (f : FpFlags) : FpFlags := if b then f else 0

/-- All flags of a list of results, each raised once. -/
def orFlags (l : List FpFlags) : FpFlags := l.foldl (· ||| ·) 0

/-- The sticky bits of CTXST (Table 4.3). -/
abbrev CtxFlags := BitVec 5

namespace CtxFlag
/-- BRC, bit 0. -/
def brc : CtxFlags := 1
/-- WAW, bit 1. -/
def waw : CtxFlags := 2
/-- AOVF, bit 2. -/
def aovf : CtxFlags := 4
/-- DZ, bit 3. -/
def dz : CtxFlags := 8
/-- SAT, bit 4. -/
def sat : CtxFlags := 16
end CtxFlag

/-- Operand(v, TY) of R115: the low w bits, read by the type's signedness. -/
def typedOperand (ty : Nat) (v : Nat) : Int :=
  let w := Ty.width ty
  let n := v % 2 ^ w
  if Ty.signed ty && 2 ^ (w - 1) ≤ n then (n : Int) - 2 ^ w else n

/-- The least value of an integer type (R115). -/
def typeMin (ty : Nat) : Int := if Ty.signed ty then -(2 ^ (Ty.width ty - 1)) else 0

/-- The greatest value of an integer type (R115). -/
def typeMax (ty : Nat) : Int := if Ty.signed ty then 2 ^ (Ty.width ty - 1) - 1 else 2 ^ Ty.width ty - 1

/-- The w-bit pattern of an exact integer: x modulo 2^w. -/
def pattern (ty : Nat) (x : Int) : Nat := (x % 2 ^ Ty.width ty).toNat

/-- An exact integer clamped to a type when `sat` is set, and whether it was (R115, R152). -/
def clampTo (ty : Nat) (sat : Bool) (x : Int) : Int × Bool :=
  if sat && x < typeMin ty then (typeMin ty, true)
  else if sat && typeMax ty < x then (typeMax ty, true)
  else (x, false)

/-- The w-bit pattern extended to 64 bits by the type's signedness (R115). -/
def extendTyped (ty : Nat) (n : Nat) : Dword := BitVec.ofInt 64 (typedOperand ty n)

/-- Fit(x, TY, sat) of R115: the 64-bit result, and whether SAT is set. -/
def fit (ty : Nat) (sat : Bool) (x : Int) : Dword × Bool :=
  let (y, c) := clampTo ty sat x
  (extendTyped ty (pattern ty y), c)

/-- VFit(x, T, SAT) of R152: the element's pattern and its flags. -/
def vfit (ty : Nat) (sat : Bool) (x : Int) : Nat × FpFlags :=
  let (y, c) := clampTo ty sat x
  (pattern ty y, flagIf c Fp.clamp)

end Sys2Proof.Machine
end

