-- ==== Sys2Proof/Machine/Number.lean ====
section
/-!
DEFINITION. The floating-point formats bit by bit (R147, R148), exact values, rounding (R151) and the exact functions
of R159, R160 and R163 over them.
-/
namespace Sys2Proof.Machine
open Sys2Proof

/-! ## Formats (Table 5.2) -/

/-- The fraction width f of a format. -/
def fracBits (t : Nat) : Nat :=
  if t = Ty.f32 then 23 else if t = Ty.bf16 then 7 else if t = Ty.f16 then 10 else if t = Ty.e4m3 then 3 else 2

/-- The exponent width of a format. -/
def expBits (t : Nat) : Nat := Ty.width t - 1 - fracBits t

/-- The exponent bias of a format. -/
def bias (t : Nat) : Int := 2 ^ (expBits t - 1) - 1

/-- The bits of an infinity without its sign: the all-ones exponent. -/
def infBits (t : Nat) : Nat := (2 ^ expBits t - 1) * 2 ^ fracBits t

/-- The bits of the largest finite value; `e4m3` uses the all-ones exponent for numbers (R147). -/
def maxFinite (t : Nat) : Nat := if t = Ty.e4m3 then 0x7E else infBits t - 1

/-- The canonical NaN (Table 5.2). -/
def canonicalNan (t : Nat) : Nat := if t = Ty.e4m3 then 0x7F else infBits t + 2 ^ (fracBits t - 1)

/-- The weight of the sign bit. -/
def signBit (t : Nat) : Nat := 2 ^ (Ty.width t - 1)

/-- The exponent of a subnormal's last place. -/
def minExp (t : Nat) : Int := 1 - bias t - fracBits t

/-- An exact result before rounding. -/
inductive Exact where
  /-- Not a number; `invalid` says that NV is set for it. -/
  | nan (invalid : Bool)
  | inf (neg : Bool)
  /-- The value (−1)^neg × (m + δ) × 2^e, where 0 < δ < 1 if `sticky` and δ = 0 otherwise. -/
  | num (neg : Bool) (m : Nat) (e : Int) (sticky : Bool)
  deriving DecidableEq, Repr

/-- The magnitude bits and sign of a pattern. -/
def magnitude (t x : Nat) : Nat := x % signBit t

/-- The sign of a pattern. -/
def isNeg (t x : Nat) : Bool := signBit t ≤ x % 2 ^ Ty.width t

/-- Is the pattern a NaN of the format (Table 5.2)? -/
def isNan (t x : Nat) : Bool := if t = Ty.e4m3 then magnitude t x = 0x7F else infBits t < magnitude t x

/-- Is the pattern a signalling NaN (R148)? -/
def isSignalling (t x : Nat) : Bool :=
  isNan t x && (t == Ty.f32 || t == Ty.bf16 || t == Ty.f16) && magnitude t x < canonicalNan t

/-- The value of a pattern (R147); a signalling NaN is marked invalid (R148). -/
def decodeFloat (t x : Nat) : Exact :=
  let mag := magnitude t x
  let neg := isNeg t x
  if isNan t x then .nan (isSignalling t x)
  else if t ≠ Ty.e4m3 ∧ mag = infBits t then .inf neg
  else
    let e := mag / 2 ^ fracBits t
    let f := mag % 2 ^ fracBits t
    if e = 0 then .num neg f (minExp t) false
    else .num neg (f + 2 ^ fracBits t) (minExp t + e - 1) false

/-! ## Rounding (R151) -/

/-- Is the value rounded away from zero? `k` is kept, `r` of 2^sh is cut off; `rm` 0 RNE, 1 RTZ, 2 up, 3 down. -/
def roundsUp (rm : Nat) (neg : Bool) (k r half : Nat) (sticky : Bool) : Bool :=
  match rm with
  | 0 => half < r || (r == half && half != 0 && (sticky || k % 2 == 1))
  | 1 => false
  | 2 => !neg && (r != 0 || sticky)
  | _ => neg && (r != 0 || sticky)

/-- (m + δ) × 2^−sh rounded to an integer, and whether that was inexact. -/
def roundShift (rm : Nat) (neg : Bool) (m : Nat) (sh : Int) (sticky : Bool) : Nat × Bool :=
  match sh with
  | .ofNat s =>
    let k := m / 2 ^ s
    let r := m % 2 ^ s
    (if roundsUp rm neg k r (2 ^ s / 2) sticky then k + 1 else k, r != 0 || sticky)
  | .negSucc s => (if roundsUp rm neg 0 0 0 sticky then m * 2 ^ (s + 1) + 1 else m * 2 ^ (s + 1), sticky)

/-- The sign bit of a result. -/
def withSign (t : Nat) (neg : Bool) (mag : Nat) : Nat := if neg then signBit t + mag else mag

/-- The overflow result of IEEE 754 for a rounding mode; `e4m3` has no infinity (R151). -/
def overflowResult (t rm : Nat) (neg : Bool) : Nat :=
  let toInf := match rm with
    | 0 => true
    | 1 => false
    | 2 => !neg
    | _ => neg
  if toInf then (if t = Ty.e4m3 then canonicalNan t else withSign t neg (infBits t))
  else withSign t neg (maxFinite t)

/-- RoundF(x, T, RM, SAT) of R151: the pattern of the result, and its flags. -/
def roundF (t rm : Nat) (sat : Bool) : Exact → Nat × FpFlags
  | .nan invalid => (canonicalNan t, flagIf invalid Fp.nv)
  | .inf neg =>
    if sat then (withSign t neg (maxFinite t), Fp.clamp)
    else if t = Ty.e4m3 then (canonicalNan t, Fp.nv)
    else (withSign t neg (infBits t), 0)
  | .num neg m e sticky =>
    if m = 0 ∧ sticky = false then (withSign t neg 0, 0)
    else
      let top : Int := e + (Nat.log2 m : Int)
      let q := max (top - fracBits t) (minExp t)
      let (k, inexact) := roundShift rm neg m (q - e) sticky
      let mag := (q - minExp t).toNat * 2 ^ fracBits t + k
      let tiny := top < minExp t + fracBits t
      let fl := flagIf inexact Fp.nx ||| flagIf (inexact && tiny) Fp.uf
      if maxFinite t < mag then
        let fl := fl ||| Fp.of ||| Fp.nx
        if sat then (withSign t neg (maxFinite t), fl ||| Fp.clamp) else (overflowResult t rm neg, fl)
      else (withSign t neg mag, fl)

/-! ## Exact arithmetic -/

/-- The negation of an exact value. -/
def Exact.negate : Exact → Exact
  | .nan i => .nan i
  | .inf n => .inf (!n)
  | .num n m e s => .num (!n) m e s

/-- The product of two exact values; 0 × ∞ is invalid (R159). -/
def Exact.mul : Exact → Exact → Exact
  | .nan i, .nan j => .nan (i || j)
  | .nan i, _ => .nan i
  | _, .nan j => .nan j
  | .inf n, .inf m => .inf (n != m)
  | .inf n, .num s m _ _ => if m = 0 then .nan true else .inf (n != s)
  | .num s m _ _, .inf n => if m = 0 then .nan true else .inf (n != s)
  | .num n m e _, .num n' m' e' _ => .num (n != n') (m * m') (e + e') false

/-- The least exponent of the finite terms. -/
def minTermExp : List Exact → Int → Int
  | [], e => e
  | .num _ m e' _ :: xs, e => minTermExp xs (if m = 0 then e else min e e')
  | _ :: xs, e => minTermExp xs e

/-- The sum of the finite terms in units of 2^e. -/
def sumTerms (e : Int) : List Exact → Int
  | [] => 0
  | .num n m e' _ :: xs =>
    let v : Int := m * 2 ^ (e' - e).toNat
    (if n then -v else v) + sumTerms e xs
  | _ :: xs => sumTerms e xs

/-- An exact sum (R159, R169): NaNs and opposite infinities are invalid as R159 says, an exact zero of terms of
opposite signs is +0, or −0 toward −∞ (R151), and any other zero keeps its terms' sign. -/
def exactSum (rm : Nat) (xs : List Exact) : Exact :=
  let nans := xs.filterMap fun x => match x with | .nan i => some i | _ => none
  let infs := xs.filterMap fun x => match x with | .inf n => some n | _ => none
  let signs := xs.filterMap fun x => match x with | .num n _ _ _ => some n | _ => none
  let clash := infs.contains true && infs.contains false
  if !nans.isEmpty then .nan (nans.contains true || clash)
  else if clash then .nan true
  else match infs with
    | n :: _ => .inf n
    | [] =>
      let e := minTermExp xs 1000000
      let s := sumTerms e xs
      if s = 0 then .num (if signs.all id then true else if signs.all (!·) then false else rm == 3) 0 0 false
      else .num (s < 0) s.natAbs e false

/-- The exact value of an integer. -/
def exactInt (x : Int) : Exact := .num (x < 0) x.natAbs 0 false

/-! ## The function ops (R163, Table 5.6) -/

/-- The integer square root of a number below 4^n, bit by bit. -/
def isqrtFrom : Nat → Nat → Nat → Nat
  | 0, _, r => r
  | n + 1, x, r =>
    let c := r + 2 ^ n
    isqrtFrom n x (if c * c ≤ x then c else r)

/-- 1/a, with DZ for a zero. (DEDUCED: log 30) -/
def recip : Exact → Exact × FpFlags
  | .nan i => (.nan i, 0)
  | .inf n => (.num n 0 0 false, 0)
  | .num n m e _ =>
    if m = 0 then (.inf n, Fp.dz)
    else
      let k := Nat.log2 m + 64
      (.num n (2 ^ k / m) (-e - k) (2 ^ k % m != 0), 0)

/-- 1/√a. -/
def recipSqrt : Exact → Exact × FpFlags
  | .nan i => (.nan i, 0)
  | .inf n => (if n then .nan true else .num false 0 0 false, 0)
  | .num n m e _ =>
    if m = 0 then (.inf n, Fp.dz)
    else if n then (.nan true, 0)
    else
      let (m, e) := if e % 2 = 0 then (m, e) else (2 * m, e - 1)
      let k := Nat.log2 m + 64
      let r := isqrtFrom (k + 1) (2 ^ (2 * k) / m) 0
      (.num false r (-(e / 2) - k) (r * r * m != 2 ^ (2 * k)), 0)

/-- The scale of the fixed-point work below: 200 fraction bits. -/
def fixOne : Nat := 2 ^ 200

/-- ⌊ln 2 × 2^200⌋. -/
def ln2Fix : Nat := 0xb17217f7d1cf79abc9e3b39803f2f6af40f343267298b62d8a

/-- Σ y^k / k! in fixed point, from term k on, for `n` further terms. -/
def expSeries (y : Nat) : Nat → Nat → Nat → Nat
  | 0, _, _ => 0
  | n + 1, k, term => term + expSeries y n (k + 1) (term * y / fixOne / (k + 1))

/-- Σ z^(2k+1) / (2k+1) in fixed point: the inverse hyperbolic tangent. -/
def atanhSeries (z2 : Nat) : Nat → Nat → Nat → Nat
  | 0, _, _ => 0
  | n + 1, k, power => power / (2 * k + 1) + atanhSeries z2 n (k + 1) (power * z2 / fixOne)

/-- 2^a: exact for an integer a; otherwise 160 bits of it and the sticky bit, since 2^a is then irrational. -/
def exp2 : Exact → Exact × FpFlags
  | .nan i => (.nan i, 0)
  | .inf n => (if n then .num false 0 0 false else .inf false, 0)
  | .num n m e _ =>
    if m = 0 then (.num false 1 0 false, 0)
    else if 12 ≤ e + (Nat.log2 m : Int) then (.num false 1 (if n then -4096 else 4096) true, 0)
    else
      let a : Int := (m : Int) * 2 ^ (e + 200).toNat
      let a := if n then -a else a
      let i := a / (fixOne : Int)
      let f := (a % (fixOne : Int)).toNat
      if f = 0 then (.num false 1 i false, 0)
      else (.num false (expSeries (f * ln2Fix / fixOne) 64 0 fixOne / 2 ^ 40) (i - 160) true, 0)

/-- log2 a: exact for a power of two; otherwise 160 fraction bits and the sticky bit. -/
def log2Exact : Exact → Exact × FpFlags
  | .nan i => (.nan i, 0)
  | .inf n => (if n then .nan true else .inf false, 0)
  | .num n m e _ =>
    if m = 0 then (.inf true, Fp.dz)
    else if n then (.nan true, 0)
    else
      let l := Nat.log2 m
      let top : Int := e + l
      if m = 2 ^ l then (.num (top < 0) top.natAbs 0 false, 0)
      else
        let z := (m - 2 ^ l) * fixOne / (m + 2 ^ l)
        let frac := 2 * atanhSeries (z * z / fixOne) 80 0 z * fixOne / ln2Fix
        let v := top * (fixOne : Int) + frac
        (.num (v < 0) (v.natAbs / 2 ^ 40) (-160) true, 0)

/-! ## Comparison (R160, R165) -/

/-- The order of patterns with −0 below +0 (R160). -/
def floatKey (t x : Nat) : Int := if isNeg t x then -(magnitude t x : Int) - 1 else magnitude t x

/-- The order of values, −0 equal to +0 (R165). -/
def floatValueKey (t x : Nat) : Int := if isNeg t x then -(magnitude t x : Int) else magnitude t x

/-- minimumNumber and maximumNumber of IEEE 754-2019 (R160). -/
def floatMinMax (t : Nat) (wantMax : Bool) (a b : Nat) : Nat × FpFlags :=
  let fl := flagIf (isSignalling t a || isSignalling t b) Fp.nv
  let r :=
    if isNan t a && isNan t b then canonicalNan t
    else if isNan t a then b
    else if isNan t b then a
    else if (floatKey t a < floatKey t b) != wantMax then a else b
  (r, fl)

/-- A value rounded to an integer in a mode, and whether that was inexact (R168). -/
def toInteger (rm : Nat) (neg : Bool) (m : Nat) (e : Int) (sticky : Bool) : Int × Bool :=
  let (k, inexact) := roundShift rm neg m (-e) sticky
  (if neg then -(k : Int) else k, inexact)

/-- Conv of R168 from a float to an integer type: the range is tested on the rounded value, and a value that is clamped sets
no NX. (DESIGN CHOICE: log 150) -/
def floatToInt (ty rm : Nat) (sat : Bool) : Exact → Nat × FpFlags
  | .nan _ => (0, Fp.nv)
  | .inf neg => (pattern ty (if neg then typeMin ty else typeMax ty), if sat then Fp.clamp else Fp.nv)
  | .num neg m e sticky =>
    let (x, inexact) := toInteger rm neg m e sticky
    if x < typeMin ty ∨ typeMax ty < x then
      (pattern ty (if x < typeMin ty then typeMin ty else typeMax ty), if sat then Fp.clamp else Fp.nv)
    else (pattern ty x, flagIf inexact Fp.nx)

end Sys2Proof.Machine
end

