-- ==== Sys2Proof/Machine/Quant.lean ====
section
/-!
DEFINITION. The `q4x` block format: Q4Decode (R150) and Q4Quantise (R174), over lists of 32 codes or values.
-/
namespace Sys2Proof.Machine
open Sys2Proof

/-- Element i of a block of nibbles at the scale 2^scExp, and whether its pair is malformed (R150). -/
def q4Decode (codes : List Nat) (i : Nat) (scExp : Int) : Exact × Bool :=
  let c := codes.getD i 0
  let m := codes.getD (i ^^^ 1) 0
  if c = 8 ∧ m = 8 then (.num false 0 0 false, true)
  else if c = 8 then (.num (8 ≤ m) 1 (scExp + 3 + (m % 8 : Nat)) false, false)
  else if m = 8 then (.num false 0 0 false, false)
  else
    let k : Int := if 8 ≤ c then (c : Int) - 16 else c
    (.num (k < 0) k.natAbs scExp false, false)

/-- What Q4Quantise returns for one block. -/
structure QBlock where
  codes : List Nat
  delta : Nat
  /-- The side lane of Table 5.9. -/
  side  : Nat
  sat   : Nat
  zero  : Nat
  sac   : Nat
  flags : FpFlags
  deriving DecidableEq, Repr

/-- One input of the quantiser: NaN, sign, infinity, and the magnitude in the block's unit. -/
structure QIn where
  nan : Bool
  neg : Bool
  inf : Bool
  mag : Nat
  deriving DecidableEq, Repr

/-- The exponent of the unit in which every finite input of a block is a whole number: the least of the nonzero inputs. -/
def blockUnit (xs : List Exact) : Int :=
  (xs.filterMap fun x => match x with
    | .num _ m e _ => if m = 0 then none else some e
    | _ => none).min?.getD 0

/-- The magnitude of a finite input in units of 2^u, exact for a unit that is not above its exponent; 0 for the others. -/
def unitCount (u : Int) : Exact → Nat
  | .num _ m e _ => m * 2 ^ (e - u).toNat
  | _ => 0

/-- An input from its exact value in units of 2^u: NaN counts as 0, and ±∞ as `top`, which lies above every finite value
of the block (R174). -/
def QIn.of (u : Int) (top : Nat) : Exact → QIn
  | .nan _ => ⟨true, false, false, 0⟩
  | .inf n => ⟨false, n, true, top⟩
  | .num n m e k => ⟨false, n, false, unitCount u (.num n m e k)⟩

/-- a × 2^s ≤ b. -/
def leScaled (a b : Nat) (s : Int) : Bool :=
  match s with
  | .ofNat k => a * 2 ^ k ≤ b
  | .negSucc k => a ≤ b * 2 ^ (k + 1)

/-- |y| > 7.5 for the input at the block's shift: y = mag × 2^s. -/
def QIn.wants (x : QIn) (s : Int) : Bool := x.inf || !leScaled (2 * x.mag) 15 s

/-- The inlier nearest to y, ties to even, 7.5 going to 7 (R174), and whether it differs from y. -/
def QIn.inlier (x : QIn) (s : Int) : Nat × Bool :=
  let (k, inexact) := roundShift 0 false x.mag (-s) false
  if 7 < k then (7, true) else (k, inexact)

/-- log2 of the power of two nearest to |y|, ties to the larger, from 3 to 10 (R174). -/
def QIn.outlierLog (x : QIn) (s : Int) : Int :=
  if x.inf then 10
  else
    let l := Nat.log2 x.mag
    let t : Int := l + s + (if 3 * 2 ^ l ≤ 2 * x.mag then 1 else 0)
    max 3 (min 10 t)

/-- Insertion into a list in falling order. -/
def insertFalling (x : Nat) : List Nat → List Nat
  | [] => [x]
  | y :: ys => if y ≤ x then x :: y :: ys else y :: insertFalling x ys

/-- The largest d up to the given one with m × 2^(d + s) ≤ 7.5; 0 if there is none (R174). -/
def chooseDelta (m : Nat) (s : Int) : Nat → Nat
  | 0 => 0
  | d + 1 => if leScaled (2 * m) 15 ((d : Int) + 1 + s) then d + 1 else chooseDelta m s d

/-- Q4Quantise(x, e, tail) of R174 for one block. -/
def q4Quantise (xs : List Exact) (e : Int) (tail : Bool) : QBlock :=
  let u := blockUnit xs
  let top := 1 + xs.foldl (fun n x => max n (unitCount u x)) 0
  let q := xs.map (QIn.of u top)
  let ranked := q.foldl (fun l x => insertFalling x.mag l) []
  let m := ranked.getD (if tail then 2 else 0) 0
  let d := if m = top then 0 else chooseDelta m (u - e) 15
  let s : Int := d + (u - e)
  let none : QIn := ⟨false, false, false, 0⟩
  let at' := fun i => q.getD i none
  let want := fun i => (at' i).wants s
  -- of a pair that wants twice, the larger keeps, the lower index if equal
  let kept := fun i => want i && (!want (i ^^^ 1) ||
    (if i % 2 = 0 then (at' (i ^^^ 1)).mag ≤ (at' i).mag else (at' (i ^^^ 1)).mag < (at' i).mag))
  let idx := List.range xs.length
  let outs := idx.filter kept
  let ins := idx.filter fun i => !kept i && !kept (i ^^^ 1)
  let code := fun i =>
    if kept i then 8
    else if kept (i ^^^ 1) then
      (if (at' (i ^^^ 1)).neg then 8 else 0) + ((at' (i ^^^ 1)).outlierLog s - 3).toNat
    else
      let k := ((at' i).inlier s).1
      if (at' i).neg && k != 0 then 16 - k else k
  let codes := idx.map code
  let above := fun i => (at' i).inf || !leScaled (at' i).mag 1024 s
  let exactOut := fun i => !(at' i).inf && (at' i).mag == 2 ^ Nat.log2 (at' i).mag &&
    ((Nat.log2 (at' i).mag : Int) + s == (at' i).outlierLog s)
  let sat := (outs.filter above).length
  let sac := (outs.filter fun i => want (i ^^^ 1) || ((at' (i ^^^ 1)).inlier s).1 != 0).length
  let zeroed := fun i => (at' i).nan || (((at' i).inlier s).1 == 0 && (at' i).mag != 0)
  let zero := (ins.filter zeroed).length
  let vanished := d == 15 && codes.all (· == 0) && q.any fun x => x.mag != 0
  let fl := flagIf (q.any (·.nan)) Fp.nv ||| flagIf (outs.any above) Fp.clamp |||
    flagIf (outs.any (fun i => !exactOut i) || ins.any fun i => ((at' i).inlier s).2) Fp.nx
  { codes := codes, delta := d,
    side := d * 2 ^ 16 + (if vanished then 2 ^ 15 else 0) + min sac 31 * 2 ^ 10 + min zero 31 * 2 ^ 5 + min sat 31,
    sat := sat, zero := zero, sac := sac, flags := fl }

end Sys2Proof.Machine
end

