-- ==== Sys2Proof/Machine/Lanes.lean ====
section
/-!
DEFINITION. The element operations of the vector unit (R143 to R177) over registers given as lists of 128 lanes: what
each element becomes and which flags it raises. Reading operands from the state and landing the results stand in the
family files.
-/
namespace Sys2Proof.Machine
open Sys2Proof

/-- Part of one lane of a vector register to be written: the lane, the mask of the bits that change, their values. -/
abbrev LaneWrite := Nat × Word × Word

/-- One element's result and its flags. -/
abbrev Elem := Nat × FpFlags

/-! ## Packing (R143) -/

/-- The elements of width `w` of a register, element 0 first. -/
def unpackElems (w : Nat) (lanes : List Word) : List Nat :=
  lanes.flatMap fun l => (List.range (32 / w)).map fun k => l.toNat / 2 ^ (w * k) % 2 ^ w

/-- One lane from its elements, element 0 lowest. -/
def packLane (w : Nat) : List Nat → Nat
  | [] => 0
  | x :: xs => x % 2 ^ w + 2 ^ w * packLane w xs

/-- Elements put back into `n` lanes. -/
def packElems (w : Nat) : Nat → List Nat → List Word
  | 0, _ => []
  | n + 1, xs => BitVec.ofNat 32 (packLane w (xs.take (32 / w))) :: packElems w n (xs.drop (32 / w))

/-- The active lanes of a lane guard, lane 0 first (R144). -/
def activeLanes (mask : BitVec 128) : List Bool := (List.range 128).map fun i => mask.getLsbD i

/-- The activity of each element of width `w`: an element is as active as its lane (R144). -/
def activeElems (w : Nat) (mask : BitVec 128) : List Bool :=
  (activeLanes mask).flatMap fun b => List.replicate (32 / w) b

/-- The writes that put `lanes` into the active lanes of a register. -/
def laneWrites (mask : BitVec 128) (lanes : List Word) : List LaneWrite :=
  ((List.range 128).zip lanes).filterMap fun (i, x) => if mask.getLsbD i then some (i, 0xFFFFFFFF, x) else none

/-- The write of element `j` of width `w` alone (R146). -/
def elemWrite (w j x : Nat) : LaneWrite :=
  let per := 32 / w
  let sh := w * (j % per)
  (j / per, BitVec.ofNat 32 ((2 ^ w - 1) * 2 ^ sh), BitVec.ofNat 32 (x % 2 ^ w * 2 ^ sh))

/-- The flags of the active results (R154). -/
def activeFlags (act : List Bool) (r : List Elem) : FpFlags :=
  (act.zip r).foldl (fun f (b, e) => if b then f ||| e.2 else f) 0

/-- The lane writes and flags of a lane-wise op whose element results are `r` (R144, R154). -/
def elementWise (t : Nat) (mask : BitVec 128) (r : List Elem) : List LaneWrite × FpFlags :=
  let w := Ty.width t
  (laneWrites mask (packElems w 128 (r.map (·.1))), activeFlags (activeElems w mask) r)

/-! ## Arithmetic of one element (R159 to R164) -/

/-- Rounding and saturation fields of FN: RM and SAT (R151). -/
structure Mode where
  rm  : Nat
  sat : Bool
  deriving DecidableEq, Repr

/-- RM and SAT of an op's FN. -/
def Mode.of (fn : BitVec 8) : Mode := ⟨(fn.extractLsb' 0 2).toNat, fn.getLsbD 2⟩

/-- An exact integer or float result delivered in type `t` (R151, R152). -/
def deliver (t : Nat) (m : Mode) (x : Exact) : Elem := roundF t m.rm m.sat x

/-- ±(a × b) ± c: the mould of R159; `neg` is the NEG field. -/
def fusedElem (t : Nat) (m : Mode) (neg : Nat) (a b c : Nat) : Elem :=
  if Ty.isFloat t then
    let p := (decodeFloat t a).mul (decodeFloat t b)
    let c := decodeFloat t c
    deliver t m (exactSum m.rm [if 2 ≤ neg then p.negate else p, if neg % 2 = 1 then c.negate else c])
  else
    let p := typedOperand t a * typedOperand t b
    let c := typedOperand t c
    vfit t m.sat ((if 2 ≤ neg then -p else p) + (if neg % 2 = 1 then -c else c))

/-- a + b, or a − b (R159). -/
def addElem (t : Nat) (m : Mode) (sub : Bool) (a b : Nat) : Elem :=
  if Ty.isFloat t then
    let b := decodeFloat t b
    deliver t m (exactSum m.rm [decodeFloat t a, if sub then b.negate else b])
  else vfit t m.sat (if sub then typedOperand t a - typedOperand t b else typedOperand t a + typedOperand t b)

/-- a × b, or its upper half (R159). -/
def mulElem (t : Nat) (m : Mode) (high : Bool) (a b : Nat) : Elem :=
  if Ty.isFloat t then deliver t m ((decodeFloat t a).mul (decodeFloat t b))
  else
    let p := typedOperand t a * typedOperand t b
    vfit t m.sat (if high then p / 2 ^ Ty.width t else p)

/-- The smaller or the larger (R160). -/
def minMaxElem (t : Nat) (wantMax : Bool) (a b : Nat) : Elem :=
  if Ty.isFloat t then floatMinMax t wantMax a b
  else (if (typedOperand t a < typedOperand t b) != wantMax then a else b, 0)

/-- min(max(a, b), c) (R161). -/
def clipElem (t : Nat) (a b c : Nat) : Elem :=
  let (x, f) := minMaxElem t true a b
  let (y, g) := minMaxElem t false x c
  (y, f ||| g)

/-- |a| or −a (R162). -/
def signElem (t : Nat) (sat neg : Bool) (a : Nat) : Elem :=
  if Ty.isFloat t then
    if isNan t a then (canonicalNan t, flagIf (isSignalling t a) Fp.nv)
    else (withSign t (neg && !isNeg t a) (magnitude t a), 0)
  else
    let x := typedOperand t a
    vfit t sat (if neg then -x else (x.natAbs : Int))

/-- A function op of R163: its exact value, then one rounding. -/
def functionElem (f : Exact → Exact × FpFlags) (t : Nat) (m : Mode) (a : Nat) : Elem :=
  let (x, fl) := f (decodeFloat t a)
  let (y, g) := deliver t m x
  (y, fl ||| g)

/-- a × 2^n with VFit, a's pattern shifted right, or a shifted right by sign (R164); n = b mod w. -/
def shlElem (t : Nat) (sat : Bool) (a b : Nat) : Elem := vfit t sat (typedOperand t a * 2 ^ (b % Ty.width t))
def shrElem (t : Nat) (a b : Nat) : Elem := (a / 2 ^ (b % Ty.width t), 0)
def sarElem (t : Nat) (a b : Nat) : Elem :=
  let w := Ty.width t
  let s : Int := if 2 ^ (w - 1) ≤ a then (a : Int) - 2 ^ w else a
  (pattern t (s / 2 ^ (b % w)), 0)

/-- The number of one bits among the low `n` bits. -/
def popCount : Nat → Nat → Nat
  | 0, _ => 0
  | n + 1, x => x % 2 + popCount n (x / 2)

/-- The condition of Tables 5.7 and R118 on one element, and NV for a signalling NaN. -/
def compareElem (t cond : Nat) (a b : Nat) : Bool × FpFlags :=
  if Ty.isFloat t then
    let un := isNan t a || isNan t b
    let x := floatValueKey t a
    let y := floatValueKey t b
    let c := match cond with
      | 0 => !un && x == y
      | 1 => un || x != y
      | 2 => !un && x < y
      | 3 => !un && x ≤ y
      | 4 => !un && x > y
      | 5 => !un && x ≥ y
      | 6 => un
      | _ => !un
    (c, flagIf (isSignalling t a || isSignalling t b) Fp.nv)
  else
    let x := typedOperand t a
    let y := typedOperand t b
    let c := match cond with
      | 0 => x == y
      | 1 => x != y
      | 2 => x < y
      | 3 => x ≤ y
      | 4 => x > y
      | 5 => x ≥ y
      | 6 => Nat.land a b != 0
      | _ => Nat.land a b == 0
    (c, 0)

/-- A list cut into groups of `k`, `n` of them. -/
def groups (k : Nat) : Nat → List α → List (List α)
  | 0, _ => []
  | n + 1, xs => xs.take k :: groups k n (xs.drop k)

/-- A lane predicate from a list of 128 truth values, lane 0 first. -/
def predOfLanes (l : List Bool) : BitVec 128 :=
  BitVec.ofNat 128 (l.foldr (fun b n => (if b then 1 else 0) + 2 * n) 0)

/-! ## Conversion (R168) -/

/-- Conv of R168 from type `s` to type `t`. -/
def convElem (s t : Nat) (m : Mode) (a : Nat) : Elem :=
  if Ty.isFloat s then
    if Ty.isFloat t then deliver t m (decodeFloat s a) else floatToInt t m.rm m.sat (decodeFloat s a)
  else if Ty.isFloat t then deliver t m (exactInt (typedOperand s a))
  else vfit t m.sat (typedOperand s a)

/-- The lane writes and flags of `vcvt` (R168); the flags are those of the elements whose destination lanes are active
(R154), also where the widths differ, as a micro-step's lanes may be (R339). -/
def convert (s t part : Nat) (m : Mode) (mask : BitVec 128) (lanes : List Word) : List LaneWrite × FpFlags :=
  let ws := Ty.width s
  let wd := Ty.width t
  let a := unpackElems ws lanes
  if wd < ws then
    let n := Ty.count s
    let r := a.map (convElem s t m)
    let base := part * n / (32 / wd)
    let out := packElems wd (128 * wd / ws) (r.map (·.1))
    (((List.range out.length).zip out).filterMap fun (i, x) =>
        if mask.getLsbD (base + i) then some (base + i, 0xFFFFFFFF, x) else none,
      activeFlags ((activeElems wd mask).drop (part * n)) r)
  else if ws < wd then
    let n := Ty.count t
    elementWise t mask (((a.drop (part * n)).take n).map (convElem s t m))
  else elementWise t mask (a.map (convElem s t m))

/-! ## Dot products (R169) -/

/-- The accumulator and result type of `vdot`. -/
def dotType (t : Nat) : Nat := if Ty.isFloat t then Ty.f32 else if t = Ty.n8 then Ty.n32 else Ty.s32

/-- One lane of `vdot`. -/
def dotLane (t : Nat) (m : Mode) (a b : List Nat) (c : Nat) : Elem :=
  let d := dotType t
  if Ty.isFloat t then
    deliver d m (exactSum m.rm (decodeFloat d c :: (a.zip b).map fun (x, y) => (decodeFloat t x).mul (decodeFloat t y)))
  else
    vfit d m.sat ((a.zip b).foldl (fun s (x, y) => s + typedOperand t x * typedOperand t y) (typedOperand d c))

/-! ## Rearrangement (R170 to R172) -/

/-- The elements of `vperm`: the index is taken modulo n, or 2n when TWO is set (R171). -/
def permute (n : Nat) (two : Bool) (a b c : List Nat) : List Nat :=
  b.map fun t =>
    let t := t % (if two then 2 * n else n)
    if t < n then a.getD t 0 else c.getD (t - n) 0

/-- Two lists taken in turn. -/
def interleave : List Nat → List Nat → List Nat
  | x :: xs, y :: ys => x :: y :: interleave xs ys
  | _, _ => []

/-- The elements at even indices. -/
def evens : List Nat → List Nat
  | x :: _ :: xs => x :: evens xs
  | _ => []

/-- The patterns of `vshuf` (R172) over `n` elements. -/
def shuffle (n pat k : Nat) (a b : List Nat) : List Nat :=
  match pat with
  | 0 => a.drop k ++ a.take k
  | 1 => interleave (a.take (n / 2)) (b.take (n / 2))
  | 2 => interleave (a.drop (n / 2)) (b.drop (n / 2))
  | 3 => evens a ++ evens b
  | 4 => evens (a.drop 1 ++ [0]) ++ evens (b.drop 1 ++ [0])
  | 5 => a.reverse
  | _ => b.drop (n - k) ++ a.take (n - k)

/-! ## Reductions and scans (R173) -/

/-- ⊕ of R173. (DEDUCED: log 27) -/
def scanOp (t op : Nat) (m : Mode) (a b : Nat) : Elem :=
  match op with
  | 0 => addElem t m false a b
  | 1 => minMaxElem t false a b
  | 2 => minMaxElem t true a b
  | 3 => (Nat.land a b, 0)
  | 4 => (Nat.lor a b, 0)
  | _ => (Nat.xor a b, 0)

/-- The identity of ⊕ (R173). -/
def scanIdentity (t op : Nat) : Nat :=
  match op with
  | 0 => if Ty.isFloat t then signBit t else 0
  | 1 => if Ty.isFloat t then infBits t else pattern t (typeMax t)
  | 2 => if Ty.isFloat t then withSign t true (infBits t) else pattern t (typeMin t)
  | 3 => 2 ^ Ty.width t - 1
  | _ => 0

/-- Two results combined, flags gathered. -/
def scanNode (t op : Nat) (m : Mode) (x y : Elem) : Elem :=
  let (v, f) := scanOp t op m x.1 y.1
  (v, x.2 ||| y.2 ||| f)

/-- The next level of the tree: neighbours combined. -/
def pairUp (t op : Nat) (m : Mode) : List Elem → List Elem
  | x :: y :: xs => scanNode t op m x y :: pairUp t op m xs
  | _ => []

/-- The levels of the tree, leaves first, `n` levels above them. -/
def treeLevels (t op : Nat) (m : Mode) : Nat → List Elem → List (List Elem)
  | 0, xs => [xs]
  | n + 1, xs => xs :: treeLevels t op m n (pairUp t op m xs)

/-- An element that the tree reads: of a floating-point type as a number, so that a NaN is delivered as the canonical one and
a signalling NaN sets NV (R148), which shows in P(0), the one result that no node makes. -/
def scanLeaf (t x : Nat) : Elem :=
  if Ty.isFloat t && isNan t x then (canonicalNan t, flagIf (isSignalling t x) Fp.nv) else (x, 0)

/-- The leaves: elements of inactive lanes enter as the identity (R173). -/
def scanLeaves (t op : Nat) (mask : BitVec 128) (a : List Nat) : List Elem :=
  ((activeElems (Ty.width t) mask).zip a).map fun (act, x) => if act then scanLeaf t x else (scanIdentity t op, 0)

/-- The prefix P(j) from the levels, highest first (R173); `pos` counts the elements taken. -/
def prefixFrom (t op : Nat) (m : Mode) (j : Nat) : List (Nat × List Elem) → Nat → Option Elem → Option Elem
  | [], _, acc => acc
  | (l, nodes) :: rest, pos, acc =>
    if (j + 1) / 2 ^ l % 2 = 1 then
      let n := nodes.getD (pos / 2 ^ l) (0, 0)
      let acc := match acc with
        | none => n
        | some a => scanNode t op m a n
      prefixFrom t op m j rest (pos + 2 ^ l) (some acc)
    else prefixFrom t op m j rest pos acc

/-- The elements of `vred` or `vscan` (R173). -/
def reduceOrScan (t op : Nat) (m : Mode) (scan : Bool) (mask : BitVec 128) (a : List Nat) : List Elem :=
  let depth := Nat.log2 (Ty.count t)
  let levels := treeLevels t op m depth (scanLeaves t op mask a)
  if scan then
    let numbered := ((List.range (depth + 1)).zip levels).reverse
    (List.range a.length).map fun j => (prefixFrom t op m j numbered 0 none).getD (0, 0)
  else
    let root := (levels.getD depth []).getD 0 (0, 0)
    List.replicate a.length root

/-! ## The quantiser on registers (R174, R175) -/

/-- Blocks of source values worked by one op: 4 of `f32`, 8 of `bf16`. -/
def quantBlocks (t : Nat) : Nat := if t = Ty.f32 then 4 else 8

/-- `vq4x`: the writes of codes, of side lanes, the damage totals (sat, zero, sac) and the flags. -/
def quantise (t part : Nat) (tail : Bool) (e : Int) (lanes : List Word) :
    List LaneWrite × List LaneWrite × (Nat × Nat × Nat) × FpFlags :=
  let p := quantBlocks t
  let xs := (unpackElems (Ty.width t) lanes).map (decodeFloat t)
  let bs := (groups 32 p xs).map fun x => q4Quantise x e tail
  let numbered := (List.range p).zip bs
  let codes := numbered.flatMap fun (k, b) =>
    let words := packElems 4 4 b.codes
    ((List.range 4).zip words).map fun (i, x) => (4 * (p * part + k) + i, (0xFFFFFFFF : Word), x)
  let sides := numbered.map fun (k, b) => (p * part + k, (0xFFFFFFFF : Word), BitVec.ofNat 32 b.side)
  let total := fun (f : QBlock → Nat) => bs.foldl (fun n b => n + f b) 0
  (codes, sides, (total (·.sat), total (·.zero), total (·.sac)), orFlags (bs.map (·.flags)))

/-- DELTA of a side lane (Table 5.9). -/
def sideDelta (x : Word) : Nat := (x.extractLsb' 16 4).toNat

/-- `vdq4x`: the elements decoded from P blocks of codes (R175). -/
def dequantise (t part : Nat) (m : Mode) (e : Int) (codes sides : List Word) : List Elem :=
  let p := quantBlocks t
  let nib := unpackElems 4 codes
  (List.range p).flatMap fun k =>
    let b := p * part + k
    let c := (nib.drop (32 * b)).take 32
    let d := sideDelta (sides.getD b 0)
    (List.range 32).map fun i =>
      let (x, malformed) := q4Decode c i (e - d)
      let (v, f) := deliver t m x
      (v, f ||| flagIf malformed Fp.malf)

/-! ## Log parsing (R176, R177) -/

/-- One bit of a CRC-32C update (R176). -/
def crcBit (c : Word) : Word := (c >>> 1) ^^^ (if c.getLsbD 0 then 0x82F63B78 else 0)

/-- One byte of a CRC-32C update (R176). -/
def crcByte (c : Word) (x : Byte) : Word := (List.range 8).foldl (fun c _ => crcBit c) (c ^^^ x.zeroExtend 32)

/-- `n` bytes of a lane, lowest first (R176). -/
def crcLane (n : Nat) (c a : Word) : Word := (bytesLE n a).foldl crcByte c

/-- Does a byte hit the needle (R177)? -/
def needleHit (range : Bool) (count : Nat) (nb : List Byte) (x : Byte) : Bool :=
  let at' := fun i => (nb.getD i 0).toNat
  if range then (at' 0 ≤ x.toNat && x.toNat ≤ at' 1) || (count = 4 && at' 2 ≤ x.toNat && x.toNat ≤ at' 3)
  else (nb.take count).contains x

end Sys2Proof.Machine
end

