-- ==== Sys2Proof/Config.lean ====
section
/-!
DEFINITION. What the manual leaves to the implementation or leaves open: free values. Each is an opaque constant
without a body, so nothing can be proved of its value; each is named in an entry of the assumption log.
-/
namespace Sys2Proof.Config
open Sys2Proof

/-- A fresh unspecified bit pattern for the n-th open choice of a run: the State counter `free` is the argument
(R379 bytes past a payload, R412 overlaps, undefined read data). (DESIGN CHOICE: log 6) -/
opaque freeValue : Nat → Dword

/-- The home slice of a physical line address: "a fixed hash of its physical address that programs cannot name or
change" (R242). Used modulo 64. (DESIGN CHOICE: log 37) -/
opaque homeSlice : Nat → Nat

/-- The set, modulo 4,096, of a line in its L2 slice, which the manual leaves open (R208). (DESIGN CHOICE: log 107) -/
opaque homeSet : Nat → Nat

/-- The RRPV of the n-th line that a retained access inserts, which the manual does not state (R208).
(DESIGN CHOICE: log 107) -/
opaque keptRrpv : Nat → BitVec 2

/-- The micro-words of the read-only store, whose contents the manual does not give (R331, R363). (DESIGN CHOICE: log 125) -/
opaque baseWord : Nat → BitVec 256

/-- The n-th 256-bit key drawn from the device's random source (R359, R443). (DESIGN CHOICE: log 58) -/
opaque randomKey : Nat → BitVec 256

/-- The device's identity key, and the nonce of a signature of a hash (R480, R482). (DESIGN CHOICE: log 156) -/
opaque identityKey : BitVec 384
opaque signatureNonce : List Byte → BitVec 384

/-- The certificate chain of the identity key, as GET_CERTIFICATE returns it (R480). -/
opaque certificateChain : List Byte

/-- The 32-bit direction identifier of an outgoing link, by 14 × FABXY + port, which the manual does not give (R394).
(DESIGN CHOICE: log 132) -/
opaque linkDirection : Nat → BitVec 32

/-- Has the coordinator at another device freed its record of an EID, so that the next message under it belongs to a new
envelope? Nothing that reaches this device says so (R404, R417, R426). (DESIGN CHOICE: log 133) -/
opaque eidAnew : Nat → Nat → Bool

/-- The n-th ephemeral secret of a link key agreement, drawn from the random source, and the salt and info of its HKDF, which
the manual does not give (R482). (DESIGN CHOICE: log 156) -/
opaque linkScalar : Nat → BitVec 384
opaque linkSalt : List Byte
opaque linkInfo : List Byte

/-- The region records of an `.ember` section: their byte layout is not given (Table 17.3). Each result is
(base, size, evaluator set, EMBLIMIT). (DESIGN CHOICE: log 91) -/
opaque emberRecords : List Byte → List (Nat × Nat × Nat × Nat)

/-- The ring records of a `.ring` section: their byte layout is not given (Table 17.3). Each result is
(index, base, units, policy, notify context + 1 or 0, notify semaphore). -/
opaque ringRecords : List Byte → List (Nat × Nat × Nat × Nat × Nat × Nat)

/-- Is an entry of a `.tensor` section VALID? Where the VALID byte of each of the 64 images stands is not given (Table 17.3).
(DESIGN CHOICE: log 91) -/
opaque tensorValid : List Byte → Nat → Bool

/-- The native code that `darot-x` makes of a Darot input (R474): a tool outside the device. -/
opaque darotCode : List Byte → Nat → List Byte

/-- The capability flags of the SPDM responder (R480), which the manual does not give. (PRESUMED: log 102) -/
opaque capabilities : List Byte

/-- The images the management core boots (R478, R479): ROM, firmware, port firmware, with the signatures of the verified ones
and the Broval public key fused into the ROM. (DESIGN CHOICE: log 104) -/
opaque bootImage : Nat → List Byte
opaque bootSignature : Nat → List Byte
opaque brovalKey : List Byte

end Sys2Proof.Config
end

