-- ==== Sys2Proof/Machine/Store.lean ====
section
/-!
DEFINITION. The operations of the two keyed containers (memories, register files, tables): a sparse store, in which a
key that is not listed reads as a default and no pair holds that default, and a table of records.
-/
namespace Sys2Proof.Machine
open Sys2Proof

/-- The pairs of other keys. -/
def dropKey (k : Nat) (l : List (Nat × α)) : List (Nat × α) := l.filter fun p => p.1 != k

/-- A pair put before the first greater key. -/
def putPair (k : Nat) (v : α) : List (Nat × α) → List (Nat × α)
  | [] => [(k, v)]
  | (j, w) :: t => if k < j then (k, v) :: (j, w) :: t else (j, w) :: putPair k v t

/-- The record of a key. -/
def lookup? (k : Nat) : List (Nat × α) → Option α
  | [] => none
  | (j, w) :: t => if j = k then some w else lookup? k t

/-- The value of a key; `d` where none is listed. -/
def lookupD (d : α) (k : Nat) (l : List (Nat × α)) : α := (lookup? k l).getD d

/-- A record stored under a key. -/
def assocSet (k : Nat) (v : α) (l : List (Nat × α)) : List (Nat × α) := putPair k v (dropKey k l)

/-- A value stored in a sparse store whose unlisted keys read as `d`: storing `d` unlists the key. -/
def sparseSet [DecidableEq α] (d : α) (k : Nat) (v : α) (l : List (Nat × α)) : List (Nat × α) :=
  if v = d then dropKey k l else putPair k v (dropKey k l)

/-- Values stored under consecutive keys from `k` on. -/
def sparseSetList [DecidableEq α] (d : α) (k : Nat) : List α → List (Nat × α) → List (Nat × α)
  | [], l => l
  | v :: vs, l => sparseSetList d (k + 1) vs (sparseSet d k v l)

/-- The values of `n` consecutive keys from `k` on. -/
def lookupList (d : α) (k n : Nat) (l : List (Nat × α)) : List α := (List.range n).map fun i => lookupD d (k + i) l

/-- An element put after every element of no greater key. -/
def insertKey (key : α → Nat) (x : α) : List α → List α
  | [] => [x]
  | y :: t => if key x < key y then x :: y :: t else y :: insertKey key x t

/-- A list sorted by key; elements of one key keep their order. -/
def sortKey (key : α → Nat) (l : List α) : List α := l.foldl (fun acc x => insertKey key x acc) []

/-- Keys strictly rising. -/
def keysRising : List (Nat × α) → Bool
  | [] => true
  | [_] => true
  | (a, _) :: (b, y) :: t => a < b && keysRising ((b, y) :: t)

/-- The canonical form of a sparse store: keys strictly rising, no pair that holds the default. -/
def sparseWf [DecidableEq α] (d : α) (l : List (Nat × α)) : Bool := keysRising l && l.all fun p => decide (p.2 ≠ d)

/-- Memory: bytes by address, in canonical form; a byte that nothing has written reads as zero (R478: memory is
scrubbed before the device is READY). -/
abbrev Memory := Sparse Byte

/-- Is a memory in canonical form? -/
abbrev Memory.wf (m : Memory) : Prop := sparseWf (0 : Byte) m = true

end Sys2Proof.Machine
end

