-- ==== Sys2Proof/Machine/State.lean ====
section
/-!
DEFINITION. The state of one YB8 device as plain data: everything the manual gives the machine, and the few fields of
the model's own (the agenda, the issue rotation, the free-value counter and the bundle being issued), each marked so.
-/
namespace Sys2Proof.Machine
open Sys2Proof

/-! ## Faults and refusals -/

/-- Why the machine stops. -/
inductive Fault where
  /-- Raised by `step` when the agenda names an op as an event of its own: an op issues only within a bundle (R77), so
  no such move exists. Safe: no run of the hardware contains it. -/
  | opOutsideBundle
  deriving DecidableEq, Repr

/-- Why an instruction is refused. -/
inductive Refusal where
  /-- Raised by `exec` for an instruction without a meaning. Safe: nothing can be concluded from a refusal. -/
  | notModelled (mnemonic : String)
  deriving DecidableEq, Repr

/-- Trap causes (Table 15.1). -/
inductive Cause where
  | illop | unbound | nested | stepover | refused | misalign | illaddr | perm | semrange | accmode | accwin | tileshape
  | tdinvalid | backdraught | embfault | embstore | chaindepth | redfault | remote | indoubt | brcoll | swtrap | break_
  | ecc | savetag | codegone
  deriving DecidableEq, Repr

/-- A trap cause with its TRAPINFO. -/
structure Trapped where
  cause : Cause
  info  : Dword
  deriving DecidableEq, Repr

/-! ## Contexts -/

/-- States of a context slot (Table 1.2). -/
inductive SlotState where
  | free | idle | ready | stalled | saved | frozen | draining
  deriving DecidableEq, Repr

/-- What a STALLED context waits on (Table 1.3). -/
inductive Wait where
  | none
  /-- An unmet wait field (R28). -/
  | semaphore
  /-- A late landing (R32), or the landings that `eret` waits for (R138). -/
  | landing
  /-- A busy tile or accumulator, or a register that an interlocked op is still to write (R34, R108). -/
  | busy
  /-- A range-scoreboard hit (R193). -/
  | scoreboard
  /-- A set barrier (R257). -/
  | barrier
  /-- A control-store page, or the bindings of R38. -/
  | courier
  /-- A bound routine in progress (R344). -/
  | routine
  /-- A parked page fault: of a landing op at its due bundle, or of a fetch (R457, R458). -/
  | pageFault
  /-- A `wta` whose line has not been written (R253). -/
  | wta
  /-- A KINDLED ember cell (R312). -/
  | ember
  deriving DecidableEq, Repr

/-- Classes of contexts (R103, R95). -/
inductive CtxKind where
  | ord | data | eval
  deriving DecidableEq, Repr

/-- One level of the loop unit (R123). -/
structure LoopLevel where
  lc     : Dword := 0
  start  : Dword := 0
  stop   : Dword := 0
  active : Bool := false
  deriving DecidableEq, Repr

/-- A tensor descriptor (Table 4.10). -/
structure Desc where
  base    : Dword
  scale   : Dword
  ctrl    : Dword
  counts  : List Word
  strides : List Dword
  deriving DecidableEq, Repr

/-- What a timed result does at its due bundle (R32, R48, Table 15.5). -/
inductive Effect where
  /-- A scalar write, with the sticky bits of CTXST that its op sets. -/
  | scalar (n : Nat) (v : Dword) (fl : BitVec 5)
  /-- One half of a scalar register, which a step with the other lane inactive writes (R343). -/
  | half (n : Nat) (high : Bool) (v : Word)
  | pred (n : Nat) (b : Bool)
  /-- Lane-predicate bits where the mask is set. -/
  | lanePred (n : Nat) (mask val : BitVec 128) (fl : BitVec 7)
  | vector (n : Nat) (ws : List (Nat × Word × Word)) (fl : BitVec 7)
  /-- Damage totals of `vq4x`: sat, zero, sac (R174). -/
  | damage (sat zero sac : Nat)
  /-- An edge latch: which, and its bytes (R299). -/
  | latch (edgeB : Bool) (bytes : List Byte)
  /-- A control register (R113). -/
  | control (num : Nat) (v : Dword)
  | tctl (t : Nat) (v : BitVec 27)
  | descriptor (n : Nat) (d : Desc)
  /-- Tile bytes of a `vtwr` (R180). -/
  | tileBytes (t : Nat) (ws : List (Nat × Byte))
  /-- Scratchpad bytes, by window-relative address (R190), for a store of `size` bytes a lane: lane, address and value. The
  landing entries it holds (R437): none for `sts`, 8 for `vsts`, 16 for `vsca`; `ea` is the address of a `vsts`. -/
  | store (ents size ea : Nat) (ws : List (Nat × Nat × Nat))
  /-- A scratchpad load into a scalar register: type, address (R190). -/
  | loadScalar (n ty addr : Nat)
  /-- A scratchpad load into lanes: landing entries held (8 for `vgat`), address of a `vlds`, register, type, then lane and
  address pairs (R190). -/
  | loadLanes (ents ea n ty : Nat) (addrs : List (Nat × Nat))
  /-- A tile filled from the scratchpad by `tlds`, or a scratchpad store by `tsts`, is an array op and stands there. -/
  | landing (id : Nat)
  deriving DecidableEq, Repr

/-- An entry of a deferred-write list (R33, Table 15.5). -/
structure Deferred where
  /-- The count of its level at which it is due. -/
  due  : Nat
  /-- The context's running number of the bundle that issued it, and its place among the slots S, V0, V1, M, X, C0, C1. -/
  seq  : Nat
  slot : Nat
  eff  : Effect
  /-- The signal that completes with it (Table 1.5), as the number of its port entry. -/
  sig  : Option Nat
  deriving DecidableEq, Repr

/-- What belongs to one trap level (R31, R33, R433). -/
structure Level where
  /-- The issue count (R31). -/
  count    : Nat := 0
  deferred : List Deferred := []
  loops    : List LoopLevel := List.replicate 6 {}
  /-- Window bytes as they stood before the stores due at the count: what a card read at the count sees (R235). -/
  under    : List (Nat × Byte) := []
  deriving DecidableEq, Repr

/-- The register files of a context (R110, R143, R144); unlisted registers read zero. -/
structure Regs where
  s  : Sparse Dword := []
  /-- Bit n is p(n). -/
  p  : BitVec 32 := 0
  q  : Sparse (BitVec 128) := []
  /-- Lane i of v(n) under key 128 n + i. -/
  v  : Sparse Word := []
  /-- Lane i of mt(n) under key 128 n + i (R337). -/
  mt : Sparse Word := []
  deriving DecidableEq, Repr

/-- An entry of REDLOG (R251): address, op word, operand. -/
structure RedEntry where
  addr    : Dword
  opWord  : Dword
  operand : Dword
  deriving DecidableEq, Repr

/-- Control registers and small tables of a context (Table 4.2). -/
structure Ctl where
  /-- The sticky bits of CTXST (Table 4.3). -/
  ctxst    : BitVec 5 := 0
  ctxctl   : BitVec 2 := 0
  fpstat   : BitVec 7 := 0
  dmgSat   : Dword := 0
  dmgZero  : Dword := 0
  dmgSac   : Dword := 0
  landLate : Dword := 0
  /-- REDLOG entries, oldest first, and OVERRUN. -/
  redlog   : List RedEntry := []
  overrun  : Bool := false
  /-- CHAIN: cell addresses, entry 0 first (R316). -/
  chain    : List Dword := []
  tctl     : Sparse (BitVec 27) := []
  /-- The return stack, top first (R121). -/
  ret      : List Dword := []
  desc     : Assoc Desc := []
  /-- Bundles issued since the last TestStop (R127). -/
  sinceTest : Nat := 0
  deriving DecidableEq, Repr

/-- Which part of the port's work an entry is. -/
inductive PortWork where
  /-- An access, fence or other port op, as issued. -/
  | op (i : Instr)
  /-- A signal or `hsig` addition: semaphore of the window, amount (R30, R132). -/
  | signal (sem amount : Nat)
  deriving DecidableEq, Repr

/-- How far a port entry has come. -/
inductive PortStage where
  /-- A signal whose op has not completed (R30). -/
  | incomplete
  /-- To be sent or performed. -/
  | pending
  /-- A load queued on a KINDLED cell (R311). -/
  | emberWait
  /-- A load refused by a full ember table, to be sent again (R308). -/
  | refused
  /-- Registered at the home agent: a `wta` (R253), or a `bbw` or `swait` whose condition is open (R238, R415). -/
  | waiting
  /-- An arrived barrier wait, not yet released (R257). -/
  | arrived
  /-- Performed; the acknowledgement is on its way back. -/
  | performed
  /-- Refused by translation, permission or the home agent; the fault is on its way back (R202). -/
  | faulted
  deriving DecidableEq, Repr

/-- An entry of a context's port, in program order (R44, R200, Table 15.6). -/
structure PortReq where
  id    : Nat
  /-- The running number of the issuing bundle and the slot: the place in program order (R43). -/
  seq   : Nat
  slot  : Nat
  level : Bool
  work  : PortWork
  /-- W0: the effective address; for TRI and JOB ops s(A). -/
  addr  : Dword := 0
  /-- W1 and W2: the captured data words. -/
  w1    : Dword := 0
  w2    : Dword := 0
  /-- A captured vector operand, and captured lane addresses. -/
  vec   : List Byte := []
  lanes : List (Nat × Nat) := []
  /-- The count at which a result is due. -/
  due   : Nat := 0
  stage : PortStage := .pending
  /-- Bytes performed so far of a vector access: the 64-byte lines done, and the data of a load by line. -/
  done  : List (Nat × List Byte) := []
  /-- Cells of a load on an EMB page that have failed: offset of the cell, fault (R312). -/
  fails : List (Nat × Trapped) := []
  /-- A registered `wta`: the physical address, and the cycle at which the core cancels it (R253, R255). -/
  pa       : Nat := 0
  deadline : Nat := 0
  /-- A sealed store: its EID and its envelope order number (R404, R412). -/
  eid   : Nat := 0
  order : Nat := 0
  /-- Its request is sent: a landing op holds its entries of the landing buffer (R200). -/
  landing : Bool := false
  /-- The port entry of the signal that completes with it. -/
  sig   : Option Nat := none
  /-- In the replay list: the op passed the checks of issue, so its pending result and its signal stand (R202). -/
  known : Bool := false
  /-- In the replay list: to be sent again before the next bundle, the mark IMMED (R436, Table 15.6). -/
  immed : Bool := false
  /-- The stream number of a seal request, and the fabric port that it left by (R398, R399). -/
  number : Nat := 0
  link  : Option Nat := none
  deriving DecidableEq, Repr

/-- Data on their way to, or held in, the landing buffer (R201): the value, or up to 512 bytes, by entry number. -/
structure Landing where
  id    : Nat
  /-- Scalar results: register number and value. -/
  words : List (Nat × Dword) := []
  /-- A vector result: register number and bytes. -/
  vector : Option (Nat × List Byte) := none
  /-- Arrived in the landing buffer. -/
  arrived : Bool := false
  /-- It has no landing entry yet: its request is sent once one is free (R200). -/
  queued  : Bool := false
  /-- The answer of a `wta`, for which the stall is no late landing (R253). -/
  wta     : Bool := false
  deriving DecidableEq, Repr

/-- A far fault on its way to the port (R202). -/
structure PortFault where
  id   : Nat
  trap : Trapped
  deriving DecidableEq, Repr

/-- A barrier departure that a context waits for: the set, and the signal that completes with it (R257). -/
structure Depart where
  set : Nat
  sig : Option Nat
  deriving DecidableEq, Repr

/-- The far port of a context. -/
structure Port where
  queue    : List PortReq := []
  /-- Departures of `bar` and `barw` before the next bundle. -/
  departs  : List Depart := []
  /-- An acquire at device scope or wider has been made, and no later access has been performed since (R197). -/
  acquired : Bool := false
  landings : List Landing := []
  faults   : List PortFault := []
  nextId   : Nat := 0
  deriving DecidableEq, Repr

/-- The trap state (R429 to R436). -/
structure Trap where
  /-- CTXST.TL. -/
  tl      : Bool := false
  cause   : BitVec 8 := 0
  replay  : Bool := false
  /-- Causes held for delivery, oldest first (R435). -/
  held    : List Trapped := []
  pc      : Dword := 0
  info    : Dword := 0
  handler : Dword := 0
  /-- The replay list (R432). -/
  list    : List PortReq := []
  deriving DecidableEq, Repr

/-- Who a context is and where it stands (R13, R25, R37). -/
structure Ident where
  vf       : Nat := 0
  kind     : CtxKind := .ord
  semBase  : Nat := 0
  semCount : Nat := 0
  spBase   : Nat := 0
  spSize   : Nat := 0
  /-- The sets that the launch gave the slot, which an evaluator slot keeps (R16). -/
  sets     : List Nat := []
  deriving DecidableEq, Repr

/-- The life of the slot (Table 1.2). -/
structure Life where
  state : SlotState := .free
  wait  : Wait := .none
  lost  : Bool := false
  /-- Retired by a function-level reset: an evaluator slot goes to FREE (Table 1.2). -/
  reset : Bool := false
  /-- The stop flag and the save area named with it (R439). -/
  stop  : Option Dword := none
  /-- Stopped for pre-emption, waiting for its save (R439, step 5). -/
  stopping : Bool := false
  /-- The running number of the next bundle: program order across trap levels. -/
  seq   : Nat := 0
  /-- Ended by a fatal fault or a reset: signals and results owed to it are discarded (Table 1.4). -/
  mute  : Bool := false
  /-- A violation of the fetch, raised when the bundle is next to issue (R461). -/
  fetchFault : Option Trapped := none
  /-- `eret` has issued and waits for results of level 1 that its own bundle is owed (R138). -/
  returning : Bool := false
  /-- Its last bundle held `halt` beside bound ops, whose routines still run (R140). -/
  halting : Bool := false
  deriving DecidableEq, Repr

/-! ## The matrix array of a context -/

/-- The status of an accumulator (Table 9.2). -/
structure AccStatus where
  /-- TAG: 0 NONE, 1 EXACT, 2 FLOAT. -/
  tag   : Nat := 0
  /-- WIN, meaningful when TAG is EXACT and zero otherwise. -/
  win   : Int := 0
  nanin : Bool := false
  malf  : Bool := false
  ovf   : Bool := false
  deriving DecidableEq, Repr

/-- An operation in the array queue with what it captured at issue (R277). -/
structure ArrayOp where
  id    : Nat
  seq   : Nat
  level : Bool
  op    : Instr
  sig   : Option Nat
  /-- Base exponents, or the scalar operand of `tfill`. -/
  eA    : Int := 0
  eB    : Int := 0
  fill  : Nat := 0
  /-- TAG and WIN of the accumulators named by D and A, as they stand after this op's own issue and before it. -/
  statD : AccStatus := {}
  statA : AccStatus := {}
  tctlD : BitVec 27 := 0
  tctlA : BitVec 27 := 0
  tctlB : BitVec 27 := 0
  latA  : Sparse Word := []
  latB  : Sparse Word := []
  vec   : List Word := []
  /-- `tlds`: the bytes read; `tsts`: the window address of each byte of the shape, its due count, and the addresses
  that stores of later order have since written, each with the count at which it was (R294). -/
  bytes  : List Byte := []
  addrs  : List Nat := []
  /-- The window addresses that a `tlds` reads (R294). -/
  reads  : List Nat := []
  due    : Nat := 0
  shadow : List (Nat × Nat) := []
  /-- Its place in the order of issue across the core (R277). -/
  order : Nat := 0
  /-- The bytes that a `tlds` read hold an uncorrectable error (R191). -/
  bad    : Bool := false
  deriving DecidableEq, Repr

/-- The array state of a context (R265 to R269, R277); unlisted bytes, cells and deltas read zero. -/
structure MatSt where
  /-- Byte o of tile t under key 8192 t + o. -/
  tiles  : Sparse Byte := []
  /-- Cell (r, c) of accumulator a under key 4096 a + 64 r + c. -/
  acc    : Sparse (BitVec 96) := []
  stat0  : AccStatus := {}
  stat1  : AccStatus := {}
  /-- Lane n of the latch image (Table 9.3) under key n. -/
  latchA : Sparse Word := []
  latchB : Sparse Word := []
  queue  : List ArrayOp := []
  nextId : Nat := 0
  /-- Storage whose data hold an uncorrectable error (R281): tile bytes under the keys of `tiles`, cells under 98304 and the
  keys of `acc`. -/
  bad    : List Nat := []
  deriving DecidableEq, Repr

/-! ## Bindings of the bound quarter -/

/-- A binding of an opcode 0xC0–0xFF (Table 4.11, R333). -/
structure Binding where
  image    : Dword
  words    : Nat
  entry    : Nat
  steps    : Nat
  /-- CLASS: M when set, V otherwise. -/
  isM      : Bool
  vmask    : BitVec 64
  tmask    : BitVec 12
  banks    : BitVec 16
  spBase   : Nat
  spSize   : Nat
  /-- RESIDENT: every page has been fetched, checked and hashed once since the binding was made (R333). -/
  resident : Bool := false
  /-- A fetch for its hash failed (R361). -/
  failed   : Bool := false
  /-- The SHA-384 hash of the image, once resident (R135), and before that the pages fetched so far (R359). -/
  hash     : List Byte := []
  fed      : Assoc (List Byte) := []
  /-- Made by a `.bind` of the launch (R38). -/
  launch   : Bool := false
  /-- What tells this binding from every other one (the model's own). -/
  key      : Nat := 0
  /-- Page tags by page index (R359). -/
  tags     : Assoc (BitVec 128) := []
  deriving DecidableEq, Repr

/-! ## Contexts -/

/-! ## Bound routines (R337, R340, R345, R355) -/

/-- An address generator (R340). -/
structure AddrGen where
  addr   : Nat := 0
  base   : Nat := 0
  stride : Int := 0
  count  : Nat := 0
  reload : Nat := 0
  deriving DecidableEq, Repr

/-- The sequencing state of a routine (R337). -/
structure Micro where
  mpc   : Nat := 0
  ml0   : Nat := 0
  ml1   : Nat := 0
  fany  : Bool := false
  fall  : Bool := false
  ag0   : AddrGen := {}
  ag1   : AddrGen := {}
  /-- Steps used. -/
  steps : Nat := 0
  deriving DecidableEq, Repr

/-- A bound op whose routine has not exited, with the binding that stood at issue (R344). -/
structure Routine where
  opc     : Nat
  h       : Hdr
  f       : Tri
  bind    : Binding
  seq     : Nat
  slot    : Nat
  /-- Its place in its bundle (Table 12.6). -/
  pos     : Nat
  sig     : Option Nat
  /-- Its first step may run: the waits of R344 are over. -/
  started : Bool := false
  /-- The registers as they stood at the bundle's start, with the routine's own writes (R345). -/
  regs    : Regs := {}
  /-- The registers that the bundle's other ops write (R107). -/
  others  : List (Nat × Nat) := []
  /-- The reason of a page that failed while the routine needed it (R359, R361). -/
  refuse  : Option Nat := none
  micro   : Micro := {}
  /-- Held vector and scalar writes in step order, and held flags (R345). -/
  held    : List Effect := []
  flags   : BitVec 7 := 0
  /-- A mt register, a tile, the scratchpad was written (Table 12.6). -/
  partMt  : Bool := false
  partT   : Bool := false
  partSp  : Bool := false
  deriving DecidableEq, Repr

/-! ## Envelope slots -/

/-- An envelope slot (Table 14.1, R403, R411); `state` and `cause` are the codes of Tables 14.1 and 14.3. -/
structure EnvSlot where
  state : Nat := 0
  cause : Nat := 0
  gen   : Nat := 0
  eid   : Nat := 0
  mask  : BitVec 64 := 0
  /-- SENT by destination. -/
  sent  : Assoc Nat := []
  deriving DecidableEq, Repr

/-- A beat that landed in the quarantine buffer (R231): its job and number, the tile if its destination is one, the bytes
written with their masks, and the bytes to subtract when it is drained. -/
structure Quarantined where
  job    : Nat
  beat   : Nat
  tile   : Option Nat
  writes : List (Nat × Byte × Byte)
  owed   : Nat
  deriving DecidableEq, Repr

/-- One context slot with everything the context that occupies it owns. -/
structure Ctx where
  life : Life := {}
  id   : Ident := {}
  /-- Address of the next op to issue. -/
  pc   : Dword := 0
  regs : Regs := {}
  ctl  : Ctl := {}
  trap : Trap := {}
  lv0  : Level := {}
  lv1  : Level := {}
  port : Port := {}
  mat  : MatSt := {}
  /-- Bindings by opcode (R333). -/
  binds : Assoc Binding := []
  /-- Bound ops of the last bundle whose routines have not exited, in slot order (R348). -/
  routines : List Routine := []
  /-- Causes of that bundle that strike at its boundary, after the routines: those of C-slot ops, and those of the
  third kind of R435. -/
  after     : List Trapped := []
  afterPost : List Trapped := []
  /-- The counters `bb0`–`bb15` (R223). -/
  bb : Sparse (BitVec 48) := []
  /-- Quarantined beats of a context being saved (R231). -/
  quar : List Quarantined := []
  /-- Envelope slots, and the next envelope order number (R403, R412). -/
  env      : Assoc EnvSlot := []
  envOrder : Nat := 0
  deriving DecidableEq, Repr

/-! ## Cores -/

/-- A line of a core's L1 (R196): tagged with VF and physical line number. -/
structure L1Line where
  vf     : Nat
  line   : Nat
  bytes  : List Byte
  /-- Bytes written and not yet written back. -/
  dirty  : List Nat
  /-- The contexts that made it dirty, each with the ordering class of its store (R197). -/
  owners : List (Nat × Nat)
  stale  : Bool
  /-- Bytes whose data hold an uncorrectable error (R202). -/
  bad    : List Nat := []
  deriving DecidableEq, Repr

/-- An entry of the range scoreboard (R192): window-relative range, FILL or DRAIN, and the job that holds it. -/
structure BoardEntry where
  ctx   : Nat
  start : Nat
  stop  : Nat
  fill  : Bool
  job   : Nat
  deriving DecidableEq, Repr

/-- What the selector keeps for one VF on a core (R96 to R98). -/
structure VfShare where
  weight     : Nat := 8
  /-- The quantum in use, which a changed weight replaces at the next round start. -/
  quantum    : Nat := 256
  deficit    : Nat := 0
  /-- The slot that issued last, and the slots that issued since the last round start. -/
  lastSlot   : Option Nat := none
  issuedNow  : List Nat := []
  /-- The slot taken last as a secondary stream (R103). (DESIGN CHOICE: log 112) -/
  lastMerged : Option Nat := none
  deriving DecidableEq, Repr

/-- The selector of a core (R96 to R104). -/
structure Selector where
  shares   : Assoc VfShare := []
  /-- The entries of the turn list whose turns are to come, and each VF's number of contexts in the list. -/
  turns    : List Nat := []
  counts   : Assoc Nat := []
  /-- The context in its turn, the issue slots charged in that turn, and those it may still be charged before its VF's D
  has run out. -/
  holder   : Option Nat := none
  charged  : Nat := 0
  left     : Nat := 0
  /-- The VF that began the previous round. -/
  lastVf   : Option Nat := none
  /-- The context that issued last, for the switch cycle of R101. -/
  lastCtx  : Option Nat := none
  deriving DecidableEq, Repr

/-- A translation held in a TLB (R453). -/
structure TlbEntry where
  vf   : Nat
  va   : Nat
  size : Nat
  pa   : Nat
  /-- Bits [5:0] of the leaf: EMB, X, W, R, LEAF, V. -/
  bits : BitVec 6
  deriving DecidableEq, Repr

/-- A frame of the control store (R331): the page of a binding, held for a need that is not yet met, and, fetched for the hash
of a binding of the launch, for the first bundle of its context (R360, Table 12.12). -/
structure Frame where
  vf    : Nat
  key   : Nat
  page  : Nat
  bytes : List Byte
  needed : Bool
  first : Option Nat := none
  deriving DecidableEq, Repr

/-- A page that the Courier is to fetch (R358): for the hash, or for a routine. -/
structure Fetch where
  vf      : Nat
  ctx     : Nat
  opc     : Nat
  key     : Nat
  page    : Nat
  forHash : Bool
  started : Bool := false
  deriving DecidableEq, Repr

/-- One core (Table 1.1). -/
structure Core where
  /-- Frames of the writable control store, most recently used first (R331, R360). -/
  frames  : List Frame := []
  /-- Frame quotas that the supervisor set, by VF (R332). -/
  quotas  : Assoc Nat := []
  /-- The Courier's fetches in the order their needs arose, and the VFs it is frozen for (R358, R462). -/
  fetches : List Fetch := []
  frozen  : List Nat := []
  /-- CYCLE, which runs from 0 (Table 4.2). (DESIGN CHOICE: log 145) -/
  cycle   : Dword := 0
  sems    : Sparse Half := []
  scratch : Sparse Byte := []
  /-- Scratchpad bytes whose data hold an uncorrectable error (R191). -/
  bad     : List Nat := []
  /-- The split: blocks of 256 KiB given to the scratchpad (R183). -/
  blocks  : Nat := 0
  l1      : List L1Line := []
  sel     : Selector := {}
  board   : List BoardEntry := []
  tlb     : List TlbEntry := []
  deriving DecidableEq, Repr

/-! ## Translation -/

/-- The bits an access needs (Table 16.3). -/
inductive Need where
  | read | write | both | exec
  deriving DecidableEq, Repr

/-- Kinds of masters (R454, R457, Table 16.8). -/
inductive MasterKind where
  | context | copyJob | courier | ringWriter | fabric | host | envelope | launch
  deriving DecidableEq, Repr

/-- How far a walk has come. -/
inductive WalkStage where
  /-- Reading entries. -/
  | walking
  /-- Ended in a page fault; the record is not yet posted. -/
  | faulted
  /-- The record waits for the pager's answer, under the number of the walk. -/
  | posted
  deriving DecidableEq, Repr

/-- A page walk in flight (R455). -/
structure Walk where
  id      : Nat
  /-- The part of the shared TLBs it fills: a key of `tlbs`. -/
  pool    : Nat
  vf      : Nat
  /-- The 64 KiB page number. -/
  page    : Nat
  /-- The requests joined to it. -/
  waiters : List Master
  stage   : WalkStage
  deriving DecidableEq, Repr

/-! ## Partitions and VFs -/

/-- States of a VF (R460). -/
inductive VfState where
  | free | active | resetting
  deriving DecidableEq, Repr

/-- An ember region register (R304); EMBLIMIT in microseconds. -/
structure Region where
  base  : Nat
  size  : Nat
  set   : Nat
  limit : Nat
  deriving DecidableEq, Repr

/-- A residency range register (R207). -/
structure RangeReg where
  base    : Nat
  len     : Nat
  ratio   : Nat
  ways    : Nat
  granted : Nat
  deriving DecidableEq, Repr

/-- A line in a way of a set of an L2 slice (R208, R209). -/
structure L2Line where
  slice : Nat
  set   : Nat
  way   : Nat
  /-- Physical address / 64. -/
  line  : Nat
  /-- Re-reference prediction value. -/
  rrpv  : BitVec 2
  /-- The range register that it is retained for: 8 × VF + index. -/
  kept  : Option Nat
  deriving DecidableEq, Repr

/-- What the L2 slices hold of residency (R207 to R209); the bytes of device memory are `State.mem`'s. -/
structure L2 where
  lines  : List L2Line := []
  /-- The counter of a range register in a slice (R208), by 64 × register + slice. -/
  counts : Assoc (BitVec 8) := []
  /-- The ways of every set reserved for a range register, by 8 × VF + index. -/
  ways   : Assoc (List Nat) := []
  /-- Lines inserted by retained accesses so far. -/
  drawn  : Nat := 0
  deriving DecidableEq, Repr

/-- A queue pair of a VF (Table 13.2): its path MTU, and whether it obeys a congestion notification. No rule gives the MTU before
the supervisor sets it. (DESIGN CHOICE: log 143) -/
structure QueuePair where
  mtu  : Nat := 4096
  slow : Bool := false
  deriving DecidableEq, Repr

/-- An entry of the host window table (R373). -/
structure HostEntry where
  qp   : Nat
  addr : Nat
  rkey : Nat
  len  : Nat
  deriving DecidableEq, Repr

/-- A device-memory window (Table 13.3). -/
structure Window where
  base  : Nat
  len   : Nat
  rkey  : Nat
  read  : Bool
  write : Bool
  deriving DecidableEq, Repr

/-- States of a ring record (R378). -/
inductive RecState where
  | untaken | taken | given | removed
  deriving DecidableEq, Repr

/-- A record of an intake ring (R378). -/
structure RingRec where
  seq   : Nat
  units : Nat
  first : Nat
  len   : Nat
  state : RecState := .untaken
  deriving DecidableEq, Repr

/-- An intake ring (Table 13.6, R378); `p`, `t` and `used` are P, T and U. -/
structure Ring where
  base   : Nat
  size   : Nat
  policy : Nat
  notify : Option (Nat × Nat)
  p      : Nat := 0
  t      : Nat := 0
  used   : Nat := 0
  /-- Records from T up to P, oldest first. -/
  recs   : List RingRec := []
  /-- The gap entry that stands before every record, untaken: first SEQ removed, records removed (R382). -/
  gap    : Option (Nat × Nat) := none
  /-- The next SEQ. -/
  next   : Nat := 0
  /-- The message and byte counters by the indices of Table 13.9. -/
  counts : Assoc Nat := []
  /-- A message has been dropped since the last accepted record (DROPB). -/
  dropb  : Bool := false
  /-- Frozen by a violation (Table 16.7). -/
  frozen : Bool := false
  deriving DecidableEq, Repr

/-- A loaded image (R469, R472): the code object of a handle. -/
structure Image where
  /-- Code sections: address and size. -/
  code   : List (Nat × Nat)
  /-- Section kind, address and bytes of the tables that a launch uses (Table 17.3). -/
  tables : List (Nat × Nat × List Byte)
  deriving DecidableEq, Repr

/-- Per-VF state (Table 16.5). -/
structure Vf where
  state  : VfState := .free
  root   : Nat := 0
  /-- POLICY: FREEZE when set, TRAP otherwise (R461). -/
  freeze : Bool := false
  /-- Records posted in the status window since the VF was created, oldest first (R448, R462, R477). -/
  records : List (List Byte) := []
  /-- Violation records posted since the last reset (R465). -/
  violations : Nat := 0
  /-- Ember region registers (R304). -/
  regions : List Region := []
  /-- Residency range registers (R207), and the shortfall reported last: index, ways granted. -/
  ranges    : Assoc RangeReg := []
  shortfall : Option (Nat × Nat) := none
  /-- Ways of the L2 quota, and staging entries, where the supervisor set them (Table 16.5, R406). -/
  ways    : Option Nat := none
  staging : Option Nat := none
  /-- Which draws of the random source its save key and its page key are (R359, R443). -/
  saveKey : Nat := 0
  pageKey : Nat := 0
  /-- Host windows and the remote keys of the launch and the status window (R371); MAC addresses by port (R368); the host
  window table (R373); the fabric peer table, valid entries only (R392). -/
  windows   : Assoc Window := []
  launchKey : Nat := 0
  statusKey : Nat := 0
  macs      : Assoc Nat := []
  /-- Its 16 queue pairs, where they are not as at first. -/
  qps       : Assoc QueuePair := []
  hostWins  : Assoc HostEntry := []
  peers     : Assoc Nat := []
  /-- Intake rings by local index, and MISROUTE (R377, R380). -/
  rings    : Assoc Ring := []
  misroute : Nat := 0
  /-- Source devices whose streams for the VF are frozen (Table 16.7). -/
  streams  : List Nat := []
  /-- The launch window (R475), and its contents as a pending command armed them. -/
  window   : Sparse Byte := []
  armed    : Option (Sparse Byte) := none
  /-- Translated code of the cache that is mapped for the VF: virtual address, size, physical address (R474). -/
  darots   : List (Nat × Nat × Nat) := []
  /-- Start records of the launch being distributed, with the image (R37). -/
  starts   : List (List Byte) := []
  starting : Nat := 0
  /-- Status of the last command, commands completed, TAG, DETAIL (Table 17.8). -/
  status   : Nat := 0
  done     : Nat := 0
  tag      : Nat := 0
  detail   : Nat := 0
  /-- Images loaded by handle, and the handle given last (R469). -/
  images   : Assoc Image := []
  handle   : Nat := 0
  /-- A reset in progress: slots freed and jobs cancelled, for its record (R465). -/
  reset    : Option (Nat × Nat) := none
  deriving DecidableEq, Repr

/-- A partition (Table 16.4). -/
structure Partition where
  created : Bool := false
  cores : List Nat := []
  /-- HBM units of 1 GiB. -/
  units : List Nat := []
  limit : Nat := 512
  /-- L2 way quota, and HINT residency mode (Table 16.4). -/
  ways  : Nat := 0
  hint  : Bool := false
  /-- Its entries of the context set table, its key slots, its rings, its share of the collective store. -/
  sets  : List Nat := []
  keys  : Nat × Nat := (0, 0)
  rings : Nat := 0
  coll  : Nat × Nat := (0, 0)
  /-- Entries and walk slots of a die's shared TLB, where the supervisor set them (R453). -/
  tlb   : Assoc (Nat × Nat) := []
  /-- Envelope records (R405); PREPTIME and the INDOUBT interval in microseconds (R423). -/
  records : Nat := 170
  preptime : Nat := 100
  indoubt  : Nat := 10000
  /-- Multi-chip reduction windows (R401), and the collective device lists (R240). -/
  windows : Assoc ReductionWindow := []
  lists   : Assoc (List Nat) := []
  /-- Signature policy REQUIRED, and the trusted keys (R470). -/
  required : Bool := false
  trusted  : List (List Byte) := []
  deriving DecidableEq, Repr

/-! ## The I/O die and the management core -/

/-- A key slot (Table 13.5). -/
structure KeySlot where
  owner : Option Nat := none
  state : Nat := 0
  epoch : Bool := false
  key0  : BitVec 256 := 0
  key1  : BitVec 256 := 0
  tss   : Bool := false
  deriving DecidableEq, Repr

/-- A message being reassembled (R380): the VF, its first packet, the bytes that have come, and whether every packet has
passed verification. -/
structure Message where
  id    : Nat
  vf    : Nat
  port  : Nat
  head  : UetPacket
  parts : List (Nat × List Byte)
  valid : Bool
  /-- A packet of it was marked for congestion (R374). -/
  ecn   : Bool
  deriving DecidableEq, Repr

/-- A flit in a replay buffer (R395), with its header as first sent (Table 13.14) and how often in a row it has been sent
again. -/
structure Sent where
  seq   : Nat
  ack   : Nat
  epoch : Nat
  /-- TYPE: 0 data, 1 idle, 2 replay request. -/
  kind  : Nat
  vc    : Nat
  pkt   : Option Packet
  part  : Nat := 0
  parts : Nat := 1
  replays : Nat := 0
  deriving DecidableEq, Repr

/-- A fabric link (R394 to R397). -/
structure Link where
  /-- The port has a peer device and the link is up. -/
  up      : Bool := false
  /-- SEQ of the next flit sent, and of the next flit accepted. -/
  tx      : Nat := 0
  rx      : Nat := 0
  /-- Epochs of new flits sent and received, and by epoch the keys that the sender and the receiver still hold (R396). -/
  epoch   : Nat := 0
  rxEpoch : Nat := 0
  keys    : Assoc (BitVec 256) := []
  rxKeys  : Assoc (BitVec 256) := []
  /-- The key of the next epoch, installed at the receiver and not yet used by the sender (R396). -/
  next    : Option (BitVec 256) := none
  /-- Flits sent under the current epoch (R394). -/
  count   : Nat := 0
  buffer  : List Sent := []
  /-- The receiver waits for a replay that it has asked for (R395). -/
  nack    : Bool := false
  /-- A replay request that waits for room on the link (R395). -/
  asks    : Bool := false
  /-- Flits of an incoming packet that have come (Table 13.14). -/
  got     : Nat := 0
  deriving DecidableEq, Repr

/-- A number of an incoming stream that has been performed (R398), and what it was answered with. -/
structure Answered where
  seq   : Nat
  error : Nat
  addr  : Nat
  data  : List Byte
  deriving DecidableEq, Repr

/-- A translation of Darot code (R474): hash of the input, translator version, VFs that may see it, code. -/
structure Darot where
  hash    : List Byte
  version : Nat
  vfs     : List Nat
  code    : List Byte
  deriving DecidableEq, Repr

/-- What a RoCEv2 frame of the device carries (R370 to R373). -/
inductive RoceOut where
  /-- The answer to an RDMA request of a VF's host: acknowledged with the bytes read; NAK for an invalid request; NAK for
  a remote access error. -/
  | rdma (data : List Byte)
  | nakInvalid
  | nakAccess
  /-- A host access that met an ember cell it may not pass (R321). -/
  | tagError
  /-- A request of a beat to the host (R373): queue pair, remote address, remote key, bytes to write or number to read. -/
  | write (job beat qp addr rkey : Nat) (data : List Byte)
  | read (job beat qp addr rkey len : Nat)
  /-- A congestion notification for a queue pair on which a marked frame came (Table 13.2). -/
  | cnp (qp : Nat)
  deriving DecidableEq, Repr

/-- What the device answers to parties outside it, other than by fabric packets (R370 to R374, R480, R481). -/
inductive Outward where
  /-- A RoCEv2 frame of a VF, protected by MACsec under a key of the VF's: key slot and epoch (R369). -/
  | roce (vf : Nat) (sa : Nat × Bool) (x : RoceOut)
  /-- An acknowledgement of a UET message, with the ECN state of its packets and whether a credit grant goes with it
  (R374, Table 13.4). -/
  | uetAck (vf : Nat) (flow : BitVec 32) (msg : Nat) (ecn credit : Bool)
  /-- A fault record handed to a partition's pager, under the number of its walk: VF, address, and of every joined access
  its master's kind and what it needs (R457). -/
  | faultRecord (part rec vf va : Nat) (joined : List (MasterKind × Need))
  /-- A supervisor command refused with a status of Table 17.8. -/
  | refused (status : Nat)
  /-- An SPDM response; none for a failed negotiation (R480). -/
  | spdm (data : Option (List Byte))
  /-- A boot step that failed (R478). -/
  | bootFailed (step : Nat)
  /-- A signed ephemeral value of this device for the key agreement of a port (R482). -/
  | linkValue (port : Nat) (value signature : List Byte)
  /-- A flit sent by a fabric port, its payload encrypted under the key of its epoch and the IV given (R394). -/
  | flit (port : Nat) (x : Flit) (iv : BitVec 96)
  /-- The native code that a VF's translation request is given (R474). -/
  | darot (vf : Nat) (code : List Byte)
  deriving DecidableEq, Repr

/-! ## Sets, ember cells, envelopes -/

/-- An entry of the context set table with its barrier (R17, R256). -/
structure SetEntry where
  /-- Current members, by context number. -/
  members  : List Nat := []
  arrivals : List Nat := []
  /-- Members whose release is on its way. -/
  released : List Nat := []
  gen      : Word := 0
  deriving DecidableEq, Repr

/-- A hearth record (R306, R316): a KINDLED cell, by physical address. -/
structure Hearth where
  cell  : Nat
  va    : Nat
  vf    : Nat
  set   : Nat
  place : Nat
  /-- The chain of the evaluation, the cell first (R309). -/
  chain : List Dword
  /-- The evaluator; none while the evaluation is in the kindle queue. -/
  eval  : Option Nat
  deriving DecidableEq, Repr

/-- A waiter entry (R311): the load that waits, and the cell. -/
structure EmbWaiter where
  loader : Loader
  cell   : Nat
  va     : Nat
  deriving DecidableEq, Repr

/-- A coordinator record (R405, R421). -/
structure Coord where
  eid      : Nat
  vf       : Nat
  mask     : BitVec 64
  /-- SENT at `spost`. -/
  sent     : Assoc Nat := []
  /-- Seal requests not yet acknowledged, each with the port it left by (R399, R413, R426). -/
  out      : List (Stream × Option Nat) := []
  posted   : Bool := false
  prepared : Bool := false
  /-- A sealed write was put in doubt by a failed link (R413). -/
  doubt    : Bool := false
  ready    : List Nat := []
  done     : List Nat := []
  /-- Decided: none while open, otherwise 0 for PUBLISHED or the void cause. -/
  decision : Option Nat := none
  /-- The port entry of the `spost` whose signal waits for the decision: context and entry. -/
  post     : Option (Nat × Nat) := none
  deriving DecidableEq, Repr

/-- The number of seal requests not yet acknowledged. -/
def Coord.unacked (c : Coord) : Nat := c.out.length

/-- States of a destination record (Table 14.8). -/
inductive DestState where
  | staging | failed | held | indoubt
  deriving DecidableEq, Repr

/-- A staged line (R406): its physical address, and for each staged byte the bits written, the value, and the rank of the
write (R412). -/
structure Staged where
  line  : Nat
  bytes : Assoc (Byte × Byte × Nat)
  deriving DecidableEq, Repr

/-- A destination record (R417). -/
structure Dest where
  eid   : Nat
  /-- The target VF; none for a record that only a PREPARE made. -/
  vf    : Option Nat
  state : DestState := .staging
  cause : Nat := 0
  rcvd  : Nat := 0
  mask  : BitVec 64 := 0
  lines : List Staged := []
  /-- Its staging holds an uncorrectable error (R418). -/
  bad   : Bool := false
  /-- A decision to publish has reached it and waits for the holds of other envelopes (R419, R425). -/
  publishing : Bool := false
  deriving DecidableEq, Repr

/-! ## Copy jobs -/

/-- One side of a job as captured at posting (R213, R216). -/
structure Side where
  /-- Table 7.5. -/
  space : Nat
  /-- The descriptor, in spaces other than a tile. -/
  desc  : Option Desc
  /-- The tile number and its TCTL, in space 4. -/
  tile  : Nat
  tctl  : BitVec 27
  /-- Base exponent (R216). -/
  exp   : Int
  /-- Footprint (R220). -/
  base  : Nat
  len   : Nat
  deriving DecidableEq, Repr

/-- A beat in flight (R230): the source bytes read, by address in the source's space. -/
structure Beat where
  num   : Nat
  bytes : Assoc Byte := []
  /-- An ember cell that it read has failed (R229). -/
  fault : Option Trapped := none
  /-- The stream number of its request to a remote device, or 0 for one to the host (R398, R373). -/
  asked : Option Nat := none
  /-- The fabric port that its request left by (R399). -/
  link  : Option Nat := none
  /-- Its answer or acknowledgement has come. -/
  acked : Bool := false
  /-- The pager has answered the fault that parked it, and it has not come back under the limits of R211 (R458). -/
  parked : Bool := false
  deriving DecidableEq, Repr

/-- An edge to an earlier job of the context (Table 7.8): the job, and whether its reads alone must be performed. -/
structure Edge where
  job   : Nat
  reads : Bool
  deriving DecidableEq, Repr

/-- A collective step in progress (R239, R364). -/
structure Step where
  entry : Nat
  bound : Nat
  list  : Nat
  micro : Micro := {}
  mt    : Sparse Word := []
  deriving DecidableEq, Repr

/-- A posted copy job (R210, R231, Table 15.7). -/
structure Job where
  id    : Nat
  ctx   : Nat
  vf    : Nat
  /-- Window-relative address of the card, and its 128 bytes. -/
  addr  : Nat
  card  : List Byte
  src   : Side
  dst   : Side
  /-- Place of the posting op in program order. -/
  seq   : Nat
  level : Bool
  /-- Contexts of MSET at posting (R225). -/
  members : List Nat := []
  edges : List Edge := []
  /-- JOBBYTES still owed, the counter they are also owed to, and the port entry of the op's signal. -/
  bytes : Nat
  bb    : Option Nat
  sig   : Option Nat
  /-- Jobs of one `cpc` share a number; the signal is owed once all have completed (R236). -/
  group : Nat
  /-- Posted by a `cpc` (GROUPED, Table 15.7). -/
  grouped : Bool := false
  started : Bool := false
  /-- Beats done, and beats in flight. -/
  done  : List Nat := []
  beats : List Beat := []
  /-- Damage so far: sat, zero, sac (R218). -/
  damage : Nat × Nat × Nat := (0, 0, 0)
  /-- Frozen by a violation (Table 16.7). -/
  frozen : Bool := false
  /-- The posting context ended: results owed to it are dropped (R241). -/
  orphan : Bool := false
  /-- The envelope of a sealed job; 0 for none (R227). -/
  eid   : Nat := 0
  step  : Option Step := none
  deriving DecidableEq, Repr

/-- Whom an engine served last (R211). -/
structure Rotation where
  vf  : Option Nat := none
  ctx : Assoc Nat := []
  deriving DecidableEq, Repr

/-! ## Saved contexts -/

/-- An effect that reached a SAVED context (Table 15.12). -/
inductive Pending where
  | sem (h amount : Nat)
  | release (set : Nat)
  | envelope (eid state cause : Nat)
  | damage (sat zeroed sac : Nat)
  /-- Bytes of a job that has completed, which leave its counter. -/
  | bytes (counter : Option Nat) (n : Nat)
  /-- A job completed: its number, and the signal it owes. -/
  | jobDone (job : Nat) (sig : Option Nat)
  deriving DecidableEq, Repr

/-- What the partition unit keeps of a SAVED context (R440, R442, R443, R445), by the slot it reserves. -/
structure Saved where
  area  : Dword
  seq   : Nat
  /-- Block tags. -/
  tags  : List (BitVec 128)
  pend  : List Pending := []
  deriving DecidableEq, Repr

/-! ## The bundle being issued (the model's own) -/

/-- Working fields of the bundle that is being issued (R77, R126). The model's own: between steps they hold the reset
value. (DESIGN CHOICE: log 5) -/
structure Issue where
  /-- The issuing context. -/
  cur    : Nat := 0
  /-- The place of the op among the slots S, V0, V1, M, X, C0, C1, its place in the bundle, and its address. -/
  slot   : Nat := 0
  pos    : Nat := 0
  opAddr : Dword := 0
  /-- The bundle's entry op, and the address after its last op. -/
  entry  : Dword := 0
  next   : Dword := 0
  /-- Targets of the S transfer and of the taken V0 branch (R126). -/
  ts     : Option Dword := none
  tv     : Option Dword := none
  halt   : Bool := false
  eret   : Bool := false
  yield  : Bool := false
  /-- The copy-barrier counters as the bundle found them (R77). -/
  bb     : Sparse (BitVec 48) := []
  /-- Bound ops of the bundle. -/
  bound  : List Routine := []
  /-- A binding made (`wbind`) or removed (`wunb`), which later bundles see (R134). -/
  bind   : Option (Nat × Option Binding) := none
  /-- An issue-time fault of the bundle. -/
  fault  : Option Trapped := none
  /-- The cause of `trap` or `dbg`, to be delivered after the bundle. -/
  post   : Option Trapped := none
  /-- Faults of C-slot ops, which strike after the bundle (R432), in slot order. -/
  cfaults : List Trapped := []
  /-- Registers written so far, for WAW (R107): file and number. -/
  written : List (Nat × Nat) := []
  waw    : Bool := false
  deriving DecidableEq, Repr

/-! ## The device -/

/-- Storage in which an uncorrectable error may arise (R191, R202, R281, R418). (DESIGN CHOICE: log 11) -/
inductive Place where
  /-- A byte of HBM or of the L2, by physical address. -/
  | memory (pa : Nat)
  /-- A byte of a core's scratchpad. -/
  | scratch (core addr : Nat)
  /-- A byte of a tile, and a cell of an accumulator, of a context. -/
  | tile (ctx tile offset : Nat)
  | cell (ctx acc row col : Nat)
  /-- The staging of a destination record. -/
  | staging (eid : Nat)
  deriving DecidableEq, Repr

/-- What the agenda asks for next (the model's own): outside stimuli, and any other order of the engines' work than
the fixed one that `step` takes by itself. (DESIGN CHOICE: log 3) -/
inductive Move where
  /-- An event of an engine or of a party outside the device. -/
  | event (i : Instr)
  /-- The core's selector decides one cycle. -/
  | issue (core : Nat)
  /-- Cycles pass on a core in which nothing issues. -/
  | idle (core n : Nat)
  /-- A line of a core's L1 is written back and dropped for want of room. -/
  | evict (core line : Nat)
  /-- An uncorrectable error arises in the data of a place. -/
  | corrupt (place : Place)
  deriving DecidableEq, Repr

/-- One YB8 device. Unlisted contexts, cores, VFs and partitions are as at reset; unlisted memory bytes read zero.
(DESIGN CHOICE: log 106) -/
structure State where
  /-- HBM as the home agents hold it, by physical address. -/
  mem    : Memory := []
  /-- Bytes of it whose data hold an uncorrectable error (R202), by physical address. -/
  bad    : List Nat := []
  /-- Residency of lines in the L2 (R207 to R209). -/
  l2     : L2 := {}
  ctxs   : Assoc Ctx := []
  cores  : Assoc Core := []
  vfs    : Assoc Vf := []
  parts  : Assoc Partition := []
  /-- The shared TLBs, most recently used first: the cores' part of die d under key d, the I/O share of partition p on
  die d under key 4 + 24 d + p (R453). -/
  tlbs   : Assoc (List TlbEntry) := []
  walks  : List Walk := []
  /-- INVALIDATE commands not yet complete: VF, address, length (R456). -/
  invals : List (Nat × Nat × Nat) := []
  /-- The context set table (R17). -/
  sets   : Assoc SetEntry := []
  /-- Tags of ember cells that are not VALUE, by physical address / 16 (R305). -/
  tags   : Sparse (BitVec 2) := []
  /-- The pages that frames of 64 KiB have been mapped EMB for, by frame number: VF and page number (R305). -/
  embFrames : Assoc (List (Nat × Nat)) := []
  /-- Hearth records, oldest first: the order of the kindle queues (R306, R308). -/
  hearths : List Hearth := []
  waiters : List EmbWaiter := []
  /-- The slice that an evaluator slot last served (R310). -/
  served : Assoc Nat := []
  coords : List Coord := []
  dests  : List Dest := []
  /-- Copy jobs in posting order, and each engine's rotation. -/
  jobs   : List Job := []
  rots   : Assoc Rotation := []
  /-- SAVED contexts by their slot, and the save generation of each slot's context (R443). -/
  saved  : Assoc Saved := []
  seqs   : Assoc Nat := []
  /-- Envelopes whose destination record here has been freed (R417). -/
  freed  : List Nat := []
  /-- Fabric packets on the device, by number: made here, arrived here, or in transit. -/
  packets : List (Nat × Packet) := []
  nextId : Nat := 0
  /-- What remote reads that wait on cells have got so far: packet, address of the cell, its bytes or none for EMBFAULT. -/
  gathered : List (Nat × Nat × Option (List Byte)) := []
  /-- FABXY of the device: column in bits 2–0, row in bits 5–3 (R391). -/
  fabxy  : Nat := 0
  /-- The fabric map (R391): columns and rows, and the links between other devices that are out of every route (R397). -/
  fabCols : Nat := 1
  fabRows : Nat := 1
  broken  : List (Nat × Nat) := []
  /-- Fabric links by port 0 to 13. -/
  links  : Assoc Link := []
  /-- The next number of each outgoing stream, by 64 × engine + device, and the numbers performed of each incoming
  stream, by 64 × device + engine, newest first, each with the error and
  the address that it was answered with (R398). -/
  seqOut : Assoc Nat := []
  seqIn  : Assoc (List Answered) := []
  /-- The collective store (R240). -/
  coll   : Sparse (BitVec 256) := []
  /-- Key slots (R375); messages being reassembled; RUD messages already counted: VF, key slot, FLOW, message (R380). -/
  keys   : Assoc KeySlot := []
  messages : List Message := []
  counted  : List (Nat × Nat × BitVec 32 × Nat) := []
  /-- Frames delivered and not yet processed: number, VF, port, body (R368). -/
  frames  : List (Nat × Nat × Nat × EthBody) := []
  /-- UNKNOWN counters and modes of the Ethernet ports (R367, R368). -/
  unknown : Assoc Nat := []
  split   : Assoc Bool := []
  /-- The counter of each Ethernet port, with which it stamps records (R3): 0 at power-on. (DESIGN CHOICE: log 145) -/
  portClocks : Assoc Dword := []
  /-- What has been answered to the outside, oldest first. -/
  outbox  : List Outward := []
  /-- The READY flag of the boot, measurement registers and the EXTEND log (R478, R479). -/
  ready   : Bool := false
  meas    : List (List Byte) := List.replicate 16 (List.replicate 48 0)
  measLog : List (Nat × List Byte) := []
  /-- An SPDM negotiation has succeeded (R480). -/
  spdm    : Bool := false
  /-- Module power cap as the supervisor set it, the last power sample, and the thermal alarm (R483). -/
  cap     : Nat := 2000
  power   : Nat := 0
  thermal : Bool := false
  /-- Darot translations (R474). -/
  darot   : List Darot := []
  /-- Draws of the random source so far. -/
  draws   : Nat := 0
  iss    : Issue := {}
  agenda : List Move := []
  /-- The core that the issue rotation looks at first. -/
  turn   : Nat := 0
  /-- Free values taken so far. -/
  free   : Nat := 0
  deriving DecidableEq, Repr

/-- The device right after reset: no context exists, no partition owns anything, memory reads zero.
(DESIGN CHOICE: log 1) -/
def State.reset : State := {}

end Sys2Proof.Machine
end

