-- ==== Sys2Proof/Machine/Ops.lean ====
section
/-!
DEFINITION. The named operations over registers, memory and contexts that the meanings share: reading and writing every
register file, the deferred-write list, signals, and taking a trap.
-/
namespace Sys2Proof.Machine
open Sys2Proof

/-! ## Numbers (R2, R12, R13) -/

/-- The core of a context number. -/
def coreOf (n : Nat) : Nat := n / 4
/-- Cores 64d + 60 to 64d + 63 are lean (R2). -/
def isLean (core : Nat) : Bool := 60 ≤ core % 64
/-- The die of a core. -/
def dieOf (core : Nat) : Nat := core / 64
/-- The partition of a VF. -/
def partOf (vf : Nat) : Nat := vf / 8

/-! ## Parts of the state -/

def State.ctx (s : State) (n : Nat) : Ctx := lookupD {} n s.ctxs
def State.setCtx (s : State) (n : Nat) (c : Ctx) : State := { s with ctxs := assocSet n c s.ctxs }
def State.onCtx (s : State) (n : Nat) (f : Ctx → Ctx) : State := s.setCtx n (f (s.ctx n))

def State.core (s : State) (n : Nat) : Core := lookupD {} n s.cores
def State.setCore (s : State) (n : Nat) (c : Core) : State := { s with cores := assocSet n c s.cores }
def State.onCore (s : State) (n : Nat) (f : Core → Core) : State := s.setCore n (f (s.core n))

def State.onEveryCore (s : State) (f : Core → Core) : State := { s with cores := s.cores.map fun p => (p.1, f p.2) }

def State.vf (s : State) (n : Nat) : Vf := lookupD {} n s.vfs
def State.setVf (s : State) (n : Nat) (v : Vf) : State := { s with vfs := assocSet n v s.vfs }
def State.onVf (s : State) (n : Nat) (f : Vf → Vf) : State := s.setVf n (f (s.vf n))

def State.part (s : State) (n : Nat) : Partition := lookupD {} n s.parts
def State.setPart (s : State) (n : Nat) (p : Partition) : State := { s with parts := assocSet n p s.parts }
def State.onPart (s : State) (n : Nat) (f : Partition → Partition) : State := s.setPart n (f (s.part n))

/-- The issuing context. -/
def State.cur (s : State) : Ctx := s.ctx s.iss.cur
def State.onCur (s : State) (f : Ctx → Ctx) : State := s.onCtx s.iss.cur f
def State.onIss (s : State) (f : Issue → Issue) : State := { s with iss := f s.iss }

/-! ## Physical memory -/

/-- One byte of physical memory. (DEDUCED: log 2) -/
def State.byte (s : State) (pa : Nat) : Byte := lookupD 0 pa s.mem
/-- `n` bytes from a physical address on. -/
def State.bytes (s : State) (pa n : Nat) : List Byte := lookupList 0 pa n s.mem
/-- Bytes written from a physical address on. -/
def State.setBytes (s : State) (pa : Nat) (bs : List Byte) : State :=
  { s with mem := sparseSetList 0 pa bs s.mem, bad := s.bad.filter fun a => !(pa ≤ a && a < pa + bs.length) }
/-- Does the data of some byte hold an uncorrectable error? -/
def State.isBad (s : State) (pa len : Nat) : Bool := s.bad.any fun a => pa ≤ a && a < pa + len

/-- The low bytes of a natural number, lowest first (R6). -/
def natBytes (n v : Nat) : List Byte := (List.range n).map fun i => BitVec.ofNat 8 (v / 2 ^ (8 * i))

/-! ## Registers (R86, R110, R143, R144) -/

/-- s(n); `s0` reads as zero. -/
def Ctx.s (c : Ctx) (n : Nat) : Dword := if n = 0 then 0 else lookupD 0 n c.regs.s
/-- s(n) := v; a write of `s0` is discarded. -/
def Ctx.setS (c : Ctx) (n : Nat) (v : Dword) : Ctx :=
  if n = 0 then c else { c with regs := { c.regs with s := sparseSet 0 n v c.regs.s } }

/-- p(n); `p0` reads as true. -/
def Ctx.p (c : Ctx) (n : Nat) : Bool := n = 0 || c.regs.p.getLsbD n
/-- p(n) := b; a write of `p0` is discarded. -/
def Ctx.setP (c : Ctx) (n : Nat) (b : Bool) : Ctx :=
  if n = 0 then c
  else
    let m : BitVec 32 := 1#32 <<< n
    { c with regs := { c.regs with p := (c.regs.p &&& ~~~m) ||| (if b then m else 0) } }

/-- q(n); `q0` reads as all ones. -/
def Ctx.q (c : Ctx) (n : Nat) : BitVec 128 := if n = 0 then BitVec.allOnes 128 else lookupD 0 n c.regs.q
/-- The bits of q(n) in the mask take new values; a write of `q0` is discarded. -/
def Ctx.setQ (c : Ctx) (n : Nat) (mask val : BitVec 128) : Ctx :=
  if n = 0 then c
  else
    let x := (c.q n &&& ~~~mask) ||| (val &&& mask)
    { c with regs := { c.regs with q := sparseSet 0 n x c.regs.q } }

/-- Lane i of v(n). -/
def Ctx.lane (c : Ctx) (n i : Nat) : Word := lookupD 0 (128 * n + i) c.regs.v
/-- The 128 lanes of v(n). -/
def Ctx.lanes (c : Ctx) (n : Nat) : List Word := (List.range 128).map fun i => c.lane n i
/-- Part of lane i of v(n) written. -/
def Ctx.setLane (c : Ctx) (n : Nat) (w : LaneWrite) : Ctx :=
  let x := (c.lane n w.1 &&& ~~~w.2.1) ||| (w.2.2 &&& w.2.1)
  { c with regs := { c.regs with v := sparseSet 0 (128 * n + w.1) x c.regs.v } }
/-- Lanes of v(n) written in turn. -/
def Ctx.setLanes (c : Ctx) (n : Nat) (ws : List LaneWrite) : Ctx := ws.foldl (fun c w => c.setLane n w) c

/-- The bytes of a list of lanes, byte 0 of lane 0 first. -/
def laneBytes (ls : List Word) : List Byte := ls.flatMap fun l => bytesLE 4 l

/-- The lanes of a list of bytes. -/
def bytesLanes (n : Nat) (bs : List Byte) : List Word := (groups 4 n bs).map fun g => BitVec.ofNat 32 (natOfBytes g)

/-! ## Levels -/

/-- What belongs to the level the context runs at. -/
def Ctx.level (c : Ctx) : Level := if c.trap.tl then c.lv1 else c.lv0
def Ctx.setLevel (c : Ctx) (l : Level) : Ctx := if c.trap.tl then { c with lv1 := l } else { c with lv0 := l }
def Ctx.onLevel (c : Ctx) (f : Level → Level) : Ctx := c.setLevel (f c.level)

/-- Loop level n of the running trap level. -/
def Ctx.loop (c : Ctx) (n : Nat) : LoopLevel := c.level.loops.getD n {}
def Ctx.setLoop (c : Ctx) (n : Nat) (l : LoopLevel) : Ctx :=
  c.onLevel fun v => { v with loops := v.loops.set n l }

/-! ## Tiles (R265) and their control (Table 4.6) -/

def Ctx.tctl (c : Ctx) (t : Nat) : BitVec 27 := lookupD 0 t c.ctl.tctl
def tctlType (x : BitVec 27) : Nat := (x.extractLsb' 0 4).toNat
def tctlValid (x : BitVec 27) : Bool := x.getLsbD 4
def tctlRows (x : BitVec 27) : Nat := (x.extractLsb' 5 7).toNat
def tctlCols (x : BitVec 27) : Nat := (x.extractLsb' 12 9).toNat
def tctlExpReg (x : BitVec 27) : Nat := (x.extractLsb' 21 6).toNat
/-- RB: bytes of a row. -/
def tctlRowBytes (x : BitVec 27) : Nat := tctlCols x * Ty.width (tctlType x) / 8

def Ctx.tileByte (c : Ctx) (t o : Nat) : Byte := lookupD 0 (8192 * t + o) c.mat.tiles
def Ctx.setTileByte (c : Ctx) (t : Nat) (w : Nat × Byte) : Ctx :=
  { c with mat := { c.mat with
    tiles := sparseSet 0 (8192 * t + w.1) w.2 c.mat.tiles
    bad := c.mat.bad.filter fun k => k != 8192 * t + w.1 } }
def Ctx.setTileBytes (c : Ctx) (t : Nat) (ws : List (Nat × Byte)) : Ctx := ws.foldl (fun c w => c.setTileByte t w) c

/-! ## Scratchpad (R184) -/

/-- A byte of a context's window, by window-relative address. -/
def State.spByte (s : State) (n a : Nat) : Byte :=
  lookupD 0 ((s.ctx n).id.spBase + a) (s.core (coreOf n)).scratch
def State.setSpByte (s : State) (n : Nat) (w : Nat × Byte) : State :=
  let a := (s.ctx n).id.spBase + w.1
  s.onCore (coreOf n) fun k => { k with scratch := sparseSet 0 a w.2 k.scratch, bad := k.bad.filter fun x => x != a }
/-- Does the data of a window byte hold an uncorrectable error? -/
def State.spBad (s : State) (n a : Nat) : Bool := (s.core (coreOf n)).bad.contains ((s.ctx n).id.spBase + a)
def State.spBytes (s : State) (n a len : Nat) : List Byte := (List.range len).map fun i => s.spByte n (a + i)
def State.setSpBytes (s : State) (n : Nat) (ws : List (Nat × Byte)) : State := ws.foldl (fun s w => s.setSpByte n w) s

/-! ## Semaphores (R26, R29) -/

/-- A semaphore of a core. -/
def Core.sem (k : Core) (i : Nat) : Half := lookupD 0 i k.sems
/-- A semaphore of a context's window. -/
def State.sem (s : State) (n h : Nat) : Nat := ((s.core (coreOf n)).sem ((s.ctx n).id.semBase + h)).toNat
def State.setSem (s : State) (n h v : Nat) : State :=
  s.onCore (coreOf n) fun k => { k with sems := sparseSet 0 ((s.ctx n).id.semBase + h) (BitVec.ofNat 16 v) k.sems }
/-- An increment, saturating at 0xFFFF (R29). -/
def State.addSem (s : State) (n h v : Nat) : State := s.setSem n h (min 0xFFFF (s.sem n h + v))

/-! ## Guards (R81, R82) -/

/-- The whole-op guard: true for a lane guard, which never stops the op as a whole. -/
def guardTrue (c : Ctx) (h : Hdr) : Bool :=
  h.grd.getLsbD 5 || (c.p (h.grd.extractLsb' 0 5).toNat != (h.gneg == 1))

/-- The lanes in which a V op acts. -/
def laneMask (c : Ctx) (h : Hdr) : BitVec 128 :=
  if h.grd.getLsbD 5 then
    let m := c.q (h.grd.extractLsb' 0 4).toNat
    if h.gneg == 1 then ~~~m else m
  else BitVec.allOnes 128

/-! ## Due counts and signals -/

/-- The file and number of the register an effect writes, for WAW (R107); none for `s0`, `p0`, `q0` and memory. A tile is a
register (R265), whichever of its bytes are written. -/
def Effect.target : Effect → Option (Nat × Nat)
  | .scalar n _ _ => if n = 0 then none else some (0, n)
  | .half n _ _ => if n = 0 then none else some (0, n)
  | .pred n _ => if n = 0 then none else some (1, n)
  | .lanePred n _ _ _ => if n = 0 then none else some (2, n)
  | .vector n _ _ => some (3, n)
  | .latch e _ => some (if e then 5 else 4, 0)
  | .control n _ => some (6, n)
  | .tctl t _ => some (7, t)
  | .descriptor n _ => some (8, n)
  | .tileBytes t _ => some (9, t)
  | .loadScalar n _ _ => if n = 0 then none else some (0, n)
  | .loadLanes _ _ n _ _ => some (3, n)
  | _ => none

/-- A register is written by an op of the bundle; the second time sets WAW (R107). -/
def Issue.note (x : Issue) : Option (Nat × Nat) → Issue
  | none => x
  | some k => if x.written.contains k then { x with waw := true } else { x with written := k :: x.written }

/-- Registers written by an op of the bundle. -/
def Issue.noteAll (x : Issue) (ks : List (Nat × Nat)) : Issue := ks.foldl (fun x k => x.note (some k)) x

/-- A result due `d` bundles from the bundle being issued (R32, R33). -/
def State.defer (s : State) (d : Nat) (e : Effect) (sig : Option Nat) : State :=
  let c := s.cur
  let entry : Deferred := { due := c.level.count + d, seq := c.life.seq, slot := s.iss.slot, eff := e, sig := sig }
  (s.onCur fun c => c.onLevel fun l => { l with deferred := l.deferred ++ [entry] }).onIss fun x => x.note e.target

/-- A port entry of the issuing context, at the op's place in program order. -/
def State.addPort (s : State) (r : PortReq) : State × Nat :=
  let c := s.cur
  let id := c.port.nextId
  let r := { r with id := id, seq := c.life.seq, slot := s.iss.slot, level := c.trap.tl }
  (s.onCur fun c => { c with port := { c.port with queue := c.port.queue ++ [r], nextId := id + 1 } }, id)

/-- A port entry that only places work in program order. -/
def blankReq (w : PortWork) : PortReq := { id := 0, seq := 0, slot := 0, level := false, work := w }

/-- The signal of an op, held in program order until it may be applied (R30, R53): complete at issue, or at a later
completion; the number of its port entry. -/
def State.addSignal (s : State) (h : Hdr) (complete : Bool) : State × Option Nat :=
  if h.sinc == 0 then (s, none)
  else
    let r := { blankReq (.signal h.ssem.toNat h.sinc.toNat) with stage := if complete then .pending else .incomplete }
    let (s, id) := s.addPort r
    (s, some id)

/-- An op without exposed latency: its signal completes as its bundle issues (Table 1.5). -/
def State.signalNow (s : State) (h : Hdr) : State := (s.addSignal h true).1

/-- An op whose one result lands at a due bundle. -/
def State.timed (s : State) (h : Hdr) (d : Nat) (e : Effect) : State :=
  let (s, sig) := s.addSignal h false
  s.defer d e sig

/-- A port entry of a context changed. -/
def Port.change (p : Port) (id : Nat) (f : PortReq → PortReq) : Port :=
  { p with queue := p.queue.map fun r => if r.id = id then f r else r }

/-- A signal whose op has completed (Table 1.5). -/
def Ctx.completeSignal (c : Ctx) : Option Nat → Ctx
  | none => c
  | some id => { c with port := c.port.change id fun r => { r with stage := .pending } }

/-- An op executes when its guard lets it; otherwise it only occupies its slot (R81). -/
def State.guarded (s : State) (h : Hdr) (f : State → State) : State := if guardTrue s.cur h then f s else s

/-! ## Traps (R429 to R435) -/

/-- The cause code of Table 15.1. -/
def Cause.code : Cause → Nat
  | .illop => 0x01
  | .unbound => 0x02
  | .nested => 0x03
  | .stepover => 0x04
  | .refused => 0x05
  | .misalign => 0x06
  | .illaddr => 0x07
  | .perm => 0x08
  | .semrange => 0x09
  | .accmode => 0x0A
  | .accwin => 0x0B
  | .tileshape => 0x0C
  | .tdinvalid => 0x0D
  | .backdraught => 0x0E
  | .embfault => 0x0F
  | .embstore => 0x10
  | .chaindepth => 0x11
  | .redfault => 0x12
  | .remote => 0x13
  | .indoubt => 0x14
  | .brcoll => 0x15
  | .swtrap => 0x16
  | .break_ => 0x17
  | .ecc => 0x18
  | .savetag => 0x19
  | .codegone => 0x1A

/-- Class F causes always retire the context (Table 15.1). -/
def Cause.isFatal : Cause → Bool
  | .nested | .redfault | .remote | .indoubt | .ecc | .savetag | .codegone => true
  | _ => false

/-- The delivery of a class-H cause to the handler (R433); `pc` is where level 0 resumes. -/
def Ctx.enterHandler (c : Ctx) (t : Trapped) (pc : Dword) : Ctx :=
  { c with
    trap := { c.trap with
      tl := true, cause := BitVec.ofNat 8 t.cause.code, info := t.info, pc := pc &&& ~~~0xF#64,
      replay := !c.trap.list.isEmpty
      list := c.trap.list.map fun r => { r with immed := false } }
    lv1 := {}
    pc := c.trap.handler }

end Sys2Proof.Machine
end

