-- ==== Sys2Proof/Machine/Operands.lean ====
section
/-!
DEFINITION. The operand forms: scalar and immediate operands (R115, R118), vector sources with scalar broadcast (R145),
and the addresses of memory ops (R85, R189, R195).
-/
namespace Sys2Proof

/-- The type code of a header as a number. -/
def Hdr.typ (h : Hdr) : Nat := h.ty.toNat

/-- SAT of the scalar ops that have it: FN[0] (Table 4.1). -/
def Tri.sat (f : Tri) : Bool := f.fn.getLsbD 0
/-- pos of `ext` and `ins` (R117). -/
def Tri.pos (f : Tri) : Nat := (f.imm.extractLsb' 0 6).toNat
/-- wid of `ext` and `ins` (R117). -/
def Tri.wid (f : Tri) : Nat := (f.imm.extractLsb' 6 7).toNat

/-- The ordering class FN[3:0] (Table 3.13). -/
def MemF.cls (f : MemF) : Nat := (f.fn.extractLsb' 0 4).toNat
/-- The scope FN[5:4] (R42). -/
def MemF.scope (f : MemF) : Nat := (f.fn.extractLsb' 4 2).toNat

end Sys2Proof

namespace Sys2Proof.Machine
open Sys2Proof

/-- A sign-extended immediate as 64 bits. -/
def signExt {w : Nat} (x : BitVec w) : Dword := x.signExtend 64

/-- The operand b of the typed scalar ops: s(B), or IMM44 sign-extended when the immediate bit is set (R115, R118). -/
def scalarB (c : Ctx) (f : Tri) (immBit : Nat) : Dword := if f.fn.getLsbD immBit then signExt f.imm else c.s f.b.toNat

/-- The lanes of a V-op source: a vector register, or a scalar register broadcast in elements of width `w` (R145). -/
def vecSource (c : Ctx) (w : Nat) (x : BitVec 7) : List Word :=
  if x.toNat < 64 then c.lanes x.toNat
  else
    let e := (c.s (x.toNat - 64)).toNat % 2 ^ w
    List.replicate 128 (BitVec.ofNat 32 (packLane w (List.replicate (32 / w) e)))

/-- The elements of a V-op source. -/
def elemSource (c : Ctx) (t : Nat) (x : BitVec 7) : List Nat := unpackElems (Ty.width t) (vecSource c (Ty.width t) x)

/-- The base exponent of `vq4x` and `vdq4x`: s(E)[15:0] as `s16`, with field B encoding s(E) (R174). -/
def baseExp (v : Dword) : Int := (v.extractLsb' 0 16).toInt

/-- The address of a MEM op with a displacement: s(A) + (s(B) << SCALE) + DISP, modulo 2^64 (R85). -/
def memAddr (c : Ctx) (f : MemF) (disp : Dword) : Dword :=
  c.s f.a.toNat + (c.s f.b.toNat <<< f.scale.toNat) + disp

/-- The address of a MEM op with the whole DISP field (R85). -/
def farAddr (f : MemF) (c : Ctx) : Dword := memAddr c f (signExt f.disp)

/-- The address of a home-agent op, whose displacement has 24 bits (R244). -/
def homeAddr (f : MemF) (c : Ctx) : Dword := memAddr c f (signExt (f.disp.extractLsb' 0 24))

/-- The address of a sealed store, whose displacement has 22 bits (R408). -/
def sealedAddr (f : MemF) (c : Ctx) : Dword := memAddr c f (signExt (f.disp.extractLsb' 0 22))

/-- The bytes of an access of a scalar type. -/
def typeBytes (t : Nat) : Nat := Ty.width t / 8

/-- A loaded value of a scalar type: sign-extended for s types, zero-extended otherwise (R190, R199). -/
def loadedValue (t : Nat) (bs : List Byte) : Dword := extendTyped t (natOfBytes bs)

end Sys2Proof.Machine
end

