-- ==== Sys2Proof/Machine/Mmu.lean ====
section
/-!
DEFINITION. Translation: page tables and walks (R449 to R452), the TLBs (R453 to R456), and violation records with the
freezing of a context (R461, R462, Tables 16.6 to 16.8).
-/
namespace Sys2Proof.Machine
open Sys2Proof

/-! ## Page tables (R449, R450) -/

/-- What a walk ends in. -/
inductive WalkEnd where
  /-- A valid leaf: base of the page, its size, its physical address, its bits [5:0]. -/
  | leaf (va size pa : Nat) (bits : BitVec 6)
  | fault
  /-- A violation of Table 16.6. -/
  | violation (reason : Nat)
  deriving DecidableEq, Repr

/-- Does a range lie wholly in the HBM units of a partition? -/
def State.ownsRange (s : State) (part pa size : Nat) : Bool :=
  let first := pa / 2 ^ 30
  let last := (pa + size - 1) / 2 ^ 30
  (List.range (last + 1 - first)).all fun i => (s.part part).units.contains (first + i)

/-- The number of low address bits below the index of a level (Table 16.1). -/
def levelShift (l : Nat) : Nat := if l = 0 then 16 else 12 + 9 * l
/-- The entries of a table of a level (Table 16.1). -/
def levelEntries (l : Nat) : Nat := if l = 0 then 32 else if l = 3 then 8192 else 512

/-- Is a valid entry malformed at a level (R450)? -/
def entryMalformed (l e : Nat) : Bool :=
  let leaf := e / 2 % 2 = 1
  let r := e / 4 % 2
  let w := e / 8 % 2
  let x := e / 16 % 2
  let emb := e / 32 % 2
  e / 2 ^ 48 != 0 || e / 64 % 64 != 0 || (leaf && l = 3) || (!leaf && l = 0) ||
    (leaf && e / 2 ^ 12 % 2 ^ 36 * 2 ^ 12 % 2 ^ levelShift l != 0) ||
    (!leaf && (r + w + x + emb != 0)) ||
    (leaf && ((w = 1 && x = 1) || (emb = 1 && x = 1) || (emb = 1 && !(r = 1 && w = 1)) || r + w + x = 0))

/-- One entry read (R450): a next table is answered as a leaf whose LEAF bit is clear. -/
def State.walkEntry (s : State) (part va l table : Nat) : WalkEnd :=
  let e := natOfBytes (s.bytes (table + 8 * (va / 2 ^ levelShift l % levelEntries l)) 8)
  if e % 2 = 0 then .fault
  else if entryMalformed l e then .violation 6
  else
    let pa := e / 2 ^ 12 % 2 ^ 36 * 2 ^ 12
    let size := 2 ^ levelShift l
    if e / 2 % 2 = 1 && !s.ownsRange part pa size then .violation 5
    else .leaf (va / size * size) size pa (BitVec.ofNat 6 e)

/-- The walk from the table of level `l` on (R450). -/
def State.walkFrom (s : State) (part va : Nat) : Nat → Nat → WalkEnd
  | 0, table => s.walkEntry part va 0 table
  | l + 1, table =>
    match s.walkEntry part va (l + 1) table with
    | .leaf base size pa bits =>
      if bits.getLsbD 1 then .leaf base size pa bits
      else if s.ownsRange part pa 1 then s.walkFrom part va l pa else .violation 5
    | e => e

/-- The walk of a virtual address of a VF (R449). Translated code that is mapped for the VF lies in the management core's cache,
outside its tables, R and X (R474). (DESIGN CHOICE: log 94) -/
def State.walk (s : State) (vf va : Nat) : WalkEnd :=
  let root := (s.vf vf).root
  if let some (v, _, pa) := (s.vf vf).darots.find? fun d => d.1 ≤ va && va < d.1 + d.2.1 then
    .leaf (va / 65536 * 65536) 65536 (pa + (va / 65536 * 65536 - v)) 0b010111
  else if root = 0 then .fault else if s.ownsRange (partOf vf) root 1 then s.walkFrom (partOf vf) va 3 root else .violation 5

/-- The page that an entry points to (Table 16.2). -/
def entryPage (e : Nat) : Nat := e / 2 ^ 12 % 2 ^ 36 * 2 ^ 12

/-- The ember region that holds an address (R304). -/
def State.region (s : State) (vf va : Nat) : Option Region :=
  (s.vf vf).regions.find? fun r => r.base ≤ va && va < r.base + r.size

/-! ## Permissions (R452, Table 16.3) -/

/-- The violation a leaf's bits give an access. -/
def Need.refused (n : Need) (bits : BitVec 6) : Option Nat :=
  let r := bits.getLsbD 2
  let w := bits.getLsbD 3
  match n with
  | .read => if r then none else some 2
  | .write => if w then none else some 3
  | .both => if !w then some 3 else if !r then some 2 else none
  | .exec => if bits.getLsbD 4 then none else some 4

/-! ## The TLBs (R453, R454) -/

/-- Where a master's translations are kept: the micro-TLB of a core if it has one, and a part of the shared TLBs. -/
structure Path where
  core : Option Nat
  pool : Nat
  deriving DecidableEq, Repr

def corePath (core : Nat) : Path := ⟨some core, dieOf core⟩
/-- Copy engine e lies on die e / 16 (R12). -/
def enginePath (e : Nat) : Path := ⟨none, e / 16⟩
/-- Masters of the I/O die use base die (VF mod 4) (R454). -/
def ioPath (vf : Nat) : Path := ⟨none, 4 + 24 * (vf % 4) + partOf vf⟩

def TlbEntry.covers (e : TlbEntry) (vf va : Nat) : Bool := e.vf == vf && e.va ≤ va && va < e.va + e.size

def State.micro (s : State) (p : Path) : List TlbEntry :=
  match p.core with
  | some c => (s.core c).tlb
  | none => []
def State.shared (s : State) (p : Path) : List TlbEntry := lookupD [] p.pool s.tlbs

/-- The entry that a lookup hits. -/
def State.tlbHit (s : State) (p : Path) (vf va : Nat) : Option TlbEntry :=
  ((s.micro p).find? fun e => e.covers vf va).or ((s.shared p).find? fun e => e.covers vf va)

/-- A sum over a list. -/
def sumOf (f : α → Nat) (l : List α) : Nat := l.foldl (fun k x => k + f x) 0

/-- One of `k` equal shares of `n`, the remainder going to the lowest ranks. -/
def equalShare (n k rank : Nat) : Nat := if k = 0 then n else n / k + if rank < n % k then 1 else 0

/-- The VFs that have a context slot on a core. -/
def State.vfsOn (s : State) (core : Nat) : List Nat :=
  let vs := (List.range 4).filterMap fun i =>
    let c := s.ctx (4 * core + i)
    if c.life.state = .free then none else some c.id.vf
  (List.range 192).filter fun v => vs.contains v

/-- The entries of a micro-TLB that a VF may hold. -/
def State.microShare (s : State) (core vf : Nat) : Nat :=
  let vs := s.vfsOn core
  if vs.contains vf then equalShare 128 vs.length (vs.findIdx (· == vf)) else 0

/-- The partitions that own cores of a die. -/
def State.partsOn (s : State) (die : Nat) : List Nat :=
  (List.range 24).filter fun p => (s.part p).cores.any fun c => dieOf c == die

/-- What a partition gets of a die's `n` units: the share that the supervisor set for it (one component of the pair), or an
equal part of what the set shares leave, if it owns cores there. (DEDUCED: log 80) -/
def State.dieShare (s : State) (n : Nat) (f : Nat × Nat → Nat) (die part : Nat) : Nat :=
  let share := fun (p : Nat) => lookup? die (s.part p).tlb
  let ps := s.partsOn die
  let rest := ps.filter fun p => (share p).isNone
  match share part with
  | some x => f x
  | none =>
    if rest.contains part then
      equalShare (n - sumOf (fun p => (share p).elim 0 f) ps) rest.length (rest.findIdx (· == part))
    else 0

/-- The entries of a part of the shared TLBs that a partition may hold. -/
def State.sharedShare (s : State) (pool part : Nat) : Nat :=
  if 4 ≤ pool then 512 else s.dieShare (65536 - 24 * 512) (·.1) pool part

/-- The walk slots of a die that a partition may use (R455). -/
def State.walkShare (s : State) (pool part : Nat) : Nat :=
  if 4 ≤ pool then 8 else s.dieShare (1024 - 24 * 8) (·.2) pool part

/-- The first `n` entries that satisfy `q`, and every other entry. -/
def keepFirst (q : TlbEntry → Bool) : Nat → List TlbEntry → List TlbEntry
  | _, [] => []
  | n, e :: t =>
    if q e then
      match n with
      | 0 => keepFirst q 0 t
      | n + 1 => e :: keepFirst q n t
    else e :: keepFirst q n t

/-- An entry put first; entries of the same owner beyond its share are dropped, least recently used first. -/
def tlbInsert (share : Nat) (own : TlbEntry → Bool) (e : TlbEntry) (l : List TlbEntry) : List TlbEntry :=
  keepFirst own share (e :: l.filter fun x => x != e)

/-- An entry becomes the most recent one of its VF in a core's micro-TLB. -/
def State.microUse (s : State) (p : Path) (e : TlbEntry) : State :=
  match p.core with
  | some c => s.onCore c fun k => { k with tlb := tlbInsert (s.microShare c e.vf) (fun x => x.vf == e.vf) e k.tlb }
  | none => s

/-- An entry becomes the most recent one of its partition in its part of the shared TLBs. -/
def State.tlbFill (s : State) (pool : Nat) (e : TlbEntry) : State :=
  let part := partOf e.vf
  { s with tlbs := assocSet pool (tlbInsert (s.sharedShare pool part) (fun x => partOf x.vf == part) e
      (lookupD [] pool s.tlbs)) s.tlbs }

/-- A translation for an access. -/
inductive Xlat where
  | miss
  | violation (reason : Nat)
  /-- The physical address, and whether the page holds ember cells (R451). -/
  | ok (pa : Nat) (emb : Bool)
  deriving DecidableEq, Repr

/-- The translation of one address for an access. -/
def State.xlate (s : State) (p : Path) (vf va : Nat) (need : Need) : Xlat :=
  match s.tlbHit p vf va with
  | none => .miss
  | some e =>
    match need.refused e.bits with
    | some r => .violation r
    | none => .ok (e.pa + (va - e.va)) (e.bits.getLsbD 5 && (s.region vf va).isSome)

/-- Recency after an access to an address: a hit in the micro-TLB goes no further, a hit in the shared TLB counts there and
enters the micro-TLB (R453, R454). -/
def State.touch (s : State) (p : Path) (vf va : Nat) : State :=
  match (s.micro p).find? fun e => e.covers vf va with
  | some e => s.microUse p e
  | none =>
    match (s.shared p).find? fun e => e.covers vf va with
    | some e => (s.microUse p e).tlbFill p.pool e
    | none => s

/-- Recency after accesses to addresses of a VF: one lookup for each page. -/
def State.touchAll (s : State) (p : Path) (vf : Nat) (as : List Nat) : State :=
  ((as.map (· / 2 ^ 16)).eraseDups).foldl (fun s page => s.touch p vf (page * 2 ^ 16)) s

/-- A core's micro-TLB once the VFs with a slot there are others: each keeps what its share holds (R453). -/
def State.trimMicro (s : State) (core : Nat) : State :=
  s.onCore core fun k =>
    { k with tlb := ((k.tlb.map (·.vf)).eraseDups).foldl (fun l v => keepFirst (fun x => x.vf == v) (s.microShare core v) l) k.tlb }

/-- The shared TLBs once the shares of the partitions are others. -/
def State.trimShared (s : State) : State :=
  { s with tlbs := s.tlbs.map fun (p : Nat × List TlbEntry) =>
      (p.1, ((p.2.map fun e => partOf e.vf).eraseDups).foldl
        (fun l q => keepFirst (fun x => partOf x.vf == q) (s.sharedShare p.1 q) l) p.2) }

/-! ## Walks (R455) -/

/-- Is a request joined to a walk that has not been answered? -/
def State.isParked (s : State) (m : Master) : Bool := s.walks.any fun w => w.waiters.contains m

/-- The walk slot count that a walk of a partition waits behind (R455): walks of the partition that came before it. -/
def State.walksBefore (s : State) (w : Walk) : Nat :=
  ((s.walks.filter fun x => x.pool == w.pool && partOf x.vf == partOf w.vf && x.stage != .posted).takeWhile (·.id != w.id)).length

/-- Does a walk have a slot? Misses of a partition whose slots are all in use are held in arrival order (R455). -/
def State.hasSlot (s : State) (w : Walk) : Bool := s.walksBefore w < s.walkShare w.pool (partOf w.vf)

/-- A miss starts a walk or joins the one of its VF for its page, on whichever die that is (R455) and though it may still be
held for a slot. (DEDUCED: log 80) -/
def State.startWalk (s : State) (pool vf va : Nat) (m : Master) : State :=
  let page := va / 2 ^ 16
  let mine := fun (w : Walk) => w.vf == vf && w.page == page && w.stage != .posted
  if s.walks.any (fun w => w.vf == vf && w.page == page && w.waiters.contains m) then s
  else if s.walks.any mine then
    { s with walks := s.walks.map fun w => if mine w then { w with waiters := w.waiters ++ [m] } else w }
  else
    { s with
      walks := s.walks ++ [{ id := s.nextId, pool := pool, vf := vf, page := page, waiters := [m], stage := .walking }]
      nextId := s.nextId + 1 }

/-- The first of a list of pages for which a master of the I/O die lacks a translation, as an address. -/
def State.ioMissing (s : State) (vf : Nat) (pages : List Nat) : Option Nat :=
  (pages.find? fun p => (s.tlbHit (ioPath vf) vf (p * 2 ^ 16)).isNone).map fun p => p * 2 ^ 16

/-- The first violation among a master's pages, whose translations are present: the reason and the page's address. -/
def State.ioViolation (s : State) (vf : Nat) (need : Need) (pages : List Nat) : Option (Nat × Nat) :=
  pages.findSome? fun p =>
    match s.xlate (ioPath vf) vf (p * 2 ^ 16) need with
    | .violation r => some (r, p * 2 ^ 16)
    | _ => none

/-- The address of an access on a page where one of its bytes violates: its first byte there. -/
def firstOn (as : List Nat) (va : Nat) : Nat := (as.find? fun a => a / 2 ^ 16 == va / 2 ^ 16).getD va

/-- The pages that hold `n` bytes from an address on. -/
def pagesOfRange (a n : Nat) : List Nat :=
  (List.range ((a + n - 1) / 2 ^ 16 + 1 - a / 2 ^ 16)).map fun i => a / 2 ^ 16 + i

/-! ## Entries dropped (R456) -/

def TlbEntry.meets (e : TlbEntry) (vf va len : Nat) : Bool := e.vf == vf && e.va < va + len && va < e.va + e.size

/-- TLB entries of a VF that overlap a range dropped. -/
def State.dropTlb (s : State) (vf va len : Nat) : State :=
  let keep := fun (l : List TlbEntry) => l.filter fun e => !e.meets vf va len
  { s with
    tlbs := s.tlbs.map fun p => (p.1, keep p.2)
    cores := s.cores.map fun p => (p.1, { p.2 with tlb := keep p.2.tlb }) }

/-! ## Violations (R461, R462) -/

/-- A record posted for a VF (R448, R477). -/
def State.postRecord (s : State) (vf : Nat) (r : List Byte) : State :=
  s.onVf vf fun v => { v with records := v.records ++ [r] }

/-- A violation record (Table 16.8) posted for its VF. -/
def State.postViolation (s : State) (master id vf reason va detail : Nat) : State :=
  (s.postRecord vf
    ([0x20, BitVec.ofNat 8 master] ++ natBytes 2 id ++ [BitVec.ofNat 8 vf, BitVec.ofNat 8 reason] ++ natBytes 2 0 ++
      natBytes 8 va ++ natBytes 8 detail ++ natBytes 8 0)).onVf vf fun v => { v with violations := v.violations + 1 }

/-- Does a violation freeze its master (R461)? -/
def State.freezes (s : State) (vf reason : Nat) : Bool := (s.vf vf).freeze || reason == 5 || reason == 6

/-- The trap of a violation under POLICY TRAP (R461). -/
def violationTrap (reason va : Nat) : Trapped :=
  if reason = 1 then ⟨.illaddr, BitVec.ofNat 64 va⟩
  else ⟨.perm, BitVec.ofNat 64 (va / 2 ^ 12 * 2 ^ 12 + (0x60 + (reason - 2)))⟩

end Sys2Proof.Machine
end

