-- ==== Sys2Proof/Machine/Residency.lean ====
section
/-!
DEFINITION. Residency in the L2 slices (R207 to R209): which lines a slice keeps, and in which ways. It affects no value
and no order.
-/
namespace Sys2Proof.Machine
open Sys2Proof

/-- The home slice of a physical address (R242). -/
def sliceOf (pa : Nat) : Nat := Config.homeSlice (pa / 64) % 64

/-! ## The ways of a set -/

/-- Rev8 of R208. -/
def rev8 (b : BitVec 8) : Nat := b.reverse.toNat

/-- Every reserved way. -/
def L2.reserved (l : L2) : List Nat := l.ways.flatMap (·.2)

/-- The ways into which an access allocates: its register's, or those outside all reservations, lowest first (R208). -/
def L2.waysFor (l : L2) (reg : Option Nat) : List Nat :=
  (List.range 16).filter fun w => match reg with
    | some k => (lookupD [] k l.ways).contains w
    | none => !l.reserved.contains w

/-- The lowest-numbered way of a list of lines. -/
def lowestWay (ls : List L2Line) : Option Nat := (ls.map (·.way)).min?

/-- The RRPV of a line raised by one. -/
def L2Line.age (x : L2Line) : L2Line := { x with rrpv := if x.rrpv = 3 then 3 else x.rrpv + 1 }

/-- The lines of a set as the search for a victim leaves them, and the victim's way: the lowest-numbered with RRPV 3 among
those that may go; without one, every RRPV of the set is raised (R209). -/
def searchVictim (may : L2Line → Bool) : Nat → List L2Line → List L2Line × Option Nat
  | 0, ls => (ls, none)
  | k + 1, ls =>
    match lowestWay (ls.filter fun x => may x && x.rrpv == 3) with
    | some w => (ls, some w)
    | none => if ls.any may then searchVictim may k (ls.map L2Line.age) else (ls, none)

/-- A line put into its set: into an empty way, or in the place of a victim, which for a retained access is a line retained
for the same register (R208, R209); without a way to take, nowhere. (DESIGN CHOICE: log 107) -/
def L2.put (l : L2) (new : L2Line) : L2 :=
  let mine := fun (x : L2Line) => x.slice == new.slice && x.set == new.set
  let here := l.lines.filter mine
  let ways := l.waysFor new.kept
  match ways.find? fun w => here.all fun x => x.way != w with
  | some w => { l with lines := { new with way := w } :: l.lines }
  | none =>
    let may := fun (x : L2Line) => ways.contains x.way && (new.kept.isNone || x.kept == new.kept)
    match searchVictim may 4 here with
    | (ls, some w) =>
      { l with lines := { new with way := w } :: ls.filter (fun x => x.way != w) ++ l.lines.filter fun x => !mine x }
    | _ => l

/-! ## One access -/

/-- A hit: the RRPV becomes 0, and a line that the access would put elsewhere goes there (R207, R209).
(DESIGN CHOICE: log 107) -/
def L2.hit (l : L2) (x : L2Line) (reg : Option Nat) : L2 :=
  let stays := match reg with
    | some _ => x.kept == reg
    | none => x.kept.isSome || !l.reserved.contains x.way
  let others := l.lines.filter fun y => y.line != x.line
  let moved := ({ l with lines := others } : L2).put { x with rrpv := 0, kept := reg }
  if !stays && moved.lines.any (fun y => y.line == x.line) then moved
  else { l with lines := l.lines.map fun y => if y.line == x.line then { y with rrpv := 0 } else y }

/-- An access to a line: `reg` where it is retained, and otherwise the RRPV of an insertion, none where the line is not
allocated (R208, R209). -/
def L2.access (l : L2) (line : Nat) (reg : Option Nat) (rrpv : Option (BitVec 2)) : L2 :=
  let new := fun (v : BitVec 2) (k : Option Nat) =>
    (⟨sliceOf (64 * line), Config.homeSet line % 4096, 0, line, v, k⟩ : L2Line)
  match l.lines.find? fun x => x.line == line with
  | some x => l.hit x reg
  | none =>
    match reg, rrpv with
    | some k, _ => { l.put (new (Config.keptRrpv l.drawn) (some k)) with drawn := l.drawn + 1 }
    | none, some v => l.put (new v none)
    | none, none => l

/-- An access inside the range of a register: retained as its counter says, and the counter advances (R208).
It starts at 0 and is kept while its register is disabled or written again. (DESIGN CHOICE: log 172) -/
def L2.inRange (l : L2) (line reg ratio : Nat) (rrpv : Option (BitVec 2)) : L2 :=
  let k := 64 * reg + sliceOf (64 * line)
  let c := lookupD 0 k l.counts
  ({ l with counts := assocSet k (c + 1) l.counts } : L2).access line (if rev8 c < ratio then some reg else none) rrpv

/-- The insertion that a reuse hint asks for (R209). -/
def hintRrpv (hint : BitVec 2) : Option (BitVec 2) :=
  match hint.toNat with
  | 0 => some 2
  | 1 => some 0
  | 2 => some 3
  | _ => none

/-- The enabled range register of a VF that covers an address: its index and RATIO (R207). (DESIGN CHOICE: log 107) -/
def Vf.rangeAt (v : Vf) (va : Nat) : Option (Nat × Nat) :=
  ((List.range 8).filterMap fun i => (lookup? i v.ranges).map fun r => (i, r)).findSome? fun p =>
    if p.2.ways ≠ 0 ∧ p.2.base ≤ va ∧ va < p.2.base + p.2.len then some (p.1, p.2.ratio) else none

/-- Does an address lie in the units of a ring, whose lines stay resident outside every quota (R378)? -/
def Vf.onRing (v : Vf) (va : Nat) : Bool := v.rings.any fun p => p.2.base ≤ va && va < p.2.base + 64 * p.2.size

/-- The L2 after an access of a VF to the line of a physical address; `va` is the virtual address where the access has
one. (DESIGN CHOICE: log 107) -/
def State.l2After (s : State) (l : L2) (vf : Nat) (va : Option Nat) (pa : Nat) (hint : BitVec 2) : L2 :=
  let v := s.vf vf
  let line := pa / 64
  if va.any v.onRing then l
  else if (s.part (partOf vf)).hint then l.access line none (hintRrpv hint)
  else
    match va.bind v.rangeAt with
    | some (i, ratio) => l.inRange line (8 * vf + i) ratio (some 2)
    | none => l.access line none (some 2)

/-- An access of a VF to the line of a physical address, at its home agent. -/
def State.visit (s : State) (vf : Nat) (va : Option Nat) (pa : Nat) (hint : BitVec 2) : State :=
  { s with l2 := s.l2After s.l2 vf va pa hint }

/-- Accesses to the lines of virtual addresses, each line once. -/
def State.visitAddrs (s : State) (p : Path) (vf : Nat) (as : List Nat) (hint : BitVec 2) : State :=
  let t := s.touchAll p vf as
  { t with l2 := ((as.map fun a => a / 64 * 64).eraseDups).foldl (fun l a =>
      match s.xlate p vf a .read with
      | .ok pa _ => s.l2After l vf (some a) pa hint
      | _ => l) s.l2 }

/-- A line written back by `cflush.evict` stands at the `far` position, RRPV 3 (R206). -/
def L2.evict (l : L2) (line : Nat) : L2 :=
  let l := l.access line none (some 3)
  { l with lines := l.lines.map fun x => if x.line == line then { x with rrpv := 3 } else x }

/-! ## Range registers (R207) -/

/-- The ways of a register made `n`: those it has, then the lowest-numbered that no register has. -/
def L2.reserve (l : L2) (reg n : Nat) : L2 :=
  let own := lookupD [] reg l.ways
  let rest := dropKey reg l.ways
  let more := (List.range 16).filter fun w => !own.contains w && !rest.any fun p => p.2.contains w
  { l with ways := assocSet reg ((own ++ more).take n) l.ways }

/-- A register disabled: its ways are free, and its lines ordinary lines with RRPV 3. -/
def L2.release (l : L2) (reg : Nat) : L2 :=
  { l with
    ways := dropKey reg l.ways
    lines := l.lines.map fun x => if x.kept = some reg then { x with kept := none, rrpv := 3 } else x }

/-- The L2 after the mode of a partition is set: in HINT mode its registers have no effect and hold no way; in RANGE mode
those that are stored and enabled have the ways they were granted (R208, R209). -/
def State.afterMode (s : State) (part : Nat) (hint : Bool) : L2 :=
  let regs := (List.range 8).flatMap fun i =>
    (s.vf (8 * part + i)).ranges.map fun p => (8 * (8 * part + i) + p.1, p.2)
  regs.foldl (fun (l : L2) (x : Nat × RangeReg) =>
    if hint then l.release x.1 else if x.2.ways = 0 then l else l.reserve x.1 x.2.granted) s.l2

/-- The L2 after `resv`: in HINT mode nothing (R209). -/
def State.afterResv (s : State) (vf idx ways granted : Nat) : L2 :=
  if (s.part (partOf vf)).hint then s.l2
  else if ways = 0 then s.l2.release (8 * vf + idx)
  else s.l2.reserve (8 * vf + idx) granted

end Sys2Proof.Machine
end

