-- ==== Sys2Proof/Machine/Home.lean ====
section
/-!
DEFINITION. Lines and where accesses to them are performed: the home agents (R242, R253, R254, R419) and the L1 of a
core (R196, R197, Table 6.2).
-/
namespace Sys2Proof.Machine
open Sys2Proof

/-! ## Home agents -/

/-- Is some byte of a range on a line that an envelope holds (R419)? -/
def State.isHeld (s : State) (pa n : Nat) : Bool :=
  s.dests.any fun d => d.state == .held && d.lines.any fun l => l.line < pa + n && pa < l.line + 64

/-! ## The landing buffer (R187, R200, R437) -/

/-- The pending results and scratchpad effects of both levels (R33). -/
def Ctx.allDeferred (c : Ctx) : List Deferred := c.lv0.deferred ++ c.lv1.deferred

/-- The landing entries that an op's result takes (R187, R200). -/
def PortReq.slots (r : PortReq) : Nat :=
  match r.work with
  | .op (.vldf _ _) => 8
  | .op (.ldf _ _) | .op (.amo _ _) | .op (.cas _ _) | .op (.wta _ _) | .op (.epeek _ _) | .op (.estat _ _)
  | .op (.cpq _ _) | .op (.bbrd _ _) | .op (.bbw _ _) | .op (.sstat _ _) | .op (.swait _ _) | .op (.itake _ _)
  | .op (.istat _ _) => 1
  | _ => 0

/-- Is it an intake op, whose faults arrive as those of a far access (R386)? -/
def PortReq.onIntake (r : PortReq) : Bool :=
  match r.work with
  | .op (.itake _ _) | .op (.igive _ _) | .op (.istat _ _) => true
  | _ => false
def Landing.slots (l : Landing) : Nat := if l.vector.isSome then 8 else 1

/-- Landing entries that an op's 512-byte operands hold (R437): a sealed or far vector store until it is performed, a
scratchpad op until its due bundle, or in the replay list until it is replayed. -/
def PortReq.reserves (r : PortReq) : Nat :=
  if r.stage == .performed then 0
  else match r.work with
    | .op (.vstf _ _) | .op (.svst _ _) | .op (.vsts _ _) | .op (.vgat _ _) => 8
    | .op (.vsca _ _) => 16
    | _ => 0
def Effect.reserves : Effect → Nat
  | .store ents _ _ _ => ents
  | .loadLanes ents _ _ _ _ => ents
  | _ => 0

/-- Landing entries that operands hold (R437). -/
def Ctx.landingReserved (c : Ctx) : Nat :=
  sumOf PortReq.reserves (c.trap.list ++ c.port.queue) + sumOf (fun d => d.eff.reserves) c.allDeferred

/-- Landing entries in use: those of requests sent, of results on their way or arrived, and of operands. -/
def Ctx.landingUsed (c : Ctx) : Nat :=
  sumOf (fun (l : Landing) => if l.queued then 0 else l.slots) c.port.landings +
    sumOf (fun (r : PortReq) => if r.landing then r.slots else 0) c.port.queue + c.landingReserved

/-- Are entries free for a result? A landing op that finds too few issues, and its request is sent later (R200). -/
def Ctx.landingRoom (c : Ctx) (k : Nat) : Bool := c.landingUsed + k ≤ 128

/-- Is this a `wta`? -/
def PortReq.isWta (r : PortReq) : Bool :=
  match r.work with
  | .op (.wta _ _) => true
  | _ => false

/-- An access of a port answered: its entry goes, and its data are on their way unless the context has ended (R22); a
result whose op was never sent waits for a landing entry (R200). -/
def Ctx.respond (c : Ctx) (l : Landing) : Ctx :=
  let held := c.port.queue.any fun r => r.id == l.id && r.landing
  let l := { l with wta := c.port.queue.any fun r => r.id == l.id && r.isWta }
  let l := if held || c.landingRoom l.slots then l else { l with queued := true, arrived := false }
  let p := { c.port with queue := c.port.queue.filter fun r => r.id != l.id }
  { c with port := if c.life.mute || c.life.state == .draining then p else { p with landings := p.landings ++ [l] } }

/-- An acquire, which takes effect before the context's next access (R197). -/
def Ctx.setAcquired (c : Ctx) : Ctx := { c with port := { c.port with acquired := true } }

/-- The register that an access's result goes to. -/
def PortReq.dest (r : PortReq) : Nat :=
  match r.work with
  | .op i => match i.op? with
    | some (_, _, .mem f) => f.d.toNat
    | some (_, _, .tri f) => f.d.toNat
    | _ => 0
  | .signal _ _ => 0

/-- Is this a registered `wta`? -/
def PortReq.isWaitingWta (r : PortReq) : Bool := r.stage == .waiting && r.isWta

/-- The waits of a context on lines of a predicate return the value as it stands (R253, R254). -/
def Ctx.wakeWta (c : Ctx) (hit : Nat → Bool) (read : Nat → Dword) : Ctx :=
  c.port.queue.foldl
    (fun c r => if r.isWaitingWta && hit (r.pa / 64) then
        (c.respond { id := r.id, words := [(r.dest, read r.pa)] }).setAcquired else c) c

/-- A dword of physical memory. -/
def State.dword (s : State) (pa : Nat) : Dword := BitVec.ofNat 64 (natOfBytes (s.bytes pa 8))

/-- The waits on written lines are woken (R254). -/
def State.wakeLines (s : State) (hit : Nat → Bool) : State :=
  { s with ctxs := s.ctxs.map fun p => (p.1, p.2.wakeWta hit s.dword) }

/-- A write performed at the home agents, with the waits on its lines (R254). -/
def State.homeWrite (s : State) (pa : Nat) (bs : List Byte) : State :=
  if bs.isEmpty then s
  else (s.setBytes pa bs).wakeLines fun l => pa / 64 ≤ l && l ≤ (pa + bs.length - 1) / 64

/-! ## The L1 (R196, R197) -/

/-- The line of a VF in a core's L1. -/
def Core.l1Line (k : Core) (vf line : Nat) : Option L1Line := k.l1.find? fun l => l.vf == vf && l.line == line

/-- A line of the L1 replaced. -/
def Core.l1Put (k : Core) (l : L1Line) : Core :=
  { k with l1 := k.l1.map fun x => if x.vf == l.vf && x.line == l.line then l else x }

/-- A dirty line written back: it stays valid and clean (R197). -/
def State.writeBack (s : State) (core : Nat) (l : L1Line) : State :=
  if l.dirty.isEmpty then s
  else
    let pa := 64 * l.line
    let merged := (List.range 64).map fun i => if l.dirty.contains i then l.bytes.getD i 0 else s.byte (pa + i)
    let left := s.bad.filter fun a => a < pa || pa + 64 ≤ a || !l.dirty.contains (a - pa)
    { (s.homeWrite pa merged).visit l.vf none pa 0 with bad := left }.onCore core fun k => k.l1Put { l with dirty := [], owners := [] }

/-- The lines of an L1 that satisfy a predicate written back. -/
def State.writeBackIf (s : State) (core : Nat) (q : L1Line → Bool) : State :=
  ((s.core core).l1.filter q).foldl (fun s l => s.writeBack core l) s

/-- A line that a context made dirty by a store of a class of the mask (R197). -/
def L1Line.ownedIn (l : L1Line) (n : Nat) (mask : BitVec 16) : Bool := l.owners.any fun o => o.1 == n && mask.getLsbD o.2

/-- No line of a predicate that is dirty is held by an envelope. -/
def State.canWriteBack (s : State) (core : Nat) (q : L1Line → Bool) : Bool :=
  (s.core core).l1.all fun l => !q l || l.dirty.isEmpty || !s.isHeld (64 * l.line) 64

/-- What a release at device scope writes back: the lines that the context made dirty (R197, R53), and those of other
contexts of its VF, whose stores may happen before it at core scope (R52). (DEDUCED: log 122) -/
def State.released (s : State) (n : Nat) (l : L1Line) : Bool := l.vf == (s.ctx n).id.vf
def State.flushCtx (s : State) (n : Nat) : State := s.writeBackIf (coreOf n) (s.released n)
def State.canFlush (s : State) (n : Nat) : Bool := s.canWriteBack (coreOf n) (s.released n)

/-- Lines of a VF in a core's L1 marked stale; the bytes of a dirty line that are clean are fetched again too (R55, R197). -/
def Core.staleIf (k : Core) (q : L1Line → Bool) : Core :=
  { k with l1 := k.l1.map fun l => if q l then { l with stale := true } else l }

/-- An acquire at device or fabric scope (R197). -/
def State.acquire (s : State) (n : Nat) : State :=
  let vf := (s.ctx n).id.vf
  s.onCore (coreOf n) fun k => k.staleIf fun l => l.vf == vf

/-- Sets of the L1: 8 ways of 64-byte lines in the blocks that the split leaves (R183, R196). -/
def Core.l1Sets (k : Core) (lean : Bool) : Nat := ((if lean then 4 else 8) - k.blocks) * 512

/-- The places of a line whose data in memory hold an uncorrectable error. -/
def State.badOffsets (s : State) (line : Nat) : List Nat := (List.range 64).filter fun i => s.bad.contains (64 * line + i)

/-- A line brought in, into the set of its number modulo the sets, for which the manual gives no function; where the set is full, a
line of it goes (which one the manual does not say). (DESIGN CHOICE: log 34, DESIGN CHOICE: log 171) -/
def State.l1Insert (s : State) (core vf line : Nat) : State :=
  let k := s.core core
  let sets := k.l1Sets (isLean core)
  let ways := k.l1.filter fun l => l.line % sets == line % sets
  let new : L1Line :=
    { vf := vf, line := line, bytes := s.bytes (64 * line) 64, dirty := [], owners := [], stale := false
      bad := s.badOffsets line }
  let drop := fun (s : State) (v : L1Line) =>
    s.onCore core fun k => { k with l1 := k.l1.filter fun l => !(l.vf == v.vf && l.line == v.line) }
  let s :=
    if ways.length < 8 then s
    else
      let free := ways.filter fun l => !s.isHeld (64 * l.line) 64
      match free[(Config.freeValue s.free).toNat % free.length]? with
      | some v => drop { s.writeBack core v with free := s.free + 1 } v
      | none => s
  let k := s.core core
  if (k.l1.filter fun l => l.line % sets == line % sets).length < 8 then s.onCore core fun k => { k with l1 := new :: k.l1 }
  else s

/-- A stale line fetched again: its dirty bytes stand. -/
def State.refill (s : State) (l : L1Line) : L1Line :=
  { l with
    bytes := (List.range 64).map fun i => if l.dirty.contains i then l.bytes.getD i 0 else s.byte (64 * l.line + i)
    bad := l.bad.filter (l.dirty.contains ·) ++ (s.badOffsets l.line).filter fun i => !l.dirty.contains i
    stale := false }

/-- A line a load or store of the core may use: present and not stale; otherwise it is filled from L2.
(DEDUCED: log 35) -/
def State.l1Ready (s : State) (core vf line : Nat) : State :=
  match (s.core core).l1Line vf line with
  | some l =>
    if l.stale then s.onCore core fun k => k.l1Put (s.refill l) else s
  | none => s.l1Insert core vf line

/-- Does a load of a line by the core reach the L2? -/
def State.l1Misses (s : State) (core vf line : Nat) : Bool :=
  match (s.core core).l1Line vf line with
  | some l => l.stale
  | none => true

/-- The access to the L2 by which a far access at context or core scope gets a line that the core's L1 lacks (Table 6.2). -/
def State.fillVisit (s : State) (core vf va pa : Nat) (hint : BitVec 2) : State :=
  { s with l2 := if s.l1Misses core vf (pa / 64) then s.l2After s.l2 vf (some va) pa hint else s.l2 }

/-- Bytes of one line as the L1 holds them, or memory's where no way could be taken. -/
def State.l1Bytes (s : State) (core vf pa n : Nat) : List Byte :=
  match (s.core core).l1Line vf (pa / 64) with
  | some l => (l.bytes.drop (pa % 64)).take n
  | none => s.bytes pa n

/-- Do the bytes that the L1 holds, or memory's, hold an uncorrectable error? -/
def State.l1Bad (s : State) (core vf pa n : Nat) : Bool :=
  match (s.core core).l1Line vf (pa / 64) with
  | some l => l.bad.any fun i => pa % 64 ≤ i && i < pa % 64 + n
  | none => s.isBad pa n

/-- Bytes put over a list from a place on. -/
def overwrite (bs : List Byte) (off : Nat) (new : List Byte) : List Byte :=
  bs.take off ++ new ++ bs.drop (off + new.length)

/-- A store at context or core scope, in an ordering class: the line becomes dirty (Table 6.2). -/
def State.l1Store (s : State) (n cls pa : Nat) (bs : List Byte) : State :=
  let core := coreOf n
  let vf := (s.ctx n).id.vf
  let s := s.l1Ready core vf (pa / 64)
  match (s.core core).l1Line vf (pa / 64) with
  | some l =>
    s.onCore core fun k => k.l1Put { l with
      bytes := overwrite l.bytes (pa % 64) bs
      bad := l.bad.filter fun i => !(pa % 64 ≤ i && i < pa % 64 + bs.length)
      dirty := l.dirty ++ ((List.range bs.length).map fun i => pa % 64 + i).filter fun i => !l.dirty.contains i
      owners := if l.owners.contains (n, cls) then l.owners else l.owners ++ [(n, cls)] }
  | none => s.homeWrite pa bs

/-- The line of an address written back before an access at the home agent (Table 6.2, R243). -/
def State.syncLine (s : State) (n pa : Nat) : State :=
  match (s.core (coreOf n)).l1Line (s.ctx n).id.vf (pa / 64) with
  | some l => s.writeBack (coreOf n) l
  | none => s

/-- The copy of a line that a load at device or fabric scope leaves: a later load at core scope fetches it again, so that it
returns no older value (R56). -/
def State.staleLine (s : State) (n pa : Nat) : State :=
  let vf := (s.ctx n).id.vf
  s.onCore (coreOf n) fun k => k.staleIf fun l => l.vf == vf && l.line == pa / 64

/-- What the L1 of a core holds when its split changes: dirty lines are written back, and no line stays, since the sets are
others (R183, R196). (DESIGN CHOICE: log 123) -/
def State.setBlocks (s : State) (core b : Nat) : State :=
  if (s.core core).blocks = b then s
  else (s.writeBackIf core fun _ => true).onCore core fun k => { k with blocks := b, l1 := [] }

/-- May the split change, every dirty line going to memory: no envelope holds one (R419)? -/
def State.canSetBlocks (s : State) (core b : Nat) : Bool := (s.core core).blocks == b || s.canWriteBack core fun _ => true

/-- A store at device or fabric scope: performed at the home agent, and the L1 copy updated (Table 6.2). -/
def State.deviceStore (s : State) (n pa : Nat) (bs : List Byte) : State :=
  let s := (s.syncLine n pa).homeWrite pa bs
  match (s.core (coreOf n)).l1Line (s.ctx n).id.vf (pa / 64) with
  | some l => s.onCore (coreOf n) fun k => k.l1Put { l with
      bytes := overwrite l.bytes (pa % 64) bs
      bad := l.bad.filter fun i => !(pa % 64 ≤ i && i < pa % 64 + bs.length) }
  | none => s

/-- The line of an address written back and dropped from the core's own L1 (R243). -/
def State.purgeLine (s : State) (n pa : Nat) : State :=
  let vf := (s.ctx n).id.vf
  (s.syncLine n pa).onCore (coreOf n) fun k =>
    { k with l1 := k.l1.filter fun l => !(l.vf == vf && l.line == pa / 64) }

end Sys2Proof.Machine
end

