-- ==== Sys2Proof/Machine/Turns.lean ====
section
/-!
DEFINITION. Turns of a core's selector (R99 to R104): which contexts are ready, whose turn it is, how a turn begins, is
charged and ends, and when a round ends early.
-/
namespace Sys2Proof.Machine
open Sys2Proof

/-- What the selector keeps for a VF on a core. -/
def State.share (s : State) (core vf : Nat) : VfShare := lookupD {} vf (s.core core).sel.shares
def Core.onSel (k : Core) (f : Selector → Selector) : Core := { k with sel := f k.sel }
def State.onSel (s : State) (core : Nat) (f : Selector → Selector) : State := s.onCore core fun k => k.onSel f
def Selector.onShare (x : Selector) (vf : Nat) (f : VfShare → VfShare) : Selector :=
  { x with shares := assocSet vf (f (lookupD {} vf x.shares)) x.shares }

/-- The context slots of a core. -/
def slotsOf (core : Nat) : List Nat := (List.range 4).map fun i => 4 * core + i

/-! ## Ready contexts (Table 1.2) -/

/-- Does a routine hold more writes than a save has room for (R438)? -/
def Routine.holdsMany (r : Routine) : Bool :=
  let regs := (r.held.filterMap Effect.target).eraseDups
  8 < (regs.filter fun k => k.1 == 3).length || 8 < (regs.filter fun k => k.1 == 0).length

/-- May a stopped context not be saved before its routine has gone on (R354, R438), or before the routines of the bundle
that halted it are over (R140)? -/
def Ctx.mustRun (c : Ctx) : Bool :=
  match c.routines with
  | [] => false
  | r :: _ => c.life.halting || (c.life.state == .ready && r.bind.steps ≤ 256) || r.holdsMany

/-- A stop flag that is set pauses a routine whose STEPS exceed 256 (R354). -/
def Ctx.sampleStop (c : Ctx) : Ctx :=
  if c.life.stop.isSome && c.routines.head?.any fun r => 256 < r.bind.steps then
    { c with life := { c.life with stopping := true } }
  else c

/-- Is a context ready to issue (Table 1.2)? One that has stopped at a test point issues no more, but for a routine that
runs on (R127, R438). -/
def State.isReady (s : State) (n : Nat) : Bool :=
  let c := s.ctx n
  c.life.state == .ready && (!c.life.stopping || c.mustRun)

/-! ## Turns (R99, R100) -/

/-- The context in its turn, then the entries whose turns are to come. -/
def Selector.entries (x : Selector) : List Nat := x.holder.toList ++ x.turns

/-- The turn of a core: of the context that has it, else of the first entry that is ready; the entries before that one are
passed over (R99). -/
def State.turnOf (s : State) (core : Nat) : Option Nat := (s.core core).sel.entries.find? s.isReady

/-- A round ends early as soon as no entry that remains is ready (R100). -/
def State.settleRound (s : State) (core : Nat) : State :=
  if (s.turnOf core).isSome then s
  else s.onSel core fun x => { x with turns := [], holder := none, charged := 0 }

/-- The turn of a list entry begins, unless it has begun: what its VF has left is what it may spend in the turn. -/
def State.takeTurn (s : State) (core n : Nat) : State :=
  let d := (s.share core (s.ctx n).id.vf).deficit
  s.onSel core fun x =>
    if x.holder == some n || !x.turns.contains n then x
    else { x with turns := (x.turns.dropWhile fun m => m != n).drop 1, holder := some n, charged := 0, left := d }

/-- The turn in progress ends; a turn that has ended already does not end again. -/
def State.endTurn (s : State) (core n : Nat) : State :=
  let s := s.takeTurn core n
  if (s.core core).sel.holder == some n then
    (s.onSel core fun x => { x with holder := none, charged := 0 }).settleRound core
  else s

/-- A context that issues no more on its core loses its place in the round. -/
def State.leaveTurn (s : State) (n : Nat) : State :=
  (s.onSel (coreOf n) fun x =>
    { x with turns := x.turns.filter (· != n)
             holder := x.holder.filter (· != n)
             charged := if x.holder == some n then 0 else x.charged }).settleRound (coreOf n)

/-- A context is about to become ready: a round with no ready entry has ended by then (R100). -/
def State.beforeReady (s : State) (n : Nat) : State := s.settleRound (coreOf n)

/-- Issue slots charged to a VF (R97). -/
def State.chargeVf (s : State) (core vf cost : Nat) : State :=
  s.onSel core fun x => x.onShare vf fun h => { h with deficit := h.deficit - cost }

/-- Issue slots charged in a context's turn, which ends when the deficit it may spend or the context's share has run out,
unless a routine that may not be cut off is in progress (R97, R99, R349). Charges of merged bundles do not count here
(R104), and a turn that begins with nothing left ends after its first charge. (DESIGN CHOICE: log 111) -/
def State.chargeTurn (s : State) (core n cost : Nat) (mayEnd : Bool) : State :=
  let vf := (s.ctx n).id.vf
  let s := ((s.takeTurn core n).chargeVf core vf cost).onSel core fun x =>
    if x.holder == some n then { x with charged := x.charged + cost, left := x.left - cost } else x
  let x := (s.core core).sel
  let count := lookupD 1 vf x.counts
  if mayEnd && (x.left = 0 || ((s.share core vf).quantum + count - 1) / count ≤ x.charged) then s.endTurn core n else s

end Sys2Proof.Machine
end

