-- ==== Sys2Proof/Machine/Hearth.lean ====
section
/-!
DEFINITION. Ember cells at their home agents (R304 to R319): tags, kindling and placement, waiting, backdraught, and how
a waiting load is answered.
-/
namespace Sys2Proof.Machine
open Sys2Proof

/-! ## Cells (R305, R306) -/

/-- Tags: 0 VALUE, 1 EMBER, 2 KINDLED, 3 FAULTED. -/
def State.tag (s : State) (cell : Nat) : Nat := (lookupD 0 (cell / 16) s.tags).toNat
def State.setTag (s : State) (cell t : Nat) : State :=
  { s with tags := sparseSet 0 (cell / 16) (BitVec.ofNat 2 t) s.tags }

/-- The first byte of the cell of an address. -/
def cellOf (a : Nat) : Nat := a / 16 * 16

/-- CTRL of a cell (Table 11.2). -/
def State.cellCtrl (s : State) (cell : Nat) : Dword := s.dword (cell + 8)
def ctrlCause (c : Dword) : Nat := (c.extractLsb' 60 4).toNat
def ctrlPlace (c : Dword) : Nat := (c.extractLsb' 56 2).toNat
def ctrlSet (c : Dword) : Nat := (c.extractLsb' 48 8).toNat
def ctrlEntry (c : Dword) : Dword := (c.extractLsb' 0 48).zeroExtend 64

/-- CAUSE written into a cell's CTRL. -/
def State.setCause (s : State) (cell cause : Nat) : State :=
  s.setBytes (cell + 8) (bytesLE 8 ((BitVec.ofNat 4 cause) ++ (s.cellCtrl cell).extractLsb' 0 60))

/-- EMBFAULT of a cell (R320). -/
def embFault (cause va : Nat) : Trapped := ⟨.embfault, BitVec.ofNat 64 (cause * 2 ^ 60 + va)⟩

/-! ## Port entries that fail or complete -/

/-- A later fault of an access on its way to the port (R202); nothing of an ended context's accesses is reported. -/
def State.portFault (s : State) (n id : Nat) (t : Trapped) : State :=
  s.onCtx n fun c =>
    if c.life.mute then { c with port := { c.port with queue := c.port.queue.filter fun r => r.id != id } }
    else { c with port := { c.port.change id (fun r => { r with stage := .faulted, done := [], fails := [] }) with
                            faults := c.port.faults ++ [⟨id, t⟩] } }

/-- Bytes of the memory that a load or store covers. -/
def PortReq.size (r : PortReq) : Nat :=
  match r.work with
  | .op (.ldf h _) | .op (.stf h _) | .op (.amo h _) | .op (.cas h _) | .op (.red h _) => typeBytes h.typ
  | .op (.vldf _ _) | .op (.vstf _ _) | .op (.svst _ _) => 512
  | .op (.emake _ _) | .op (.efill _ _) | .op (.efail _ _) | .op (.earm _ _) | .op (.estat _ _) => 16
  | _ => 8

/-- The header of an entry's op. -/
def PortReq.hdr (r : PortReq) : Option Hdr :=
  match r.work with
  | .op i => i.op?.map fun x => x.2.1
  | .signal _ _ => none

/-- The MEM fields of an entry's op. -/
def PortReq.mem (r : PortReq) : Option MemF :=
  match r.work with
  | .op i => match i.op? with
    | some (_, _, .mem f) => some f
    | _ => none
  | .signal _ _ => none

/-- Scope of a MEM op (Table 2.1). -/
def PortReq.scope (r : PortReq) : Nat := r.mem.elim 2 MemF.scope

/-- ORDER of a MEM op. -/
def PortReq.ordered (r : PortReq) : Bool := r.mem.elim false fun f => f.order == 1

/-- Is the access an acquire, which orders later accesses after itself (R47, R64, R65)? `emb` says that it meets an ember
region. -/
def PortReq.acquires (r : PortReq) (emb : Bool) : Bool :=
  match r.work with
  | .op i =>
    match i with
    | .ldf _ _ | .vldf _ _ => emb || r.ordered
    | .amo _ _ | .cas _ _ => r.ordered
    | .wta _ _ => true
    | .epeek _ _ => emb
    | _ => false
  | .signal _ _ => false

/-- Does any part of an access lie in an ember region? -/
def State.meetsRegion (s : State) (n : Nat) (r : PortReq) : Bool :=
  (List.range ((r.size + 7) / 8)).any fun i => (s.region (s.ctx n).id.vf (r.addr.toNat + 8 * i)).isSome

/-- The effect of an acquire on the L1 when it returns: one at context or core scope orders at the L1 alone (R197, R204). -/
def Ctx.acquiredBy (c : Ctx) (r : PortReq) (emb : Bool) : Ctx :=
  let implicit := match r.work with
    | .op (.wta _ _) => true
    | _ => emb
  if r.acquires emb && (implicit || 2 ≤ r.scope) then c.setAcquired else c

/-- The landing of a completed `ldf` or `vldf`. -/
def PortReq.loadLanding (r : PortReq) (bs : List Byte) : Landing :=
  match r.work with
  | .op (.ldf h f) => { id := r.id, words := [(f.d.toNat, loadedValue h.typ bs)] }
  | .op (.vldf _ f) => { id := r.id, vector := some (f.d.toNat, bs) }
  | _ => { id := r.id }

/-- Is every byte of the access below an offset done? -/
def PortReq.doneBelow (r : PortReq) (off : Nat) : Bool :=
  ((r.done.filter fun p => p.1 < off).foldl (fun n p => n + p.2.length) 0) == off

/-- Pieces in the order of their offsets. -/
def joinPieces (size : Nat) (ps : List (Nat × List Byte)) : List Byte :=
  ps.foldl (fun bs p => overwrite bs p.1 p.2) (List.replicate size 0)

/-- A load answered once every byte has come, or refused with the fault of its lowest failing cell once nothing below
it is still waiting (R312). -/
def State.settleLoad (s : State) (n id : Nat) : State :=
  match (s.ctx n).port.queue.find? fun r => r.id == id with
  | none => s
  | some r =>
    let low := r.fails.foldl (fun (m : Option (Nat × Trapped)) f =>
      match m with
      | none => some f
      | some g => if f.1 < g.1 then some f else some g) none
    match low with
    | some (off, t) =>
      if r.doneBelow off then
        { s with waiters := s.waiters.filter fun w => w.loader != Loader.port n id }.portFault n id t
      else s
    | none =>
      if r.doneBelow r.size then s.onCtx n fun c =>
        let c := c.respond (r.loadLanding (joinPieces r.size r.done))
        c.acquiredBy r (s.meetsRegion n r)
      else s

/-- Bytes of a cell, or of memory from `va` on, given to a load. -/
def PortReq.take (r : PortReq) (va : Nat) (bs : List Byte) : PortReq :=
  let a := r.addr.toNat
  let lo := max a va
  let hi := min (a + r.size) (va + bs.length)
  { r with done := r.done ++ [(lo - a, (bs.drop (lo - va)).take (hi - lo))] }

/-- What a waiting loader gets: the cell's bytes, or a fault. -/
def State.answer (s : State) (w : EmbWaiter) (r : Except Trapped (List Byte)) : State :=
  match w.loader with
  | .port n id =>
    let s := s.onCtx n fun c => { c with port := c.port.change id fun q =>
      match r with
      | .ok bs => q.take w.va bs
      | .error t => { q with fails := q.fails ++ [(w.va - q.addr.toNat, t)] } }
    s.settleLoad n id
  | .beat j b =>
    { s with jobs := s.jobs.map fun job =>
        if job.id == j then
          { job with beats := job.beats.map fun x =>
              if x.num == b then
                match r with
                | .ok bs => { x with bytes := sparseSetList' w.va bs x.bytes }
                | .error t => { x with fault := some t }
              else x }
        else job }
  | .remote k =>
    { s with gathered := s.gathered ++ [(k, w.va, match r with
        | .ok bs => some bs
        | .error _ => none)] }
where
  /-- Bytes put under consecutive keys. -/
  sparseSetList' (a : Nat) (bs : List Byte) (l : Assoc Byte) : Assoc Byte :=
    ((List.range bs.length).zip bs).foldl (fun l p => assocSet (a + p.1) p.2 l) l

/-- Every waiter of a cell answered and freed (R311). -/
def State.answerAll (s : State) (cell : Nat) (r : Nat → Except Trapped (List Byte)) : State :=
  let ws := s.waiters.filter fun w => w.cell == cell
  ws.foldl (fun s w => s.answer w (r w.va)) { s with waiters := s.waiters.filter fun w => w.cell != cell }

/-! ## The ends of an evaluation (R307) -/

/-- A KINDLED cell becomes FAULTED: its waiters receive EMBFAULT, and its hearth record is freed. -/
def State.failCell (s : State) (cell cause : Nat) : State :=
  let s := (s.setTag cell 3).setCause cell cause
  { s with hearths := s.hearths.filter fun h => h.cell != cell }.answerAll cell fun va => .error (embFault cause va)

/-- A KINDLED cell becomes VALUE: its waiters are woken with its bytes (R325). -/
def State.fillCell (s : State) (cell : Nat) (bs : List Byte) : State :=
  let s := (s.setTag cell 0).homeWrite cell bs
  { s with hearths := s.hearths.filter fun h => h.cell != cell }.answerAll cell fun _ => .ok bs

/-- The hearth record of the cell that a context evaluates. -/
def State.ownHearth (s : State) (n : Nat) : Option Hearth := s.hearths.find? fun h => h.eval == some n

/-- An evaluator that ends with its cell KINDLED abandons it (R16). -/
def State.abandon (s : State) (n : Nat) : State :=
  match s.ownHearth n with
  | some h => s.failCell h.cell 2
  | none => s

/-- The waiter entries of a context's loads withdrawn (R313). -/
def State.withdraw (s : State) (n : Nat) : State :=
  { s with waiters := s.waiters.filter fun w =>
      match w.loader with
      | .port m _ => m != n
      | _ => true }

/-! ## Placement (R309, R310) -/

/-- Does a core meet PLACE (Table 11.2)? -/
def meetsPlace (place core : Nat) : Bool := place == 0 || (place == 1 && isLean core) || (place == 2 && !isLean core)

/-- A set of the device. -/
def State.set (s : State) (k : Nat) : SetEntry := lookupD {} k s.sets

/-- Evaluator slots that are members of a set, on cores meeting PLACE (R309): those that did not leave it (R18), and a
slot that drains, which keeps its memberships for its next evaluation (R16). -/
def State.evalSlots (s : State) (set place : Nat) : List Nat :=
  (s.ctxs.filter fun p => p.2.id.kind == .eval && p.2.life.state != .free && meetsPlace place (coreOf p.1) &&
    ((s.set set).members.contains p.1 || (p.2.life.state == .draining && p.2.id.sets.contains set))).map (·.1)

/-- The key of R309, as one number in the same order. -/
def placeKey (slice n : Nat) : Nat :=
  let c := coreOf n
  let near := fun (a b : Nat) => if a ≤ b then b - a else a - b
  let k := if dieOf c = slice / 16 then near (c % 64 / 4) (slice % 16) else 1024 + near (dieOf c) (slice / 16)
  k * 1024 + n

/-- The IDLE slot that an evaluation is placed in (R309). (DESIGN CHOICE: log 77) -/
def State.choosePlace (s : State) (slice set place : Nat) : Option Nat :=
  ((s.evalSlots set place).filter fun n => (s.ctx n).life.state == .idle).foldl
    (fun m n => match m with
      | none => some n
      | some k => if placeKey slice n < placeKey slice k then some n else some k) none

/-- An evaluator slot at the start of an evaluation (R16, R309): its REDLOG stands (R251), and its descriptor table, which the
spec does not name here, is empty. (DESIGN CHOICE: log 117) -/
def Ctx.startEval (c : Ctx) (h : Hearth) (entry arg : Dword) : Ctx :=
  { life := { state := .ready }, id := c.id, binds := c.binds, pc := entry,
    regs := { s := sparseSet 0 2 arg (sparseSet 0 1 (BitVec.ofNat 64 h.va) []) },
    ctl := { chain := h.chain, redlog := c.ctl.redlog, overrun := c.ctl.overrun } }

/-- The semaphores of a window reset to zero. -/
def State.clearSems (s : State) (n : Nat) : State :=
  let id := (s.ctx n).id
  s.onCore (coreOf n) fun k =>
    { k with sems := k.sems.filter fun p => !(id.semBase ≤ p.1 && p.1 < id.semBase + id.semCount) }

/-- A kindled cell placed in a slot. -/
def State.placeEval (s : State) (h : Hearth) (n : Nat) : State :=
  let ctrl := s.cellCtrl h.cell
  let s := ((s.clearSems n).beforeReady n).onCtx n fun c => c.startEval h (ctrlEntry ctrl) (s.dword h.cell)
  { s with
    hearths := s.hearths.map fun x => if x.cell == h.cell then { x with eval := some n } else x
    served := assocSet n (sliceOf h.cell) s.served }

/-- The head of a slice's kindle queue. -/
def State.queueHead (s : State) (slice : Nat) : Option Hearth :=
  s.hearths.find? fun h => h.eval.isNone && sliceOf h.cell == slice

/-- A slot that became IDLE takes the first kindle-queue head it could serve (R310). -/
def State.offerSlot (s : State) (n : Nat) : State :=
  let start := (lookup? n s.served).elim 0 fun x => x + 1
  let heads := (List.range 64).filterMap fun i => s.queueHead ((start + i) % 64)
  match heads.find? fun h => (s.evalSlots h.set h.place).contains n with
  | some h => s.placeEval h n
  | none => s

/-! ## A load that meets a cell (R308, R311, R315, R316) -/

/-- What a load gets from a cell. -/
inductive CellLoad where
  | value (bs : List Byte)
  | waits (s : State)
  /-- Refused for a full waiter table or kindle queue: to be sent again (R308). -/
  | refused
  | fails (t : Trapped) (s : State)

/-- Cells that the evaluator of a cell waits on (R316). -/
def State.waitsOn (s : State) (cell : Nat) : List Nat :=
  match s.hearths.find? fun h => h.cell == cell with
  | some { eval := some e, .. } =>
    s.waiters.filterMap fun w =>
      match w.loader with
      | .port m _ => if m = e then some w.cell else none
      | _ => none
  | _ => []

/-- Do waits-on links lead from `y` to `x` in at most `k` links? -/
def State.linked (s : State) (x : Nat) : Nat → Nat → Bool
  | 0, y => y == x
  | k + 1, y => y == x || (s.waitsOn y).any fun z => s.linked x k z

/-- Room in a slice's waiter table (R311). -/
def State.waiterRoom (s : State) (slice : Nat) : Bool :=
  (s.waiters.filter fun w => sliceOf w.cell == slice).length < 4096

/-- A load meets a cell; `chain` is the loader's chain and `own` the cell it evaluates, if it is an evaluator. A kindle
queue that is full takes no entry either where the set's idle slots do not meet PLACE. (DEDUCED: log 141) -/
def State.loadCell (s : State) (ld : Loader) (chain : List Dword) (own : Option Nat) (vf cell va : Nat) : CellLoad :=
  let slice := sliceOf cell
  let inChain := chain.contains (BitVec.ofNat 64 va)
  let w : EmbWaiter := { loader := ld, cell := cell, va := va }
  let withWaiter := { s with waiters := s.waiters ++ [w] }
  let here := BitVec.ofNat 64 va
  match s.tag cell with
  | 0 => .value (s.bytes cell 16)
  | 1 =>
    let ctrl := s.cellCtrl cell
    let set := ctrlSet ctrl
    let place := ctrlPlace ctrl
    let slot := s.choosePlace slice set place
    let full := 256 ≤ (s.hearths.filter fun h => h.eval.isNone && sliceOf h.cell == slice).length
    let idle := (s.evalSlots set 0).any fun n => (s.ctx n).life.state == .idle
    if 8 ≤ chain.length then .fails ⟨.chaindepth, here⟩ s
    else if !s.waiterRoom slice || (!idle && full) then .refused
    else if (s.evalSlots set place).isEmpty then .fails (embFault 3 va) ((s.setTag cell 3).setCause cell 3)
    else if slot.isNone && full then .refused
    else
      let h : Hearth :=
        { cell := cell, va := va, vf := vf, set := set, place := place, chain := here :: chain, eval := none }
      let t := { withWaiter.setTag cell 2 with hearths := s.hearths ++ [h] }
      .waits (match slot with
        | some n => t.placeEval h n
        | none => t)
  | 2 =>
    if inChain then .fails ⟨.backdraught, here⟩ s
    else if !s.waiterRoom slice then .refused
    else
      match own with
      | some x => if s.linked x 7 cell then .fails ⟨.backdraught, here⟩ s else .waits withWaiter
      | none => .waits withWaiter
  | _ => .fails (embFault (ctrlCause (s.cellCtrl cell)) va) s

/-! ## A store that meets cells (R307, R484) -/

/-- Bytes stored within one cell: false when the cell is KINDLED and nothing is written. -/
def State.storeCell (s : State) (pa : Nat) (bs : List Byte) : State × Bool :=
  let cell := cellOf pa
  match s.tag cell with
  | 0 => (s.setBytes pa bs, true)
  | 2 => (s, false)
  | _ => (((s.setTag cell 0).setBytes cell (List.replicate 16 0)).setBytes pa bs, true)

/-- A store on an EMB page cell by cell: the state, with the waits on its lines woken (R254), and the offset of the lowest
KINDLED cell met. -/
def State.storeCells (s : State) (pa : Nat) (bs : List Byte) : State × Option Nat :=
  let first := cellOf pa
  let n := (cellOf (pa + bs.length - 1) - first) / 16 + 1
  let (s, bad) := (List.range n).foldl (fun (x : State × Option Nat) i =>
    let lo := max pa (first + 16 * i)
    let hi := min (pa + bs.length) (first + 16 * i + 16)
    let (s, ok) := x.1.storeCell lo ((bs.drop (lo - pa)).take (hi - lo))
    (s, if ok then x.2 else x.2.or (some (lo - pa)))) (s, none)
  (s.wakeLines fun l => pa / 64 ≤ l && l ≤ (pa + bs.length - 1) / 64, bad)

end Sys2Proof.Machine
end

