-- ==== Sys2Proof/Machine/Shared.lean ====
section
/-!
DEFINITION. Objects that several engines share and a context's end must settle: context sets and their barriers (R17,
R18, R256, R259), the completion of copy jobs (R224, R236), and the decision of envelopes (R421, R422).
-/
namespace Sys2Proof.Machine
open Sys2Proof

/-! ## Context sets (R17, R256, R259) -/

def State.onSet (s : State) (k : Nat) (f : SetEntry → SetEntry) : State :=
  { s with sets := assocSet k (f (s.set k)) s.sets }

/-- A generation in which every current member has arrived is released (R256). -/
def SetEntry.test (e : SetEntry) : SetEntry :=
  if !e.arrivals.isEmpty && e.members.all fun m => e.arrivals.contains m then
    { e with arrivals := [], released := e.released ++ e.arrivals, gen := e.gen + 1 }
  else e

/-- An arrival counted. -/
def SetEntry.arrive (e : SetEntry) (n : Nat) : SetEntry := { e with arrivals := e.arrivals ++ [n] }.test

/-- A member leaves (R18, R259). -/
def SetEntry.leave (e : SetEntry) (n : Nat) : SetEntry :=
  { e with members := e.members.filter (· != n), arrivals := e.arrivals.filter (· != n),
           released := e.released.filter (· != n) }.test

/-- A context leaves every set it belongs to. -/
def State.leaveSets (s : State) (n : Nat) : State :=
  { s with sets := s.sets.map fun p => (p.1, if p.2.members.contains n then p.2.leave n else p.2) }

/-! ## Effects that may meet a SAVED context (R445) -/

def State.addPending (s : State) (n : Nat) (p : Pending) : State :=
  match lookup? n s.saved with
  | some v => { s with saved := assocSet n { v with pend := v.pend ++ [p] } s.saved }
  | none => s

/-- A semaphore of a context's window raised, now or at its restore (R25). -/
def State.raiseSem (s : State) (n h v : Nat) : State :=
  if (s.ctx n).life.state = .saved then s.addPending n (.sem h v) else s.addSem n h v

/-- A saturating 64-bit total (R174). -/
def addTotal (a : Dword) (n : Nat) : Dword := BitVec.ofNat 64 (min (a.toNat + n) (2 ^ 64 - 1))

/-- Damage totals added (R174, R286, R218). -/
def Ctx.addDamage (c : Ctx) (sat zeroed sac : Nat) : Ctx :=
  { c with ctl := { c.ctl with dmgSat := addTotal c.ctl.dmgSat sat, dmgZero := addTotal c.ctl.dmgZero zeroed,
                               dmgSac := addTotal c.ctl.dmgSac sac } }

/-- The signal of an op whose hold is over, applied at once. -/
def State.fireSignal (s : State) (n : Nat) (sig : Option Nat) : State :=
  match sig.bind fun id => (s.ctx n).port.queue.find? fun r => r.id == id with
  | some r =>
    let s := s.onCtx n fun c => { c with port := { c.port with queue := c.port.queue.filter fun q => q.id != r.id } }
    match r.work with
    | .signal h v => if (s.ctx n).life.mute then s else s.raiseSem n h v
    | .op _ => s
  | none => s

/-! ## Copy jobs -/

/-- A little-endian number in a card or image. -/
def imageField (bs : List Byte) (off n : Nat) : Nat := natOfBytes ((bs.drop off).take n)

/-- CTRL, ROUTE and SIGNAL of a card (Tables 7.2 to 7.4). -/
def cardCtrl (card : List Byte) : BitVec 64 := BitVec.ofNat 64 (imageField card 0 8)
def cardRoute (card : List Byte) : BitVec 64 := BitVec.ofNat 64 (imageField card 8 8)
def cardSignal (card : List Byte) : BitVec 64 := BitVec.ofNat 64 (imageField card 16 8)
/-- Bits [lo + n - 1 : lo] as a number. -/
def bits64 (x : BitVec 64) (lo n : Nat) : Nat := (x.extractLsb' lo n).toNat

def State.job? (s : State) (id : Nat) : Option Job := s.jobs.find? fun j => j.id == id
def State.onJob (s : State) (id : Nat) (f : Job → Job) : State :=
  { s with jobs := s.jobs.map fun j => if j.id == id then f j else j }

/-- The counter that a waiting `bbw` names. -/
def PortReq.bbwOn (r : PortReq) : Option Nat :=
  if r.stage != .waiting then none
  else match r.work with
    | .op (.bbw _ f) => some f.a.toNat
    | _ => none

/-- A counter that has reached zero releases the `bbw` ops that wait on it, which acquire (R238). -/
def Ctx.wakeBbw (c : Ctx) (k : Nat) : Ctx :=
  if lookupD 0 k c.bb ≠ 0 then c
  else (c.port.queue.filter fun r => r.bbwOn == some k).foldl
    (fun c r => (c.respond { id := r.id, words := [(r.dest, 0)] }).setAcquired) c

/-- Every `bbw` whose counter is zero returns. -/
def Ctx.settleBbw (c : Ctx) : Ctx := (c.port.queue.filterMap (·.bbwOn)).foldl (fun c k => c.wakeBbw k) c

/-- Bytes subtracted from a context's counter (R224). -/
def Ctx.subCounter (c : Ctx) (bb : Option Nat) (n : Nat) : Ctx :=
  match bb with
  | none => c
  | some k => { c with bb := sparseSet 0 k (lookupD 0 k c.bb - BitVec.ofNat 48 n) c.bb }.wakeBbw k

/-- Bytes of a job that have landed, subtracted from its count and its counter (R224). -/
def State.subBytes (s : State) (j : Job) (n : Nat) : State :=
  let s := s.onJob j.id fun j => { j with bytes := j.bytes - n }
  if j.orphan then s
  else if (s.ctx j.ctx).life.state = .saved then s.addPending j.ctx (.bytes j.bb n)
  else s.onCtx j.ctx fun c => c.subCounter j.bb n

/-- The completion increment in each destination window (R224); a member that is FROZEN or DRAINING receives nothing
(R225). -/
def State.completionIncrement (s : State) (j : Job) : State :=
  let sem := bits64 (cardSignal j.card) 0 8
  let inc := bits64 (cardSignal j.card) 8 4
  let live := fun (s : State) (n : Nat) =>
    (s.ctx n).life.state != .frozen && (s.ctx n).life.state != .draining && (s.ctx n).life.state != .free
  if inc = 0 then s
  else if j.dst.space = 1 then (if j.orphan then s else s.raiseSem j.ctx sem inc)
  else if j.dst.space = 5 then j.members.foldl (fun s n => if live s n then s.raiseSem n sem inc else s) s
  else s

/-- A job whose count has reached zero completes in one step (R224, R236, R241). -/
def State.completeJob (s : State) (j : Job) : State :=
  let (a, b, d) := j.damage
  let last := !s.jobs.any fun k => k.group == j.group && k.id != j.id
  let s := s.completionIncrement j
  let s :=
    if j.orphan then s
    else if (s.ctx j.ctx).life.state = .saved then (s.addPending j.ctx (.damage a b d)).addPending j.ctx (.jobDone j.id (if last then j.sig else none))
    else (s.onCtx j.ctx fun c => c.addDamage a b d).fireSignal j.ctx (if last then j.sig else none)
  { s.onCore (coreOf j.ctx) (fun k => { k with board := k.board.filter fun e => e.job != j.id }) with
    jobs := s.jobs.filter fun k => k.id != j.id }

/-- Jobs cancelled: queue entries, counters' bytes and scoreboard entries go (Table 1.4). -/
def State.cancelJob (s : State) (j : Job) : State :=
  let s := s.onCtx j.ctx fun c => c.subCounter j.bb j.bytes
  { s.onCore (coreOf j.ctx) (fun k => { k with board := k.board.filter fun e => e.job != j.id }) with
    jobs := s.jobs.filter fun k => k.id != j.id }

/-- The sealed jobs of a VOID envelope drop their remaining beats and complete (R227, R422). -/
def State.dropSealed (s : State) (eid : Nat) : State :=
  (s.jobs.filter fun j => j.eid == eid).foldl (fun s j =>
    (s.subBytes j j.bytes).completeJob { j with bytes := 0 }) s

/-! ## Envelopes -/

/-- The devices of a participant mask. -/
def maskDevices (m : BitVec 64) : List Nat := (List.range 64).filter fun i => m.getLsbD i

/-- The status word of a slot (Table 14.6). -/
def EnvSlot.word (e : EnvSlot) : Dword := BitVec.ofNat 64 (e.gen * 2 ^ 16 + e.cause * 2 ^ 4 + e.state)

/-- Is this an `swait` whose envelope is still POSTED? -/
def PortReq.isSwait (r : PortReq) (eid : Nat) : Bool :=
  r.stage == .waiting && r.eid == eid && match r.work with
    | .op (.swait _ _) => true
    | _ => false

/-- Waits on an envelope return the status word; PUBLISHED acquires (R415, R416). -/
def Ctx.wakeSwait (c : Ctx) (eid : Nat) (e : EnvSlot) : Ctx :=
  (c.port.queue.filter fun r => r.isSwait eid).foldl
    (fun c r =>
      let c := c.respond { id := r.id, words := [(r.dest, e.word)] }
      if e.state = 3 then c.setAcquired else c) c

/-- A slot's outcome, with the waits on it. -/
def Ctx.outcome (c : Ctx) (eid st cause : Nat) : Ctx :=
  (c.env.filter fun p => p.2.eid == eid && (p.2.state == 1 || p.2.state == 2)).foldl
    (fun c p =>
      let e := { p.2 with state := st, cause := cause }
      { c with env := assocSet p.1 e c.env }.wakeSwait eid e) c

/-- The status of the slot that holds an envelope changed, now or at restore (R428). -/
def State.setOutcome (s : State) (eid st cause : Nat) : State :=
  let holds := fun (c : Ctx) => c.env.any fun p => p.2.eid == eid && (p.2.state == 1 || p.2.state == 2)
  let s := (s.ctxs.filter fun p => p.2.life.state == .saved && holds p.2).foldl
    (fun s p => s.addPending p.1 (.envelope eid st cause)) s
  { s with ctxs := s.ctxs.map fun p => (p.1, if p.2.life.state != .saved then p.2.outcome eid st cause else p.2) }

/-- A coordinator record changed. -/
def State.onCoord (s : State) (eid : Nat) (f : Coord → Coord) : State :=
  { s with coords := s.coords.map fun c => if c.eid == eid then f c else c }

/-- A packet sent to a device, this one included. -/
def State.send (s : State) (dst : Nat) (m : Msg) : State :=
  { s with packets := s.packets ++ [(s.nextId, { src := s.fabxy, dst := dst, msg := m })], nextId := s.nextId + 1 }

/-- Is an envelope finished: decided, every participant DONE, every seal request acknowledged (R426)? -/
def Coord.isOver (c : Coord) : Bool :=
  c.decision.isSome && c.unacked == 0 && (maskDevices c.mask).all fun d => c.done.contains d

/-- The EID that an envelope message names (Table 14.7). -/
def eidNamed : Msg → Option Nat
  | .seal m => some m.eid
  | .sealack a => some a.eid
  | .fail e _ _ | .prepare e _ | .ready e _ | .publish e | .discard e _ | .done e _ | .query e _ => some e
  | _ => none

/-- The coordinator records of finished envelopes go. No message under their EIDs outlives them, nor does what this device as
destination still knows of them: new envelopes may take the EIDs (R404, R426). -/
def State.reapCoord (s : State) : State :=
  let gone := (s.coords.filter Coord.isOver).map (·.eid)
  { s with
    coords  := s.coords.filter fun c => !c.isOver
    freed   := s.freed.filter fun e => !gone.contains e
    packets := s.packets.filter fun p => !(eidNamed p.2.msg).any gone.contains }

/-- The coordinator decides an envelope that is not yet decided: 0 for PUBLISHED, otherwise the void cause (R407, R421,
R422). -/
def State.decideEnvelope (s : State) (eid cause : Nat) : State :=
  match s.coords.find? fun c => c.eid == eid with
  | some c =>
    if c.decision.isSome then s
    else
      let s := s.setOutcome eid (if cause = 0 then 3 else 4) cause
      let s := s.onCoord eid fun c => { c with decision := some cause }
      let s := (maskDevices c.mask).foldl
        (fun s d => s.send d (if cause = 0 then .publish eid else .discard eid cause)) s
      let s := if cause = 0 then s else s.dropSealed eid
      match c.post with
      | some (n, id) => s.onCtx n fun c => c.completeSignal (some id)
      | none => s
  | none => (s.setOutcome eid (if cause = 0 then 3 else 4) cause).dropSealed eid

end Sys2Proof.Machine
end

