-- ==== Sys2Proof/Machine/Traps.lean ====
section
/-!
DEFINITION. Taking a trap and ending a context: delivery to the handler (R430, R433, R434), retirement (R22), error
records (R448), the stop flag (R127), and the faults an op raises at issue or after its bundle (R432).
-/
namespace Sys2Proof.Machine
open Sys2Proof

/-- TestStop (R127): a set stop flag stops the context from issuing any further bundle. -/
def State.testStop (s : State) (n : Nat) : State :=
  s.onCtx n fun c =>
    { c with ctl := { c.ctl with sinceTest := 0 }
             life := { c.life with stopping := c.life.stopping || c.life.stop.isSome } }

/-- An error record (Table 15.8); what a cause names beside its INFO follows the REDLOG entries (R399). -/
def errorRecord (kind : Nat) (t : Trapped) (n : Nat) (c : Ctx) (extra : Nat) (tail : List Byte := []) : List Byte :=
  [BitVec.ofNat 8 kind, BitVec.ofNat 8 (if kind = 0x11 then 0 else t.cause.code)] ++ natBytes 2 n ++
    [BitVec.ofNat 8 c.id.vf, if c.trap.tl then 1 else 0] ++ natBytes 2 c.ctl.redlog.length ++
    natBytes 8 c.trap.pc.toNat ++ natBytes 8 t.info.toNat ++ natBytes 8 extra ++
    (c.ctl.redlog.flatMap fun e => natBytes 8 e.addr.toNat ++ natBytes 8 e.opWord.toNat ++ natBytes 8 e.operand.toNat) ++ tail

/-! ## The end of a context (R22, Table 1.4) -/

/-- The tiles that an M op reads or writes, and its accumulators (Table 10.1). -/
def opTiles : Instr → List Nat
  | .mma _ f | .mmz _ f => [f.a.toNat, f.b.toNat]
  | .mrdTile _ f | .tlds _ f | .tsts _ f | .tfill _ f => [f.d.toNat]
  | .ttr _ f | .tmov _ f | .tq4x _ f => [f.d.toNat, f.a.toNat]
  | _ => []
def opAccs : Instr → List Nat
  | .mma _ f | .mmz _ f => [f.d.toNat]
  | .macc _ f => [f.d.toNat, f.a.toNat]
  | .mclr _ f => [f.d.toNat]
  | .mstat _ f | .mrdTile _ f | .mrdVector _ f => [f.a.toNat]
  | _ => []

/-- Is a `vtwr` to write a tile that a queued M op names? It would come between what that op reads or writes (R264). -/
def Ctx.awaitsArray (c : Ctx) (d : Deferred) : Bool :=
  match d.eff with
  | .tileBytes t _ => c.mat.queue.any fun q => (opTiles q.op).contains t
  | _ => false

/-- The ordering class of an access (R44). -/
def PortReq.cls (r : PortReq) : Option Nat :=
  match r.work with
  | .op i =>
    match i with
    | .ldf _ f | .stf _ f | .vldf _ f | .vstf _ f | .pref _ f | .cflush _ f | .amo _ f | .cas _ f | .red _ f | .wta _ f
    | .emake _ f | .efill _ f | .epeek _ f | .efail _ f | .earm _ f | .estat _ f => some f.cls
    | _ => none
  | .signal _ _ => none

/-- Has the access not yet been performed? -/
def PortReq.open? (r : PortReq) : Bool := r.cls.isSome && r.stage != .performed

/-- The classes a fence covers, and its scope. -/
def PortReq.fence? (r : PortReq) : Option (BitVec 16 × Nat) :=
  match r.work with
  | .op (.fence _ f) => some (f.imm.extractLsb' 0 16, (f.fn.extractLsb' 4 2).toNat)
  | _ => none

/-- Loads and waits, which end with their context, unperformed: their results would be discarded. (DESIGN CHOICE: log 157) -/
def PortReq.isReading (r : PortReq) : Bool :=
  match r.work with
  | .op i =>
    match i with
    | .ldf _ _ | .vldf _ _ | .pref _ _ | .wta _ _ | .epeek _ _ | .estat _ _ | .bar _ _ | .barr _ _ | .barw _ _
    | .gleave _ _ | .bbw _ _ | .bbrd _ _ | .cpq _ _ | .swait _ _ | .sstat _ _ | .itake _ _ | .istat _ _ => true
    | _ => false
  | .signal _ _ => false

/-- The signals whose op can still complete after the context's end. -/
def State.liveSignals (s : State) (n : Nat) : List Nat :=
  let c := s.ctx n
  (c.port.queue.filter fun r => !r.isReading).filterMap (·.sig) ++ c.mat.queue.filterMap (·.sig) ++
    (c.allDeferred.filter c.awaitsArray).filterMap (·.sig) ++
    (s.jobs.filter fun j => j.ctx == n).filterMap (·.sig) ++
    s.coords.filterMap fun k => k.post.bind fun p => if p.1 = n then some p.2 else none

/-- Does a fence still order accesses behind one of the entries before it (R46)? -/
def PortReq.stillOrders (r : PortReq) (before : List PortReq) : Bool :=
  r.fence?.all fun m => before.any fun e => e.level == r.level && e.seq < r.seq &&
    ((e.open? && e.cls.any fun k => m.1.getLsbD k) || e.fence?.any fun x => x.1 &&& m.1 != 0)

/-- What remains of the port: stores and atomics already issued, the fences among them, and, for a `halt`, the signals that
still apply. -/
def Port.remains (p : Port) (live : List Nat) (mute : Bool) : Port :=
  { p with
    queue := (p.queue.filter fun r =>
      match r.work with
      | .op _ => !r.isReading && r.stage != .faulted
      | .signal _ _ => !mute && (r.stage != .incomplete || live.contains r.id)).foldl
        (fun l r => if r.stillOrders l then l ++ [r] else l) []
    landings := [], faults := [], departs := [] }

/-! ## Scratchpad stores (R48) -/

/-- The bytes of the low end of a register, at an address. -/
def storeBytes (a n v : Nat) : List (Nat × Byte) := ((List.range n).map fun i => a + i).zip (natBytes n v)

/-- The scratchpad bytes of an effect. -/
def Effect.stores : Effect → List (Nat × Byte)
  | .store _ size _ ws => ws.flatMap fun (_, a, v) => storeBytes a size v
  | _ => []

/-- Queued `tsts` ops that precede a store effect of a level: the store's bytes will stand over theirs (R294). -/
def Ctx.shadowStores (c : Ctx) (lvl : Bool) (d : Deferred) (ws : List (Nat × Byte)) : Ctx :=
  { c with mat := { c.mat with queue := c.mat.queue.map fun q =>
      if (q.level && !lvl) || (q.level == lvl && (q.due < d.due || (q.due == d.due && 3 < d.slot))) then
        { q with shadow := q.shadow ++ (ws.filter fun w => q.addrs.contains w.1).map fun w => (w.1, d.due) }
      else q } }

/-- A store effect made in the window. -/
def State.applyStore (s : State) (n : Nat) (lvl : Bool) (d : Deferred) : State :=
  match d.eff.stores with
  | [] => s
  | ws => (s.setSpBytes n ws).onCtx n fun c => c.shadowStores lvl d ws

/-- Deferred entries by slot, oldest first within a slot: the order of stores at one due bundle (R48). That of two stores of
one slot the older is made first is the model's choice. (DESIGN CHOICE: log 109) -/
def bySlot (ds : List Deferred) : List Deferred := (List.range 7).flatMap fun k => ds.filter fun d => d.slot == k

/-- Entries of a level in the order in which their due bundles would have made them. -/
def byDue (ds : List Deferred) : List Deferred :=
  ((sortKey id (ds.map (·.due))).eraseDups).flatMap fun k => bySlot (ds.filter fun d => d.due == k)

/-- What a retired context has issued to its window and its tiles and is not yet due is made at once, level 1 first:
R22 discards register writes alone. A `vtwr` still comes after the M ops that the array holds on its tile (R264).
(DEDUCED: log 108) -/
def State.landStores (s : State) (n : Nat) : State :=
  let land := fun (lvl : Bool) (s : State) (d : Deferred) =>
    if (s.ctx n).awaitsArray d then s
    else match d.eff with
    | .store _ _ _ _ => (s.applyStore n lvl d).onCtx n fun c => c.completeSignal d.sig
    | .tileBytes t ws => s.onCtx n fun c => (c.setTileBytes t ws).completeSignal d.sig
    | _ => s
  let c := s.ctx n
  (byDue c.lv0.deferred).foldl (land false) ((byDue c.lv1.deferred).foldl (land true) s)

/-- A context stops issuing and its slot drains (R22): pending timed register writes are discarded. (DEDUCED: log 108) -/
def Ctx.endLife (c : Ctx) (live : List Nat) (mute : Bool) : Ctx :=
  { c with
    life := { c.life with state := .draining, wait := .none, stopping := false, stop := none, mute := mute,
                          fetchFault := none, returning := false, halting := false }
    trap := { c.trap with list := [], held := [] }
    lv0 := { c.lv0 with deferred := [] }
    lv1 := { c.lv1 with deferred := [] }
    routines := [], after := [], afterPost := []
    port := c.port.remains live mute }

/-- The writes to tiles that wait for the array when their context ends (R264). -/
def Ctx.tileWrites (c : Ctx) : List Deferred := byDue (c.lv1.deferred.filter c.awaitsArray) ++ byDue (c.lv0.deferred.filter c.awaitsArray)

/-- Those of them that wait no more are made, once the array has gone on. -/
def Ctx.landTiles (c : Ctx) : Ctx :=
  let ds := c.lv0.deferred
  (ds.filter fun d => !c.awaitsArray d).foldl (fun c d =>
    match d.eff with
    | .tileBytes t ws => (c.setTileBytes t ws).completeSignal d.sig
    | _ => c) { c with lv0 := { c.lv0 with deferred := ds.filter c.awaitsArray } }

/-- Copy jobs at the end of their context: a fatal fault cancels queued jobs and drops what started ones owe it. -/
def State.endJobs (s : State) (n : Nat) : State :=
  let s := (s.jobs.filter fun j => j.ctx == n && !j.started).foldl (fun s j => s.cancelJob j) s
  { s with jobs := s.jobs.map fun j => if j.ctx == n then { j with orphan := true } else j }

/-- OPEN envelopes of a context are voided with a cause (R427). -/
def State.voidOpen (s : State) (n cause : Nat) : State :=
  ((s.ctx n).env.filter fun e => e.2.state == 1).foldl (fun s e => s.decideEnvelope e.2.eid cause) s

/-- No frame is held any longer for a need of a context (R360). -/
def State.meetNeeds (s : State) (n : Nat) : State :=
  let c := s.ctx n
  let keys := (c.binds.map fun b => b.2.key) ++ c.routines.map fun r => r.bind.key
  s.onCore (coreOf n) fun k =>
    { k with frames := k.frames.map fun f => if keys.contains f.key then { f with needed := false } else f }

/-- The Courier's fetches for a context are no longer needed, and no frame is held for a need of it (R360). -/
def State.dropFetches (s : State) (n : Nat) : State :=
  (s.meetNeeds n).onCore (coreOf n) fun k => { k with fetches := k.fetches.filter fun f => f.ctx != n }

/-- An evaluator with no `efill` or `efail` still to be performed abandons its cell (R16). -/
def State.abandonDone (s : State) (n : Nat) : State :=
  let fills := (s.ctx n).port.queue.any fun r =>
    match r.work with
    | .op (.efill _ _) | .op (.efail _ _) => true
    | _ => false
  if fills then s else s.abandon n

/-- The end of a context: `mute` for a fatal fault, whose owed results and signals are discarded (Table 1.4). A SAVED context
has no window to store to. -/
def State.endContext (s : State) (n : Nat) (mute : Bool) : State :=
  let s := s.voidOpen n (if mute then 7 else 6)
  let s := if mute then s.endJobs n else s
  let s := if (s.ctx n).life.state = .saved then s else s.landStores n
  let live := s.liveSignals n
  let s := (s.dropFetches n).onCtx n fun c =>
    let d := c.endLife live mute
    { d with lv0 := { d.lv0 with deferred := c.tileWrites } }
  (((s.withdraw n).leaveSets n).abandonDone n).leaveTurn n

/-- Retirement by a fatal fault (Table 1.4); `extra` is the record's EXTRA word. -/
def State.retireFatal (s : State) (n : Nat) (t : Trapped) (pc : Dword) (extra : Nat) (tail : List Byte := []) : State :=
  let s := s.onCtx n fun c => { c with trap := { c.trap with pc := pc } }
  (s.postRecord (s.ctx n).id.vf (errorRecord 0x10 t n (s.ctx n) extra tail)).endContext n true

/-- What the partition unit keeps of a SAVED context dropped: its save area can never be restored (R444). -/
def State.dropSaved (s : State) (n : Nat) : State :=
  { s with saved := dropKey n s.saved, seqs := assocSet n (lookupD 0 n s.seqs + 1) s.seqs }

/-- A fault that a copy job or a collective step meets after posting: the job stops, and its posting context ends, a SAVED one
too, its record naming the card (R233, R430). One whose context has retired already is cancelled without a record.
(DESIGN CHOICE: log 174) -/
def State.jobFault (s : State) (j : Job) (t : Trapped) (tail : List Byte := []) : State :=
  let s := s.cancelJob j
  let st := (s.ctx j.ctx).life.state
  let s := if st == .saved && !j.orphan then s.dropSaved j.ctx else s
  if j.orphan || !(st == .ready || st == .stalled || st == .saved) then s else s.retireFatal j.ctx t (s.ctx j.ctx).pc j.addr tail

/-- Retirement by `halt` (R140): with REDLOG entries it sends a record (R252). -/
def State.haltContext (s : State) (n : Nat) : State :=
  let c := s.ctx n
  let s :=
    if c.ctl.redlog.isEmpty then s
    else s.postRecord c.id.vf (errorRecord 0x11 ⟨.redfault, 0⟩ n { c with trap := { c.trap with pc := c.pc } } 0)
  s.endContext n false

/-- A cause taken at a bundle boundary (R430, R433, R434): class F, level 1 and a zero HANDLER end the context;
otherwise the handler is entered, which is a test point (R127). -/
def State.takeTrap (s : State) (n : Nat) (t : Trapped) (pc : Dword) : State :=
  let c := s.ctx n
  if t.cause.isFatal then s.retireFatal n t pc 0
  else if c.trap.tl then s.retireFatal n ⟨.nested, t.info⟩ pc t.cause.code
  else if c.trap.handler = 0 then s.retireFatal n t pc 0
  else ((s.beforeReady n).setCtx n { c.enterHandler t pc with life := { c.life with state := .ready, wait := .none, fetchFault := none } }).testStop n

/-- An issue-time fault of the op being issued (R432): the bundle is suppressed, and the trap is taken with TRAPPC at
the bundle's entry op. The first fault of a bundle stands. -/
def State.raise (s : State) (t : Trapped) : State :=
  if s.iss.fault.isSome then s
  else (s.takeTrap s.iss.cur t s.iss.entry).onIss fun x => { x with fault := some t }

/-- A C-slot fault that strikes after the bundle: the op goes into the replay list (R432). -/
def State.faultAfter (s : State) (t : Trapped) (r : PortReq) : State :=
  let c := s.cur
  let r := { r with seq := c.life.seq, slot := s.iss.slot, level := c.trap.tl }
  (s.onCur fun c => { c with trap := { c.trap with list := c.trap.list ++ [r] } }).onIss
    fun x => { x with cfaults := x.cfaults ++ [t] }

/-- TRAPINFO of a PERM reason (R122). -/
def permInfo (reason : Nat) : Trapped := ⟨.perm, BitVec.ofNat 64 reason⟩

/-- TRAPINFO of TILESHAPE: the reason and the tile (R303). -/
def tileShape (reason tile : Nat) : Trapped := ⟨.tileshape, BitVec.ofNat 64 (reason + 256 * tile)⟩

/-- A control register written (R112, R114, R431): the fields that are writable take the value's bits. (DEDUCED: log 10) -/
def Ctx.writeControl (c : Ctx) (num : Nat) (v : Dword) : Ctx :=
  match num with
  | 0x010 => { c with ctl := { c.ctl with ctxst := v.extractLsb' 0 5 } }
  | 0x011 => { c with ctl := { c.ctl with ctxctl := v.extractLsb' 0 2 } }
  | 0x018 => { c with trap := { c.trap with replay := v.getLsbD 8 } }
  | 0x019 => { c with trap := { c.trap with pc := v &&& ~~~0xF#64 } }
  | 0x01A => { c with trap := { c.trap with info := v } }
  | 0x01B => { c with trap := { c.trap with handler := v &&& ~~~0xF#64 } }
  | 0x020 => { c with ctl := { c.ctl with fpstat := v.extractLsb' 0 7 } }
  | 0x021 => { c with ctl := { c.ctl with dmgSat := v } }
  | 0x022 => { c with ctl := { c.ctl with dmgZero := v } }
  | 0x023 => { c with ctl := { c.ctl with dmgSac := v } }
  | 0x024 => { c with ctl := { c.ctl with landLate := v } }
  | _ => if 0x040 ≤ num && num ≤ 0x045 then c.setLoop (num - 0x040) { c.loop (num - 0x040) with lc := v } else c

end Sys2Proof.Machine
end

