-- ==== Sys2Proof/Machine/Scratch.lean ====
section
/-!
DEFINITION. The scratchpad port: meanings of `lds`, `sts`, `vlds`, `vsts`, `vgat` and `vsca` (R188 to R190), and the
landing of every timed result at its due bundle (R32, R48, R106, R154).
-/
namespace Sys2Proof

/-- The registers that an M op writes when it is performed (R285): file 0 or 3, and number; a write of s0 is discarded and
takes part in no conflict (R86). -/
def Instr.arrayDests : Instr → List (Nat × Nat)
  | .mrdVector _ f => [(3, f.d.toNat)]
  | .mrdTile h f => if h.typ = Ty.q4x then [(3, f.c.toNat)] else []
  | .tq4x _ f => if f.fn.getLsbD 4 then [] else [(3, f.c.toNat)]
  | .mstat _ f => if f.d.toNat = 0 then [] else [(0, f.d.toNat)]
  | _ => []

/-- The tiles that an M op writes: file 9, and number (R107, Table 3.10). -/
def Instr.tileDests : Instr → List (Nat × Nat)
  | .mrdTile _ f | .tlds _ f | .tfill _ f | .ttr _ f | .tmov _ f | .tq4x _ f => [(9, f.d.toNat)]
  | _ => []

end Sys2Proof

namespace Sys2Proof.Machine
open Sys2Proof

/-! ## Addresses and checks (R189) -/

/-- The lanes and addresses a scratchpad op touches, and the bytes at each: scalar ops as one lane 0. (DEDUCED: log 29) -/
structure ScratchUse where
  size  : Nat
  align : Nat
  addrs : List (Nat × Nat)
  deriving DecidableEq, Repr

/-- A scalar scratchpad access. -/
def scalarUse (c : Ctx) (h : Hdr) (f : MemF) : ScratchUse :=
  ⟨typeBytes h.typ, typeBytes h.typ, [(0, (farAddr f c).toNat)]⟩

/-- The lanes that MASK selects (R188). -/
def maskLanes (c : Ctx) (f : MemF) : List Nat :=
  let m := c.q (f.fn.extractLsb' 0 4).toNat
  (List.range 128).filter fun i => m.getLsbD i

/-- A vector scratchpad access: lane i at ea + 4i. -/
def vectorUse (c : Ctx) (f : MemF) : ScratchUse :=
  ⟨4, 4, (maskLanes c f).map fun i => (i, (farAddr f c).toNat + 4 * i)⟩

/-- A gather or scatter: lane i at s(A) + (lane i of v(B) << SCALE) + DISP. -/
def gatherUse (c : Ctx) (h : Hdr) (f : MemF) : ScratchUse :=
  ⟨typeBytes h.typ, typeBytes h.typ, (maskLanes c f).map fun i =>
    (i, (c.s f.a.toNat + ((c.lane f.b.toNat i).zeroExtend 64 <<< f.scale.toNat) + signExt f.disp).toNat)⟩

/-- The checks of R189: ILLADDR where a byte lies outside the window, else MISALIGN; the address reported is that of the
lowest-numbered active lane that fails either check. `whole` is the address of a vector access as a whole, which is reported
for it and must be aligned to 64 bytes. -/
def scratchFault (size : Nat) (u : ScratchUse) (whole : Option Nat) : Option Trapped :=
  let misses := fun (p : Nat × Nat) => size < p.2 + u.size
  let skewed := fun (p : Nat × Nat) => whole.elim (p.2 % u.align != 0) fun w => w % 64 != 0
  match u.addrs.find? fun p => misses p || skewed p with
  | none => none
  | some p => some ⟨if u.addrs.any misses then .illaddr else .misalign, BitVec.ofNat 64 (whole.getD p.2)⟩

/-! ## The six ops (R190) -/

/-- A scratchpad op after its guard: a fault after the bundle with the op in the replay list, or its effect at its due
bundle. -/
def scratchOp (h : Hdr) (i : Instr) (f : MemF) (d : Nat) (u : Ctx → ScratchUse) (whole : Bool)
    (eff : Ctx → ScratchUse → Effect) (s : State) : Host.Outcome State Fault Refusal :=
  .next (s.guarded h fun s =>
    let c := s.cur
    let use := u c
    let ea := farAddr f c
    match scratchFault c.id.spSize use (if whole then some ea.toNat else none) with
    | some t =>
      s.faultAfter t { blankReq (.op i) with
        addr := ea, w1 := c.s f.d.toNat, vec := laneBytes (c.lanes f.d.toNat), lanes := use.addrs,
        due := c.level.count + d }
    | none => s.timed h d (eff c use))

/-- `lds` (R190). -/
def execLds (h : Hdr) (f : MemF) (s : State) : Host.Outcome State Fault Refusal :=
  scratchOp h (.lds h f) f 3 (fun c => scalarUse c h f) false
    (fun c _ => .loadScalar f.d.toNat h.typ (farAddr f c).toNat) s

/-- `sts` (R190). -/
def execSts (h : Hdr) (f : MemF) (s : State) : Host.Outcome State Fault Refusal :=
  scratchOp h (.sts h f) f 3 (fun c => scalarUse c h f) false
    (fun c _ => .store 0 (typeBytes h.typ) 0 [(0, (farAddr f c).toNat, (c.s f.d.toNat).toNat)]) s

/-- What lanes of v(D) write at their addresses, lane by lane. -/
def laneStores (c : Ctx) (f : MemF) (u : ScratchUse) : List (Nat × Nat × Nat) :=
  u.addrs.map fun (i, a) => (i, a, (c.lane f.d.toNat i).toNat)

/-- `vlds` (R190). -/
def execVlds (h : Hdr) (f : MemF) (s : State) : Host.Outcome State Fault Refusal :=
  scratchOp h (.vlds h f) f 3 (fun c => vectorUse c f) true
    (fun c u => .loadLanes 0 (farAddr f c).toNat f.d.toNat Ty.n32 u.addrs) s

/-- `vsts` (R190). -/
def execVsts (h : Hdr) (f : MemF) (s : State) : Host.Outcome State Fault Refusal :=
  scratchOp h (.vsts h f) f 3 (fun c => vectorUse c f) true
    (fun c u => .store 8 4 (farAddr f c).toNat (laneStores c f u)) s

/-- `vgat` (R190). -/
def execVgat (h : Hdr) (f : MemF) (s : State) : Host.Outcome State Fault Refusal :=
  scratchOp h (.vgat h f) f 5 (fun c => gatherUse c h f) false
    (fun _ u => .loadLanes 8 0 f.d.toNat h.typ u.addrs) s

/-- `vsca` (R190). -/
def execVsca (h : Hdr) (f : MemF) (s : State) : Host.Outcome State Fault Refusal :=
  scratchOp h (.vsca h f) f 5 (fun c => gatherUse c h f) false
    (fun c u => .store 16 (typeBytes h.typ) 0 (laneStores c f u)) s

/-! ## Landing (R32, R48, R106, R113, R154) -/

/-- Sticky flags of FPSTAT and CTXST set. -/
def Ctx.orFp (c : Ctx) (fl : FpFlags) : Ctx := { c with ctl := { c.ctl with fpstat := c.ctl.fpstat ||| fl } }
def Ctx.orCtxst (c : Ctx) (fl : CtxFlags) : Ctx := { c with ctl := { c.ctl with ctxst := c.ctl.ctxst ||| fl } }

/-- A latch takes an image (R300). -/
def latchOf (bs : List Byte) : Sparse Word :=
  ((List.range 64).zip (bytesLanes 64 bs)).foldl (fun l (i, x) => sparseSet 0 i x l) []

/-- A scratchpad load read from the window as it stands: a register write in its place (R48). -/
def State.readEffect (s : State) (n : Nat) : Effect → Effect
  | .loadScalar r ty a => .scalar r (loadedValue ty (s.spBytes n a (typeBytes ty))) 0
  | .loadLanes _ _ r ty as =>
    .vector r (as.map fun (i, a) =>
      (i, 0xFFFFFFFF, (loadedValue ty (s.spBytes n a (typeBytes ty))).extractLsb' 0 32)) 0
  | e => e

/-- Landed data written to their registers (R201). -/
def Ctx.writeLanding (c : Ctx) (l : Landing) : Ctx :=
  let c := l.words.foldl (fun c (r, v) => c.setS r v) c
  match l.vector with
  | none => c
  | some (r, bs) => c.setLanes r (laneWrites (BitVec.allOnes 128) (bytesLanes 128 bs))

/-- A half of 64 bits replaced. -/
def putHalf (x : Dword) (high : Bool) (v : Word) : Dword :=
  if high then v.zeroExtend 64 <<< 32 ||| (x &&& 0xFFFFFFFF) else v.zeroExtend 64 ||| (x &&& 0xFFFFFFFF00000000)

/-- The register, control-register, latch, tile or descriptor part of an effect. -/
def Ctx.applyWrite (c : Ctx) : Effect → Ctx
  | .scalar n v _ => c.setS n v
  | .half n high v => c.setS n (putHalf (c.s n) high v)
  | .pred n b => c.setP n b
  | .lanePred n m v _ => c.setQ n m v
  | .vector n ws _ => c.setLanes n ws
  | .latch e bs =>
    if e then { c with mat := { c.mat with latchB := latchOf bs } } else { c with mat := { c.mat with latchA := latchOf bs } }
  | .control n v => c.writeControl n v
  | .tctl t v => { c with ctl := { c.ctl with tctl := sparseSet 0 t v c.ctl.tctl } }
  | .descriptor n d => { c with ctl := { c.ctl with desc := assocSet n d c.ctl.desc } }
  | .tileBytes t ws => c.setTileBytes t ws
  | .landing id =>
    match c.port.landings.find? (fun l => l.id == id) with
    | some l => { c.writeLanding l with port := { c.port with landings := c.port.landings.filter fun l => l.id != id } }
    | none => c
  | .damage _ _ _ | .store _ _ _ _ | .loadScalar _ _ _ | .loadLanes _ _ _ _ _ => c

/-- The flags and totals of an effect, applied after every write of the same due bundle (R154, R113). -/
def Ctx.applyFlags (c : Ctx) : Effect → Ctx
  | .scalar _ _ fl => c.orCtxst fl
  | .lanePred _ _ _ fl | .vector _ _ fl => c.orFp fl
  | .damage a b d => c.addDamage a b d
  | _ => c

/-- Entries landed in one step, as R32 and R48 order them: loads read the window, then registers are written oldest
first, then stores are made in slot order, then flags; each op's signal completes. -/
def State.landEntries (s : State) (n : Nat) (ds : List Deferred) : State :=
  let ds := sortKey (fun (d : Deferred) => 8 * d.seq + d.slot) ds
  let effs := ds.map fun d => s.readEffect n d.eff
  let s := s.onCtx n fun c => effs.foldl (fun c e => c.applyWrite e) c
  let under := (bySlot ds).flatMap fun d => d.eff.stores.map fun w => (w.1, s.spByte n w.1)
  let s := s.onCtx n fun c => c.onLevel fun l => { l with under := l.under ++ under }
  let s := (bySlot ds).foldl (fun s d => s.applyStore n (s.ctx n).trap.tl d) s
  let s := s.onCtx n fun c => effs.foldl (fun c e => c.applyFlags e) c
  s.onCtx n fun c => ds.foldl (fun c d => c.completeSignal d.sig) c

/-- Has the data of a landing arrived (R201)? -/
def Ctx.dataArrived (c : Ctx) (d : Deferred) : Bool :=
  match d.eff with
  | .landing id => c.port.landings.any fun l => l.id == id && l.arrived
  | _ => true

/-- The bytes a scratchpad effect reads. -/
def Effect.reads : Effect → List Nat
  | .loadScalar _ ty a => (List.range (typeBytes ty)).map fun i => a + i
  | .loadLanes _ _ _ ty as => as.flatMap fun (_, a) => (List.range (typeBytes ty)).map fun i => a + i
  | _ => []

/-- Does a load due now read bytes of an earlier `tsts` that the array has not performed (R294)? -/
def Ctx.awaitsTile (c : Ctx) (d : Deferred) : Bool :=
  let rs := d.eff.reads
  !rs.isEmpty && c.mat.queue.any fun q => q.level == c.trap.tl && q.due < d.due &&
    rs.any fun a => q.addrs.contains a

/-- The registers of a landing result that is pending. -/
def Ctx.landingTargets (c : Ctx) (id : Nat) : List (Nat × Nat) :=
  match c.port.landings.find? fun l => l.id == id with
  | some l => (l.vector.map fun v => (3, v.1)).toList ++ l.words.map fun w => (0, w.1)
  | none => ((c.port.queue ++ c.trap.list).find? fun r => r.id == id).toList.flatMap fun r =>
    match r.work with
    | .op (.vldf _ _) => [(3, r.dest)]
    | .op (.estat _ _) | .op (.epeek _ _) => [(0, r.dest), (0, r.dest + 1)]
    | _ => [(0, r.dest)]

/-- The registers that an op of the array writes by its results, files 0 and 3 (R285). -/
def Ctx.arrayTargets (c : Ctx) : List (Nat × Nat) := c.mat.queue.flatMap fun q => q.op.arrayDests

/-- Is a timed write to a register that a queued M op is still to write? The M op issued first, and where both are of one bundle
the timed write lands last (R108, R278). (DESIGN CHOICE: log 168) -/
def Ctx.awaitsResult (c : Ctx) (d : Deferred) : Bool :=
  let ts := match d.eff with
    | .landing id => c.landingTargets id
    | e => e.target.toList
  ts.any fun k => k ≠ (0, 0) && c.arrayTargets.contains k

/-- Does a load read data that hold an uncorrectable error (R191)? -/
def State.readsBad (s : State) (n : Nat) (d : Deferred) : Bool := d.eff.reads.any (s.spBad n)

/-- The entries of the running level that are due before the bundle next to issue (R32). -/
def Ctx.dueNow (c : Ctx) : List Deferred := c.level.deferred.filter fun d => d.due ≤ c.level.count

/-- What landing before the next bundle comes to: done, or a wait. -/
inductive LandResult where
  | landed (s : State)
  | late
  | busy
  /-- Data of a load due now hold an uncorrectable error (R191). -/
  | broken
  deriving DecidableEq, Repr

/-- Every result due before the next bundle is written, or the context waits for late data (R32). A `vtwr` waits for the
M ops that the array still holds on its tile (R264), and a write to a register for the M op that is still to write it. A late landing is counted before a write of LANDLATE that is due
with it. (DESIGN CHOICE: log 115, DEDUCED: log 121) -/
def State.landDue (s : State) (n : Nat) : LandResult :=
  let c := s.ctx n
  let ds := c.dueNow
  if !ds.all c.dataArrived then .late
  else if ds.any c.awaitsTile || ds.any c.awaitsArray || ds.any c.awaitsResult then .busy
  else if ds.any (s.readsBad n) then .broken
  else
    let s := s.onCtx n fun c => c.onLevel fun l => { l with deferred := l.deferred.filter fun d => l.count < d.due }
    .landed (s.landEntries n ds)

end Sys2Proof.Machine
end

