-- ==== Sys2Proof/Machine/Port.lean ====
section
/-!
DEFINITION. The far port of a context (R43 to R47, R53, R60, R195 to R206, R243): how C-slot ops enter it, which entry
may be performed, and the far loads, stores, prefetches, flushes and fences themselves.
-/
namespace Sys2Proof.Machine
open Sys2Proof

/-! ## Entering the port (R195, R200, R432) -/

/-- The place in program order of the op being issued. -/
def State.stamp (s : State) (r : PortReq) : PortReq :=
  { r with seq := s.cur.life.seq, slot := s.iss.slot, level := s.cur.trap.tl }

/-- An op in a context's port. A landing op's result is pending, and its signal completes with it; otherwise the entry
holds its signal (Table 1.5). -/
def State.pushOp (s : State) (n : Nat) (r : PortReq) (landing : Bool) : State :=
  s.onCtx n fun c =>
    let id := c.port.nextId
    let sig := r.hdr.bind fun h => if h.sinc == 0 then none else some (id + 1, h)
    let hold := sig.map fun (k, h) =>
      { blankReq (.signal h.ssem.toNat h.sinc.toNat) with
        id := k, seq := r.seq, slot := r.slot, level := r.level, stage := .incomplete }
    let r := { r with id := id, known := true, stage := .pending, sig := if landing then none else sig.map (·.1) }
    let c := { c with port := { c.port with queue := c.port.queue ++ [r] ++ hold.toList, nextId := id + 2 } }
    if landing then
      let d : Deferred := { due := r.due, seq := r.seq, slot := r.slot, eff := .landing id, sig := sig.map (·.1) }
      if r.level then { c with lv1 := { c.lv1 with deferred := c.lv1.deferred ++ [d] } }
      else { c with lv0 := { c.lv0 with deferred := c.lv0.deferred ++ [d] } }
    else c

/-- How an op enters: a fault after its bundle, or the state with its work in place. -/
abbrev Accept := State → Nat → PortReq → Except Trapped State

/-- A C-slot op at issue: what it captures, then its checks (R432). `targets` are the registers it writes. -/
def portOp (h : Hdr) (capture : Ctx → PortReq) (targets : List (Nat × Nat)) (accept : Accept) (s : State) :
    Host.Outcome State Fault Refusal :=
  .next (s.guarded h fun s =>
    let r := s.stamp (capture s.cur)
    match accept s s.iss.cur r with
    | .error t => s.faultAfter t r
    | .ok s => s.onIss fun x => targets.foldl (fun x k => x.note (if k = (0, 0) then none else some k)) x)

/-- What a MEM op captures: its address, s(D) and s(D + 1), and when its result is due. -/
def memReq (i : Instr) (f : MemF) (addr : MemF → Ctx → Dword) (c : Ctx) : PortReq :=
  { blankReq (.op i) with
    addr := addr f c, w1 := c.s f.d.toNat, w2 := c.s (f.d.toNat + 1), due := c.level.count + f.due.toNat }

/-- A MEM op with a vector data register. -/
def vecReq (i : Instr) (f : MemF) (addr : MemF → Ctx → Dword) (c : Ctx) : PortReq :=
  { memReq i f addr c with vec := laneBytes (c.lanes f.d.toNat) }

/-- The checks of R195. -/
def farFault (addr : Dword) (align : Nat) : Option Trapped :=
  if 2 ^ 52 ≤ addr.toNat then some ⟨.illaddr, addr⟩
  else if addr.toNat % align ≠ 0 then some ⟨.misalign, addr⟩
  else none

/-- A far access enters the port when its address passes. -/
def acceptFar (align : Nat) (landing : Bool) : Accept := fun s n r =>
  match farFault r.addr align with
  | some t => .error t
  | none => .ok (s.pushOp n r landing)

/-- An op without a check. (DEDUCED: log 36) -/
def acceptAlways (landing : Bool) : Accept := fun s n r => .ok (s.pushOp n r landing)

/-- A signal of an op that completed as its bundle issued (Table 1.5), held in program order (R53). -/
def State.heldSignal (s : State) (n : Nat) (r : PortReq) : State :=
  match r.hdr with
  | none => s
  | some h =>
    if h.sinc == 0 then s
    else s.onCtx n fun c =>
      let e := { blankReq (.signal h.ssem.toNat h.sinc.toNat) with
        id := c.port.nextId, seq := r.seq, slot := r.slot, level := r.level }
      { c with port := { c.port with queue := c.port.queue ++ [e], nextId := c.port.nextId + 1 } }

/-- A landing op that has its value at issue (R200: without a free entry the value lands later). -/
def State.landNow (s : State) (n : Nat) (r : PortReq) (d : Nat) (v : Dword) : State :=
  let id := (s.ctx n).port.nextId
  (s.pushOp n r true).onCtx n fun c => c.respond { id := id, words := [(d, v)], arrived := true }

/-- A landing op that waits for a condition from its issue on. -/
def State.waitNow (s : State) (n : Nat) (r : PortReq) : State :=
  let id := (s.ctx n).port.nextId
  let room := (s.ctx n).landingRoom r.slots
  (s.pushOp n r true).onCtx n fun c =>
    { c with port := c.port.change id fun r => { r with stage := .waiting, landing := room } }

/-- `ldf` (R199). -/
def execLdf (h : Hdr) (f : MemF) (s : State) : Host.Outcome State Fault Refusal :=
  portOp h (memReq (.ldf h f) f farAddr) [(0, f.d.toNat)] (acceptFar (typeBytes h.typ) true) s

/-- `stf` (R199). -/
def execStf (h : Hdr) (f : MemF) (s : State) : Host.Outcome State Fault Refusal :=
  portOp h (memReq (.stf h f) f farAddr) [] (acceptFar (typeBytes h.typ) false) s

/-- `vldf` (R199). -/
def execVldf (h : Hdr) (f : MemF) (s : State) : Host.Outcome State Fault Refusal :=
  portOp h (memReq (.vldf h f) f farAddr) [(3, f.d.toNat)] (acceptFar 64 true) s

/-- `vstf` (R199). -/
def execVstf (h : Hdr) (f : MemF) (s : State) : Host.Outcome State Fault Refusal :=
  portOp h (vecReq (.vstf h f) f farAddr) [] (acceptFar 64 false) s

/-- An op that completes as its bundle issues, with work of its own left in the port (R205, R203): `pref`, `fence`. -/
def acceptBare : Accept := fun s n r =>
  .ok ((s.onCtx n fun c =>
    let r := { r with id := c.port.nextId, known := true, stage := .pending }
    { c with port := { c.port with queue := c.port.queue ++ [r], nextId := c.port.nextId + 1 } }).heldSignal n r)

/-- `pref` (R205). -/
def execPref (h : Hdr) (f : MemF) (s : State) : Host.Outcome State Fault Refusal :=
  portOp h (memReq (.pref h f) f farAddr) [] acceptBare s

/-- `cflush` (R206): w1 is the length. -/
def execCflush (h : Hdr) (f : MemF) (s : State) : Host.Outcome State Fault Refusal :=
  portOp h (memReq (.cflush h f) f farAddr) [] (acceptAlways false) s

/-- What a TRI op captures: s(A) and s(B). -/
def triReq (i : Instr) (f : Tri) (c : Ctx) : PortReq :=
  { blankReq (.op i) with addr := c.s f.a.toNat, w1 := c.s f.b.toNat, due := c.level.count + 16 }

/-- `fence` (R203). -/
def execFence (h : Hdr) (f : Tri) (s : State) : Host.Outcome State Fault Refusal :=
  portOp h (triReq (.fence h f) f) [] acceptBare s

/-- The L2 way quota of a VF (Table 16.5). -/
def State.wayQuota (s : State) (vf : Nat) : Nat :=
  let active := (List.range 8).filter fun i => (s.vf (8 * partOf vf + i)).state != .free
  (s.vf vf).ways.getD (equalShare (s.part (partOf vf)).ways active.length (active.findIdx (· == vf % 8)))

/-- `resv` (R207): the range register, the ways granted, the shortfall reported. (DEDUCED: log 38) -/
def acceptResv : Accept := fun s n r =>
  match r.work with
  | .op (.resv _ f) =>
    let vf := (s.ctx n).id.vf
    let idx := (f.imm.extractLsb' 0 3).toNat
    let ways := (f.imm.extractLsb' 12 4).toNat
    let base := r.addr.toNat / 2 ^ 16 * 2 ^ 16
    let stop := (r.addr.toNat + r.w1.toNat + 2 ^ 16 - 1) / 2 ^ 16 * 2 ^ 16
    let others := ((s.vf vf).ranges.filter fun p => p.1 != idx).foldl (fun k p => k + p.2.granted) 0
    let granted := min ways (s.wayQuota vf - others)
    let reg : RangeReg :=
      { base := base, len := stop - base, ratio := (f.imm.extractLsb' 3 9).toNat, ways := ways, granted := granted }
    let s := { s with l2 := s.afterResv vf idx ways granted }
    .ok ((s.onVf vf fun v => { v with ranges := assocSet idx reg v.ranges,
                                      shortfall := if granted < ways then some (idx, granted) else v.shortfall }).heldSignal n r)
  | _ => .ok s

/-- `resv` (R207). -/
def execResv (h : Hdr) (f : Tri) (s : State) : Host.Outcome State Fault Refusal :=
  portOp h (triReq (.resv h f) f) [] acceptResv s

/-! ## Order (R43 to R47, R53, R60) -/

def PortReq.isSignal (r : PortReq) : Bool :=
  match r.work with
  | .signal _ _ => true
  | .op _ => false

/-- Is the access an `amo` or `cas` (R58)? -/
def PortReq.isAtomic (r : PortReq) : Bool :=
  match r.work with
  | .op (.amo _ _) | .op (.cas _ _) => true
  | _ => false

def PortReq.isRed (r : PortReq) : Bool :=
  match r.work with
  | .op (.red _ _) => true
  | _ => false

/-- Is it a `pref` or `cflush`, which no page fault parks and no violation strikes (R205, R206)? -/
def PortReq.isHint (r : PortReq) : Bool :=
  match r.work with
  | .op (.pref _ _) | .op (.cflush _ _) => true
  | _ => false

/-- Is the access a release (R47)? -/
def PortReq.releases (r : PortReq) : Bool :=
  match r.work with
  | .op i =>
    match i with
    | .stf _ _ | .vstf _ _ | .amo _ _ | .cas _ _ | .emake _ _ => r.ordered
    | _ => false
  | .signal _ _ => false

/-- Work held until every earlier far access, `red` included, is performed at device scope (R53, R60, R65). -/
def PortReq.holdsAll (r : PortReq) : Bool :=
  match r.work with
  | .signal _ _ => true
  | .op i =>
    match i with
    | .efill _ _ | .efail _ _ | .bar _ _ | .barr _ _ | .hsigr _ _ | .spost _ _ | .igive _ _ => true
    | _ => false

/-- The entries that precede one in program order: those of earlier bundles of its level, the replay list included.
(DEDUCED: log 33) -/
def Ctx.before (c : Ctx) (r : PortReq) : List PortReq :=
  (c.trap.list ++ c.port.queue).filter fun e => e.level == r.level && e.seq < r.seq

/-- The entries that were issued before one, at either level. -/
def Ctx.issuedBefore (c : Ctx) (r : PortReq) : List PortReq := (c.trap.list ++ c.port.queue).filter fun e => e.seq < r.seq

/-- Is it the end of an evaluation, which comes after every far access that the evaluator issued before it (R65, R326)? -/
def PortReq.endsCell (r : PortReq) : Bool :=
  match r.work with
  | .op (.efill _ _) | .op (.efail _ _) => true
  | _ => false

/-- Is an access ordered after an earlier one of its context (R44, R47, R58)? `acq` says that the earlier one acquires. -/
def PortReq.follows (r e : PortReq) (acq : Bool) : Bool :=
  e.cls.isSome && r.cls.any fun k =>
    e.cls == some k || acq || (r.releases && !e.isRed) || (r.isAtomic && e.isAtomic && e.scope == r.scope)

/-- Is an entry held back by program order (R44 to R47, R53, R203)? Atomics of a context at one scope keep its program order
whatever their classes (R58), and the addition of `hsig` comes before the op's own signal (R132). -/
def State.isBlocked (s : State) (n : Nat) (r : PortReq) : Bool :=
  let c := s.ctx n
  let es := if r.endsCell then c.issuedBefore r else c.before r
  let first := c.port.queue.any fun e => r.isSignal && e.isSignal && e.seq == r.seq && e.slot == r.slot && e.id < r.id
  if first then true
  else if r.holdsAll then
    es.any fun e => e.open? || (e.fence?.any fun m => r.cls.any fun k => m.1.getLsbD k)
  else
    es.any fun e => (e.open? && r.follows e (e.acquires (s.meetsRegion n e))) ||
      e.fence?.any fun m => r.cls.any fun k => m.1.getLsbD k

/-- May an entry be performed now? A landing op that has not been sent needs its landing entries (R200). -/
def State.mayPerform (s : State) (n : Nat) (r : PortReq) : Bool :=
  let st := (s.ctx n).life.state
  (st == .ready || st == .stalled || st == .draining || st == .frozen) && r.stage == .pending && !s.isParked (.port n r.id) &&
    !s.isBlocked n r && (r.landing || (s.ctx n).landingRoom r.slots)

/-- An acquire already made takes effect before an access (R197). -/
def State.beginAccess (s : State) (n : Nat) : State :=
  if (s.ctx n).port.acquired then
    (s.acquire n).onCtx n fun c => { c with port := { c.port with acquired := false } }
  else s

/-! ## Fences (R46, R203, R252) -/

/-- Does REDLOG hold an entry of a class of the mask? -/
def Ctx.redlogMeets (c : Ctx) (mask : BitVec 16) : Bool :=
  c.ctl.redlog.any fun e => mask.getLsbD (e.opWord.extractLsb' 8 4).toNat

/-- The accesses that a halting point orders after itself: those of the classes of a fence (R46) and those that follow an
`efill` in its class (R44), and in turn what they order; a barrier arrival is a release and orders none (R63). -/
def State.orderedAfter (s : State) (n : Nat) (r : PortReq) : List PortReq :=
  let point := fun (e : PortReq) => match r.fence? with
    | some m => e.cls.any fun k => m.1.getLsbD k
    | none => r.cls.isSome && e.cls == r.cls
  let covers := fun (f e : PortReq) => f.fence?.any fun m => e.cls.any fun k => m.1.getLsbD k
  ((s.ctx n).port.queue.filter fun e => e.level == r.level && r.seq < e.seq).foldl (fun l e =>
    if point e || l.any (fun d => e.follows d (d.acquires (s.meetsRegion n d)) || covers d e || covers e d) then l ++ [e] else l) []

/-- REDFAULT at a halting point: no access that the point orders after itself is performed (R252). -/
def State.redFault (s : State) (n : Nat) (r : PortReq) : State :=
  let gone := (s.orderedAfter n r).map (·.id)
  let s := s.onCtx n fun c => { c with port := { c.port with queue := c.port.queue.filter fun e =>
    !(e.id == r.id || gone.contains e.id) } }
  s.retireFatal n ⟨.redfault, 0⟩ (s.ctx n).pc 0

/-- A fence whose earlier accesses are performed completes: the lines that the context made dirty in the covered classes are
written back (R197, R203), and REDFAULT strikes. -/
def State.tryFence (s : State) (n : Nat) (r : PortReq) : State :=
  match r.fence? with
  | none => s
  | some (mask, scope) =>
    let c := s.ctx n
    let covered := fun (e : PortReq) => e.cls.any fun k => mask.getLsbD k
    let earlier := (c.before r).filter fun e =>
      (e.open? && covered e) || (e.fence?.any fun m => m.1 &&& mask != 0)
    let flush := 2 ≤ scope
    let q := fun (l : L1Line) => l.ownedIn n mask
    if !earlier.isEmpty || (flush && !s.canWriteBack (coreOf n) q) then s
    else if c.redlogMeets mask && c.life.state != .draining then s.redFault n r
    else
      let s := if flush then s.writeBackIf (coreOf n) q else s
      s.onCtx n fun c => { c with port := { c.port with queue := c.port.queue.filter fun e => e.id != r.id } }

/-- Fences of a context that have become complete. -/
def State.settlePort (s : State) (n : Nat) : State :=
  ((s.ctx n).port.queue.filter fun r => r.fence?.isSome).foldl (fun s r => s.tryFence n r) s

/-- Fences of every context, after a hold on lines has ended (R203, R419). -/
def State.settlePorts (s : State) : State := (s.ctxs.map (·.1)).foldl State.settlePort s

/-! ## Translation of an access -/

/-- The offsets of an access's pieces: 8-byte units (R41). -/
def PortReq.units (r : PortReq) : List Nat := (List.range ((r.size + 7) / 8)).map fun i => 8 * i

/-- The need of an access (Table 16.3). -/
def PortReq.need (r : PortReq) : Need :=
  match r.work with
  | .op i =>
    match i with
    | .stf _ _ | .vstf _ _ | .emake _ _ | .efill _ _ | .efail _ _ | .earm _ _ => .write
    | .amo _ _ | .cas _ _ | .red _ _ => .both
    | _ => .read
  | .signal _ _ => .read

/-- The translation of an offset of an access. -/
def State.xlatePort (s : State) (n : Nat) (r : PortReq) (off : Nat) : Xlat :=
  s.xlate (corePath (coreOf n)) (s.ctx n).id.vf (r.addr.toNat + off) r.need

/-- The first address of an access that lacks a translation. -/
def State.missingPort (s : State) (n : Nat) (r : PortReq) : Option Nat :=
  ([0, r.size - 1].find? fun off => s.xlatePort n r off == .miss).map fun off => r.addr.toNat + off

/-- The first violation of an access whose translations are present. -/
def State.violationPort (s : State) (n : Nat) (r : PortReq) : Option (Nat × Nat) :=
  [0, r.size - 1].findSome? fun off =>
    match s.xlatePort n r off with
    | .violation v => some (v, if off = 0 then r.addr.toNat else (r.addr.toNat + off) / 2 ^ 16 * 2 ^ 16)
    | _ => none

/-- The opcode of an entry. -/
def PortReq.opc (r : PortReq) : Nat :=
  match r.work with
  | .op i => i.op?.elim 0 fun x => x.1.toNat
  | .signal _ _ => 0

/-- Has the port sent an access that is not yet performed? It is free to go, and translated. -/
def State.isSent (s : State) (n : Nat) (r : PortReq) : Bool :=
  match r.work with
  | .signal _ _ => false
  | .op _ =>
    r.stage == .performed || !r.done.isEmpty ||
      (r.stage == .pending && !s.isBlocked n r && !s.isParked (.port n r.id) &&
        (r.cls.isNone || r.isHint || ((s.missingPort n r).isNone && (s.violationPort n r).isNone)))

/-- Is it a `spost`, whose envelope goes on without its context (R427, R462)? -/
def PortReq.isSpost (r : PortReq) : Bool :=
  match r.work with
  | .op (.spost _ _) => true
  | _ => false

/-- The violating context frozen, with its record (R462, Table 16.7): it sends nothing more, what it has sent is
performed, what returns to it is discarded, and its posted envelopes go on: they wait for what it has sent.
(DEDUCED: log 137) -/
def State.freezeCtx (s : State) (n reason va opc : Nat) : State :=
  let kept := (s.ctx n).port.queue.filter fun r => r.isSpost || s.isSent n r || r.isWaitingWta || r.stage == .emberWait
  ((s.onCtx n fun c =>
    { c with
      life := { c.life with state := .frozen, wait := .none, mute := true, stopping := false, halting := false }
      port := { c.port with queue := kept, landings := [], faults := [] } }).leaveTurn n).postViolation 1 n (s.ctx n).id.vf reason va opc

/-- A violation by an access of a context (R461, R462): a slot that drains, or is FROZEN, stays so (Table 1.2), and the answer
is discarded. -/
def State.violatePort (s : State) (n : Nat) (r : PortReq) (reason va : Nat) : State :=
  let st := (s.ctx n).life.state
  let freezes := s.freezes (s.ctx n).id.vf reason
  if freezes && (st == .draining || st == .frozen) then
    (s.portFault n r.id (violationTrap reason va)).postViolation 1 n (s.ctx n).id.vf reason va r.opc
  else if freezes then s.freezeCtx n reason va r.opc
  else s.portFault n r.id (violationTrap reason va)

/-- An entry of a context's port. -/
def State.entry (s : State) (n id : Nat) : Option PortReq := (s.ctx n).port.queue.find? fun r => r.id == id

/-- A request is sent: a landing op takes its landing entries (R200). -/
def State.sendEntry (s : State) (n id : Nat) : State :=
  s.onCtx n fun c => { c with port := c.port.change id fun q => { q with landing := q.slots != 0 } }

/-- An entry that may be performed: translated, and permitted; else the state as the refusal leaves it. -/
def State.performing (s : State) (n id : Nat) (k : PortReq → State → State) : Host.Outcome State Fault Refusal :=
  match s.entry n id with
  | none => .next s
  | some r =>
    if !s.mayPerform n r || (s.missingPort n r).isSome then .next s
    else
      match s.violationPort n r with
      | some (v, va) => .next ((s.violatePort n r v va).settlePort n)
      | none => .next (((k r ((s.beginAccess n).sendEntry n id)).touchAll (corePath (coreOf n)) (s.ctx n).id.vf
          [r.addr.toNat, r.addr.toNat + r.size - 1]).settlePort n)

/-! ## Loads (R196, R198, R205, R312) -/

/-- The bytes of a piece of a load on an ordinary page; none while it must wait for a hold. -/
def State.loadBytes (s : State) (n : Nat) (r : PortReq) (pa len : Nat) : Option (State × List Byte) :=
  let core := coreOf n
  let vf := (s.ctx n).id.vf
  if r.scope < 2 then
    if s.l1Misses core vf (pa / 64) && s.isHeld pa len then none
    else
      let s := s.l1Ready core vf (pa / 64)
      some (s, s.l1Bytes core vf pa len)
  else if s.isHeld pa len then none
  else
    let s := (s.syncLine n pa).staleLine n pa
    some (s, s.bytes pa len)

/-- Do the data that a piece of a load on an ordinary page has read hold an uncorrectable error (R202)? -/
def State.loadBad (s : State) (n : Nat) (r : PortReq) (pa len : Nat) : Bool :=
  if r.scope < 2 then s.l1Bad (coreOf n) (s.ctx n).id.vf pa len else s.isBad pa len

/-- Has a piece of a load met what stands at its offset: is it done, or has its cell failed or made the load wait? -/
def State.unitMet (s : State) (n : Nat) (r : PortReq) (off : Nat) : Bool :=
  let va := r.addr.toNat + off
  match s.xlatePort n r off with
  | .ok pa true =>
    s.waiters.any (fun w => w.loader == Loader.port n r.id && w.cell == cellOf pa) ||
      (r.done.any fun p => p.1 ≤ off && off < p.1 + p.2.length) || r.fails.any fun f => f.1 + r.addr.toNat == cellOf va
  | _ => true

/-- A piece of a load on an EMB page: the cell is met unless an earlier piece met it (R307); a load kindles the cells that it
covers in ascending address order (R312). -/
def State.loadEmber (s : State) (n : Nat) (r : PortReq) (pa va : Nat) : State :=
  let cell := cellOf pa
  let cva := cellOf va
  let off := cva - r.addr.toNat
  let lower := r.units.any fun u => u < va - r.addr.toNat && cellOf (r.addr.toNat + u) ≠ cva && !s.unitMet n r u
  if s.unitMet n r (va - r.addr.toNat) || s.isHeld pa 1 || (lower && s.tag cell == 1) then s
  else
    let c := s.ctx n
    let own := (s.ownHearth n).map (·.cell)
    match s.loadCell (.port n r.id) c.ctl.chain own c.id.vf cell cva with
    | .value bs =>
      let bad := s.isBad cell 16
      let got := fun (q : PortReq) => if bad then { q with fails := q.fails ++ [(off, ⟨.ecc, 0⟩)] } else q.take cva bs
      s.onCtx n fun c => { c with port := c.port.change r.id got }
    | .waits s => s
    | .refused => s.onCtx n fun c => { c with port := c.port.change r.id fun q => { q with stage := .refused } }
    | .fails t s =>
      s.onCtx n fun c => { c with port := c.port.change r.id fun q => { q with fails := q.fails ++ [(off, t)] } }

/-- One piece of a load, at an offset. -/
def State.loadPiece (s : State) (n id off : Nat) : State :=
  match s.entry n id with
  | none => s
  | some r =>
    let va := r.addr.toNat + off
    match s.xlatePort n r off with
    | .ok pa true => s.loadEmber n r pa va
    | .ok pa false =>
      if r.done.any fun p => p.1 == off then s
      else
        match s.loadBytes n r pa (min 8 r.size) with
        | some (s, bs) =>
          let bad := s.loadBad n r pa bs.length
          let got := fun (q : PortReq) => if bad then { q with fails := q.fails ++ [(off, ⟨.ecc, 0⟩)] } else q.take va bs
          s.onCtx n fun c => { c with port := c.port.change id got }
        | none => s
    | _ => s

/-- Every byte of the access is done, waits on a cell or has failed: it is no longer to be sent. -/
def State.loadSent (s : State) (n id : Nat) : State :=
  match s.entry n id with
  | none => s
  | some r =>
    let a := r.addr.toNat
    let done := fun (u : Nat) => r.done.any fun p => p.1 ≤ u && u < p.1 + p.2.length
    let failed := fun (u : Nat) => r.fails.any fun f => f.1 ≤ u && u < f.1 + 16
    let waits := fun (u : Nat) => s.waiters.any fun w =>
      w.loader == Loader.port n id && w.va ≤ a + u && a + u < w.va + 16
    if r.stage == .pending && !r.units.all done && r.units.all (fun u => done u || failed u || waits u) then
      s.onCtx n fun c => { c with port := c.port.change id fun q => { q with stage := .emberWait } }
    else s

/-- The reuse hint of a far access (R209). -/
def PortReq.hint (r : PortReq) : BitVec 2 :=
  match r.work with
  | .op i =>
    match i with
    | .ldf _ f | .stf _ f | .vldf _ f | .vstf _ f | .pref _ f | .amo _ f | .cas _ f | .red _ f | .wta _ f
    | .emake _ f | .efill _ f | .epeek _ f | .efail _ f | .earm _ f | .estat _ f => f.fn.extractLsb' 6 2
    | _ => 0
  | .signal _ _ => 0

/-- The accesses to the L2 of the units that a step from `s` to `t` has done: one for each line of which no unit was done
before, at device scope or where the L1 lacked the line. (DESIGN CHOICE: log 107) -/
def State.visitUnits (s t : State) (n : Nat) (r : PortReq) (offs : List Nat) : State :=
  let line := fun (o : Nat) => (r.addr.toNat + o) / 64
  let has := fun (q : PortReq) (o : Nat) => q.done.any fun p => line p.1 == line o
  let fresh := offs.filter fun o => !has r o && (t.entry n r.id).any fun q => has q o
  let firsts := fresh.filter fun o => fresh.find? (fun x => line x == line o) == some o
  let vf := (s.ctx n).id.vf
  { t with l2 := firsts.foldl (fun l o =>
      match s.xlatePort n r o with
      | .ok pa emb =>
        if 2 ≤ r.scope || emb || s.l1Misses (coreOf n) vf (pa / 64) then s.l2After l vf (some (r.addr.toNat + o)) pa r.hint else l
      | _ => l) t.l2 }

/-- The access to the L2 of an op at its home agent, once it is performed. -/
def State.visitOp (s t : State) (n : Nat) (r : PortReq) (pa : Nat) : State :=
  { t with l2 := if t.entry n r.id == s.entry n r.id then t.l2
      else t.l2After t.l2 (s.ctx n).id.vf (some r.addr.toNat) pa r.hint }

/-- The lines of a `pref` (R205). -/
def PortReq.prefLines (r : PortReq) : List Nat :=
  match r.work with
  | .op (.pref _ f) => List.range (f.d.toNat + 1)
  | _ => []

/-- The virtual address of line i of a `pref`; none where the line is skipped already or lies past the address space. -/
def PortReq.prefAddr (r : PortReq) (i : Nat) : Option Nat :=
  let va := r.addr.toNat / 64 * 64 + 64 * i
  if va < 2 ^ 52 && !r.done.any (fun p => p.1 == 64 * i) then some va else none

/-- The first line of a `pref` that lacks a translation (R455). -/
def State.prefMiss (s : State) (n : Nat) (r : PortReq) : Option Nat :=
  (r.prefLines.filterMap r.prefAddr).find? fun va =>
    s.xlate (corePath (coreOf n)) (s.ctx n).id.vf va .read == .miss

/-- The lines of a `pref` on a page that needs the pager, or is refused, are skipped (R205). -/
def State.skipPref (s : State) (n id page : Nat) : State :=
  s.onCtx n fun c => { c with port := c.port.change id fun r =>
    { r with done := r.done ++ (r.prefLines.filter fun i => (r.prefAddr i).any fun va => va / 2 ^ 16 == page).map fun i => (64 * i, []) } }

/-- Must the access to a line of a `pref` wait: for an envelope's hold, where it goes to the home agent (R205, R419)? -/
def State.prefWaits (s : State) (n : Nat) (r : PortReq) (i : Nat) : Bool :=
  let vf := (s.ctx n).id.vf
  match (r.prefAddr i).map fun va => s.xlate (corePath (coreOf n)) vf va .read with
  | some (.ok pa false) => (2 ≤ r.scope || s.l1Misses (coreOf n) vf (pa / 64)) && s.isHeld pa 64
  | _ => false

/-- A line of a `pref` brought into the L1, or into the L2 alone, where its translation is present and the page is ordinary
(R205); a line whose page needs the pager, or does not permit a read, is skipped. -/
def State.prefLine (s : State) (n : Nat) (r : PortReq) (i : Nat) : State :=
  let vf := (s.ctx n).id.vf
  let path := corePath (coreOf n)
  match r.prefAddr i with
  | none => s
  | some va =>
    match s.xlate path vf va .read with
    | .ok pa false =>
      let s := s.touch path vf va
      if 2 ≤ r.scope then s.visit vf (some va) pa r.hint
      else (s.fillVisit (coreOf n) vf va pa r.hint).l1Ready (coreOf n) vf (pa / 64)
    | _ => s

/-- FAR_LOAD_PERFORM: pieces of a load, at the given 8-byte units, are performed (R198, R41); a `pref` as a whole. -/
def execFarLoadPerform (n id : Nat) (lines : List Nat) (s : State) : Host.Outcome State Fault Refusal :=
  match s.entry n id with
  | none => .next s
  | some r =>
    match r.work with
    | .op (.pref _ _) =>
      if s.mayPerform n r && (s.prefMiss n r).isNone && !r.prefLines.any (s.prefWaits n r) then
        let t := r.prefLines.foldl (fun s i => s.prefLine n r i) (s.beginAccess n)
        .next ((t.onCtx n fun c => { c with port := { c.port with queue := c.port.queue.filter fun q => q.id != id } }).settlePort n)
      else .next s
    | .op (.ldf _ _) | .op (.vldf _ _) =>
      s.performing n id fun r s =>
        let offs := r.units.filter fun o => lines.contains (o / 8)
        let t := s.visitUnits (offs.foldl (fun s o => s.loadPiece n id o) s) n r offs
        (t.loadSent n id).settleLoad n id
    | _ => .next s

/-! ## Stores and flushes (R196, R198, R206, R484) -/

/-- Can the write-backs that a release makes first be performed (R197)? -/
def State.releaseReady (s : State) (n : Nat) (r : PortReq) : Bool :=
  !(r.releases && 2 ≤ r.scope) || s.canFlush n

/-- A release at device or fabric scope first writes back what the context made dirty (R197). -/
def State.releaseFirst (s : State) (n : Nat) (r : PortReq) : State :=
  if r.releases && 2 ≤ r.scope then s.flushCtx n else s

/-- The data of a store. -/
def PortReq.data (r : PortReq) : List Byte :=
  match r.work with
  | .op (.vstf _ _) => r.vec
  | _ => natBytes r.size r.w1.toNat

/-- The part of a store that one cell takes in one step (R307): the 8-byte pieces of the cell that holds an offset. -/
def PortReq.cellPieces (r : PortReq) (off : Nat) : List (Nat × List Byte) :=
  let cell := cellOf (r.addr.toNat + off)
  (r.units.filter fun u => cellOf (r.addr.toNat + u) == cell).map fun u => (u, (r.data.drop u).take (min 8 r.size))

/-- One piece of a store, at an offset; on an EMB page it goes with the rest of its cell. -/
def State.storePiece (s : State) (n id off : Nat) : State :=
  match s.entry n id with
  | none => s
  | some r =>
    let bs := (r.data.drop off).take (min 8 r.size)
    let mark := fun (s : State) => s.onCtx n fun c => { c with port := c.port.change id fun q => { q with done := q.done ++ [(off, bs)] } }
    if r.done.any fun p => p.1 == off then s
    else
      match s.xlatePort n r off with
      | .ok pa true =>
        if s.isHeld pa 1 then s
        else
          let ps := r.cellPieces off
          let first := ps.foldl (fun k p => min k p.1) off
          let (s, bad) := s.storeCells (pa - (off - first)) (ps.flatMap (·.2))
          let cell := cellOf (r.addr.toNat + off)
          let mark := fun (s : State) => s.onCtx n fun c =>
            { c with port := c.port.change id fun q => { q with done := q.done ++ ps } }
          mark (if bad.isSome then
            s.onCtx n fun c => { c with port := c.port.change id fun q =>
              { q with fails := q.fails ++ [(cell - r.addr.toNat, ⟨.embstore, BitVec.ofNat 64 cell⟩)] } }
          else s)
      | .ok pa false =>
        if s.isHeld pa 1 then s
        else mark (if r.scope < 2 then s.l1Store n (r.cls.getD 0) pa bs else s.deviceStore n pa bs)
      | _ => s

/-- A store whose every piece is done is performed, or raises EMBSTORE once for its lowest KINDLED cell (R484). -/
def State.settleStore (s : State) (n id : Nat) : State :=
  match s.entry n id with
  | none => s
  | some r =>
    if r.doneBelow r.size then
      let low := r.fails.foldl (fun (m : Option (Nat × Trapped)) f =>
        match m with
        | none => some f
        | some g => if f.1 < g.1 then some f else some g) none
      match low with
      | some (_, t) => s.portFault n id t
      | none => s.onCtx n fun c => { c with port := c.port.change id fun q => { q with stage := .performed } }
    else s

/-- Lines of the VF that a `cflush` names (R206): by virtual address through the translations present. -/
def State.flushLines (s : State) (n : Nat) (r : PortReq) : List L1Line :=
  let vf := (s.ctx n).id.vf
  let len := r.w1.toNat
  let a := r.addr.toNat
  let mine := (s.core (coreOf n)).l1.filter fun l => l.vf == vf
  if len = 0 then []
  else if 2 ^ 21 < len then mine
  else
    let first := a / 64
    let count := (a + len - 1) / 64 + 1 - first
    let pas := (List.range count).filterMap fun i =>
      match s.walk vf ((first + i) * 64) with
      | .leaf base _ pa _ => if (first + i) * 64 < 2 ^ 52 then some ((pa + ((first + i) * 64 - base)) / 64) else none
      | _ => none
    mine.filter fun l => pas.contains l.line

/-- The first line of a `cflush` range that it is to write back on a page that lacks W, by virtual address (Table 16.3); a
`cflush` of all lines of its VF names no page. (DEDUCED: log 158) -/
def State.flushRefused (s : State) (n : Nat) (r : PortReq) : Option Nat :=
  let len := r.w1.toNat
  let first := r.addr.toNat / 64
  let dirty := (s.flushLines n r).filter fun l => !l.dirty.isEmpty
  if len = 0 || 2 ^ 21 < len || dirty.isEmpty then none
  else ((List.range ((r.addr.toNat + len - 1) / 64 + 1 - first)).map fun i => (first + i) * 64).find? fun va =>
    match s.walk (s.ctx n).id.vf va with
    | .leaf base _ pa bits =>
      va < 2 ^ 52 && (Need.write.refused bits).isSome && dirty.any fun l => l.line == (pa + (va - base)) / 64
    | _ => false

/-- A `cflush` performed: dirty lines written back, those of the context first at device or fabric scope (R197), and, unless MODE is 0, the lines invalidated. -/
def State.performFlush (s : State) (n : Nat) (r : PortReq) (mode : Nat) : State :=
  let dirty := ((s.flushLines n r).filter fun l => !l.dirty.isEmpty).map (·.line)
  let s := if 2 ≤ r.scope then s.flushCtx n else s
  let ls := s.flushLines n r
  let s := ls.foldl (fun s l => s.writeBack (coreOf n) l) s
  let s := { s with l2 := if mode = 2 then dirty.foldl L2.evict s.l2 else s.l2 }
  let s :=
    if mode = 0 then s
    else s.onCore (coreOf n) fun k =>
      { k with l1 := k.l1.filter fun l => !ls.any fun x => x.vf == l.vf && x.line == l.line }
  s.onCtx n fun c => { c with port := c.port.change r.id fun q => { q with stage := .performed } }

/-- FAR_STORE_PERFORM: pieces of a store, at the given 8-byte units, are performed (R198, R41); a `cflush` as a whole. -/
def execFarStorePerform (n id : Nat) (lines : List Nat) (s : State) : Host.Outcome State Fault Refusal :=
  match s.entry n id with
  | none => .next s
  | some r =>
    match r.work with
    | .op (.cflush _ f) =>
      let ready := s.mayPerform n r && (r.scope < 2 || s.canFlush n) &&
        (s.flushLines n r).all fun l => l.dirty.isEmpty || !s.isHeld (64 * l.line) 64
      if let (true, some va) := (ready, s.flushRefused n r) then .next ((s.violatePort n r 3 va).settlePort n)
      else if ready then .next (((s.beginAccess n).performFlush n r (f.fn.extractLsb' 6 2).toNat).settlePort n) else .next s
    | .op (.stf _ _) | .op (.vstf _ _) =>
      if s.releaseReady n r then
        s.performing n id fun r s =>
          let offs := r.units.filter fun o => lines.contains (o / 8)
          let s := s.releaseFirst n r
          (s.visitUnits (offs.foldl (fun s o => s.storePiece n id o) s) n r offs).settleStore n id
      else .next s
    | _ => .next s

/-- FAR_STORE_ACK: a performed store or flush is acknowledged; its entry goes and its signal completes
(R200). -/
def execFarStoreAck (n id : Nat) (s : State) : Host.Outcome State Fault Refusal :=
  match s.entry n id with
  | some r =>
    if r.stage == .performed then
      .next ((s.onCtx n fun c =>
        { c with port := { c.port with queue := c.port.queue.filter fun q => q.id != id } }.completeSignal r.sig).settlePort n)
    else .next s
  | none => .next s

/-- LANDING_DATA_ARRIVAL: data reach the landing buffer, once they have an entry there (R200, R201); a late landing is
over. -/
def execLandingDataArrival (n id : Nat) (s : State) : Host.Outcome State Fault Refusal :=
  .next (s.onCtx n fun c =>
    { c with port := { c.port with landings := c.port.landings.map fun l =>
        if l.id == id && (!l.queued || c.landingRoom l.slots) then { l with arrived := true, queued := false } else l } })

/-! ## Faults that arrive (R202, R435) -/

/-- Accesses of later bundles that have not been sent, which the fault cancels (R202). -/
def Ctx.cancelled (c : Ctx) (r : PortReq) : List PortReq :=
  c.port.queue.filter fun e =>
    (r.cls.isSome || r.onIntake) && e.cls.isSome && e.level == r.level && r.seq < e.seq && (e.stage == .pending || e.stage == .refused) && e.done.isEmpty

/-- Entries put into a replay list in program order (R435). -/
def mergeReplay (l new : List PortReq) : List PortReq :=
  sortKey (fun r => 8 * r.seq + r.slot) (l ++ new)

/-- Is a cause of the first kind of R435, that of a C-slot op? -/
def Cause.isPort : Cause → Bool
  | .refused | .stepover | .brcoll | .swtrap | .break_ => false
  | _ => true

/-- A cause of level-0 work held while the handler runs; where one of its kind is held, the op is in the replay list alone,
and replay will raise it again (R435). (DEDUCED: log 138) -/
def Ctx.holdCause (c : Ctx) (t : Trapped) : Ctx :=
  if c.trap.held.any fun x => x.cause.isPort then c else { c with trap := { c.trap with held := c.trap.held ++ [t] } }

/-- Is a waiting fault the one that its boundary delivers: a fatal one of lowest code, else that of the op earliest in program
order, and not before an access of its bundle that goes before it may still fault (R435, Table 15.9)? -/
def Ctx.strikesFirst (c : Ctx) (f : PortFault) (r : PortReq) : Bool :=
  let key := fun (e : PortReq) => 8 * e.seq + e.slot
  let others := c.port.faults.filterMap fun g =>
    (c.port.queue.find? fun e => e.id == g.id && e.id != r.id && !e.isRed && e.level == r.level).map fun e => (g, e)
  if f.trap.cause.isFatal then others.all fun g => !g.1.trap.cause.isFatal || f.trap.cause.code ≤ g.1.trap.cause.code
  else (others.all fun g => !g.1.trap.cause.isFatal && key r ≤ key g.2) &&
    !c.port.queue.any fun e => e.cls.isSome && !e.isRed && !e.isHint && e.level == r.level && e.seq == r.seq && e.slot < r.slot &&
      (e.stage == .pending || e.stage == .emberWait || e.stage == .refused)

/-- Later ops whose faults wait at the same boundary: they are in the replay list alone (R435). -/
def Ctx.fellows (c : Ctx) (r : PortReq) : List PortReq :=
  c.port.queue.filter fun e => e.stage == .faulted && !e.isRed && e.level == r.level && 8 * r.seq + r.slot < 8 * e.seq + e.slot &&
    c.port.faults.any fun f => f.id == e.id

/-- A later fault goes into the replay list with the accesses it cancels and its later fellows, and is delivered or held (R202, R435); one of
level-1 work gives NESTED, after the return too (R434). EMBFAULT acquires (R50). -/
def State.arriveFault (s : State) (n : Nat) (r : PortReq) (t : Trapped) : State :=
  let c := s.ctx n
  let gone := c.cancelled r ++ (c.fellows r).map fun e => { e with stage := .pending, landing := false }
  let ids := r.id :: gone.map (·.id)
  let s := s.onCtx n fun c =>
    { c with
      trap := { c.trap with list := mergeReplay c.trap.list ({ r with stage := .pending, landing := false } :: gone) }
      port := { c.port with queue := c.port.queue.filter fun e => !ids.contains e.id
                            faults := c.port.faults.filter fun f => !ids.contains f.id } }
  let s := { s with waiters := s.waiters.filter fun w => w.loader != Loader.port n r.id }
  let s := if t.cause = .embfault then s.onCtx n Ctx.setAcquired else s
  if r.level && !c.trap.tl && !t.cause.isFatal then s.retireFatal n ⟨.nested, t.info⟩ c.pc t.cause.code
  else if c.trap.tl && !r.level && !t.cause.isFatal then s.onCtx n fun c => c.holdCause t
  else s.takeTrap n t c.pc

/-- FAR_FAULT_ARRIVAL: a later fault reaches the port and strikes at the bundle boundary (R202); a `red`'s faults are
logged instead (R251). -/
def execFarFaultArrival (n id : Nat) (s : State) : Host.Outcome State Fault Refusal :=
  match (s.ctx n).port.faults.find? (fun f => f.id == id), s.entry n id with
  | some f, some r =>
    let st := (s.ctx n).life.state
    if st == .draining || st == .frozen then
      -- a response that is discarded (R22, R462)
      .next ((s.onCtx n fun c => { c with port := { c.port with
        faults := c.port.faults.filter fun f => f.id != id
        queue := c.port.queue.filter fun q => q.id != id && some q.id != r.sig } }).settlePort n)
    else if r.isRed || !(st == .ready || st == .stalled) || !(s.ctx n).routines.isEmpty || !(s.ctx n).strikesFirst f r then .next s
    else
      .next ((s.arriveFault n r f.trap).settlePort n)
  | _, _ => .next s

/-- A REDLOG entry appended, or OVERRUN set (R251, Table 8.3). -/
def Ctx.logRed (c : Ctx) (r : PortReq) (t : Trapped) : Ctx :=
  if 32 ≤ c.ctl.redlog.length then { c with ctl := { c.ctl with overrun := true } }
  else
    let cause := match t.cause with
      | .illaddr => 1
      | .ecc => 4
      | _ => if t.info.extractLsb' 0 8 == 0x20#8 then 3 else 2
    let word := r.mem.elim 0 fun f => cause * 2 ^ 16 + f.scope * 2 ^ 12 + f.cls * 2 ^ 8 + r.hdr.elim 0 (·.typ) * 16 + f.aop
    let operand := BitVec.ofNat 64 (r.w1.toNat % 2 ^ (8 * r.size))
    { c with ctl := { c.ctl with redlog := c.ctl.redlog ++ [⟨r.addr, BitVec.ofNat 64 word, operand⟩] } }

/-- REDLOG_APPEND: a reduction's later fault is recorded, and the `red` counts as performed (R251). -/
def execRedlogAppend (n id : Nat) (s : State) : Host.Outcome State Fault Refusal :=
  match (s.ctx n).port.faults.find? (fun f => f.id == id), s.entry n id with
  | some f, some r =>
    if r.isRed then
      .next ((s.onCtx n fun c =>
        let p := { c.port with faults := c.port.faults.filter (fun f => f.id != id),
                               queue := c.port.queue.filter fun q => q.id != id }
        ({ c with port := p }.logRed r f.trap).completeSignal r.sig).settlePort n)
    else .next s
  | _, _ => .next s

/-- SEMAPHORE_SIGNAL: a held increment is applied once every earlier far access is performed at device scope (R53). -/
def execSemaphoreSignal (n id : Nat) (s : State) : Host.Outcome State Fault Refusal :=
  match s.entry n id with
  | some r =>
    match r.work with
    | .signal _ _ =>
      let live := (s.ctx n).life.state != .frozen && (s.ctx n).life.state != .saved
      if live && r.stage == .pending && !s.isBlocked n r && s.canFlush n then
        .next (((s.flushCtx n).fireSignal n (some id)).settlePort n)
      else .next s
    | .op _ => .next s
  | none => .next s

/-- EMBER_LOAD_RESEND: a refused load is sent again (R308). (DESIGN CHOICE: log 78) -/
def execEmberLoadResend (n id : Nat) (s : State) : Host.Outcome State Fault Refusal :=
  .next (s.onCtx n fun c => { c with port := c.port.change id fun r => if r.stage == .refused then { r with stage := .pending } else r })

end Sys2Proof.Machine
end

