-- ==== Sys2Proof/Machine/Agents.lean ====
section
/-!
DEFINITION. The ops that the home agents carry out (R244 to R262): atomics, reductions, waits on addresses, set barriers,
leaving a set, remote semaphore signals.
-/
namespace Sys2Proof.Machine
open Sys2Proof

/-! ## Issue -/

/-- `amo` (R246). -/
def execAmo (h : Hdr) (f : MemF) (s : State) : Host.Outcome State Fault Refusal :=
  portOp h (memReq (.amo h f) f homeAddr) [(0, f.d.toNat)] (acceptFar (typeBytes h.typ) true) s

/-- `cas` (R247). -/
def execCas (h : Hdr) (f : MemF) (s : State) : Host.Outcome State Fault Refusal :=
  portOp h (memReq (.cas h f) f homeAddr) [(0, f.d.toNat)] (acceptFar (typeBytes h.typ) true) s

/-- `red` (R250). -/
def execRed (h : Hdr) (f : MemF) (s : State) : Host.Outcome State Fault Refusal :=
  portOp h (memReq (.red h f) f homeAddr) [] (acceptFar (typeBytes h.typ) false) s

/-- The cycle of its core at which a `wta` started now times out: at most 2^40 − 1 cycles on (R253, R255). -/
def State.wtaDeadline (s : State) (n : Nat) (r : PortReq) : Nat :=
  (s.core (coreOf n)).cycle.toNat + min r.w2.toNat (2 ^ 40 - 1)

/-- `wta` (R253): the core's timeout starts at issue (R255). -/
def execWta (h : Hdr) (f : MemF) (s : State) : Host.Outcome State Fault Refusal :=
  portOp h (fun c => let r := memReq (.wta h f) f homeAddr c
                     { r with deadline := s.wtaDeadline s.iss.cur r })
    [(0, f.d.toNat)] (acceptFar 8 true) s

/-- The set of a set op: IMM44[7:0]. -/
def setOf (f : Tri) : Nat := (f.imm.extractLsb' 0 8).toNat

/-- Has the context an arrival on the set not yet released (R256)? -/
def State.arrivalOpen (s : State) (n k : Nat) : Bool :=
  (s.set k).arrivals.contains n || (s.set k).released.contains n ||
    (s.ctx n).port.queue.any fun r =>
      match r.work with
      | .op (.bar _ f) | .op (.barr _ f) => setOf f == k
      | _ => false

/-- NOTMEMBER (R258). -/
def State.memberFault (s : State) (n k : Nat) : Option Trapped :=
  if (s.set k).members.contains n then none else some (permInfo 0x21)

/-- A departure awaited before the next bundle, with the op's signal (R257). -/
def State.awaitRelease (s : State) (n k : Nat) (r : PortReq) : State :=
  s.onCtx n fun c =>
    let id := c.port.nextId
    let sig := r.hdr.bind fun h => if h.sinc == 0 then none else some h
    let hold := sig.map fun h => { blankReq (.signal h.ssem.toNat h.sinc.toNat) with
      id := id, seq := r.seq, slot := r.slot, level := r.level, stage := .incomplete }
    { c with port := { c.port with queue := c.port.queue ++ hold.toList, nextId := id + 1,
                                   departs := c.port.departs ++ [{ set := k, sig := sig.map fun _ => id }] } }

/-- `barr`: an arrival (Table 8.4). -/
def acceptBarr : Accept := fun s n r =>
  match r.work with
  | .op (.barr _ f) =>
    match s.memberFault n (setOf f) with
    | some t => .error t
    | none => .ok (s.pushOp n r false)
  | _ => .ok s

/-- `barw`: a departure, at once where the context has no arrival that is still to be released (Table 8.4, R257). -/
def acceptBarw : Accept := fun s n r =>
  match r.work with
  | .op (.barw _ f) =>
    match s.memberFault n (setOf f) with
    | some t => .error t
    | none =>
      .ok (if s.arrivalOpen n (setOf f) then s.awaitRelease n (setOf f) r else (s.onCtx n Ctx.setAcquired).heldSignal n r)
  | _ => .ok s

/-- `bar`: an arrival and its departure (Table 8.4). -/
def acceptBar : Accept := fun s n r =>
  match r.work with
  | .op (.bar _ f) =>
    match s.memberFault n (setOf f) with
    | some t => .error t
    | none =>
      let s := s.onCtx n fun c =>
        { c with port := { c.port with queue := c.port.queue ++ [{ r with id := c.port.nextId, known := true, stage := .pending }],
                                       nextId := c.port.nextId + 1 } }
      .ok (s.awaitRelease n (setOf f) r)
  | _ => .ok s

/-- `bar` (R257). -/
def execBar (h : Hdr) (f : Tri) (s : State) : Host.Outcome State Fault Refusal :=
  portOp h (triReq (.bar h f) f) [] acceptBar s
/-- `barr` (R257). -/
def execBarr (h : Hdr) (f : Tri) (s : State) : Host.Outcome State Fault Refusal :=
  portOp h (triReq (.barr h f) f) [] acceptBarr s
/-- `barw` (R257). -/
def execBarw (h : Hdr) (f : Tri) (s : State) : Host.Outcome State Fault Refusal :=
  portOp h (triReq (.barw h f) f) [] acceptBarw s
/-- `gleave` (R259). -/
def execGleave (h : Hdr) (f : Tri) (s : State) : Host.Outcome State Fault Refusal :=
  portOp h (triReq (.gleave h f) f) [] (acceptAlways false) s
/-- `hsigr` (R260). -/
def execHsigr (h : Hdr) (f : Tri) (s : State) : Host.Outcome State Fault Refusal :=
  portOp h (triReq (.hsigr h f) f) [] (acceptAlways false) s

/-! ## Atomics and reductions performed (R243, R246, R247, R250) -/

/-- New(m, v) of Table 8.2 for a type. -/
def atomicNew (t aop : Nat) (m v : Nat) : Nat :=
  let w := Ty.width t
  let less := if Ty.isFloat t then false else typedOperand t m < typedOperand t v
  match aop with
  | 0 => v
  | 1 =>
    if Ty.isFloat t then (roundF t 0 false (exactSum 0 [decodeFloat t m, decodeFloat t v])).1 else (m + v) % 2 ^ w
  | 2 => m &&& v
  | 3 => m ||| v
  | 4 => m ^^^ v
  | 5 => if Ty.isFloat t then (floatMinMax t false m v).1 else if less then m else v
  | _ => if Ty.isFloat t then (floatMinMax t true m v).1 else if less then v else m

/-- An operation of the home agent on the location of an access: EMBATOMIC on an EMB page; nothing while a hold stands; ECC
where the location holds an uncorrectable error (R243, R249, R419). (DEDUCED: log 39) -/
def State.atHome (s : State) (n id : Nat) (k : PortReq → Nat → State → State) : Host.Outcome State Fault Refusal :=
  match s.entry n id with
  | none => .next s
  | some r =>
    if !s.releaseReady n r then .next s
    else
      let waits := match s.xlatePort n r 0 with
        | .ok pa _ => s.isHeld pa r.size
        | _ => false
      if waits then .next s
      else
        s.performing n id fun r s =>
          match s.xlatePort n r 0 with
          | .ok _ true => s.portFault n id (permInfo 0x20)
          | .ok pa false =>
            let s := (s.releaseFirst n r).purgeLine n pa
            s.visitOp (if s.isBad pa r.size then s.portFault n id ⟨.ecc, 0⟩ else k r pa s) n r pa
          | _ => s

/-- An answered access with its value, and the acquire it may be. -/
def State.respondWord (s : State) (n : Nat) (r : PortReq) (v : Dword) : State :=
  s.onCtx n fun c =>
    (c.respond { id := r.id, words := [(r.dest, v)] }).acquiredBy r false

/-- AMO_PERFORM (R246). -/
def execAmoPerform (n id : Nat) (s : State) : Host.Outcome State Fault Refusal :=
  s.atHome n id fun r pa s =>
    match r.work with
    | .op (.amo h f) =>
      let m := natOfBytes (s.bytes pa r.size)
      let v := r.w1.toNat % 2 ^ (8 * r.size)
      (s.homeWrite pa (natBytes r.size (atomicNew h.typ f.aop m v))).respondWord n r (extendTyped h.typ m)
    | _ => s

/-- CAS_PERFORM (R247): a failed `cas` writes nothing. -/
def execCasPerform (n id : Nat) (s : State) : Host.Outcome State Fault Refusal :=
  s.atHome n id fun r pa s =>
    match r.work with
    | .op (.cas h _) =>
      let k := 2 ^ (8 * r.size)
      let m := natOfBytes (s.bytes pa r.size)
      let s := if m = r.w1.toNat % k then s.homeWrite pa (natBytes r.size (r.w2.toNat % k)) else s
      s.respondWord n r (extendTyped h.typ m)
    | _ => s

/-- RED_PERFORM (R250): its request entry is free, and its signal completes. -/
def execRedPerform (n id : Nat) (s : State) : Host.Outcome State Fault Refusal :=
  s.atHome n id fun r pa s =>
    match r.work with
    | .op (.red h f) =>
      let m := natOfBytes (s.bytes pa r.size)
      let v := r.w1.toNat % 2 ^ (8 * r.size)
      (s.homeWrite pa (natBytes r.size (atomicNew h.typ f.aop m v))).onCtx n fun c =>
        { c with port := { c.port with queue := c.port.queue.filter fun q => q.id != id } }.completeSignal r.sig
    | _ => s

/-! ## Waiting on an address (R253 to R255) -/

/-- Waits registered at a slice. -/
def State.waitsAt (s : State) (slice : Nat) : Nat :=
  (s.ctxs.map fun p => (p.2.port.queue.filter fun r => r.isWaitingWta && sliceOf r.pa == slice).length).foldl (· + ·) 0

/-- WTA_ARRIVAL: the request returns at once or enters the wait table (R253). -/
def execWtaArrival (n id : Nat) (s : State) : Host.Outcome State Fault Refusal :=
  s.atHome n id fun r pa s =>
    match r.work with
    | .op (.wta _ _) =>
      let v := s.dword pa
      if v ≠ r.w1 ∨ r.w2 = 0 ∨ 1024 ≤ s.waitsAt (sliceOf pa) then s.respondWord n r v
      else s.onCtx n fun c => { c with port := c.port.change id fun q => { q with stage := .waiting, pa := pa } }
    | _ => s

/-- A registered wait cancelled: it returns the word as it stands (R253). -/
def State.cancelWait (s : State) (n : Nat) (r : PortReq) : State := s.respondWord n r (s.dword r.pa)

/-- WTA_TIMEOUT: the core cancels the wait once its cycles have run out (R255), the word being read when no envelope holds its
line (R419). -/
def execWtaTimeout (n id : Nat) (s : State) : Host.Outcome State Fault Refusal :=
  match s.entry n id with
  | some r =>
    if r.isWaitingWta && !s.isHeld r.pa 8 && r.deadline ≤ (s.core (coreOf n)).cycle.toNat then .next ((s.cancelWait n r).settlePort n)
    else .next s
  | none => .next s

/-! ## Barriers (R256 to R259) -/

/-- Does an earlier `gleave` of a set wait in the port? -/
def Ctx.leavesBefore (c : Ctx) (r : PortReq) (k : Nat) : Bool :=
  (c.before r).any fun e => match e.work with
    | .op (.gleave _ f) => setOf f == k
    | _ => false

/-- BARRIER_ARRIVAL: an arrival, a release at device scope over every class, is counted (R257), after an earlier `gleave` of
the context; one of a context that is no member any more is NOTMEMBER (R258), and a context with REDLOG entries ends instead (R252). -/
def execBarrierArrival (n id : Nat) (s : State) : Host.Outcome State Fault Refusal :=
  match s.entry n id with
  | some r =>
    match r.work with
    | .op (.bar _ f) | .op (.barr _ f) =>
      if !s.mayPerform n r || !s.canFlush n || (s.ctx n).leavesBefore r (setOf f) then .next s
      else if let some t := s.memberFault n (setOf f) then
        let s := s.onCtx n fun c =>
          { c with port := { c.port.change id (fun q => { q with known := false }) with
                             departs := c.port.departs.filter fun d => d.set != setOf f } }
        .next (s.portFault n id t)
      else if !(s.ctx n).ctl.redlog.isEmpty then .next (s.redFault n r)
      else
        let s := (s.flushCtx n).onCtx n fun c =>
          { c with port := { c.port with queue := c.port.queue.filter fun q => q.id != id } }.completeSignal r.sig
        .next ((s.onSet (setOf f) fun e => e.arrive n).settlePort n)
    | _ => .next s
  | none => .next s

/-- A departure: an acquire at device scope (R257). -/
def State.depart (s : State) (n k : Nat) : State :=
  s.onCtx n fun c =>
    let done := c.port.departs.filter fun d => d.set == k
    let c := { c with port := { c.port with departs := c.port.departs.filter fun d => d.set != k } }.setAcquired
    done.foldl (fun c d => c.completeSignal d.sig) c

/-- BARRIER_RELEASE: a release reaches its member (R256, R257, R258). -/
def execBarrierRelease (n k : Nat) (s : State) : Host.Outcome State Fault Refusal :=
  if (s.set k).released.contains n then
    let s := s.onSet k fun e => { e with released := e.released.filter (· != n) }
    if (s.ctx n).life.state = .saved then .next (s.addPending n (.release k))
    else .next (s.depart n k)
  else .next s

/-- GLEAVE_PERFORM: the home agent removes the member and tests the release again (R259). -/
def execGleavePerform (n id : Nat) (s : State) : Host.Outcome State Fault Refusal :=
  match s.entry n id with
  | some r =>
    match r.work with
    | .op (.gleave _ f) =>
      if s.mayPerform n r then
        let s := s.onCtx n fun c =>
          { c with port := { c.port with queue := c.port.queue.filter fun q => q.id != id } }.completeSignal r.sig
        .next (if (s.set (setOf f)).members.contains n then s.onSet (setOf f) fun e => e.leave n else s)
      else .next s
    | _ => .next s
  | none => .next s

/-! ## Remote signals (R260) -/

/-- HSIGR_DELIVER: the set's home agent checks every member, then adds the value to each member's semaphore; members that
are FROZEN or DRAINING are skipped. Of SETVF and SIGRANGE the first is tested first. (DESIGN CHOICE: log 175) -/
def execHsigrDeliver (n id : Nat) (s : State) : Host.Outcome State Fault Refusal :=
  match s.entry n id with
  | some r =>
    match r.work with
    | .op (.hsigr _ f) =>
      if !s.mayPerform n r || !s.canFlush n then .next s
      else
        let s := s.flushCtx n
        let h := (f.imm.extractLsb' 8 8).toNat
        let v := if f.fn.getLsbD 0 then (f.imm.extractLsb' 16 16).toNat else min r.addr.toNat 0xFFFF
        let ms := (s.set (setOf f)).members
        let vf := (s.ctx n).id.vf
        if ms.any fun m => (s.ctx m).id.vf != vf then .next (s.portFault n id (permInfo 0x22))
        else if ms.any fun m => (s.ctx m).id.semCount ≤ h then .next (s.portFault n id (permInfo 0x23))
        else
          let s := ms.foldl (fun s m =>
            let st := (s.ctx m).life.state
            if st == .frozen || st == .draining then s else s.raiseSem m h v) s
          .next ((s.onCtx n fun c =>
            { c with port := { c.port with queue := c.port.queue.filter fun q => q.id != id } }.completeSignal r.sig).settlePort n)
    | _ => .next s
  | none => .next s

end Sys2Proof.Machine
end

