-- ==== Sys2Proof/Machine/Matrix.lean ====
section
/-!
DEFINITION. Meanings of the M-slot and X-slot ops at issue (R283 to R303, R485): their checks, the status they set, what
they capture, and their place in the array queue. What the array then does stands in Machine/Array.lean.
-/
namespace Sys2Proof.Machine
open Sys2Proof

/-! ## Status, faults, the queue -/

/-- The status of accumulator n (Table 9.2). -/
def MatSt.stat (m : MatSt) (n : Nat) : AccStatus := if n = 0 then m.stat0 else m.stat1
def MatSt.setStat (m : MatSt) (n : Nat) (x : AccStatus) : MatSt :=
  if n = 0 then { m with stat0 := x } else { m with stat1 := x }
def Ctx.setStat (c : Ctx) (n : Nat) (x : AccStatus) : Ctx := { c with mat := c.mat.setStat n x }

/-- The exact class: `q4x`, `s4`, `s8`, `e4m3` (R271). -/
def isExactClass (t : Nat) : Bool := t == Ty.q4x || t == Ty.s4 || t == Ty.s8 || t == Ty.e4m3

/-- The first TILESHAPE condition that fails, in the order of R485: condition, reason, tile. -/
def firstShape : List (Bool × Nat × Nat) → Option Trapped
  | [] => none
  | (bad, reason, tile) :: rest => if bad then some (tileShape reason tile) else firstShape rest

/-- The place of the next M op in the order in which the array serves the queues of a core's contexts: after every op that
they hold (R277). -/
def State.arrayOrder (s : State) (core : Nat) : Nat :=
  1 + (slotsOf core).foldl (fun k n => (s.ctx n).mat.queue.foldl (fun k q => max k q.order) k) 0

/-- An op put into the array queue (R277), with the signal that its completion owes (Table 1.5). (DEDUCED: log 31) -/
def State.enqueue (s : State) (h : Hdr) (i : Instr) (f : ArrayOp → ArrayOp) : State :=
  let order := s.arrayOrder (coreOf s.iss.cur)
  let (s, sig) := s.addSignal h false
  (s.onIss fun x => x.noteAll (i.arrayDests ++ i.tileDests)).onCur fun c =>
    let q : ArrayOp := f { id := c.mat.nextId, seq := c.life.seq, level := c.trap.tl, op := i, sig := sig, order := order }
    { c with mat := { c.mat with queue := c.mat.queue ++ [q], nextId := c.mat.nextId + 1 } }

/-- ACCMODE and ACCWIN (R303). -/
def accMode (acc : Nat) : Trapped := ⟨.accmode, BitVec.ofNat 64 acc⟩
def accWin (acc : Nat) (w : Int) : Trapped := ⟨.accwin, BitVec.ofNat 64 (acc + (w % 2 ^ 17).toNat * 2 ^ 24)⟩

/-- The tag and window check of R273, or of R275 for the float class: a fault, or the status the op leaves. -/
def checkTag (exact : Bool) (acc : Nat) (w : Int) (x : AccStatus) : Except Trapped AccStatus :=
  if exact then
    if x.tag = 2 then .error (accMode acc)
    else if x.tag = 1 then (if x.win = w then .ok x else .error (accWin acc w))
    else .ok { x with tag := 1, win := w }
  else
    if x.tag = 1 then .error (accMode acc) else .ok { x with tag := 2, win := 0 }

/-! ## Multiply-accumulate (R287) -/

/-- The status with which the checks of `mmz` are made: zero, its sticky bits included (R287). Where earlier ops are queued
they still owe sticky bits, and their `mstat` the bits that stand; both precede this op in the order of issue, so the sticky
bits are then cleared with the cells, in the queue (R264, R277, R290). (DEDUCED: log 120) -/
def MatSt.zeroedStat (m : MatSt) (d : Nat) : AccStatus :=
  if m.queue.isEmpty then {} else { m.stat d with tag := 0, win := 0 }

/-- `mma` and `mmz` (R287); `clear` for `mmz`, whose status is NONE when the checks are made. -/
def multiplyOp (h : Hdr) (i : Instr) (f : Mat) (clear : Bool) (s : State) : Host.Outcome State Fault Refusal :=
  .next (s.guarded h fun s =>
    let c := s.cur
    let a := f.a.toNat
    let b := f.b.toNat
    let xa := c.tctl a
    let xb := c.tctl b
    let k := f.k.toNat
    let bad := firstShape
      [(!tctlValid xa, 1, a), (!tctlValid xb, 1, b), (tctlType xa != h.typ, 2, a), (tctlType xb != h.typ, 2, b),
       (tctlCols xa < k, 3, a), (tctlCols xb < k, 3, b)]
    let eA := baseExp (c.s f.ea.toNat)
    let eB := baseExp (c.s f.eb.toNat)
    let d := f.d.toNat
    let before := if clear then c.mat.zeroedStat d else c.mat.stat d
    match bad, checkTag (isExactClass h.typ) d (eA + eB) before with
    | some t, _ => s.raise t
    | none, .error t => s.raise t
    | none, .ok st =>
      (s.onCur fun c => c.setStat d st).enqueue h i fun q =>
        { q with eA := eA, eB := eB, statD := st, tctlA := xa, tctlB := xb, latA := c.mat.latchA, latB := c.mat.latchB })

/-- `mma` (R287). -/
def execMma (h : Hdr) (f : Mat) (s : State) : Host.Outcome State Fault Refusal := multiplyOp h (.mma h f) f false s
/-- `mmz` (R287). -/
def execMmz (h : Hdr) (f : Mat) (s : State) : Host.Outcome State Fault Refusal := multiplyOp h (.mmz h f) f true s

/-! ## Accumulators (R288 to R292) -/

/-- The fault of `macc`, or the status D takes (R288). -/
def combineTags (d : Nat) (sa sd : AccStatus) : Except Trapped AccStatus :=
  if sa.tag = 0 then .ok sd
  else if sd.tag = 0 then .ok { sd with tag := sa.tag, win := sa.win }
  else if sa.tag ≠ sd.tag then .error (accMode d)
  else if sa.tag = 1 ∧ sa.win ≠ sd.win then .error (accWin d sa.win)
  else .ok sd

/-- `macc` (R288). -/
def execMacc (h : Hdr) (f : Tri) (s : State) : Host.Outcome State Fault Refusal :=
  .next (s.guarded h fun s =>
    let d := f.d.toNat
    let sa := s.cur.mat.stat f.a.toNat
    let sd := s.cur.mat.stat d
    match combineTags d sa sd with
    | .error t => s.raise t
    | .ok st => (s.onCur fun c => c.setStat d st).enqueue h (.macc h f) fun q => { q with statD := sd, statA := sa })

/-- TAG := NONE and WIN := 0 at issue (R289). -/
def Ctx.clearTag (c : Ctx) (n : Nat) : Ctx := c.setStat n { c.mat.stat n with tag := 0, win := 0 }

/-- `mclr` (R289). -/
def execMclr (h : Hdr) (f : Tri) (s : State) : Host.Outcome State Fault Refusal :=
  .next (s.guarded h fun s => (s.onCur fun c => c.clearTag f.d.toNat).enqueue h (.mclr h f) fun q => q)

/-- `mstat` (R290): TAG and WIN as every op issued before it leaves them. -/
def execMstat (h : Hdr) (f : Tri) (s : State) : Host.Outcome State Fault Refusal :=
  .next (s.guarded h fun s => s.enqueue h (.mstat h f) fun q => { q with statA := s.cur.mat.stat f.a.toNat })

/-- The tag of an accumulator cleared when CLR is set (R291). -/
def Ctx.clearIf (c : Ctx) (fn : BitVec 8) (n : Nat) : Ctx := if fn.getLsbD 5 then c.clearTag n else c

/-- `mrd`, tile form (R291, R292). -/
def execMrdTile (h : Hdr) (f : Tri) (s : State) : Host.Outcome State Fault Refusal :=
  .next (s.guarded h fun s =>
    let c := s.cur
    let d := f.d.toNat
    let x := c.tctl d
    let q4 := h.typ == Ty.q4x
    let cols := tctlCols x
    match firstShape [(!tctlValid x, 1, d), (tctlType x != h.typ, 2, d),
        (64 < cols || (q4 && cols != 32 && cols != 64), 5, d)] with
    | some t => s.raise t
    | none =>
      (s.onCur fun c => c.clearIf f.fn f.a.toNat).enqueue h (.mrdTile h f) fun q =>
        { q with eA := baseExp (c.s (tctlExpReg x)), statA := c.mat.stat f.a.toNat, tctlD := x })

/-- `mrd`, vector form (R291). -/
def execMrdVector (h : Hdr) (f : Tri) (s : State) : Host.Outcome State Fault Refusal :=
  .next (s.guarded h fun s =>
    let c := s.cur
    (s.onCur fun c => c.clearIf f.fn f.a.toNat).enqueue h (.mrdVector h f) fun q =>
      { q with eA := if h.typ = Ty.e4m3 then baseExp (c.s f.b.toNat) else 0, statA := c.mat.stat f.a.toNat })

/-! ## Tile loads and stores (R293, R294) -/

/-- The window addresses of the shape's bytes, row by row, as natural numbers before any window check (R293). -/
def tileAddrs (x : BitVec 27) (ea p : Nat) : List Nat :=
  let rb := tctlRowBytes x
  let p := if p = 0 then rb else p
  (List.range (tctlRows x)).flatMap fun r => (List.range rb).map fun i => ea + r * p + i

/-- A window byte as a load due at `due` sees it: pending stores of the running level due earlier are made (R48, R294).
(DEDUCED: log 32) -/
def State.windowAt (s : State) (n due a : Nat) : Byte :=
  let c := s.ctx n
  let early := c.level.deferred.filter fun d => d.due < due
  let dues := sortKey (fun (d : Deferred) => 8 * d.due + d.slot) early
  (dues.flatMap fun d => d.eff.stores).foldl (fun b w => if w.1 = a then w.2 else b) (s.spByte n a)

/-- Do the data of a window byte, as a load due at `due` sees it, hold an uncorrectable error (R191)? -/
def State.windowBad (s : State) (n due a : Nat) : Bool :=
  s.spBad n a && !((s.ctx n).level.deferred.filter fun d => d.due < due).any fun d => d.eff.stores.any fun w => w.1 == a

/-- The checks of `tlds` and `tsts` (R284, R293). -/
def tileMemFault (c : Ctx) (t : Nat) (ea p : Dword) : Option Trapped :=
  let x := c.tctl t
  if !tctlValid x then some (tileShape 1 t)
  else if (tileAddrs x ea.toNat p.toNat).any fun a => c.id.spSize ≤ a then some ⟨.illaddr, ea⟩
  else if ea.toNat % 16 ≠ 0 ∨ p.toNat % 16 ≠ 0 then some ⟨.misalign, ea⟩
  else none

/-- The start address of `tlds` and `tsts` (R293). -/
def tileEa (c : Ctx) (f : Tri) : Dword := c.s f.a.toNat + signExt f.imm

/-- `tlds`: the bytes are those that a load due at k + 3 sees (R294). -/
def execTlds (h : Hdr) (f : Tri) (s : State) : Host.Outcome State Fault Refusal :=
  .next (s.guarded h fun s =>
    let c := s.cur
    let ea := tileEa c f
    let p := c.s f.b.toNat
    match tileMemFault c f.d.toNat ea p with
    | some t => s.raise t
    | none =>
      let x := c.tctl f.d.toNat
      let due := c.level.count + 3
      let as := tileAddrs x ea.toNat p.toNat
      s.enqueue h (.tlds h f) fun q =>
        { q with tctlD := x, due := due, reads := as, bytes := as.map (s.windowAt s.iss.cur due),
                 bad := as.any (s.windowBad s.iss.cur due) })

/-- `tsts`: a store in slot M due at k + 3, whatever the array's time (R294). -/
def execTsts (h : Hdr) (f : Tri) (s : State) : Host.Outcome State Fault Refusal :=
  .next (s.guarded h fun s =>
    let c := s.cur
    let ea := tileEa c f
    let p := c.s f.b.toNat
    match tileMemFault c f.d.toNat ea p with
    | some t => s.raise t
    | none =>
      let x := c.tctl f.d.toNat
      s.enqueue h (.tsts h f) fun q =>
        { q with tctlD := x, due := c.level.count + 3, addrs := tileAddrs x ea.toNat p.toNat })

/-! ## Transpose, move, fill, tile quantise (R295 to R298) -/

/-- `ttr` (R295). -/
def execTtr (h : Hdr) (f : Tri) (s : State) : Host.Outcome State Fault Refusal :=
  .next (s.guarded h fun s =>
    let d := f.d.toNat
    let a := f.a.toNat
    let xd := s.cur.tctl d
    let xa := s.cur.tctl a
    match firstShape [(!tctlValid xd, 1, d), (!tctlValid xa, 1, a), (tctlType xd != tctlType xa, 2, d),
        (tctlRows xd != tctlCols xa || tctlCols xd != tctlRows xa, 4, d)] with
    | some t => s.raise t
    | none => s.enqueue h (.ttr h f) fun q => { q with tctlD := xd, tctlA := xa })

/-- The types `tmov` converts between (R296). -/
def movTypes : List Nat := [Ty.f32, Ty.bf16, Ty.f16, Ty.e4m3, Ty.e5m2, Ty.s4, Ty.s8]

/-- `tmov` (R296). -/
def execTmov (h : Hdr) (f : Tri) (s : State) : Host.Outcome State Fault Refusal :=
  .next (s.guarded h fun s =>
    let d := f.d.toNat
    let a := f.a.toNat
    let xd := s.cur.tctl d
    let xa := s.cur.tctl a
    let same := tctlType xd == tctlType xa
    match firstShape [(!tctlValid xd, 1, d), (!tctlValid xa, 1, a),
        (!same && !movTypes.contains (tctlType xd), 2, d), (!same && !movTypes.contains (tctlType xa), 2, a),
        (tctlRows xd != tctlRows xa || tctlCols xd != tctlCols xa, 4, d)] with
    | some t => s.raise t
    | none => s.enqueue h (.tmov h f) fun q => { q with tctlD := xd, tctlA := xa })

/-- `tfill` (R297). -/
def execTfill (h : Hdr) (f : Tri) (s : State) : Host.Outcome State Fault Refusal :=
  .next (s.guarded h fun s =>
    let d := f.d.toNat
    let xd := s.cur.tctl d
    let v := if f.fn.getLsbD 0 then f.imm.toNat % 2 ^ 32 else (s.cur.s f.a.toNat).toNat
    match firstShape [(!tctlValid xd, 1, d)] with
    | some t => s.raise t
    | none => s.enqueue h (.tfill h f) fun q => { q with tctlD := xd, fill := v })

/-- `tq4x` (R298). -/
def execTq4x (h : Hdr) (f : Tri) (s : State) : Host.Outcome State Fault Refusal :=
  .next (s.guarded h fun s =>
    let c := s.cur
    let d := f.d.toNat
    let a := f.a.toNat
    let xd := c.tctl d
    let xa := c.tctl a
    let dq := f.fn.getLsbD 4
    let wide := fun t => t == Ty.f32 || t == Ty.bf16
    let dBad := if dq then !wide (tctlType xd) else tctlType xd != Ty.q4x
    let aBad := if dq then tctlType xa != Ty.q4x else !wide (tctlType xa)
    match firstShape [(!tctlValid xd, 1, d), (!tctlValid xa, 1, a), (dBad, 2, d), (aBad, 2, a),
        (tctlRows xd != tctlRows xa || tctlCols xd != tctlCols xa, 4, d)] with
    | some t => s.raise t
    | none =>
      s.enqueue h (.tq4x h f) fun q =>
        { q with tctlD := xd, tctlA := xa, eA := baseExp (c.s (tctlExpReg (if dq then xa else xd))),
                 vec := if dq then c.lanes f.c.toNat else [] })

/-! ## Edge latch ops (R299 to R302) -/

/-- `xseta` (R300). -/
def execXseta (h : Hdr) (f : Tri) (s : State) : Host.Outcome State Fault Refusal :=
  .next (s.guarded h fun s => s.timed h 2 (.latch false (laneBytes ((s.cur.lanes f.a.toNat).take 64))))
/-- `xsetb` (R300). -/
def execXsetb (h : Hdr) (f : Tri) (s : State) : Host.Outcome State Fault Refusal :=
  .next (s.guarded h fun s => s.timed h 2 (.latch true (laneBytes ((s.cur.lanes f.a.toNat).take 64))))

/-- A latch image whose every delta is d. -/
def fillImage (d : Nat) : List Byte := List.replicate 256 (BitVec.ofNat 8 (17 * d))

/-- `xfill` (R301). -/
def execXfill (h : Hdr) (f : Tri) (s : State) : Host.Outcome State Fault Refusal :=
  .next (s.guarded h fun s =>
    let img := fillImage (f.imm.extractLsb' 0 4).toNat
    let toA := f.fn.getLsbD 0
    let toB := f.fn.getLsbD 1
    if toA && toB then (s.defer 2 (.latch false img) none).timed h 2 (.latch true img)
    else s.timed h 2 (.latch toB img))

/-- `xrd` (R302). -/
def execXrd (h : Hdr) (f : Tri) (s : State) : Host.Outcome State Fault Refusal :=
  .next (s.guarded h fun s =>
    let l := if f.fn.getLsbD 0 then s.cur.mat.latchB else s.cur.mat.latchA
    s.timed h 2 (.vector f.d.toNat ((List.range 64).map fun i => (i, 0xFFFFFFFF, lookupD 0 i l)) 0))

end Sys2Proof.Machine
end

