-- ==== Sys2Proof/Machine/Array.lean ====
section
/-!
DEFINITION. What the matrix array does with the head of a context's queue (R264 to R280, R287 to R298): the event
ARRAY_OP_PERFORM.
-/
namespace Sys2Proof.Machine
open Sys2Proof

/-! ## Tile elements (R265) -/

/-- The elements of width `w` in a row's bytes. -/
def rowUnpack (w : Nat) (bs : List Byte) : List Nat :=
  if w = 4 then bs.flatMap fun b => [b.toNat % 16, b.toNat / 16]
  else (groups (w / 8) (bs.length / (w / 8)) bs).map natOfBytes

/-- A row's bytes from its elements. -/
def rowPack (w : Nat) (xs : List Nat) : List Byte :=
  if w = 4 then (groups 2 (xs.length / 2) xs).map fun g => BitVec.ofNat 8 (packLane 4 g)
  else xs.flatMap fun x => natBytes (w / 8) x

/-- The elements of row r of tile t under a shape. -/
def Ctx.tileRow (c : Ctx) (t : Nat) (x : BitVec 27) (r : Nat) : List Nat :=
  let rb := tctlRowBytes x
  rowUnpack (Ty.width (tctlType x)) ((List.range rb).map fun i => c.tileByte t (r * rb + i))

/-- All rows of a tile. -/
def Ctx.tileRows (c : Ctx) (t : Nat) (x : BitVec 27) : List (List Nat) := (List.range (tctlRows x)).map (c.tileRow t x)

/-- Rows written into a tile under a shape. -/
def Ctx.setTileRows (c : Ctx) (t : Nat) (x : BitVec 27) (rows : List (List Nat)) : Ctx :=
  let bs := rows.flatMap (rowPack (Ty.width (tctlType x)))
  c.setTileBytes t ((List.range bs.length).zip bs)

/-! ## Accumulator cells (R267, R268) -/

def Ctx.cell (c : Ctx) (a r k : Nat) : BitVec 96 := lookupD 0 (4096 * a + 64 * r + k) c.mat.acc
def Ctx.setCell (c : Ctx) (a r k : Nat) (v : BitVec 96) : Ctx :=
  { c with mat := { c.mat with
    acc := sparseSet 0 (4096 * a + 64 * r + k) v c.mat.acc
    bad := c.mat.bad.filter fun x => x != 98304 + (4096 * a + 64 * r + k) } }

/-- Every cell of an accumulator zero and its sticky status clear (R289). -/
def Ctx.clearCells (c : Ctx) (a : Nat) : Ctx :=
  let m := { c.mat with
    acc := c.mat.acc.filter fun p => p.1 / 4096 != a
    bad := c.mat.bad.filter fun x => x < 98304 || (x - 98304) / 4096 != a }
  { c with mat := m.setStat a { c.mat.stat a with nanin := false, malf := false, ovf := false } }

/-- The exact value of a cell under a status (R268). -/
def cellValue (st : AccStatus) (v : BitVec 96) : Exact :=
  if st.tag = 1 then .num (v.toInt < 0) v.toInt.natAbs (st.win - 48) false
  else if st.tag = 2 then decodeFloat Ty.f32 (v.toNat % 2 ^ 32)
  else .num false 0 0 false

/-! ## Multiply-accumulate (R271 to R276) -/

/-- Delta (n, j) of a latch (Table 9.3). -/
def latchDelta (l : Sparse Word) (n j : Nat) : Nat := (lookupD 0 n l).toNat / 16 ^ j % 16

/-- An exact value that is an integer multiple of a unit, in that unit. -/
def exactUnits : Exact → Int
  | .num n m e _ =>
    let v : Int := m * 2 ^ e.toNat
    if n then -v else v
  | _ => 0

/-- ElemValue of the exact class in units of 2^(e − 24), with MALF and NANIN (R271). -/
def exactElem (t : Nat) (row : List Nat) (k d : Nat) : Int × Bool × Bool :=
  let x := row.getD k 0
  if t = Ty.q4x then
    let (v, malformed) := q4Decode ((row.drop (32 * (k / 32))).take 32) (k % 32) (24 - d)
    (exactUnits v, malformed, false)
  else if t = Ty.e4m3 then
    match decodeFloat t x with
    | .num n m e _ => (exactUnits (.num n m (e + 24 - d) false), false, false)
    | _ => (0, false, true)
  else (typedOperand t x * 2 ^ (24 - d), false, false)

/-- The exact elements of a row below depth K. -/
def exactRow (t : Nat) (l : Sparse Word) (n depth : Nat) (row : List Nat) : List (Int × Bool × Bool) :=
  (List.range depth).map fun k => exactElem t row k (latchDelta l n (k / 32))

/-- A 96-bit saturation (R272). -/
def saturate96 (x : Int) : Int × Bool :=
  if 2 ^ 95 - 1 < x then (2 ^ 95 - 1, true) else if x < -(2 ^ 95) then (-(2 ^ 95), true) else (x, false)

/-- The sum of products of two rows. -/
def dotRow (a b : List (Int × Bool × Bool)) : Int := (List.zipWith (fun x y => x.1 * y.1) a b).foldl (· + ·) 0

/-- Sticky status gathered by an operation; AOVF follows OVF (R272, R273). -/
def Ctx.stickAcc (c : Ctx) (a : Nat) (nanin malf ovf : Bool) : Ctx :=
  let st := c.mat.stat a
  let c := c.setStat a { st with nanin := st.nanin || nanin, malf := st.malf || malf, ovf := st.ovf || ovf }
  if ovf then c.orCtxst CtxFlag.aovf else c

/-- The exact class (R272). -/
def Ctx.exactMma (c : Ctx) (t d depth : Nat) (q : ArrayOp) (ra rb : List (List Nat)) : Ctx :=
  let as := ((List.range ra.length).zip ra).map fun (n, r) => exactRow t q.latA n depth r
  let bs := ((List.range rb.length).zip rb).map fun (n, r) => exactRow t q.latB n depth r
  let all := (as ++ bs).flatten
  let cells := ((List.range as.length).zip as).flatMap fun (r, a) =>
    ((List.range bs.length).zip bs).map fun (k, b) => (r, k, saturate96 ((c.cell d r k).toInt + dotRow a b))
  let c := cells.foldl (fun c (r, k, x, _) => c.setCell d r k (BitVec.ofInt 96 x)) c
  c.stickAcc d (all.any fun x => x.2.2) (all.any fun x => x.2.1) (cells.any fun x => x.2.2.2)

/-- One cell of the float class: one rounding per group of eight (R275). -/
def floatCell (e : Int) : Nat → List (Exact × Exact) → Nat → Nat
  | 0, _, acc => acc
  | n + 1, ps, acc =>
    if ps.isEmpty then acc
    else
      let products := (ps.take 8).map fun (x, y) => (x.mul y).mul (.num false 1 e false)
      floatCell e n (ps.drop 8) (roundF Ty.f32 0 false (exactSum 0 (decodeFloat Ty.f32 acc :: products))).1

/-- The float class (R275). -/
def Ctx.floatMma (c : Ctx) (t d depth : Nat) (q : ArrayOp) (ra rb : List (List Nat)) : Ctx :=
  let vals := fun (r : List Nat) => (r.take depth).map (decodeFloat t)
  let as := ra.map vals
  let bs := rb.map vals
  let cells := ((List.range as.length).zip as).flatMap fun (r, a) =>
    ((List.range bs.length).zip bs).map fun (k, b) =>
      (r, k, floatCell (q.eA + q.eB) depth (a.zip b) ((c.cell d r k).toNat % 2 ^ 32))
  cells.foldl (fun c (r, k, x) => c.setCell d r k (BitVec.ofNat 96 x)) c

/-- `mma` or `mmz` performed (R287). -/
def Ctx.performMultiply (c : Ctx) (q : ArrayOp) (h : Hdr) (f : Mat) (clear : Bool) : Ctx :=
  let d := f.d.toNat
  let c := if clear then c.clearCells d else c
  let ra := c.tileRows f.a.toNat q.tctlA
  let rb := c.tileRows f.b.toNat q.tctlB
  if isExactClass h.typ then c.exactMma h.typ d f.k.toNat q ra rb else c.floatMma h.typ d f.k.toNat q ra rb

/-! ## The other ops -/

/-- The keys of every cell. -/
def allCells : List (Nat × Nat) := (List.range 64).flatMap fun r => (List.range 64).map fun k => (r, k)

/-- `macc` performed (R288): with A's TAG NONE no cell of D is read or written, errors in it included (R281). -/
def Ctx.performMacc (c : Ctx) (q : ArrayOp) (f : Tri) : Ctx :=
  let d := f.d.toNat
  let a := f.a.toNat
  let sa := c.mat.stat a
  let new := allCells.map fun (r, k) =>
    let x := c.cell a r k
    let y := c.cell d r k
    if q.statA.tag = 0 then (r, k, y, false)
    else if q.statD.tag = 0 then (r, k, x, false)
    else if q.statA.tag = 1 then
      let (v, o) := saturate96 (x.toInt + y.toInt)
      (r, k, BitVec.ofInt 96 v, o)
    else
      let fx := decodeFloat Ty.f32 (x.toNat % 2 ^ 32)
      let fy := decodeFloat Ty.f32 (y.toNat % 2 ^ 32)
      (r, k, BitVec.ofNat 96 (roundF Ty.f32 0 false (exactSum 0 [fy, fx])).1, false)
  let c' := if q.statA.tag = 0 then c else new.foldl (fun c (r, k, v, _) => c.setCell d r k v) c
  c'.stickAcc d sa.nanin sa.malf (sa.ovf || new.any fun x => x.2.2.2) |> fun e =>
    -- AOVF is for a saturation by this op, not for the OVF carried over
    if new.any fun x => x.2.2.2 then e else { e with ctl := { e.ctl with ctxst := c.ctl.ctxst } }

/-- The status word (Table 9.2). -/
def statusWord (st : AccStatus) : Nat :=
  st.tag + (if st.ovf then 4 else 0) + (if st.malf then 8 else 0) + (if st.nanin then 16 else 0) +
    (st.win % 2 ^ 17).toNat * 32

/-- V of R291, divided by 2^e for `e4m3`. -/
def readOutValue (t : Nat) (q : ArrayOp) (v : BitVec 96) : Exact :=
  let x := cellValue q.statA v
  if t = Ty.e4m3 then x.mul (.num false 1 (-q.eA) false) else x

/-- Damage totals and flags of quantised blocks (R286). -/
def Ctx.blockDamage (c : Ctx) (bs : List QBlock) : Ctx :=
  let total := fun (f : QBlock → Nat) => bs.foldl (fun n b => n + f b) 0
  (c.addDamage (total (·.sat)) (total (·.zero)) (total (·.sac))).orFp (orFlags (bs.map (·.flags)))

/-- Side lanes of blocks into the low lanes of a vector register (R292, R298). -/
def Ctx.setSides (c : Ctx) (v : Nat) (bs : List QBlock) : Ctx :=
  c.setLanes v (((List.range bs.length).zip bs).map fun (i, b) => (i, 0xFFFFFFFF, BitVec.ofNat 32 b.side))

/-- `mrd` performed, tile form (R291, R292). -/
def Ctx.performMrdTile (c : Ctx) (q : ArrayOp) (h : Hdr) (f : Tri) : Ctx :=
  let a := f.a.toNat
  let cols := tctlCols q.tctlD
  let rows := (List.range (tctlRows q.tctlD)).map fun r => (List.range cols).map fun k => c.cell a r k
  let c :=
    if h.typ = Ty.q4x then
      let blocks := rows.flatMap fun r =>
        (groups 32 (cols / 32) (r.map (cellValue q.statA))).map fun x => q4Quantise x q.eA (f.fn.getLsbD 4)
      ((c.setTileRows f.d.toNat q.tctlD (groups (cols / 32) rows.length (blocks.map (·.codes)) |>.map fun g => g.flatten)).setSides
        f.c.toNat blocks).blockDamage blocks
    else
      let m := Mode.of f.fn
      let r := rows.map fun r => r.map fun v => roundF h.typ m.rm m.sat (readOutValue h.typ q v)
      (c.setTileRows f.d.toNat q.tctlD (r.map fun x => x.map (·.1))).orFp (orFlags (r.flatMap fun x => x.map (·.2)))
  if f.fn.getLsbD 5 then c.clearCells a else c

/-- `mrd` performed, vector form (R291). -/
def Ctx.performMrdVector (c : Ctx) (q : ArrayOp) (h : Hdr) (f : Tri) : Ctx :=
  let a := f.a.toNat
  let m := Mode.of f.fn
  let w := Ty.width h.typ
  let r := (List.range 64).map fun k => roundF h.typ m.rm m.sat (readOutValue h.typ q (c.cell a f.imm.toNat k))
  let ws := ((List.range (2 * w)).zip (packElems w (2 * w) (r.map (·.1)))).map fun (i, x) => (i, (0xFFFFFFFF : Word), x)
  let c := (c.setLanes f.d.toNat ws).orFp (orFlags (r.map (·.2)))
  if f.fn.getLsbD 5 then c.clearCells a else c

/-- The columns of a list of rows. -/
def columns (rows : List (List Nat)) (n : Nat) : List (List Nat) := (List.range n).map fun k => rows.map fun r => r.getD k 0

/-- `tmov` performed (R296). -/
def Ctx.performTmov (c : Ctx) (q : ArrayOp) (f : Tri) : Ctx :=
  let s := tctlType q.tctlA
  let t := tctlType q.tctlD
  let rows := c.tileRows f.a.toNat q.tctlA
  if s = t then c.setTileRows f.d.toNat q.tctlD rows
  else
    let r := rows.map fun x => x.map (convElem s t (Mode.of f.fn))
    (c.setTileRows f.d.toNat q.tctlD (r.map fun x => x.map (·.1))).orFp (orFlags (r.flatMap fun x => x.map (·.2)))

/-- `tq4x` performed (R298). -/
def Ctx.performTq4x (c : Ctx) (q : ArrayOp) (f : Tri) : Ctx :=
  let els := (c.tileRows f.a.toNat q.tctlA).flatten
  let cols := tctlCols q.tctlD
  let n := els.length / 32
  let toRows := fun (xs : List Nat) => groups cols (tctlRows q.tctlD) xs
  if f.fn.getLsbD 4 then
    let t := tctlType q.tctlD
    let m := Mode.of f.fn
    let r := ((List.range n).zip (groups 32 n els)).flatMap fun (b, codes) =>
      (List.range 32).map fun i =>
        let (x, malformed) := q4Decode codes i (q.eA - sideDelta (q.vec.getD b 0))
        let (v, fl) := roundF t m.rm m.sat x
        (v, fl ||| flagIf malformed Fp.malf)
    (c.setTileRows f.d.toNat q.tctlD (toRows (r.map (·.1)))).orFp (orFlags (r.map (·.2)))
  else
    let blocks := (groups 32 n els).map fun x =>
      q4Quantise (x.map (decodeFloat (tctlType q.tctlA))) q.eA (f.fn.getLsbD 3)
    ((c.setTileRows f.d.toNat q.tctlD (toRows (blocks.flatMap (·.codes)))).setSides f.c.toNat blocks).blockDamage blocks

/-- What a card read at the count sees (R235) once a `tsts` due at an earlier count is performed: its bytes, where the only
stores of later order are those due at the count itself (R48, R294). -/
def Ctx.patchUnder (c : Ctx) (q : ArrayOp) (ws : List (Nat × Byte)) : Ctx :=
  let f (l : Level) : Level := { l with under := l.under.map fun u =>
    if (q.shadow.any fun x => x.1 == u.1 && x.2 != l.count) then u else (u.1, (lookup? u.1 ws).getD u.2) }
  if q.level && c.trap.tl then { c with lv1 := f c.lv1 } else { c with lv0 := f c.lv0 }

/-- A `tsts` performed (R294): a store that lands with the effects due with it, after their loads (R48), or, once the bundle
due there has issued, the bytes that no store of later order has written. -/
def State.performTsts (s : State) (n : Nat) (q : ArrayOp) (f : Tri) : State :=
  let c := s.ctx n
  let bs := (c.tileRows f.d.toNat q.tctlD).flatMap (rowPack (Ty.width (tctlType q.tctlD)))
  let all := q.addrs.zip bs
  let l := if q.level then c.lv1 else c.lv0
  let ws := all.filter fun w => !q.shadow.any fun x => x.1 == w.1
  if (l.count ≤ q.due ∨ l.deferred.any fun d => d.due ≤ q.due) ∧ c.life.state ≠ .draining then
    let d : Deferred := { due := q.due, seq := q.seq, slot := 3, eff := .store 0 1 0 (ws.map fun (a, b) => (0, a, b.toNat)), sig := none }
    s.onCtx n fun c =>
      if q.level then { c with lv1 := { c.lv1 with deferred := c.lv1.deferred ++ [d] } }
      else { c with lv0 := { c.lv0 with deferred := c.lv0.deferred ++ [d] } }
  else (s.setSpBytes n ws).onCtx n fun c => c.patchUnder q all

/-- What one array op does to its context's registers. -/
def Ctx.performArray (c : Ctx) (q : ArrayOp) : Ctx :=
  match q.op with
  | .mma h f => c.performMultiply q h f false
  | .mmz h f => c.performMultiply q h f true
  | .macc _ f => c.performMacc q f
  | .mclr _ f => c.clearCells f.d.toNat
  | .mstat _ f =>
    let st := c.mat.stat f.a.toNat
    c.setS f.d.toNat (BitVec.ofNat 64 (statusWord { st with tag := q.statA.tag, win := q.statA.win }))
  | .mrdTile h f => c.performMrdTile q h f
  | .mrdVector h f => c.performMrdVector q h f
  | .tlds _ f => c.setTileBytes f.d.toNat ((List.range q.bytes.length).zip q.bytes)
  | .ttr _ f => c.setTileRows f.d.toNat q.tctlD (columns (c.tileRows f.a.toNat q.tctlA) (tctlCols q.tctlA))
  | .tmov _ f => c.performTmov q f
  | .tfill _ f =>
    c.setTileRows f.d.toNat q.tctlD
      (List.replicate (tctlRows q.tctlD) (List.replicate (tctlCols q.tctlD) (q.fill % 2 ^ Ty.width (tctlType q.tctlD))))
  | .tq4x _ f => c.performTq4x q f
  | _ => c

/-- Is a key of `bad` among the tile bytes or the accumulator cells that an op reads? An operand tile is read over the whole of its
shape, columns past K of an `mma` included (R281). (DESIGN CHOICE: log 176) -/
def ArrayOp.isRead (q : ArrayOp) (key : Nat) : Bool :=
  let tile := fun (t : BitVec 7) (x : BitVec 27) => 8192 * t.toNat ≤ key && key < 8192 * t.toNat + tctlRows x * tctlRowBytes x
  let cell := fun (a : BitVec 7) (ok : Nat → Nat → Bool) =>
    98304 + 4096 * a.toNat ≤ key && key < 98304 + 4096 * (a.toNat + 1) && ok ((key - 98304) % 4096 / 64) ((key - 98304) % 64)
  match q.op with
  | .mma _ f => tile f.a q.tctlA || tile f.b q.tctlB || cell f.d fun r k => r < tctlRows q.tctlA && k < tctlRows q.tctlB
  | .mmz _ f => tile f.a q.tctlA || tile f.b q.tctlB
  | .macc _ f => (q.statA.tag != 0 && cell f.a fun _ _ => true) ||
      (q.statA.tag != 0 && q.statD.tag != 0 && cell f.d fun _ _ => true)
  | .mrdTile _ f => cell f.a fun r k => r < tctlRows q.tctlD && k < tctlCols q.tctlD
  | .mrdVector _ f => cell f.a fun r _ => r == f.imm.toNat
  | .tsts _ f => tile f.d q.tctlD
  | .ttr _ f | .tmov _ f | .tq4x _ f => tile f.a q.tctlA
  | _ => false

/-- Does a `tlds` at the head of a queue wait for a routine's exit: is it due after the routine's bundle (R347)? It does not
where the routine waits for the queue before its first step (R344), nor where the context is to be saved. (DEDUCED: log 140) -/
def Ctx.holdsLoad (c : Ctx) : Bool :=
  match c.mat.queue, c.routines with
  | q :: rest, r :: _ =>
    !q.reads.isEmpty && q.level == c.trap.tl && c.level.count ≤ q.due && !c.life.stopping &&
      (r.started || !(r.bind.isM || (q :: rest).any fun x => (opTiles x.op).any r.bind.tmask.getLsbD))
  | _, _ => false

/-- Is it an op's turn: does no context of the core hold one that issued before it and may be performed (R277)? -/
def State.isServed (s : State) (n : Nat) (q : ArrayOp) : Bool :=
  !(s.ctx n).holdsLoad && (slotsOf (coreOf n)).all fun m => (s.ctx m).holdsLoad || (s.ctx m).mat.queue.all fun x => q.order ≤ x.order

/-- The writes to tiles of an ended context that waited for the array (R264). -/
def State.landTiles (s : State) (n : Nat) : State :=
  if (s.ctx n).life.state = .draining then s.onCtx n Ctx.landTiles else s

/-- ARRAY_OP_PERFORM: the array performs the oldest operation of a context's queue when it is its turn among the core's
(R277); its signal completes. A context whose queue is empty is left as it is, and one whose op reads data that hold an uncorrectable error ends (R281). -/
def execArrayOpPerform (n : Nat) (s : State) : Host.Outcome State Fault Refusal :=
  match (s.ctx n).mat.queue with
  | [] => .next s
  | q :: rest =>
    if !s.isServed n q then .next s else
    let s := s.onCtx n fun c => { c with mat := { c.mat with queue := rest } }
    let st := (s.ctx n).life.state
    if q.bad || (s.ctx n).mat.bad.any q.isRead then
      .next (if st == .ready || st == .stalled then s.retireFatal n ⟨.ecc, 0⟩ (s.ctx n).pc 0 else s.landTiles n)
    else
    let s := match q.op with
      | .tsts _ f => s.performTsts n q f
      | _ => s.onCtx n fun c => c.performArray q
    .next ((s.onCtx n fun c => c.completeSignal q.sig).landTiles n)

end Sys2Proof.Machine
end

