-- ==== Sys2Proof/Machine/Aes.lean ====
section
/-!
DEFINITION. AES with a 256-bit key as FIPS 197 defines it, and AES-CMAC as RFC 4493 does: the page tags of R359 and the
save-area codes of R443.
-/
namespace Sys2Proof.Machine
open Sys2Proof

/-- The S-box, 32 bytes a row, the first byte lowest. -/
def aesRows : List Nat :=
  [0xc072a49cafa2d4adf04759fa7dc982ca76abd7fe2b670130c56f6bf27b777c63,
   0x75b227ebe28012079a059618c323c7041531d871f1e5a534ccf73f362693fdb7,
   0xcf584c4a39becb6a5bb1fc20ed00d153842fe329b3d63b52a05a6e1b1a2c8309,
   0xd2f3ff1021dab6bcf5389d928f40a351a89f3c507f02f94585334d43fbaaefd0,
   0xdb0b5ede14b8ee4688902a22dc4f816073195d643d7ea7c41744975fec130ccd,
   0x08ae7a65eaf4566ca94ed58d6d37c8e779e4959162acd3c25c2406490a3a32e0,
   0x9e1dc186b95735610ef6034866b53e708a8bbd4b1f74dde8c6b4a61c2e2578ba,
   0x16bb54b00f2d99416842e6bf0d89a18cdf2855cee9871e9b948ed9691198f8e1]

/-- SubBytes of one byte. -/
def aesSub (b : Byte) : Byte := BitVec.ofNat 8 (aesRows.getD (b.toNat / 32) 0 >>> (8 * (b.toNat % 32)))

/-- Multiplication by x in the field of AES. -/
def aesDouble (b : Byte) : Byte := (b <<< 1) ^^^ (if b.msb then 0x1b else 0)

/-- Two lists of bytes combined by exclusive or. -/
def xorBytes (a b : List Byte) : List Byte := List.zipWith (· ^^^ ·) a b

/-- The round constant of the k-th group of key words. -/
def aesRcon (k : Nat) : List Byte := [BitVec.ofNat 8 (2 ^ (k - 1)), 0, 0, 0]

/-- The next word of a key schedule, from the words so far. -/
def aesNextWord (ws : List (List Byte)) : List Byte :=
  let i := ws.length
  let w := ws.getD (i - 1) []
  let w :=
    if i % 8 = 0 then xorBytes ((w.drop 1 ++ w.take 1).map aesSub) (aesRcon (i / 8))
    else if i % 8 = 4 then w.map aesSub
    else w
  xorBytes w (ws.getD (i - 8) [])

/-- The 15 round keys of a 256-bit key given as 32 bytes. -/
def aesKeys (key : List Byte) : List (List Byte) :=
  let ws := (List.range 52).foldl (fun ws _ => ws ++ [aesNextWord ws]) (groups 4 8 key)
  (groups 4 15 ws).map List.flatten

/-- ShiftRows over the 16 bytes of a block, column by column. -/
def aesShift (b : List Byte) : List Byte :=
  (List.range 16).map fun i => b.getD (4 * ((i / 4 + i % 4) % 4) + i % 4) 0

/-- MixColumns of one column. -/
def aesMix (c : List Byte) : List Byte :=
  (List.range 4).map fun r =>
    let a := fun i => c.getD ((r + i) % 4) 0
    aesDouble (a 0) ^^^ aesDouble (a 1) ^^^ a 1 ^^^ a 2 ^^^ a 3

/-- A block encrypted under the round keys. -/
def aesBlock (keys : List (List Byte)) (block : List Byte) : List Byte :=
  let start := xorBytes block (keys.headD [])
  let mid := ((keys.drop 1).take 13).foldl
    (fun b k => xorBytes ((groups 4 4 (aesShift (b.map aesSub))).flatMap aesMix) k) start
  xorBytes (aesShift (mid.map aesSub)) (keys.getD 14 [])

/-- A block from a number and back, highest byte first. -/
def blockBytes (x : BitVec 128) : List Byte := (List.range 16).map fun i => x.extractLsb' (8 * (15 - i)) 8
def blockOf (bs : List Byte) : BitVec 128 := BitVec.ofNat 128 (bs.foldl (fun n b => 256 * n + b.toNat) 0)

/-- A subkey of RFC 4493 from the one before it. -/
def cmacDouble (x : BitVec 128) : BitVec 128 := (x <<< 1) ^^^ (if x.msb then 0x87 else 0)

/-- AES-CMAC (RFC 4493) of a message under a 256-bit key, whose byte 0 is taken as its highest. (PRESUMED: log 57) -/
def aesCmac (key : BitVec 256) (msg : List Byte) : BitVec 128 :=
  let keys := aesKeys ((List.range 32).map fun i => key.extractLsb' (8 * (31 - i)) 8)
  let k1 := cmacDouble (blockOf (aesBlock keys (List.replicate 16 0)))
  let whole := msg.length ≠ 0 ∧ msg.length % 16 = 0
  let n := max 1 ((msg.length + 15) / 16)
  let last := msg.drop (16 * (n - 1))
  let last :=
    if whole then blockOf last ^^^ k1
    else blockOf (last ++ [0x80] ++ List.replicate (15 - last.length) 0) ^^^ cmacDouble k1
  let chain := fun (x b : BitVec 128) => blockOf (aesBlock keys (blockBytes (x ^^^ b)))
  chain ((groups 16 (n - 1) msg).foldl (fun x b => chain x (blockOf b)) 0) last

end Sys2Proof.Machine
end

