-- ==== Sys2Proof/Machine/Curve.lean ====
section
/-!
DEFINITION. The 384-bit Brainpool prime curve of RFC 5639 (brainpoolP384r1), ECDSA and ECDH on it, and HKDF with SHA-384: the
signatures of images (R470), boot images (R479) and SPDM responses (R480), and the agreement of link keys (R482).
-/
namespace Sys2Proof.Machine
open Sys2Proof

/-! ## The field and the curve (RFC 5639, 3.6) -/

def curveP : Nat := 0x8CB91E82A3386D280F5D6F7E50E641DF152F7109ED5456B412B1DA197FB71123ACD3A729901D1A71874700133107EC53
def curveA : Nat := 0x7BC382C63D8C150C3C72080ACE05AFA0C2BEA28E4FB22787139165EFBA91F90F8AA5814A503AD4EB04A8C7DD22CE2826
def curveB : Nat := 0x04A8C7DD22CE28268B39B55416F0447C2FB77DE107DCD2A62E880EA53EEB62D57CB4390295DBC9943AB78696FA504C11
/-- The order of the base point. -/
def curveQ : Nat := 0x8CB91E82A3386D280F5D6F7E50E641DF152F7109ED5456B31F166E6CAC0425A7CF3AB6AF6B7FC3103B883202E9046565
def baseX : Nat := 0x1D1C64F068CF45FFA2A63A81B7C13F6B8847A3E77EF14FE3DB7FCAFE0CBD10E8E826E03436D646AAEF87B2E247D4AF1E
def baseY : Nat := 0x8ABE1D7520F9C2A45CB1EB8E95CFD55262B70B29FEEC5864E19C054FF99129280E4646217791811142820341263C5315

/-- A difference modulo `m`. -/
def subMod (m a b : Nat) : Nat := (a + (m - b % m)) % m

/-- A power modulo `m`, the exponent's low `n` bits from the highest on. -/
def powMod (m a e : Nat) : Nat → Nat → Nat
  | 0, acc => acc
  | n + 1, acc =>
    let sq := acc * acc % m
    powMod m a e n (if e.testBit n then sq * a % m else sq)

/-- The inverse modulo a prime of 384 bits. -/
def invMod (m a : Nat) : Nat := powMod m a (m - 2) 384 1

/-- A point as X/Z^2, Y/Z^3; Z is 0 at infinity. -/
structure Point where
  x : Nat
  y : Nat
  z : Nat
  deriving DecidableEq, Repr

def Point.infinity : Point := ⟨1, 1, 0⟩
def Point.base : Point := ⟨baseX, baseY, 1⟩

def Point.double (p : Point) : Point :=
  let m := curveP
  let yy := p.y * p.y % m
  let s := 4 * p.x * yy % m
  let zz := p.z * p.z % m
  let t := (3 * p.x * p.x + curveA * (zz * zz % m)) % m
  let x := subMod m (t * t) (2 * s)
  ⟨x, subMod m (t * subMod m s x) (8 * yy * yy), 2 * p.y * p.z % m⟩

def Point.add (p q : Point) : Point :=
  let m := curveP
  if p.z = 0 then q
  else if q.z = 0 then p
  else
    let zp := p.z * p.z % m
    let zq := q.z * q.z % m
    let u := p.x * zq % m
    let h := subMod m (q.x * zp) u
    let s := p.y * zq % m * q.z % m
    let r := subMod m (q.y * zp % m * p.z) s
    if h = 0 then if r = 0 then p.double else Point.infinity
    else
      let hh := h * h % m
      let hhh := h * hh % m
      let v := u * hh % m
      let x := subMod m (r * r) (hhh + 2 * v)
      ⟨x, subMod m (r * subMod m v x) (s * hhh), h * p.z % m * q.z % m⟩

/-- The multiple of a point by the low `n` bits of a number, from the highest on. -/
def Point.times (p : Point) (k : Nat) : Nat → Point → Point
  | 0, acc => acc
  | n + 1, acc =>
    let d := acc.double
    p.times k n (if k.testBit n then d.add p else d)

def Point.mul (p : Point) (k : Nat) : Point := p.times k 384 Point.infinity

/-- The coordinates of a point. -/
def Point.affineX (p : Point) : Nat := p.x * powMod curveP (invMod curveP p.z) 2 2 1 % curveP
def Point.affineY (p : Point) : Nat := p.y * powMod curveP (invMod curveP p.z) 3 2 1 % curveP

/-! ## Numbers as bytes, highest first (log 63) -/

def bigNat (bs : List Byte) : Nat := bs.foldl (fun n b => 256 * n + b.toNat) 0
def bigList (n v : Nat) : List Byte := (List.range n).map fun i => BitVec.ofNat 8 (v / 2 ^ (8 * (n - 1 - i)))
/-- A point as X and Y of 48 bytes each. (PRESUMED: log 63) -/
def Point.bytes (p : Point) : List Byte := bigList 48 p.affineX ++ bigList 48 p.affineY
/-- The point of 96 bytes, where they name one of the curve. -/
def pointOf (bs : List Byte) : Option Point :=
  let x := bigNat (bs.take 48)
  let y := bigNat (bs.drop 48)
  if bs.length = 96 ∧ x < curveP ∧ y < curveP ∧ y * y % curveP = (x * x % curveP * x + curveA * x + curveB) % curveP then
    some ⟨x, y, 1⟩
  else none

/-! ## ECDSA (R470, R479, R480) -/

/-- Does a signature, r and s of 48 bytes each, of a hash verify under a public key? (PRESUMED: log 63) -/
@[irreducible] def ecdsaVerify (key hash signature : List Byte) : Bool :=
  let r := bigNat (signature.take 48)
  let s := bigNat (signature.drop 48)
  match pointOf key with
  | none => false
  | some k =>
    if signature.length ≠ 96 || r = 0 || curveQ ≤ r || s = 0 || curveQ ≤ s then false
    else
      let w := invMod curveQ s
      let p := (Point.base.mul (bigNat hash * w % curveQ)).add (k.mul (r * w % curveQ))
      p.z != 0 && p.affineX % curveQ == r

/-- The signature of a hash by the device's identity key (R480, R482), under a nonce that no rule gives. (PRESUMED: log 63) -/
@[irreducible] def ecdsaSign (hash : List Byte) : List Byte :=
  let d := 1 + Config.identityKey.toNat % (curveQ - 1)
  let k := 1 + (Config.signatureNonce hash).toNat % (curveQ - 1)
  let r := (Point.base.mul k).affineX % curveQ
  bigList 48 r ++ bigList 48 (invMod curveQ k * (bigNat hash + r * d) % curveQ)

/-! ## The agreement of a link key (R482) -/

/-- HMAC with SHA-384 (RFC 2104), whose block has 128 bytes. -/
def hmac (key msg : List Byte) : List Byte :=
  let k := if 128 < key.length then sha384 key else key
  let pad := fun (v : Byte) => (k ++ List.replicate (128 - k.length) 0).map fun b => b ^^^ v
  sha384 (pad 0x5C ++ sha384 (pad 0x36 ++ msg))

/-- HKDF with SHA-384 (RFC 5869): 32 bytes under a salt and an info that the manual does not give. -/
def hkdf (ikm : List Byte) : List Byte := (hmac (hmac Config.linkSalt ikm) (Config.linkInfo ++ [1])).take 32

/-- The public value of an ephemeral secret. -/
@[irreducible] def linkPublic (secret : BitVec 384) : List Byte := (Point.base.mul (1 + secret.toNat % (curveQ - 1))).bytes

/-- The key that a secret and a neighbour's public value give: HKDF of the x of their product. One that is no point of the
curve gives that of infinity. (PRESUMED: log 63) -/
@[irreducible] def linkSecret (secret : BitVec 384) (peer : List Byte) : BitVec 256 :=
  let p := ((pointOf peer).getD Point.infinity).mul (1 + secret.toNat % (curveQ - 1))
  BitVec.ofNat 256 (bigNat (hkdf (bigList 48 p.affineX)))

end Sys2Proof.Machine
end

