-- ==== Sys2Proof/Machine/Fabric.lean ====
section
/-!
DEFINITION. The fabric as this device sees it: positions and routes (R391, R393), links with their sequence numbers,
replay buffers and key epochs (R394 to R396), and what a link failure does (R397, R399, R421).
-/
namespace Sys2Proof.Machine
open Sys2Proof

/-! ## Positions and routes (R391, R393) -/

/-- Column and row of a FABXY. -/
def fabCol (d : Nat) : Nat := d % 8
def fabRow (d : Nat) : Nat := d / 8 % 8

/-- The device at the far end of a port. -/
def neighbour (self port : Nat) : Nat :=
  let x := fabCol self
  let y := fabRow self
  if port < 7 then 8 * y + (if port < x then port else port + 1)
  else
    let r := port - 7
    8 * (if r < y then r else r + 1) + x

/-- Hops of a minimal route: at most two. -/
def distance (a b : Nat) : Nat := (if fabCol a = fabCol b then 0 else 1) + if fabRow a = fabRow b then 0 else 1

def State.link (s : State) (p : Nat) : Link := lookupD {} p s.links
def State.setLink (s : State) (p : Nat) (l : Link) : State := { s with links := assocSet p l s.links }

/-- Ports whose link is up. -/
def State.livePorts (s : State) : List Nat := (List.range 14).filter fun p => (s.link p).up

/-- Is a device part of a fabric of so many columns and rows (R391)? -/
def inGrid (cols rows d : Nat) : Bool := d < 64 && fabCol d < cols && fabRow d < rows

/-- The links of a device once the fabric map is written: the ports with a peer device are joined, and the others are down; a
link carries flits once it has a key (R391, R396). -/
def joinPorts (self cols rows : Nat) (l : Assoc Link) : Assoc Link :=
  ((List.range 14).filter fun p => inGrid cols rows (neighbour self p)).map fun p => (p, lookupD {} p l)

/-- Is the link between two devices live: this device's own as it finds them, the others as the fabric map says? -/
def State.linkLive (s : State) (a b : Nat) : Bool :=
  if a = s.fabxy then s.livePorts.any fun p => neighbour s.fabxy p == b
  else if b = s.fabxy then s.livePorts.any fun p => neighbour s.fabxy p == a
  else inGrid s.fabCols s.fabRows a && inGrid s.fabCols s.fabRows b && !s.broken.contains (a, b) && !s.broken.contains (b, a)

/-- Has a device a live minimal route to another (R393)? -/
def State.minimalLive (s : State) (a b : Nat) : Bool :=
  let turn := fun (c : Nat) => s.linkLive a c && s.linkLive c b
  if a = b then true
  else if distance a b = 1 then s.linkLive a b
  else turn (8 * fabRow a + fabCol b) || turn (8 * fabRow b + fabCol a)

/-- Has a device a live route of at most three hops (R393)? -/
def State.reachable (s : State) (dst : Nat) : Bool :=
  dst == s.fabxy || s.livePorts.any fun p => s.minimalLive (neighbour s.fabxy p) dst

/-- Does a port begin a live minimal route? (DESIGN CHOICE: log 61) -/
def State.minimalVia (s : State) (dst p : Nat) : Bool :=
  distance (neighbour s.fabxy p) dst + 1 == distance s.fabxy dst && (s.link p).up && s.minimalLive (neighbour s.fabxy p) dst

/-- May a packet take a port: a live minimal route, or a detour when no minimal route is live; three hops in all. -/
def State.mayRoute (s : State) (k : Packet) (p : Nat) : Bool :=
  (s.link p).up && k.dst != s.fabxy && k.hops + 1 + distance (neighbour s.fabxy p) k.dst ≤ 3 &&
    s.minimalLive (neighbour s.fabxy p) k.dst &&
    (s.minimalVia k.dst p || !s.livePorts.any fun q => s.minimalVia k.dst q)

/-- Is a message a response, which travels in a traffic class of its own (R393)? (DEDUCED: log 131) -/
def isResponse : Msg → Bool
  | .sealack _ | .fail _ _ _ | .ready _ _ | .done _ _ | .answer _ => true
  | _ => false

/-- The virtual channel of a packet's next hop: hop h on channel h of its class (R393). (DEDUCED: log 131) -/
def channelOf (k : Packet) : Nat := (if isResponse k.msg then 8 else 0) + k.hops

/-! ## Packets -/

def State.packet (s : State) (id : Nat) : Option Packet := lookup? id s.packets
def State.dropPacket (s : State) (id : Nat) : State := { s with packets := s.packets.filter fun p => p.1 != id }

/-- A packet for this device taken for processing. -/
def State.takePacket (s : State) (id : Nat) (k : Packet → State → State) : Host.Outcome State Fault Refusal :=
  match s.packet id with
  | some p => if p.dst = s.fabxy then .next (k p (s.dropPacket id)) else .next s
  | none => .next s

/-- The next number of a stream (R398): the engine and the destination device. -/
def State.streamNext (s : State) (engine dst : Nat) : State × Nat :=
  let k := 64 * engine + dst
  let n := lookupD 0 k s.seqOut
  ({ s with seqOut := assocSet k ((n + 1) % 2 ^ 48) s.seqOut }, n)

/-- Was a number of an incoming stream performed among the last 4,096 (R398)? -/
def State.seen (s : State) (x : Stream) : Bool := (lookupD [] (64 * x.dev + x.engine) s.seqIn).any fun p => p.seq == x.seq

/-- The error, the address and the data with which such a number was answered, and is answered again. -/
def State.answerGiven (s : State) (x : Stream) : Answered :=
  (((lookupD [] (64 * x.dev + x.engine) s.seqIn).find? fun p => p.seq == x.seq)).getD ⟨x.seq, 0, 0, []⟩

/-- A number of an incoming stream performed, and answered with an error, an address and data; a duplicate leaves the window as it
is. -/
def State.markSeen (s : State) (x : Stream) (error addr : Nat := 0) (data : List Byte := []) : State :=
  let k := 64 * x.dev + x.engine
  if s.seen x then s else { s with seqIn := assocSet k ((⟨x.seq, error, addr, data⟩ :: lookupD [] k s.seqIn).take 4096) s.seqIn }

/-! ## Sending (R393 to R395, R402) -/

/-- The port by which one of this device's own requests leaves (R399). -/
def State.noteLink (s : State) (m : Msg) (port : Nat) : State :=
  let beat := fun (s : State) (x : Stream) => s.onJob x.job fun j =>
    { j with beats := j.beats.map fun b => if b.num == x.beat then { b with link := some port } else b }
  match m with
  | .seal x =>
    let s := s.onCoord x.eid fun c => { c with out := c.out.map fun (o : Stream × Option Nat) => if o.1 == x.stream then (o.1, some port) else o }
    match x.port with
    | some (n, id) => s.onCtx n fun c => { c with port := c.port.change id fun r => { r with link := some port } }
    | none => beat s x.stream
  | .remote r => (r.streams.filter fun x => x.dev == s.fabxy).foldl beat s
  | _ => s

/-- The terms of a reduction: address, bytes of the operand, its exact value where it is a float (R219). -/
def exactTerms (r : RemoteReq) : List (Nat × List Byte × Exact) :=
  let wide := r.wide ++ List.replicate (r.terms.length - r.wide.length) none
  List.zipWith (fun (t : Nat × List Byte) w => (t.1, t.2, match w with
    | some (m, e) => .num (decide (m < 0)) m.natAbs e false
    | none => decodeFloat Ty.f32 (natOfBytes t.2))) r.terms wide

/-- Terms of two merged reductions (R402): the same elements, combined. -/
def mergeTerms (redop : Nat) : List (Nat × List Byte × Exact) → List (Nat × List Byte × Exact) → List (Nat × List Byte)
  | (a, x, u) :: xs, (_, y, v) :: ys =>
    let w := 8 * x.length
    let z := if redop = 1 then (roundF Ty.f32 0 false (exactSum 0 [u, v])).1 else (natOfBytes x + natOfBytes y) % 2 ^ w
    (a, natBytes x.length z) :: mergeTerms redop xs ys
  | _, _ => []

/-- Two packets merged, where R402 allows it. (DEDUCED: log 48) -/
def mergePackets (p q : Packet) : Option Packet :=
  match p.msg, q.msg with
  | .remote a, .remote b =>
    if p.dst = q.dst && a.window.isSome && a.window == b.window && a.vf == b.vf && a.redop == b.redop &&
        a.terms.map (·.1) == b.terms.map (·.1) then
      some { p with hops := max p.hops q.hops, msg := .remote { a with streams := a.streams ++ b.streams, terms := mergeTerms a.redop (exactTerms a) (exactTerms b), wide := [] } }
    else none
  | _, _ => none

/-- The 96-bit IV of a flit: the direction of the link, 24 zero bits, EPOCH, SEQ (R394). -/
def flitIv (self port : Nat) (x : Sent) : BitVec 96 :=
  BitVec.ofNat 96 ((Config.linkDirection (14 * self + port)).toNat * 2 ^ 64 + x.epoch % 256 * 2 ^ 32 + x.seq % 2 ^ 32)

/-- A flit on its way (Table 13.14). -/
def State.emitFlit (s : State) (port : Nat) (x : Sent) : State :=
  let f : Flit := { seq := x.seq, ack := x.ack, epoch := x.epoch, kind := x.kind, vc := x.vc, valid := true, pkt := x.pkt,
                    part := x.part, parts := x.parts }
  { s with outbox := s.outbox ++ [.flit port f (flitIv s.fabxy port x)] }

/-- Can a link take `n` new flits: places in the replay buffer, and no more than 2^30 flits under its key (R394, R395)? -/
def Link.hasRoom (l : Link) (n : Nat) : Bool := l.buffer.length + n ≤ 512 && l.count + n ≤ 2 ^ 30

/-- The bytes of data that a message carries. -/
def dataBytes : Msg → Nat
  | .seal m => m.writes.length
  | .remote r => r.writes.length + sumOf (fun (t : Nat × List Byte) => t.2.length) r.terms
  | .answer a => a.data.length
  | .unit _ _ d => d.length
  | _ => 0

/-- The data flits of a packet: 224 bytes of payload each, at least one (Table 13.14). (DESIGN CHOICE: log 142) -/
def flitsOf (m : Msg) : Nat := max 1 ((dataBytes m + 223) / 224)

/-- The next flits of a link, one packet in so many parts, with the ACK of the moment. -/
def Link.newFlits (l : Link) (kind vc : Nat) (pkt : Option Packet) (n : Nat) : List Sent :=
  (List.range n).map fun i =>
    { seq := (l.tx + i) % 2 ^ 32, ack := (l.rx + (2 ^ 32 - 1)) % 2 ^ 32, epoch := l.epoch, kind := kind, vc := vc, pkt := pkt, part := i, parts := n }

/-- New flits, held in the replay buffer until ACK covers them (R395). -/
def State.newFlits (s : State) (port kind vc : Nat) (pkt : Option Packet) (n : Nat) : State :=
  let l := s.link port
  let xs := l.newFlits kind vc pkt n
  xs.foldl (fun s x => s.emitFlit port x)
    (s.setLink port { l with tx := (l.tx + n) % 2 ^ 32, count := l.count + n, buffer := l.buffer ++ xs })

/-- A packet sent on a link. -/
def State.sendFlit (s : State) (port : Nat) (k : Packet) : State :=
  let k := { k with hops := k.hops + 1 }
  (s.newFlits port 0 (channelOf k) (some k) (flitsOf k.msg)).noteLink k.msg port

/-- A replay asked for; while the link takes no new flit the request waits (R395). (DEDUCED: log 60) -/
def State.askReplay (s : State) (port : Nat) : State :=
  let l := s.link port
  if !l.hasRoom 1 then s.setLink port { l with asks := true }
  else (s.setLink port { l with nack := true, asks := false }).newFlits port 2 0 none 1

/-- A replay request that waited, sent once there is room. -/
def State.askWaiting (s : State) (port : Nat) : State :=
  if (s.link port).asks && (s.link port).hasRoom 1 then s.askReplay port else s

/-- Every flit from a place in the replay buffer on sent again, unchanged (R395). -/
def State.replayFrom (s : State) (port k : Nat) : State :=
  let l := s.link port
  let old := l.buffer.drop k
  old.foldl (fun s x => s.emitFlit port x)
    (s.setLink port { l with buffer := l.buffer.take k ++ old.map fun x => { x with replays := x.replays + 1 } })

/-- PACKET_FORWARD: a packet leaves by a port, merged with a second one where R402 allows it. -/
def execPacketForward (id port : Nat) (merged : Option Nat) (s : State) : Host.Outcome State Fault Refusal :=
  match s.packet id with
  | none => .next s
  | some k =>
    if !s.mayRoute k port || !(s.link port).hasRoom (flitsOf k.msg) then .next s
    else
      match merged.bind fun m => if m = id then none else (s.packet m).bind fun q =>
          if s.mayRoute q port then (mergePackets k q).map fun r => (m, r) else none with
      | some (m, r) => .next (((s.dropPacket id).dropPacket m).sendFlit port r)
      | none => .next ((s.dropPacket id).sendFlit port k)

/-! ## Links (R394 to R397, R482) -/

/-- The sender's keys that no flit can still need are discarded (R396). -/
def Link.dropKeys (l : Link) : Link :=
  { l with keys := l.keys.filter fun k => k.1 == l.epoch || l.buffer.any fun b => b.epoch == k.1 }

/-- Flits that an ACK covers leave the replay buffer: those up to it, modulo 2^32 (R395). -/
def Link.acked (l : Link) (ack : Nat) : Link :=
  { l with buffer := l.buffer.filter fun b => 2 ^ 31 ≤ (ack + 2 ^ 32 - b.seq) % 2 ^ 32 }.dropKeys

/-- The receiver after a flit in SEQ order. One under a new epoch shows that every flit under the retiring key has come, so
that key is discarded (R396). -/
def Link.took (l : Link) (epoch : Nat) : Link :=
  { l with rx := (l.rx + 1) % 2 ^ 32, nack := false, asks := false, rxEpoch := epoch,
           rxKeys := if epoch = l.rxEpoch then l.rxKeys else l.rxKeys.filter fun k => k.1 != l.rxEpoch }

/-- Is a flit's tag right under a key that is held (R394)? -/
def Link.authentic (l : Link) (f : Flit) : Bool := f.valid && (lookup? f.epoch l.rxKeys).isSome

/-- Is a flit one that the receiver takes: its tag right under a key that is held, and in SEQ order (R395)? -/
def Link.takes (l : Link) (f : Flit) : Bool := l.authentic f && f.seq == l.rx

/-- A flit discarded (R395). One that fails its tag is asked for again each time; one that is only out of order, once for the
flits that are missing; its ACK, which is authentic, counts. (DEDUCED: log 60) -/
def State.discardFlit (s : State) (port : Nat) (f : Flit) : State :=
  let l := s.link port
  if !l.authentic f then s.askReplay port
  else
    let s := s.setLink port (l.acked f.ack)
    if l.nack then s.askWaiting port else s.askReplay port

/-- Parts of an incoming packet once a data flit has been taken: the packet is whole with its last part. -/
def Link.gather (l : Link) (f : Flit) : Link :=
  if f.kind ≠ 0 then l
  else { l with got := if f.part + 1 = f.parts then 0 else if f.part = 0 then 1 else if f.part = l.got then l.got + 1 else 0 }

/-- INDOUBT (R399): the destination in bits [5:0], the first stream number in doubt above bit 16. (DEDUCED: log 59) -/
def inDoubt (dst seq : Nat) : Trapped := ⟨.indoubt, BitVec.ofNat 64 (dst + seq * 2 ^ 16)⟩

/-- What the error record names beside that: each number in doubt with its destination, as INFO gives the first.
(DEDUCED: log 59) -/
def doubtTail (xs : List (Nat × Nat)) : List Byte := xs.flatMap fun x => natBytes 8 (x.1 + x.2 * 2 ^ 16)

/-- Sealed writes that left by a port and are not acknowledged are put in doubt: they count as settled (R413). -/
def Coord.doubtPort (c : Coord) (port : Nat) : Coord :=
  if c.out.any fun o => o.2 == some port then
    { c with out := c.out.filter fun o => o.2 != some port, doubt := true }
  else c

/-- Sealed stores of a context that left by a port and are not acknowledged are in doubt, and the context ends (R399). -/
def State.doubtStores (s : State) (n port : Nat) : State :=
  let rs := (s.ctx n).port.queue.filter fun r => r.link == some port
  let lost := rs.map fun r => (r.mem.elim 0 fun f => (f.disp.extractLsb' 22 6).toNat, r.number)
  match lost with
  | [] => s
  | x :: _ =>
    let s := s.onCtx n fun c => { c with port := { c.port with queue := c.port.queue.filter fun q => q.link != some port } }
    let st := (s.ctx n).life.state
    if st == .ready || st == .stalled then s.retireFatal n (inDoubt x.1 x.2) (s.ctx n).pc 0 (doubtTail lost) else s

/-- Is a job's request a read, which is sent again rather than in doubt? -/
def Job.isRemoteRead (j : Job) : Bool := j.src.space == 2

/-- The device that a job's remote side reaches. -/
def Job.far (j : Job) : Nat := bits64 (cardRoute j.card) 0 6

/-- A job whose requests left by a port that failed (R399): a write, reduction or sealed write ends its context; a read
is sent again on another route. -/
def State.doubtJob (s : State) (id port : Nat) : State :=
  match s.job? id with
  | none => s
  | some j =>
    let lost := j.beats.filter fun b => b.link == some port && !b.acked
    match lost with
    | [] => s
    | b :: _ =>
      if j.isRemoteRead then
        s.onJob id fun j => { j with beats := j.beats.map fun b => if b.link == some port && !b.acked then { b with link := none, asked := none } else b }
      else
        s.jobFault j (inDoubt j.far (b.asked.getD 0)) (doubtTail (lost.map fun b => (j.far, b.asked.getD 0)))

/-- A request of this device that is still to be sent when its destination has become unreachable: its job ends its context
with UNREACH (R399); a sealed store finds no live route, so that its envelope is decided VOID with cause UNREACH (R411).
(DEDUCED: log 134) -/
def State.dropUnreachable (s : State) (p : Nat × Packet) : State :=
  let drop := fun (s : State) => { s with packets := s.packets.filter fun q => q.1 != p.1 }
  let fails := fun (s : State) (x : Stream) => (s.job? x.job).elim s fun j => s.jobFault j ⟨.remote, 4⟩
  if p.2.src ≠ s.fabxy || s.reachable p.2.dst then s
  else
    match p.2.msg with
    | .remote r => (r.streams.filter fun x => x.dev == s.fabxy).foldl fails (drop s)
    | .seal m =>
      let s := (drop s).onCoord m.eid fun k => { k with out := k.out.eraseP fun x => x.1 == m.stream }
      match m.port with
      | some (n, id) =>
        let sig := ((s.ctx n).port.queue.find? fun q => q.id == id).bind (·.sig)
        (s.decideEnvelope m.eid 10).onCtx n fun c =>
          { c with port := { c.port with queue := c.port.queue.filter fun q => q.id != id } }.completeSignal sig
      | none => fails s m.stream
    | _ => s

/-- A PREPARE, or a reply to one, that is lost with a failed link is reported to the envelope's coordinator, which decides VOID with
cause LINK: here at once, elsewhere by a FAIL of that cause (R421). (DESIGN CHOICE: log 162) -/
def State.reportLost (s : State) (k : Packet) : State :=
  let report := fun (eid : Nat) =>
    if eid / 2 ^ 58 % 64 = s.fabxy then (if (s.coords.any fun c => c.eid == eid) then s.decideEnvelope eid 4 else s)
    else s.send (eid / 2 ^ 58 % 64) (.fail eid s.fabxy 4)
  match k.msg with
  | .prepare eid _ | .ready eid _ | .fail eid _ _ => report eid
  | _ => s

/-- A link taken out of every route (R397): what its replay buffer still holds is not sent again, a lost PREPARE, or a lost
reply to one, voids its envelope, and requests that left by it are in doubt; a POSTED envelope with a sealed write among them is
decided VOID with cause LINK (R399, R413, R421). -/
def State.failLink (s : State) (port : Nat) : State :=
  let l := s.link port
  let s := s.setLink port { l with up := false, buffer := [], nack := false, next := none }
  let s := l.buffer.foldl (fun s b =>
    match b.pkt with
    | some k => s.reportLost k
    | none => s) s
  let hit := (s.coords.filter fun c => c.posted && c.out.any fun o => o.2 == some port).map (·.eid)
  let s : State := { s with coords := s.coords.map fun (c : Coord) => c.doubtPort port }
  let s := (s.ctxs.map (·.1)).foldl (fun s n => s.doubtStores n port) s
  let s := (s.jobs.map (·.id)).foldl (fun s id => s.doubtJob id port) s
  let s := hit.foldl (fun s eid => s.decideEnvelope eid 4) s
  (s.packets.foldl State.dropUnreachable s).reapCoord

/-- LINK_FAILURE (R397). -/
def execLinkFailure (port : Nat) (s : State) : Host.Outcome State Fault Refusal :=
  .next (if (s.link port).up then s.failLink port else s)

/-- Has a flit from a place in the replay buffer on been replayed sixteen times, or does its replay need a discarded key? -/
def Link.worn (l : Link) (k : Nat) : Bool :=
  (l.buffer.drop k).any fun b => 16 ≤ b.replays || (lookup? b.epoch l.keys).isNone

/-- LINK_RETRAIN: after sixteen consecutive replays of one flit, or when a replay needs a discarded key (R395).
(DEDUCED: log 62) -/
def execLinkRetrain (port : Nat) (s : State) : Host.Outcome State Fault Refusal :=
  .next (if (s.link port).up && (s.link port).worn 0 then s.failLink port else s)

/-- A replay from a place in the replay buffer on; one that a flit has had too often, or that needs a discarded key, retrains
the link instead (R395). -/
def State.replayOrFail (s : State) (port k : Nat) : State :=
  if (s.link port).worn k then s.failLink port else s.replayFrom port k

/-- FLIT_RECEIVE: flits are accepted in SEQ order under a key that is held; any other is discarded and asked for again. A
replay request brings every flit that its ACK does not cover (R395). (DEDUCED: log 60) -/
def execFlitReceive (port : Nat) (f : Flit) (s : State) : Host.Outcome State Fault Refusal :=
  let l := s.link port
  if !l.up then .next s
  else if !l.takes f then .next (s.discardFlit port f)
  else
    let s := s.setLink port (((l.took f.epoch).acked f.ack).gather f)
    match f.kind, f.pkt with
    | 0, some k => .next (if f.part + 1 ≠ f.parts || f.part ≠ l.got then s else 
        { s with packets := s.packets ++ [(s.nextId, { k with hops := f.vc % 8 })], nextId := s.nextId + 1 })
    | 2, _ => .next (s.replayOrFail port 0)
    | _, _ => .next s

/-- REPLAY_REQUEST: every flit from a SEQ on is sent again, each unchanged under the key of its first transmission (R395). -/
def execReplayRequest (port seq : Nat) (s : State) : Host.Outcome State Fault Refusal :=
  let l := s.link port
  match l.buffer.findIdx? fun b => b.seq == seq with
  | some k => .next (if l.up then s.replayOrFail port k else s)
  | none => .next s

/-- The key of an agreement: from this device's ephemeral value and the neighbour's (R482). -/
def State.linkKey (s : State) (peer : List Byte) : BitVec 256 :=
  linkSecret (Config.linkScalar s.draws) peer

/-- This device's own ephemeral value, drawn for the agreement, sent out signed with its identity key (R482). -/
def State.sendValue (s : State) (port : Nat) : State :=
  let value := linkPublic (Config.linkScalar s.draws)
  { s with draws := s.draws + 1, outbox := s.outbox ++ [.linkValue port value (ecdsaSign (sha384 value))] }

/-- LINK_KEY_ESTABLISH: the management cores of two neighbours agree a key, each value signed with its device's identity
key; the link then carries flits from SEQ 0 of epoch 0 (R396, R482). -/
def execLinkKeyEstablish (port : Nat) (peer : List Byte) (signed : Bool) (s : State) : Host.Outcome State Fault Refusal :=
  match lookup? port s.links with
  | none => .next s
  | some l =>
    if l.up || !signed then .next s
    else
      let key := s.linkKey peer
      .next ((s.sendValue port).setLink port { up := true, keys := [(0, key)], rxKeys := [(0, key)] })

/-- LINK_KEY_ROTATION, one phase at a time (R396): a new key, agreed as the first was (R482), installed at the receiver under EPOCH + 1,
modulo 256; then the sender's change to it, the retiring key kept as long as a flit under it is not covered by ACK. -/
def execLinkKeyRotation (port : LinkRotation) (s : State) : Host.Outcome State Fault Refusal :=
  let x := port
  let port := x.port
  let l := s.link port
  let e := (l.epoch + 1) % 256
  if !l.up then .next s
  else
    match l.next with
    | none =>
      let key := s.linkKey x.peer
      .next (if x.signed then
        (s.sendValue port).setLink port { l with next := some key, rxKeys := assocSet e key l.rxKeys } else s)
    | some key =>
      .next ((s.setLink port { l with epoch := e, count := 0, keys := assocSet e key l.keys, next := none }.dropKeys).askWaiting port)

end Sys2Proof.Machine
end

