-- ==== Sys2Proof/Machine/Envelope.lean ====
section
/-!
DEFINITION. The envelope ops (R408 to R416), and the envelope unit as coordinator and as destination (R405, R406, R413,
R417 to R427, Tables 14.7 to 14.9).
-/
namespace Sys2Proof.Machine
open Sys2Proof

/-! ## Slots, identities and records -/

def Ctx.slot (c : Ctx) (n : Nat) : EnvSlot := lookupD {} n c.env
def State.setSlot (s : State) (n k : Nat) (e : EnvSlot) : State := s.onCtx n fun c => { c with env := assocSet k e c.env }

/-- The envelope slot of a TRI op: IMM44[3:0] (Table 14.4). -/
def envOf (f : Tri) : Nat := (f.imm.extractLsb' 0 4).toNat
/-- ENV and PEER of a sealed store (R408). -/
def sealEnv (f : MemF) : Nat := (f.fn.extractLsb' 0 4).toNat
def sealPeer (f : MemF) : Nat := (f.disp.extractLsb' 22 6).toNat

/-- EID (Table 14.2). -/
def eidOf (dev n slot gen : Nat) : Nat := dev * 2 ^ 58 + n * 2 ^ 48 + slot * 2 ^ 44 + gen
def eidCoord (eid : Nat) : Nat := eid / 2 ^ 58 % 64

/-- The next generation of a slot whose EID has no coordinator record (R404). -/
def State.nextGen (s : State) (n slot : Nat) : Nat → Nat → Nat
  | 0, g => g
  | k + 1, g =>
    let g := if g + 1 < 2 ^ 44 then g + 1 else 1
    if s.coords.any fun c => c.eid == eidOf s.fabxy n slot g then s.nextGen n slot k g else g

/-- Envelope records of a partition that are taken (R405). -/
def State.recordsUsed (s : State) (part : Nat) : Nat :=
  (s.coords.filter fun c => partOf c.vf == part).length +
    (s.dests.filter fun d => d.vf.any fun v => partOf v == part).length

/-- Has the partition of a VF a free envelope record, and the device? -/
def State.recordFree (s : State) (vf : Nat) : Bool :=
  s.recordsUsed (partOf vf) < (s.part (partOf vf)).records &&
    s.coords.length + (s.dests.filter fun d => d.vf.isSome).length < 4096

/-- The coordinator record of a slot's envelope, taken if it has none; none when the share is full (R405). -/
def State.takeCoord (s : State) (vf : Nat) (e : EnvSlot) : Option State :=
  if s.coords.any fun c => c.eid == e.eid then some s
  else if s.recordFree vf then some { s with coords := s.coords ++ [{ eid := e.eid, vf := vf, mask := e.mask }] }
  else none

/-- The VF at a device that stands for a context's VF there (R392, R411). -/
def State.peerVf (s : State) (vf dev : Nat) : Option Nat :=
  if dev = s.fabxy then some vf else lookup? dev (s.vf vf).peers

/-- SENT of a device in a slot. -/
def EnvSlot.addSent (e : EnvSlot) (dev n : Nat) : EnvSlot :=
  { e with sent := assocSet dev ((lookupD 0 dev e.sent + n) % 2 ^ 48) e.sent }

/-! ## Issue -/

/-- `sopen` (R410). ENVSTATE is tested before ENVMASK. (DESIGN CHOICE: log 177) -/
def acceptSopen : Accept := fun s n r =>
  match r.work with
  | .op (.sopen _ f) =>
    let c := s.ctx n
    let k := envOf f
    let e := c.slot k
    let mask : BitVec 64 := r.addr
    let devs := maskDevices mask
    if e.state = 1 ∨ e.state = 2 then .error (permInfo 0x50)
    else if devs.isEmpty || 16 < devs.length || devs.any fun d => (s.peerVf c.id.vf d).isNone then .error (permInfo 0x51)
    else
      let g := s.nextGen n k 4097 e.gen
      .ok ((s.setSlot n k { state := 1, gen := g, eid := eidOf s.fabxy n k g, mask := mask }).heldSignal n r)
  | _ => .ok s

/-- `sopen` (R410). -/
def execSopen (h : Hdr) (f : Tri) (s : State) : Host.Outcome State Fault Refusal :=
  portOp h (triReq (.sopen h f) f) [] acceptSopen s

/-- Bytes written whole. -/
def wholeWrites (a : Nat) (bs : List Byte) : List (Nat × Byte × Byte) :=
  ((List.range bs.length).zip bs).map fun (p : Nat × Byte) => (a + p.1, 0xFF, p.2)

/-- A sealed store on an OPEN slot: its seal request (R411, R412). -/
def State.sendSeal (s : State) (n : Nat) (r : PortReq) (env peer : Nat) (data : List Byte) : State :=
  let c := s.ctx n
  let e := c.slot env
  let order := c.envOrder + 1
  let id := c.port.nextId
  let s := (s.setSlot n env (e.addSent peer data.length)).onCtx n fun c => { c with envOrder := order }
  let (s, q) := s.streamNext (coreOf n / 4) peer
  let stream : Stream := ⟨s.fabxy, coreOf n / 4, q, 0, 0⟩
  let s := s.onCoord e.eid fun k => { k with out := k.out ++ [(stream, none)] }
  let s := s.pushOp n { r with eid := e.eid, order := order, number := q } false
  let s := s.onCtx n fun c => { c with port := c.port.change id fun r => { r with stage := .waiting } }
  s.send peer (.seal
    { eid := e.eid, stream := stream, port := some (n, id), vf := (s.peerVf c.id.vf peer).getD 0,
      writes := wholeWrites r.addr.toNat data, bytes := data.length, mask := e.mask, order := some order })

/-- `sst` and `svst` (R411). ENVSTATE is tested before ENVMASK. (DESIGN CHOICE: log 177) -/
def acceptSeal (align : Nat) (data : PortReq → List Byte) : Accept := fun s n r =>
  match farFault r.addr align, r.mem with
  | some t, _ => .error t
  | none, none => .ok s
  | none, some f =>
    let e := (s.ctx n).slot (sealEnv f)
    let peer := sealPeer f
    let vf := (s.ctx n).id.vf
    if e.state = 4 then .ok (s.heldSignal n r)
    else if e.state ≠ 1 then .error (permInfo 0x50)
    else if !e.mask.getLsbD peer then .error (permInfo 0x52)
    else if !s.reachable peer || (s.peerVf vf peer).isNone then .ok ((s.decideEnvelope e.eid 10).heldSignal n r)
    else
      match s.takeCoord vf e with
      | none => .ok ((s.decideEnvelope e.eid 9).heldSignal n r)
      | some s => .ok (s.sendSeal n r (sealEnv f) peer (data r))

/-- `sst` (R411). -/
def execSst (h : Hdr) (f : MemF) (s : State) : Host.Outcome State Fault Refusal :=
  portOp h (memReq (.sst h f) f sealedAddr) [] (acceptSeal 8 fun r => natBytes 8 r.w1.toNat) s
/-- `svst` (R411). -/
def execSvst (h : Hdr) (f : MemF) (s : State) : Host.Outcome State Fault Refusal :=
  portOp h (vecReq (.svst h f) f sealedAddr) [] (acceptSeal 64 fun r => r.vec) s

/-- `spost` (R413): the slot becomes POSTED at issue; its port entry waits for what PREPARE waits for. -/
def acceptSpost : Accept := fun s n r =>
  match r.work with
  | .op (.spost _ f) =>
    let k := envOf f
    let e := (s.ctx n).slot k
    if e.state = 4 then .ok (s.heldSignal n r)
    else if e.state ≠ 1 then .error (permInfo 0x50)
    else
      match s.takeCoord (s.ctx n).id.vf e with
      | none => .ok ((s.decideEnvelope e.eid 9).heldSignal n r)
      | some s =>
        let id := (s.ctx n).port.nextId
        let sig := r.hdr.bind fun h => if h.sinc == 0 then none else some (n, id + 1)
        let s := (s.setSlot n k { e with state := 2 }).pushOp n { r with eid := e.eid } false
        .ok (s.onCoord e.eid fun c => { c with posted := true, sent := e.sent, post := sig })
  | _ => .ok s

/-- `spost` (R413). -/
def execSpost (h : Hdr) (f : Tri) (s : State) : Host.Outcome State Fault Refusal :=
  portOp h (triReq (.spost h f) f) [] acceptSpost s

/-- `svoid` (R414). (DEDUCED: log 65) -/
def acceptSvoid : Accept := fun s n r =>
  match r.work with
  | .op (.svoid _ f) =>
    let e := (s.ctx n).slot (envOf f)
    .ok ((if e.state = 1 ∨ e.state = 2 then s.decideEnvelope e.eid 1 else s).heldSignal n r)
  | _ => .ok s

/-- `svoid` (R414). -/
def execSvoid (h : Hdr) (f : Tri) (s : State) : Host.Outcome State Fault Refusal :=
  portOp h (triReq (.svoid h f) f) [] acceptSvoid s

/-- `swait`: the status word at issue, or at the decision of a POSTED envelope (R415). -/
def acceptSwait : Accept := fun s n r =>
  match r.work with
  | .op (.swait _ f) =>
    let e := (s.ctx n).slot (envOf f)
    if e.state = 2 then
      .ok (s.waitNow n { r with eid := e.eid })
    else .ok ((s.landNow n r f.d.toNat e.word).onCtx n fun c => if e.state = 3 then c.setAcquired else c)
  | _ => .ok s

/-- `swait` (R415). -/
def execSwait (h : Hdr) (f : Tri) (s : State) : Host.Outcome State Fault Refusal :=
  portOp h (triReq (.swait h f) f) [(0, f.d.toNat)] acceptSwait s

/-- `sstat`: the status word sampled at issue (R415). -/
def acceptSstat : Accept := fun s n r =>
  match r.work with
  | .op (.sstat _ f) => .ok (s.landNow n r f.d.toNat ((s.ctx n).slot (envOf f)).word)
  | _ => .ok s

/-- `sstat` (R415). -/
def execSstat (h : Hdr) (f : Tri) (s : State) : Host.Outcome State Fault Refusal :=
  portOp h (triReq (.sstat h f) f) [(0, f.d.toNat)] acceptSstat s

/-! ## The coordinator (R413, R421, R424, R426) -/

def State.coord (s : State) (eid : Nat) : Option Coord := s.coords.find? fun c => c.eid == eid

/-- The `spost` entry of an envelope: its context and entry. -/
def State.spostOf (s : State) (eid : Nat) : Option (Nat × PortReq) :=
  s.ctxs.findSome? fun p => (p.2.port.queue.find? fun r =>
    r.eid == eid && match r.work with
      | .op (.spost _ _) => true
      | _ => false).map fun r => (p.1, r)

/-- ENVELOPE_PREPARE_SEND: once the envelope's writes have settled and the accesses before the `spost` are performed,
PREPARE goes to every participant (R413). -/
def execEnvelopePrepareSend (eid : Nat) (s : State) : Host.Outcome State Fault Refusal :=
  match s.coord eid, s.spostOf eid with
  | some c, some (n, r) =>
    if c.prepared || c.unacked != 0 || s.jobs.any (fun j => j.eid == eid) || !s.mayPerform n r || !s.canFlush n then .next s
    else
      let s := (s.flushCtx n).onCtx n fun c =>
        { c with port := { c.port with queue := c.port.queue.filter fun q => q.id != r.id } }
      let s := s.onCoord eid fun c => { c with prepared := true }
      let s :=
        if c.decision.isSome then s
        else if c.doubt then s.decideEnvelope eid 4
        else if (maskDevices c.mask).any fun d => !s.reachable d then s.decideEnvelope eid 10
        else (maskDevices c.mask).foldl (fun s d => s.send d (.prepare eid (lookupD 0 d c.sent))) s
      .next ((s.settlePort n).reapCoord)
  | none, some (n, r) =>
    .next (s.onCtx n fun c => { c with port := { c.port with queue := c.port.queue.filter fun q => q.id != r.id } })
  | _, none => .next s

/-- READY: the last one decides PUBLISHED (R421). -/
def execReady (pkt : Nat) (s : State) : Host.Outcome State Fault Refusal :=
  s.takePacket pkt fun k s =>
    match k.msg with
    | .ready eid dev =>
      match s.coord eid with
      | some c =>
        let s := s.onCoord eid fun c => { c with ready := if c.ready.contains dev then c.ready else c.ready ++ [dev] }
        if c.decision.isNone && (maskDevices c.mask).all fun d => d == dev || c.ready.contains d then s.decideEnvelope eid 0
        else s
      | none => s
    | _ => s

/-- FAIL: the envelope is decided VOID with its cause (R421). -/
def execFail (pkt : Nat) (s : State) : Host.Outcome State Fault Refusal :=
  s.takePacket pkt fun k s =>
    match k.msg with
    | .fail eid _ cause => if (s.coord eid).isSome then s.decideEnvelope eid cause else s
    | _ => s

/-- The decision of an envelope as a message. -/
def decisionMsg (eid cause : Nat) : Msg := if cause = 0 then .publish eid else .discard eid cause

/-- DONE (R426). -/
def execDone (pkt : Nat) (s : State) : Host.Outcome State Fault Refusal :=
  s.takePacket pkt fun k s =>
    match k.msg with
    | .done eid dev =>
      (s.onCoord eid fun c => { c with done := if c.done.contains dev then c.done else c.done ++ [dev] }).reapCoord
    | _ => s

/-- QUERY: a coordinator that still holds the record answers with the decision (R424). -/
def execQuery (pkt : Nat) (s : State) : Host.Outcome State Fault Refusal :=
  s.takePacket pkt fun k s =>
    match k.msg with
    | .query eid dev =>
      match (s.coord eid).bind (·.decision) with
      | some cause => s.send dev (decisionMsg eid cause)
      | none => s
    | _ => s

/-- DECISION_RESEND: PUBLISH or DISCARD again to every participant that has not answered DONE (R421). -/
def execDecisionResend (eid : Nat) (s : State) : Host.Outcome State Fault Refusal :=
  match s.coord eid with
  | some c =>
    match c.decision with
    | some cause =>
      .next (((maskDevices c.mask).filter fun d => !c.done.contains d).foldl (fun s d => s.send d (decisionMsg eid cause)) s)
    | none => .next s
  | none => .next s

/-- PREPTIME_EXPIRY: a reply is missing at the end of PREPTIME (R421). -/
def execPreptimeExpiry (eid : Nat) (s : State) : Host.Outcome State Fault Refusal :=
  match s.coord eid with
  | some c => .next (if c.prepared && c.decision.isNone then s.decideEnvelope eid 4 else s)
  | none => .next s

/-- A beat of a job acknowledged: its bytes leave the counts, and the job completes at zero (R224); so does a multicast that
has no members and no bytes, after its first beat. (DESIGN CHOICE: log 154) -/
def State.beatDone (s : State) (job beat bytes : Nat) : State :=
  match s.job? job with
  | none => s
  | some j =>
    if j.done.contains beat then s
    else
      let s := (s.subBytes j bytes).onJob job fun j =>
        { j with done := j.done ++ [beat], beats := j.beats.filter fun b => b.num != beat }
      match s.job? job with
      | some j => if j.bytes = 0 then s.completeJob j else s
      | none => s

/-! ## The destination (R417 to R420, R424, R425) -/

def State.dest (s : State) (eid : Nat) : Option Dest := s.dests.find? fun d => d.eid == eid
def State.onDest (s : State) (eid : Nat) (f : Dest → Dest) : State :=
  { s with dests := s.dests.map fun d => if d.eid == eid then f d else d }
/-- Is an EID that of an envelope whose record here has been freed, so that what still comes under it is dropped (Table 14.8)?
A coordinator at another device may since have given the EID to a new envelope (R404). (DESIGN CHOICE: log 133) -/
def State.isFreed (s : State) (eid : Nat) : Bool :=
  s.freed.contains eid && (eidCoord eid == s.fabxy || !Config.eidAnew eid s.free)

/-- A new envelope under an EID. -/
def State.takeEid (s : State) (eid : Nat) : State :=
  if s.freed.contains eid then { s with freed := s.freed.filter (· != eid), free := s.free + 1 } else s

/-- A destination record freed with its staging entries. -/
def State.freeDest (s : State) (eid : Nat) : State :=
  { s with dests := s.dests.filter fun d => d.eid != eid, freed := if s.freed.contains eid then s.freed else s.freed ++ [eid] }

/-- FAIL to the coordinator, the record kept as FAILED. -/
def State.failDest (s : State) (eid cause : Nat) : State :=
  (s.onDest eid fun d => { d with state := .failed, cause := cause }).send (eidCoord eid) (.fail eid s.fabxy cause)

/-- The distinct pages of the bytes of a SEAL. -/
def writePages (ws : List (Nat × Byte × Byte)) : List Nat := (ws.map fun w => w.1 / 2 ^ 16).eraseDups

/-- Staging entries of a VF in use (R406). -/
def State.stagingUsed (s : State) (vf : Nat) : Nat :=
  (s.dests.filter fun d => d.vf == some vf).foldl (fun k d => k + d.lines.length) 0

/-- A byte staged: over an earlier one of the record unless that one ranks higher (R412). -/
def stageByte (rank : Nat) (ls : List Staged) (pa : Nat) (mask val : Byte) : List Staged :=
  let line := pa / 64 * 64
  let put := fun (l : Staged) =>
    let (m, v, k) := lookupD (0, 0, 0) (pa - line) l.bytes
    let x : Byte × Byte × Nat :=
      if k ≤ rank then (m ||| mask, (v &&& ~~~mask) ||| (val &&& mask), rank)
      else (m ||| mask, (val &&& mask &&& ~~~m) ||| v, k)
    { l with bytes := assocSet (pa - line) x l.bytes }
  if ls.any fun l => l.line == line then ls.map fun l => if l.line == line then put l else l
  else ls ++ [put { line := line, bytes := [] }]

/-- The physical writes of a SEAL; none where an address is refused or lies on an EMB page (R418). -/
def State.sealWrites (s : State) (m : SealMsg) : Option (List (Nat × Byte × Byte)) :=
  m.writes.mapM fun w =>
    match s.xlate (ioPath m.vf) m.vf w.1 .write with
    | .ok pa false => some (pa, w.2.1, w.2.2)
    | _ => none

/-- A SEAL staged in its record. A beat of a job takes its place among the writes of each aligned 8-byte unit from a free
value of that unit (R41, R412). -/
def State.stageSeal (s : State) (m : SealMsg) (ws : List (Nat × Byte × Byte)) : State :=
  let units := (ws.map fun w => w.1 / 8).eraseDups
  let rank := fun (a : Nat) => match m.order with
    | some o => 2 * o + 1
    | none => 2 * ((Config.freeValue (s.free + units.findIdx (· == a / 8))).toNat % 2 ^ 48)
  let s := if m.order.isNone then { s with free := s.free + units.length } else s
  s.onDest m.eid fun d =>
    { d with rcvd := (d.rcvd + m.bytes) % 2 ^ 48
             lines := ws.foldl (fun ls w => stageByte (rank w.1) ls w.1 w.2.1 w.2.2) d.lines }

/-- Staging entries of a partition in use: those of its eight VFs (R406). -/
def State.stagingTaken (s : State) (part : Nat) : Nat := sumOf s.stagingUsed ((List.range 8).map fun i => 8 * part + i)

/-- SEAL at a record in STAGING (Table 14.8); every SEAL is acknowledged. -/
def State.sealStaging (s : State) (m : SealMsg) (d : Dest) : State × Bool :=
  match s.sealWrites m with
  | none => (s.failDest m.eid 3, true)
  | some ws =>
    if d.bad then (s.failDest m.eid 3, true) else
    let new := ((ws.map fun w => w.1 / 64 * 64).eraseDups.filter fun l => !d.lines.any fun x => x.line == l).length
    if ((s.vf m.vf).staging.getD (2 ^ 21)) < s.stagingUsed m.vf + new || 2 ^ 24 < s.stagingTaken (partOf m.vf) + new then
      (s.failDest m.eid 2, false)
    else (s.stageSeal m ws, false)

/-- Is a SEAL to be staged: no duplicate, and no record that is freed or past STAGING (Table 14.8)?
(DESIGN CHOICE: log 67) -/
def State.sealLive (s : State) (m : SealMsg) : Bool :=
  !s.seen m.stream && !s.isFreed m.eid && (s.dest m.eid).all fun d => d.state == .staging

/-- A SEAL that is not staged, with the cause for which its record fails: a page refused (R418), the reset of its VF (R427). -/
def State.refuseSeal (s : State) (pkt src : Nat) (m : SealMsg) (cause : Nat) : State :=
  let s := (s.dropPacket pkt).markSeen m.stream
  let s := if (s.dest m.eid).isSome then s
    else if s.recordFree m.vf then { s with dests := s.dests ++ [{ eid := m.eid, vf := some m.vf, mask := m.mask }] }
    else s
  let s := if (s.dest m.eid).isSome then s.failDest m.eid cause else s.send (eidCoord m.eid) (.fail m.eid s.fabxy 9)
  s.send src (.sealack { eid := m.eid, stream := m.stream, port := m.port, bytes := m.bytes, fault := true })

/-- SEAL (R417, R418): a page that is not mapped holds it until the pager has answered. -/
def execSeal (pkt : Nat) (s : State) : Host.Outcome State Fault Refusal :=
  match s.packet pkt with
  | some { src, dst, msg := .seal m, .. } =>
    if dst ≠ s.fabxy then .next s
    else
      let live := s.sealLive m
      let ack := fun (s : State) (fault : Bool) =>
        s.send src (.sealack { eid := m.eid, stream := m.stream, port := m.port, bytes := m.bytes, fault := fault })
      if live && (s.ioMissing m.vf (writePages m.writes)).isSome then
        .next (if (s.vf m.vf).state = .resetting then s.refuseSeal pkt src m 8 else s)
      else
        let s := (s.dropPacket pkt).markSeen m.stream
        if !live then .next (ack s false)
        else
          let s := s.takeEid m.eid
          let used := fun (s : State) => s.touchAll (ioPath m.vf) m.vf (m.writes.map (·.1))
          match s.dest m.eid with
          | some d =>
            let (s, fault) := s.sealStaging m d
            .next (ack (used s) fault)
          | none =>
            if !s.recordFree m.vf then .next (ack (s.send (eidCoord m.eid) (.fail m.eid s.fabxy 9)) false)
            else
              let d : Dest := { eid := m.eid, vf := some m.vf, mask := m.mask }
              let (s, fault) := ({ s with dests := s.dests ++ [d] } : State).sealStaging m d
              .next (ack (used s) fault)
  | _ => .next s

/-- PREPARE (Table 14.8): a destination without a record acts as one in STAGING with RCVD 0. (DEDUCED: log 66) -/
def execPrepare (pkt : Nat) (s : State) : Host.Outcome State Fault Refusal :=
  s.takePacket pkt fun k s =>
    match k.msg with
    | .prepare eid count =>
      let s := if (s.dest eid).isNone && !s.isFreed eid then
          { s.takeEid eid with dests := s.dests ++ [{ eid := eid, vf := none }] } else s
      match s.dest eid with
      | some d =>
        match d.state with
        | .staging =>
          if d.rcvd = count then (s.onDest eid fun d => { d with state := .held }).send k.src (.ready eid s.fabxy)
          else s.failDest eid 5
        | .failed => s.send k.src (.fail eid s.fabxy d.cause)
        | _ => s
      | none => s
    | _ => s

/-- An ENV_INDOUBT or ENV_RESOLVED record (Table 14.9) posted for the record's VF. -/
def State.postInDoubt (s : State) (kind : Nat) (d : Dest) : State :=
  match d.vf with
  | some vf => s.postRecord vf
      ([BitVec.ofNat 8 kind, BitVec.ofNat 8 s.fabxy, 0, 0] ++ natBytes 4 d.lines.length ++ natBytes 8 d.eid ++
        natBytes 8 d.mask.toNat ++ natBytes 8 0)
  | none => s

/-- The bytes of a staged line over memory. -/
def State.stagedLine (s : State) (l : Staged) : List Byte :=
  (List.range 64).map fun i =>
    match lookup? i l.bytes with
    | some (m, v, _) => (s.byte (l.line + i) &&& ~~~m) ||| (v &&& m)
    | none => s.byte (l.line + i)

/-- Every staged line written, then every hold released: one event (R420). The VF's copies in the L1 caches are stale from
then on, so that a load that returns a published value is followed by none that returns an older one (R50, R68, R69).
(DEDUCED: log 124) -/
def State.publishDest (s : State) (d : Dest) : State :=
  let writes := d.lines.map fun l => (l.line, s.stagedLine l)
  let whole := fun (a : Nat) => d.lines.any fun l => l.line ≤ a && (lookup? (a - l.line) l.bytes).any fun x => x.1 == 0xFF
  let left := s.bad.filter fun a => !whole a
  let s := s.freeDest d.eid
  let write := fun (s : State) (w : Nat × List Byte) =>
    let t := s.homeWrite w.1 w.2
    d.vf.elim t fun vf => t.visit vf none w.1 0
  let s := { writes.foldl write s with bad := left }
  s.onEveryCore fun k => k.staleIf fun l => d.vf == some l.vf

/-- Is a line of the record held by another envelope (R419)? (DEDUCED: log 69) -/
def State.publishWaits (s : State) (d : Dest) : Bool :=
  d.lines.any fun l => s.dests.any fun e => e.eid != d.eid && e.state == .held && e.lines.any fun x => x.line == l.line

/-- A decision applied at a destination (Table 14.8, R425); a record that is gone has been decided. -/
def State.applyDecision (s : State) (d : Dest) (publish : Bool) : State :=
  let t := if publish && (d.state == .held || d.state == .indoubt) then s.publishDest d else s.freeDest d.eid
  (if d.state == .indoubt then t.postInDoubt 2 d else t).settlePorts

/-- A record whose decision to publish waited, once no other envelope holds a line of it (R419): published, with DONE. -/
def State.publishNext (s : State) : State :=
  match s.dests.find? fun d => d.publishing && !s.publishWaits d with
  | some d => (s.applyDecision d true).send (eidCoord d.eid) (.done d.eid s.fabxy)
  | none => s

/-- Publications that a released hold has let go on, one after the other. -/
def State.publishReady (s : State) : State := s.dests.foldl (fun s _ => s.publishNext) s

/-- The first decision that reaches a record (R425), with DONE once it is applied. One to publish waits while another envelope
holds a line of the record, and a later decision no longer counts. -/
def State.takeDecision (s : State) (d : Dest) (publish : Bool) : State :=
  if d.publishing then s
  else if publish && s.publishWaits d then s.onDest d.eid fun d => { d with publishing := true }
  else ((s.applyDecision d publish).send (eidCoord d.eid) (.done d.eid s.fabxy)).publishReady

/-- PUBLISH (R420). -/
def execPublish (pkt : Nat) (s : State) : Host.Outcome State Fault Refusal :=
  s.takePacket pkt fun k s =>
    match k.msg with
    | .publish eid =>
      match s.dest eid with
      | some d => if d.state == .held || d.state == .indoubt then s.takeDecision d true else s
      | none => s.send k.src (.done eid s.fabxy)
    | _ => s

/-- DISCARD (R417). -/
def execDiscard (pkt : Nat) (s : State) : Host.Outcome State Fault Refusal :=
  s.takePacket pkt fun k s =>
    match k.msg with
    | .discard eid _ =>
      match s.dest eid with
      | some d => s.takeDecision d false
      | none => (s.freeDest eid).send k.src (.done eid s.fabxy)
    | _ => s

/-- QUERY_RESEND: a HELD destination asks its coordinator (R424). -/
def execQueryResend (eid : Nat) (s : State) : Host.Outcome State Fault Refusal :=
  match s.dest eid with
  | some d => .next (if d.state == .held && !d.publishing then s.send (eidCoord eid) (.query eid s.fabxy) else s)
  | none => .next s

/-- INDOUBT_INTERVAL_EXPIRY: ENV_INDOUBT to the host; the holds are released and the entries kept (R424). -/
def execIndoubtIntervalExpiry (eid : Nat) (s : State) : Host.Outcome State Fault Refusal :=
  match s.dest eid with
  | some d =>
    .next (if d.state == .held && !d.publishing then
      ((s.onDest eid fun d => { d with state := .indoubt }).postInDoubt 1 d).settlePorts.publishReady else s)
  | none => .next s

/-- The host's resolution of an envelope in INDOUBT (R425). (DEDUCED: log 68) -/
def State.hostDecision (s : State) (eid : Nat) (publish : Bool) : State :=
  match s.dest eid with
  | some d => if d.state == .indoubt then s.takeDecision d publish else s
  | none => s

/-- HOST_PUBLISH (R425). -/
def execHostPublish (eid : Nat) (s : State) : Host.Outcome State Fault Refusal := .next (s.hostDecision eid true)
/-- HOST_DISCARD (R425). -/
def execHostDiscard (eid : Nat) (s : State) : Host.Outcome State Fault Refusal := .next (s.hostDecision eid false)

end Sys2Proof.Machine
end

