-- ==== Sys2Proof/Machine/Card.lean ====
section
/-!
DEFINITION. Job cards (R212 to R220, R223, R225 to R228): the nests of their sides, the checks of Table 7.10, posting, and
the copy ops (R234 to R239).
-/
namespace Sys2Proof

/-- BB of a JOB op when BBEN is set (R234). -/
def JobF.bb (f : JobF) : Option Nat := if f.fn.getLsbD 4 then some (f.fn.extractLsb' 0 4).toNat else none

end Sys2Proof

namespace Sys2Proof.Machine
open Sys2Proof

/-! ## Fields of a card (Tables 7.1 to 7.4) -/

/-- A card's bytes with names for its fields. -/
structure Card where
  bytes : List Byte
  deriving DecidableEq, Repr

def Card.ctrl (k : Card) (lo n : Nat) : Nat := bits64 (cardCtrl k.bytes) lo n
def Card.route (k : Card) (lo n : Nat) : Nat := bits64 (cardRoute k.bytes) lo n
def Card.signal (k : Card) (lo n : Nat) : Nat := bits64 (cardSignal k.bytes) lo n
def Card.sspace (k : Card) : Nat := k.ctrl 0 4
def Card.dspace (k : Card) : Nat := k.ctrl 4 4
def Card.sdesc (k : Card) : Nat := k.ctrl 8 6
def Card.ddesc (k : Card) : Nat := k.ctrl 14 6
def Card.scope (k : Card) : Nat := k.ctrl 21 2
def Card.seal (k : Card) : Bool := k.ctrl 23 1 == 1
def Card.kindle (k : Card) : Bool := k.ctrl 24 1 == 1
def Card.wsat (k : Card) : Bool := k.ctrl 25 1 == 1
def Card.wire (k : Card) : Nat := k.ctrl 26 2
def Card.redop (k : Card) : Nat := k.ctrl 28 4
def Card.peer (k : Card) : Nat := k.route 0 6
def Card.env (k : Card) : Nat := k.route 8 4
def Card.hostwin (k : Card) : Nat := k.route 12 12
def Card.mset (k : Card) : Nat := k.route 24 8
def Card.csem (k : Card) : Nat := k.signal 0 8
def Card.cinc (k : Card) : Nat := k.signal 8 4
/-- WEXP and LSB. -/
def Card.wexp (k : Card) : Int := (BitVec.ofNat 16 (k.signal 32 16)).toInt
def Card.lsb (k : Card) : Int := (BitVec.ofNat 16 (k.signal 48 16)).toInt
/-- RBASE, RLEN, WBASE, WLEN. -/
def Card.rbase (k : Card) : Nat := imageField k.bytes 32 8
def Card.rlen (k : Card) : Nat := imageField k.bytes 40 8
def Card.wbase (k : Card) : Nat := imageField k.bytes 48 8
def Card.wlen (k : Card) : Nat := imageField k.bytes 56 8

/-! ## Nests (R215, R216) -/

/-- TYPE, NDIM and EXPREG of a descriptor (Table 4.10). -/
def Desc.type (d : Desc) : Nat := (d.ctrl.extractLsb' 0 4).toNat
def Desc.ndim (d : Desc) : Nat := (d.ctrl.extractLsb' 4 3).toNat
def Desc.expReg (d : Desc) : Nat := (d.ctrl.extractLsb' 8 6).toNat
def Desc.dims (d : Desc) : List Nat := (d.counts.take d.ndim).map (·.toNat)

/-- The element type of a side. -/
def Side.type (x : Side) : Nat := match x.desc with
  | some d => d.type
  | none => tctlType x.tctl
/-- Counts of a side's dimensions; a tile has columns and rows. -/
def Side.dims (x : Side) : List Nat := match x.desc with
  | some d => d.dims
  | none => [tctlCols x.tctl, tctlRows x.tctl]
/-- E. -/
def Side.count (x : Side) : Nat := x.dims.foldl (· * ·) 1
/-- C0. -/
def Side.row (x : Side) : Nat := x.dims.headD 1
def Side.width (x : Side) : Nat := Ty.width x.type
/-- Byte strides of dimensions 1 and up. -/
def Side.strides (x : Side) : List Int := match x.desc with
  | some d => ((d.strides.take d.ndim).drop 1).map (·.toInt)
  | none => [(tctlRowBytes x.tctl : Int)]
/-- The address of element 0. -/
def Side.start (x : Side) : Int := match x.desc with
  | some d => (d.base.toNat : Int)
  | none => 0
/-- SCALE; 0 for none. -/
def Side.scale (x : Side) : Nat := match x.desc with
  | some d => d.scale.toNat
  | none => 0

/-- The offset of row index `r` along dimensions 1 and up. -/
def rowOffset : List Nat → List Int → Nat → Int
  | c :: cs, s :: ss, r => ((r % c : Nat) : Int) * s + rowOffset cs ss (r / c)
  | _, _, _ => 0

/-- The bit address of element n (R215). -/
def Side.bit (x : Side) (n : Nat) : Nat :=
  let c := x.row
  (8 * (x.start + rowOffset (x.dims.drop 1) x.strides (n / c)) + ((n % c * x.width : Nat) : Int)).toNat

/-- Bytes of one dimension-0 row (R223). -/
def Side.rowBytes (x : Side) : Nat := (x.row * x.width + 7) / 8
/-- D of R223. -/
def Side.dataBytes (x : Side) : Nat := x.count / x.row * x.rowBytes
/-- S of R223: bytes of the scale plane. -/
def Side.planeBytes (x : Side) : Nat := if x.scale = 0 then 0 else (x.count + 63) / 64

/-- The lowest and the highest end of the nest's bytes. -/
def Side.extent (x : Side) : Int × Int :=
  let steps := (x.dims.drop 1).zip x.strides
  let lo := steps.foldl (fun (a : Int) (p : Nat × Int) => a + min 0 (p.2 * ((p.1 - 1 : Nat) : Int))) x.start
  let hi := steps.foldl (fun (a : Int) (p : Nat × Int) => a + max 0 (p.2 * ((p.1 - 1 : Nat) : Int))) x.start
  (lo, hi + (x.rowBytes : Int))

/-- Is the nest, with its scale plane, inside the footprint, and the footprint inside its space (R220)? -/
def Side.footOk (x : Side) (windows : List Nat) : Bool :=
  if x.space = 4 then true
  else
    let (lo, hi) := x.extent
    let stop : Int := ((x.base + x.len : Nat) : Int)
    let plane := x.scale = 0 ∨ (x.base ≤ x.scale ∧ x.scale + x.planeBytes ≤ x.base + x.len)
    let room :=
      if x.space = 0 ∨ x.space = 2 then decide (x.base + x.len ≤ 2 ^ 52)
      else if x.space = 3 then true
      else windows.all fun w => decide (x.base + x.len ≤ w)
    decide ((x.base : Int) ≤ lo) && decide (hi ≤ stop) && decide plane && room

/-! ## Table 7.10 -/

/-- A failed card check: code, cause, offset. (DEDUCED: log 45) -/
def cardFault (code : Nat) (cause : Cause) (off : Nat) : Trapped := ⟨cause, BitVec.ofNat 64 (code + 256 * off)⟩

/-- The lowest byte with a bit of a field set: the field's place and width in bits within the card. -/
def Card.lowest (k : Card) (at' n : Nat) : Option Nat :=
  ((List.range n).find? fun i => (k.bytes.getD ((at' + i) / 8) 0).getLsbD ((at' + i) % 8)).map fun i => (at' + i) / 8

/-- CARDFIELD: the offsets of the failing bits (R212). `coll` says that the card is a step block (R239). -/
def Card.badFields (k : Card) (coll : Bool) : List Nat :=
  let uses := fun (n : Nat) => k.sspace == n || k.dspace == n
  let zero := fun (used : Bool) (at' n : Nat) => if used then none else k.lowest at' n
  let value := fun (ok : Bool) (byte : Nat) => if ok then none else some byte
  let signals := k.dspace == 1 || k.dspace == 5
  [ value (k.sspace < 6) 0, value (k.dspace < 6) 0, zero false 20 1, value (2 ≤ k.scope) 2,
    value (k.redop < 7) 3, zero false 32 32,
    zero (uses 2 && !coll) 64 6, zero false 70 2, zero (k.seal && !coll) 72 4, zero (uses 3 && !coll) 76 12,
    zero (k.dspace == 5 || coll) 88 8, zero (!coll) 92 4, zero false 96 32,
    zero (signals && (k.cinc != 0)) 128 8, zero signals 136 4, zero false 140 20,
    zero (k.wire != 0 && !coll) 160 16, zero (k.redop == 2) 176 16, zero false 192 64,
    zero (k.sspace != 4) 256 128, zero (k.dspace != 4) 384 128, zero false 512 512,
    zero (!coll) 23 5, zero (coll || k.redop == 0 || k.wire == 3) 25 1 ].filterMap id

/-- SPACES (R214, Table 7.6); a step block's tensors are local, in spaces 0 and 1, at scope 3 (R239). (DEDUCED: log 44,
DEDUCED: log 153) -/
def Card.spacesOk (k : Card) (coll : Bool) : Bool :=
  let a := k.sspace
  let b := k.dspace
  let uses := fun (n : Nat) => a == n || b == n
  let other := fun (n : Nat) => if a = n then b else a
  if coll then (a == 0 || a == 1) && (b == 0 || b == 1) && (k.redop == 0 || b == 0) && k.scope == 3
  else
    (!uses 2 || (a != b && [0, 1, 4].contains (other 2))) &&
    (!uses 3 || ([0, 1].contains (other 3) && k.redop == 0 && k.wire == 0)) &&
    (!uses 4 || ([0, 1, 2].contains (other 4) && k.redop == 0)) &&
    (b != 5 || ([0, 1, 2].contains a && k.redop == 0 && !k.seal)) && a != 5 &&
    (k.redop == 0 || b == 0 || b == 2) &&
    (!k.seal || (b == 2 && k.redop == 0)) &&
    (!k.kindle || ([0, 1, 2, 4].contains a && [0, 1, 2, 4].contains b)) &&
    k.scope == (if uses 2 then 3 else 2)

/-- TYPES (R217, R219). -/
def typesOk (wire redop a b : Nat) : Bool :=
  let narrow := a == Ty.f32 || a == Ty.bf16
  if redop = 0 then
    match wire with
    | 0 => a == b || (Ty.flt.contains a && Ty.isFloat b)
    | 3 => narrow && (b == Ty.e4m3 || b == Ty.f32 || b == Ty.bf16)
    | _ => narrow && (b == Ty.q4x || b == Ty.f32 || b == Ty.bf16)
  else
    let source := if wire = 0 then true else narrow
    match redop with
    | 2 => b == Ty.s64 && Ty.isFloat a && source
    | 5 => wire == 0 && a == Ty.s32 && b == Ty.s32
    | 6 => wire == 0 && a == Ty.s64 && b == Ty.s64
    | _ => b == Ty.f32 && Ty.flt.contains a && source

/-- What posting has worked out of a card. -/
structure Plan where
  card    : Card
  src     : Side
  dst     : Side
  members : List Nat
  bytes   : Nat
  deriving DecidableEq, Repr

/-- A side as captured at posting (R131, R213, R216); none where its descriptor has VALID clear. -/
def captureSide (c : Ctx) (space idx base len : Nat) : Option Side :=
  if space = 4 then
    let x := c.tctl idx
    some { space := space, desc := none, tile := idx, tctl := x, exp := baseExp (c.s (tctlExpReg x)), base := 0, len := 0 }
  else
    (lookup? idx c.ctl.desc).map fun d =>
      { space := space, desc := some d, tile := 0, tctl := 0, exp := baseExp (c.s d.expReg), base := base, len := len }

/-- TILE (R228): a shape that is not valid, or a size other than the other side's byte count. -/
def tileOk (x y : Side) : Bool :=
  x.space != 4 || (x.tile < 12 && tctlValid x.tctl && tctlRows x.tctl * tctlRowBytes x.tctl == y.dataBytes)

/-- The checks of Table 7.10 in their order, for a card with `owed` bytes already to be added to its counter.
(DEDUCED: log 49) -/
def State.checkCard (s : State) (n : Nat) (k : Card) (bb : Option Nat) (coll : Bool) (owed : Nat) :
    Except Trapped Plan :=
  let c := s.ctx n
  let bad := k.badFields coll
  match bad.min? with
  | some off => .error (cardFault 0x10 .perm off)
  | none =>
  if !k.spacesOk coll then .error (cardFault 0x11 .perm 0)
  else
  match captureSide c k.sspace k.sdesc k.rbase k.rlen, captureSide c k.dspace k.ddesc k.wbase k.wlen with
  | some x, some y =>
    let members := if k.dspace = 5 then (s.set k.mset).members else []
    let windows := fun (sp : Nat) => if sp = 5 then members.map fun m => (s.ctx m).id.spSize else [c.id.spSize]
    let sems := if k.dspace = 5 then members.map fun m => (s.ctx m).id.semCount else [c.id.semCount]
    let bytes := (y.dataBytes + y.planeBytes) * (if k.dspace = 5 then members.length else 1)
    if !typesOk k.wire k.redop x.type y.type then .error (cardFault 0x13 .tdinvalid 0)
    else if x.count != y.count || ((k.wire == 1 || k.wire == 2) && x.row % 32 != 0) then
      .error (cardFault 0x14 .tdinvalid 0)
    else if !x.footOk (windows k.sspace) then .error (cardFault 0x15 .illaddr 32)
    else if !y.footOk (windows k.dspace) then .error (cardFault 0x15 .illaddr 48)
    else if !coll && (k.sspace == 2 || k.dspace == 2) &&
        (k.peer == s.fabxy || (s.peerVf c.id.vf k.peer).isNone) then .error (cardFault 0x16 .perm 8)
    else if k.seal && (c.slot k.env).state != 1 then .error (cardFault 0x17 .perm 8)
    else if k.dspace == 5 && members.any (fun m => (s.ctx m).id.vf != c.id.vf) then .error (cardFault 0x18 .perm 8)
    else if coll && (lookupD [] k.mset (s.part (partOf c.id.vf)).lists).isEmpty then .error (cardFault 0x18 .perm 8)
    else if k.cinc != 0 && sems.any (fun m => m ≤ k.csem) then .error (cardFault 0x19 .semrange 16)
    else if !tileOk x y || !tileOk y x then .error (cardFault 0x1A .tileshape 0)
    else if 2 ^ 40 ≤ bytes || bb.any fun b => 2 ^ 48 ≤ (lookupD 0 b c.bb).toNat + owed + bytes then
      .error (cardFault 0x1B .perm 0)
    else .ok { card := k, src := x, dst := y, members := members, bytes := bytes }
  | _, _ => .error (cardFault 0x12 .tdinvalid 0)

/-! ## Footprints and edges (R220, R221, Table 7.8) -/

/-- A footprint: its space, its place within the space, start and end. -/
structure Foot where
  space : Nat
  place : Nat
  lo    : Nat
  hi    : Nat
  deriving DecidableEq, Repr

/-- The footprint of a side; spaces 1 and 5 overlap by window-relative address. -/
def Side.foot (x : Side) (k : Card) : Foot :=
  match x.space with
  | 2 => ⟨2, k.peer, x.base, x.base + x.len⟩
  | 3 => ⟨3, k.hostwin, x.base, x.base + x.len⟩
  | 4 => ⟨4, x.tile, 0, 8192⟩
  | 5 => ⟨1, 0, x.base, x.base + x.len⟩
  | sp => ⟨sp, 0, x.base, x.base + x.len⟩

def Foot.meets (a b : Foot) : Bool := a.space == b.space && a.place == b.place && a.lo < b.hi && b.lo < a.hi

/-- What a job reads and what it writes. -/
def Job.reads (j : Job) : List Foot :=
  j.src.foot ⟨j.card⟩ :: if (Card.mk j.card).redop = 0 then [] else [j.dst.foot ⟨j.card⟩]
def Job.writes (j : Job) : List Foot := [j.dst.foot ⟨j.card⟩]

def anyMeet (a b : List Foot) : Bool := a.any fun x => b.any fun y => x.meets y

/-- The edge from an earlier job, if any. -/
def edgeFrom (j k : Job) : Option Edge :=
  if anyMeet j.writes k.reads || anyMeet j.writes k.writes then some ⟨j.id, false⟩
  else if anyMeet j.reads k.writes then some ⟨j.id, true⟩
  else none

/-! ## Posting (R210, R223, R235, R236) -/

/-- Scoreboard ranges of a job: its sides in space 1, rounded outward to 64 bytes (R192). -/
def Job.ranges (j : Job) : List BoardEntry :=
  let one : Side → Bool → List BoardEntry := fun x fill =>
    if x.space = 1 then
      [{ ctx := j.ctx, start := x.base / 64 * 64, stop := (x.base + x.len + 63) / 64 * 64, fill := fill, job := j.id }]
    else []
  one j.src false ++ one j.dst true

/-- A signal owed until later work completes: its port entry. -/
def State.oweSignal (s : State) (n : Nat) (r : PortReq) : State × Option Nat :=
  match r.hdr with
  | none => (s, none)
  | some h =>
    if h.sinc == 0 then (s, none)
    else
      let id := (s.ctx n).port.nextId
      let e := { blankReq (.signal h.ssem.toNat h.sinc.toNat) with
        id := id, seq := r.seq, slot := r.slot, level := r.level, stage := .incomplete }
      (s.onCtx n fun c => { c with port := { c.port with queue := c.port.queue ++ [e], nextId := id + 1 } }, some id)

/-- Is an entry's op a `cpc`? -/
def PortReq.isCpc (r : PortReq) : Bool :=
  match r.work with
  | .op (.cpc _ _) => true
  | _ => false

/-- A job enqueued with its edges, its counter, its scoreboard entries and, when sealed, its SENT count. -/
def State.postJob (s : State) (n : Nat) (r : PortReq) (addr : Nat) (p : Plan) (bb sig : Option Nat) (group : Nat)
    (step : Option Step) : State :=
  let c := s.ctx n
  let k := p.card
  let j : Job :=
    { id := s.nextId, ctx := n, vf := c.id.vf, addr := addr, card := k.bytes, src := p.src, dst := p.dst,
      seq := 8 * r.seq + r.slot, level := r.level, members := p.members, bytes := p.bytes, bb := bb, sig := sig,
      group := group, grouped := r.isCpc, eid := if k.seal then (c.slot k.env).eid else 0, step := step }
  let j := { j with edges := (s.jobs.filter fun i => i.ctx == n).filterMap fun i => edgeFrom i j }
  let s := { s with jobs := s.jobs ++ [j], nextId := s.nextId + 1 }
  let s := s.onCtx n fun c =>
    match bb with
    | some b => { c with bb := sparseSet 0 b (lookupD 0 b c.bb + BitVec.ofNat 48 p.bytes) c.bb }
    | none => c
  let s := if k.seal then s.setSlot n k.env ((c.slot k.env).addSent k.peer p.bytes) else s
  s.onCore (coreOf n) fun k => { k with board := k.board ++ j.ranges }

/-- The coordinator record that the first sealed write takes (R405). -/
def State.sealRecord (s : State) (n : Nat) (k : Card) : State :=
  if k.seal then
    let e := (s.ctx n).slot k.env
    (s.takeCoord (s.ctx n).id.vf e).getD (s.decideEnvelope e.eid 9)
  else s

/-- A card at a window address, as a scratchpad load due at the bundle reads it (R235). -/
def State.readCard (s : State) (n a : Nat) : Card :=
  let under := (s.ctx n).level.under
  ⟨(List.range 128).map fun i => (lookup? (a + i) under).getD (s.spByte n (a + i))⟩

/-- The address checks of a card, or of the cards of a `cpc` together, before any card is read (R189, R235, R236).
(DESIGN CHOICE: log 152) -/
def cardAddrFault (size a len : Nat) : Option Trapped :=
  if size < a + len then some ⟨.illaddr, BitVec.ofNat 64 a⟩
  else if a % 128 ≠ 0 then some ⟨.misalign, BitVec.ofNat 64 a⟩
  else none

/-- The plans of `k` cards from an address on, with what each adds to the counter; the index of a failing card stands in
TRAPINFO[23:16]. -/
def State.checkCards (s : State) (n a : Nat) (bb : Option Nat) : Nat → Nat → Nat → Except Trapped (List Plan)
  | 0, _, _ => .ok []
  | k + 1, i, owed =>
    match s.checkCard n (s.readCard n (a + 128 * i)) bb false owed with
    | .error t => .error { t with info := t.info + BitVec.ofNat 64 (65536 * i) }
    | .ok p =>
      match s.checkCards n a bb k (i + 1) (owed + p.bytes) with
      | .error t => .error t
      | .ok ps => .ok (p :: ps)

/-- `k` cards posted (R235, R236). Sealed jobs on an envelope that their posting has voided complete once all are posted. -/
def State.postCards (s : State) (n : Nat) (r : PortReq) (bb : Option Nat) (k : Nat) : Except Trapped State :=
  let a := r.addr.toNat
  match cardAddrFault (s.ctx n).id.spSize a (128 * k) with
  | some t => .error t
  | none =>
    match s.checkCards n a bb k 0 0 with
    | .error t => .error t
    | .ok ps =>
      let s := ps.foldl (fun s p => s.sealRecord n p.card) s
      let (s, sig) := s.oweSignal n r
      let group := s.nextId
      let s := ((List.range ps.length).zip ps).foldl
        (fun (s : State) (p : Nat × Plan) => s.postJob n r (a + 128 * p.1) p.2 bb sig group none) s
      .ok (ps.foldl (fun s p =>
        let e := (s.ctx n).slot p.card.env
        if p.card.seal && e.state == 4 then s.dropSealed e.eid else s) s)

/-- `cpj` and `cpc` (R235, R236). -/
def acceptCards : Accept := fun s n r =>
  match r.work with
  | .op (.cpj _ f) => s.postCards n r f.bb 1
  | .op (.cpc _ f) => s.postCards n r f.bb (f.imm.extractLsb' 0 7).toNat
  | _ => .ok s

/-- What a JOB op captures: s(A). -/
def jobReq (i : Instr) (f : JobF) (c : Ctx) : PortReq := { blankReq (.op i) with addr := c.s f.a.toNat }

/-- `cpj` (R235). -/
def execCpj (h : Hdr) (f : JobF) (s : State) : Host.Outcome State Fault Refusal :=
  portOp h (jobReq (.cpj h f) f) [] acceptCards s
/-- `cpc` (R236). -/
def execCpc (h : Hdr) (f : JobF) (s : State) : Host.Outcome State Fault Refusal :=
  portOp h (jobReq (.cpc h f) f) [] acceptCards s

/-- `coll`: a collective step on the step block at s(A) (R239). -/
def acceptColl : Accept := fun s n r =>
  match r.work with
  | .op (.coll _ f) =>
    let a := r.addr.toNat
    let entry := (f.imm.extractLsb' 0 11).toNat
    match cardAddrFault (s.ctx n).id.spSize a 128 with
    | some t => .error t
    | none =>
      if (s.part (partOf (s.ctx n).id.vf)).coll.2 ≤ entry then .error (cardFault 0x10 .perm 0)
      else
        let k := s.readCard n a
        match s.checkCard n k f.bb true 0 with
        | .error t => .error t
        | .ok p =>
          let (s, sig) := s.oweSignal n r
          let step : Step := { entry := entry, bound := (f.imm.extractLsb' 11 12).toNat, list := k.mset, micro := { mpc := entry } }
          .ok (s.postJob n r a p f.bb sig s.nextId (some step))
  | _ => .ok s

/-- `coll` (R239). -/
def execColl (h : Hdr) (f : JobF) (s : State) : Host.Outcome State Fault Refusal :=
  portOp h (jobReq (.coll h f) f) [] acceptColl s

/-- A count of `cpq` (R237): queued jobs, started jobs, or free queue entries of the posting context. -/
def State.jobCount (s : State) (n kind : Nat) : Nat :=
  let js := s.jobs.filter fun j => j.ctx == n
  match kind with
  | 0 => (js.filter fun j => !j.started).length
  | 1 => (js.filter fun j => j.started).length
  | _ => 64 - js.length

/-- `cpq` (R237): a count sampled at issue, with the jobs that earlier ops of its bundle post. (DEDUCED: log 151) -/
def execCpq (h : Hdr) (f : Tri) (s : State) : Host.Outcome State Fault Refusal :=
  portOp h (triReq (.cpq h f) f) [(0, f.d.toNat)] (fun s n r =>
    .ok (s.landNow n r f.d.toNat (BitVec.ofNat 64 (s.jobCount n (f.imm.extractLsb' 0 2).toNat)))) s

/-- `bbrd` (R238): the counter as the bundle found it (R77). -/
def execBbrd (h : Hdr) (f : Tri) (s : State) : Host.Outcome State Fault Refusal :=
  portOp h (triReq (.bbrd h f) f) [(0, f.d.toNat)] (fun s n r =>
    .ok (s.landNow n r f.d.toNat ((lookupD 0 f.a.toNat s.iss.bb).zeroExtend 64))) s

/-- `bbw` (R238): it waits on its counter, from the first instant after its bundle has issued on. -/
def acceptBbw : Accept := fun s n r => .ok (s.waitNow n r)

/-- `bbw` (R238). -/
def execBbw (h : Hdr) (f : Tri) (s : State) : Host.Outcome State Fault Refusal :=
  portOp h (triReq (.bbw h f) f) [(0, f.d.toNat)] acceptBbw s

end Sys2Proof.Machine
end

