-- ==== Sys2Proof/Machine/Roce.lean ====
section
/-!
DEFINITION. RoCEv2 frames of the device (R369, R370): the key that protects them, the path MTU of a queue pair, and its obedience
to congestion notifications.
-/
namespace Sys2Proof.Machine
open Sys2Proof

/-- The secure association of a VF: a key slot that it owns for MACsec, with the epoch of its current key (R369, R375). -/
def State.macsec (s : State) (vf : Nat) : Option (Nat × Bool) :=
  (s.keys.find? fun k => k.2.owner == some vf && !k.2.tss && k.2.state != 0).map fun k => (k.1, k.2.epoch)

/-- RoCEv2 frames sent under the VF's key; without one none leaves the device (R369). -/
def State.sendRoce (s : State) (vf : Nat) (xs : List RoceOut) : State :=
  match s.macsec vf with
  | some sa => { s with outbox := s.outbox ++ xs.map (.roce vf sa) }
  | none => s

/-- A queue pair of a VF. -/
def State.queuePair (s : State) (vf qp : Nat) : QueuePair := lookupD {} qp (s.vf vf).qps

/-- A mark of congestion on a queue pair set or cleared. -/
def State.setSlow (s : State) (vf qp : Nat) (slow : Bool) : State :=
  s.onVf vf fun v => { v with qps := assocSet qp { s.queuePair vf qp with slow := slow } v.qps }

/-- A list cut into pieces of at most `k`. -/
def chunks (k : Nat) (l : List α) : List (List α) :=
  (List.range ((l.length + k - 1) / k)).map fun i => (l.drop (k * i)).take k

/-- The frames of an acknowledgement or a READ response, each within the path MTU (R370). -/
def State.response (s : State) (vf qp : Nat) (data : List Byte) : List RoceOut :=
  if data.length ≤ (s.queuePair vf qp).mtu then [.rdma data] else (chunks (s.queuePair vf qp).mtu data).map .rdma

end Sys2Proof.Machine
end

