-- ==== Sys2Proof/Machine/Copy.lean ====
section
/-!
DEFINITION. The copy engines at work (R211, R217 to R219, R221, R222, R224 to R232): the beats of a job, which of them may
start, reading, converting and landing them, and the faults a job meets.
-/
namespace Sys2Proof.Machine
open Sys2Proof

/-! ## Beats (R230) -/

def Job.k (j : Job) : Card := ⟨j.card⟩

/-- Elements that stay together: blocks of 32 under WIRE 1 and 2. -/
def Job.unit (j : Job) : Nat := if j.k.wire = 1 ∨ j.k.wire = 2 then 32 else 1

/-- Does element n follow element n − 1 without a gap on both sides? -/
def Job.follows (j : Job) (n : Nat) : Bool :=
  j.src.bit n == j.src.bit (n - 1) + j.src.width && j.dst.bit n == j.dst.bit (n - 1) + j.dst.width

/-- The 4 KiB page of the destination that holds the first and the last byte of an element. -/
def Job.pageLo (j : Job) (n : Nat) : Nat := j.dst.bit n / 32768
def Job.pageHi (j : Job) (n : Nat) : Nat := (j.dst.bit n + j.dst.width - 1) / 32768

/-- Beats as first element and number of elements, cut greedily from unit `i` on; `cur` is the beat being formed and
whether it may grow. A block of WIRE 1 or 2 that straddles a 4 KiB boundary is kept whole (R230). (DESIGN CHOICE: log 173) -/
def Job.cut (j : Job) : Nat → Nat → Option (Nat × Nat × Bool) → List (Nat × Nat)
  | 0, _, cur => (cur.map fun c => (c.1, c.2.1)).toList
  | k + 1, i, cur =>
    let u := j.unit
    let n := i * u
    let solid := (List.range (u - 1)).all (fun x => j.follows (n + x + 1)) && j.pageLo n == j.pageHi (n + u - 1)
    match cur with
    | some (start, len, true) =>
      if solid && j.follows n && j.pageLo start == j.pageHi (n + u - 1) then j.cut k (i + 1) (some (start, len + u, true))
      else (start, len) :: j.cut k (i + 1) (some (n, u, solid))
    | some (start, len, false) => (start, len) :: j.cut k (i + 1) (some (n, u, solid))
    | none => j.cut k (i + 1) (some (n, u, solid))

/-- The beats of a job, in nest order. (DEDUCED: log 43) -/
def Job.beatList (j : Job) : List (Nat × Nat) := if j.step.isSome then [] else j.cut (j.src.count / j.unit) 0 none

/-- Adjacent repeats dropped. -/
def dedupAdj : List Nat → List Nat
  | a :: b :: t => if a = b then dedupAdj (b :: t) else a :: dedupAdj (b :: t)
  | l => l

/-- The bytes that element n of a side lies in. -/
def Side.bytesOf (x : Side) (n : Nat) : List Nat :=
  let b := x.bit n
  if x.width = 4 then [b / 8] else (List.range (x.width / 8)).map fun i => b / 8 + i

/-- Elements of a beat. -/
def elemsOf (b : Nat × Nat) : List Nat := (List.range b.2).map fun i => b.1 + i

/-- Blocks whose delta goes with a beat: those whose last element it holds. -/
def Side.blocksOf (x : Side) (b : Nat × Nat) : List Nat :=
  let first := b.1 / 32
  ((List.range ((b.1 + b.2 - 1) / 32 + 1 - first)).map fun i => first + i).filter fun k =>
    let last := min (32 * k + 31) (x.count - 1)
    b.1 ≤ last && last < b.1 + b.2

/-- The source bytes that a beat reads: data, then deltas. -/
def Job.sourceBytes (j : Job) (b : Nat × Nat) : List Nat :=
  dedupAdj ((elemsOf b).flatMap j.src.bytesOf) ++
    (if j.src.scale = 0 then [] else dedupAdj ((j.src.blocksOf b).map fun k => j.src.scale + k / 2))

/-- The bytes that JOBBYTES owes to a beat in one window: those whose last element or delta it brings (R224). -/
def Job.owed (j : Job) (b : Nat × Nat) (doneBeats : List (Nat × Nat)) : Nat :=
  let inside := fun (n : Nat) => b.1 ≤ n && n < b.1 + b.2 || doneBeats.any fun d => d.1 ≤ n && n < d.1 + d.2
  let c := j.dst.row
  let data :=
    if j.dst.width ≠ 4 then b.2 * (j.dst.width / 8)
    else ((elemsOf b).filter fun n =>
      let i := n % c
      -- a byte counts with its later element, or with its earlier one when that comes last
      let mate := if i % 2 = 0 then (if i + 1 < c then some (n + 1) else none) else some (n - 1)
      match mate with
      | none => true
      | some m => inside m && (!(b.1 ≤ m && m < b.1 + b.2) || m < n)).length
  let blocks := if j.dst.scale = 0 then [] else j.dst.blocksOf b
  let last := (j.dst.count - 1) / 32
  let came := fun (k : Nat) => blocks.contains k || doneBeats.any fun d => (j.dst.blocksOf d).contains k
  let plane := (blocks.filter fun k =>
    let mate := if k % 2 = 0 then (if k + 1 ≤ last then some (k + 1) else none) else some (k - 1)
    match mate with
    | none => true
    | some m => came m && (!blocks.contains m || m < k)).length
  data + plane

/-! ## Conversion (R217 to R219) -/

/-- The value of element n of the source from its bytes. -/
def Job.value (j : Job) (bytes : Assoc Byte) (n : Nat) : Nat :=
  let b := j.src.bit n
  if j.src.width = 4 then (lookupD 0 (b / 8) bytes).toNat / 2 ^ (b % 8) % 16
  else natOfBytes ((j.src.bytesOf n).map fun a => lookupD 0 a bytes)

/-- The delta of a block of the source. -/
def Job.delta (j : Job) (bytes : Assoc Byte) (k : Nat) : Nat :=
  (lookupD 0 (j.src.scale + k / 2) bytes).toNat / 16 ^ (k % 2) % 16

/-- Damage: sat, zero, sac. -/
abbrev Damage := Nat × Nat × Nat
def Damage.add (a b : Damage) : Damage := (a.1 + b.1, a.2.1 + b.2.1, a.2.2 + b.2.2)

/-- A value scaled by a power of two. -/
def Exact.scale (k : Int) : Exact → Exact
  | .num n m e x => .num n m (e + k) x
  | x => x

/-- Is an exact value a number other than zero? -/
def Exact.nonzero : Exact → Bool
  | .num _ m _ _ => m != 0
  | .inf _ => true
  | .nan _ => false

/-- The wire value of one element under WIRE 3: its `e4m3` pattern and the damage (R217, R218). -/
def Job.wireE4m3 (j : Job) (x : Exact) : Nat × Damage :=
  let (v, fl) := roundF Ty.e4m3 0 j.k.wsat (x.scale (-j.k.wexp))
  let isInf := match x with
    | .inf _ => true
    | _ => false
  let hit := fl &&& (Fp.of ||| Fp.clamp) != 0 || isInf
  let gone := x.nonzero && magnitude Ty.e4m3 v == 0
  (v, (if hit then 1 else 0, if gone then 1 else 0, 0))

/-- What a beat carries for its elements: a pattern of the source's type, or of `q4x` or `e4m3` on the wire, as an exact
value; with the deltas of its blocks and the damage. -/
structure Carried where
  /-- Element, pattern, exact value. -/
  elems  : List (Nat × Nat × Exact)
  deltas : List (Nat × Nat)
  damage : Damage

/-- The quantised blocks of a beat (R174, R217). -/
def Job.carryQ4 (j : Job) (b : Nat × Nat) (bytes : Assoc Byte) : Carried :=
  let e := j.k.wexp
  let blocks := (List.range (b.2 / 32)).map fun i =>
    let n := b.1 + 32 * i
    let xs := (List.range 32).map fun k => decodeFloat j.src.type (j.value bytes (n + k))
    (n, q4Quantise xs e (j.k.wire == 2))
  { elems := blocks.flatMap fun (n, q) => (List.range 32).map fun i =>
      (n + i, q.codes.getD i 0, (q4Decode q.codes i (e - (q.delta : Int))).1)
    deltas := blocks.map fun (n, q) => (n / 32, q.delta)
    damage := blocks.foldl (fun (d : Damage) x => d.add (x.2.sat, x.2.zero, x.2.sac)) (0, 0, 0) }

/-- What a beat carries (Table 7.7). -/
def Job.carry (j : Job) (b : Nat × Nat) (bytes : Assoc Byte) : Carried :=
  let t := j.src.type
  let w := j.k.wire
  if w = 1 ∨ w = 2 then j.carryQ4 b bytes
  else
    let raw := (elemsOf b).map fun n =>
      let v := j.value bytes n
      (n, v, if Ty.isFloat t then decodeFloat t v else exactInt (typedOperand t v))
    let deltas := if j.src.scale = 0 then [] else (j.src.blocksOf b).map fun k => (k, j.delta bytes k)
    if w = 3 then
      let xs := raw.map fun (n, _, x) => (n, j.wireE4m3 x)
      { elems := xs.map fun (n, v, _) => (n, v, (decodeFloat Ty.e4m3 v).scale j.k.wexp)
        deltas := deltas
        damage := xs.foldl (fun (d : Damage) x => d.add x.2.2) (0, 0, 0) }
    else { elems := raw, deltas := deltas, damage := (0, 0, 0) }

/-- The pattern written for an element of a copy (Table 7.7). -/
def Job.copyPattern (j : Job) (pat : Nat) (x : Exact) : Nat :=
  let t := j.dst.type
  let w := j.k.wire
  if (w = 0 ∧ j.src.type = t) ∨ ((w = 1 ∨ w = 2) ∧ t = Ty.q4x) ∨ (w = 3 ∧ t = Ty.e4m3) then pat
  else (roundF t 0 j.k.wsat x).1

/-- Contrib(v) of R219 and its damage. -/
def contrib (lsb : Int) : Exact → Int × Damage
  | .nan _ => (0, (0, 1, 0))
  | .inf neg => (if neg then -(2 ^ 63) else 2 ^ 63 - 1, (1, 0, 0))
  | .num neg m e sticky =>
    let k : Int := ((roundShift 0 neg m (lsb - e) sticky).1 : Nat)
    let k := if neg then -k else k
    if k < -(2 ^ 63) then (-(2 ^ 63), (1, 0, 0)) else if 2 ^ 63 - 1 < k then (2 ^ 63 - 1, (1, 0, 0)) else (k, (0, 0, 0))

/-- The operand of a reduction in the destination's type, and its damage. -/
def Job.term (j : Job) (pat : Nat) (x : Exact) : Nat × Damage :=
  match j.k.redop with
  | 2 =>
    let (c, d) := contrib j.k.lsb x
    (pattern Ty.s64 c, d)
  | 5 | 6 => (pat, (0, 0, 0))
  | _ => ((roundF Ty.f32 0 false x).1, (0, 0, 0))

/-- A destination element combined with an operand (R219); `x` is the operand's exact value where it is a float. -/
def combine (redop : Nat) (x : Exact) (old v : Nat) : Nat :=
  match redop with
  | 1 => (roundF Ty.f32 0 false (exactSum 0 [decodeFloat Ty.f32 old, x])).1
  | 3 => (floatMinMax Ty.f32 false old v).1
  | 4 => (floatMinMax Ty.f32 true old v).1
  | 5 => (old + v) % 2 ^ 32
  | _ => (old + v) % 2 ^ 64

/-- The bytes of a destination element with the bits it writes. -/
def Side.elemWrites (x : Side) (n v : Nat) : List (Nat × Byte × Byte) :=
  let b := x.bit n
  if x.width = 4 then
    let sh := b % 8
    [(b / 8, BitVec.ofNat 8 (15 * 2 ^ sh), BitVec.ofNat 8 (v % 16 * 2 ^ sh))]
  else wholeWrites (b / 8) (natBytes (x.width / 8) v)

/-- A delta written into the destination's plane. -/
def Side.deltaWrite (x : Side) (k d : Nat) : Nat × Byte × Byte :=
  let sh := 4 * (k % 2)
  (x.scale + k / 2, BitVec.ofNat 8 (15 * 2 ^ sh), BitVec.ofNat 8 (d % 16 * 2 ^ sh))

/-- Elements in the order in which they are written: those named in `order` last, as it names them (R215). -/
def inOrder (order : List Nat) (xs : List (Nat × Nat × Exact)) : List (Nat × Nat × Exact) :=
  xs.filter (fun x => !order.contains x.1) ++ order.flatMap fun n => xs.filter fun x => x.1 == n

/-- Deltas for the destination's plane; where the source has none, free values (Table 7.7 gives none). -/
def Job.planeWrites (j : Job) (b : Nat × Nat) (deltas : List (Nat × Nat)) (free : Nat) : List (Nat × Byte × Byte) :=
  if j.dst.scale = 0 then []
  else (j.dst.blocksOf b).map fun k =>
    j.dst.deltaWrite k ((lookup? k deltas).getD ((Config.freeValue (free + k)).toNat % 16))

/-- The bytes a copy beat writes, in the destination's space. (DESIGN CHOICE: log 40, DESIGN CHOICE: log 42) -/
def Job.copyWrites (j : Job) (b : Nat × Nat) (c : Carried) (order : List Nat) (free : Nat) : List (Nat × Byte × Byte) :=
  ((inOrder order c.elems).flatMap fun (n, p, x) => j.dst.elemWrites n (j.copyPattern p x)) ++
    j.planeWrites b c.deltas free

/-! ## Which beat may start (R194, R211, R221, R222, R228, R231) -/

/-- The lowest beat that is neither done nor in flight. -/
def Job.nextBeat (j : Job) : Option Nat :=
  (List.range j.beatList.length).find? fun i => !j.done.contains i && !j.beats.any fun b => b.num == i

/-- The lowest beat that is not done. -/
def Job.lowest (j : Job) : Nat := ((List.range j.beatList.length).find? fun i => !j.done.contains i).getD j.beatList.length

/-- Has a job every source byte it is to read? -/
def Job.readsDone (j : Job) : Bool :=
  j.nextBeat.isNone && j.step.isNone &&
    j.beats.all fun b => (j.beatList[b.num]?).all fun x => (j.sourceBytes x).all fun a => (lookup? a b.bytes).isSome

/-- Is an edge satisfied (Table 7.8)? An edge on a job that is gone is. -/
def State.edgeOk (s : State) (e : Edge) : Bool :=
  match s.job? e.job with
  | none => true
  | some j => e.reads && j.readsDone

/-- The tiles of a job's sides. -/
def Job.tiles (j : Job) : List Nat :=
  (if j.src.space = 4 then [j.src.tile] else []) ++ if j.dst.space = 4 then [j.dst.tile] else []

/-- Is a pending effect a `vtwr` on a tile? -/
def Effect.onTile (t : Nat) : Effect → Bool
  | .tileBytes k _ => k == t
  | _ => false

/-- Is a pending effect a scratchpad access? -/
def Effect.isScratch : Effect → Bool
  | .store _ _ _ _ | .loadScalar _ _ _ | .loadLanes _ _ _ _ _ => true
  | _ => false

/-- Does earlier work of the context keep a job's tile busy (R228)? -/
def State.tileHeld (s : State) (j : Job) : Bool :=
  let c := s.ctx j.ctx
  j.tiles.any fun t =>
    c.mat.queue.any (fun q => (opTiles q.op).contains t) ||
    (c.lv0.deferred ++ c.lv1.deferred).any (fun d => d.eff.onTile t) ||
    s.jobs.any (fun k => k.ctx == j.ctx && k.id < j.id && k.tiles.contains t) ||
    c.routines.any fun r => r.started && r.bind.tmask.getLsbD t

/-- Has everything that precedes the post in program order taken effect: its far accesses, which R43 orders at each level,
and every scratchpad access that the context has issued at either level (R194, R222), a tile op on its ranges that stands in the
array's queue included (R294)? (DEDUCED: log 46) -/
def State.priorDone (s : State) (j : Job) : Bool :=
  let c := s.ctx j.ctx
  !((c.trap.list ++ c.port.queue).any fun e => e.open? && e.level == j.level && 8 * e.seq + e.slot < j.seq) &&
    !(c.allDeferred.any fun d => d.eff.isScratch && d.seq ≤ j.seq / 8) &&
    !(c.mat.queue.any fun q => (q.seq ≤ j.seq / 8 && !q.addrs.isEmpty) ||
      j.ranges.any fun e => (q.addrs ++ q.reads).any fun a => e.start ≤ a && a < e.stop) && s.canFlush j.ctx

/-- The jobs that envelopes already POSTED need: the sealed ones, and those that they have edges on. -/
def State.postedJobs (s : State) : List Nat :=
  s.jobs.foldr (fun j l =>
    if (j.eid != 0 && (s.coord j.eid).any (·.posted)) || s.jobs.any (fun k => l.contains k.id && k.edges.any fun e => e.job == j.id) then
      j.id :: l
    else l) []

/-- Is the context able to have beats started? -/
def State.startsFor (s : State) (n : Nat) : Bool :=
  let c := s.ctx n
  c.life.state != .saved && c.life.stop.isNone && !c.life.stopping

/-- Pages of virtual addresses. -/
def pagesOf (as : List Nat) : List Nat := dedupAdj (as.map fun a => a / 2 ^ 16)

/-- Where a job's translations are kept: its copy engine's, or the fabric endpoint's for a collective step (R364, R454). -/
def Job.path (j : Job) : Path := if j.step.isSome then ioPath j.vf else enginePath (coreOf j.ctx / 4)

/-- The first page of a list without a translation for a copy engine, as an address. -/
def State.engineMissing (s : State) (j : Job) (as : List Nat) : Option Nat :=
  ((pagesOf as).find? fun p => (s.tlbHit j.path j.vf (p * 2 ^ 16)).isNone).map fun p => p * 2 ^ 16

/-- The first violation among addresses, whose translations are present. -/
def State.engineViolation (s : State) (j : Job) (need : Need) (as : List Nat) : Option (Nat × Nat) :=
  as.findSome? fun a =>
    match s.xlate j.path j.vf a need with
    | .violation r => some (r, a)
    | _ => none

/-- May a job start beats for its context? A pre-emption does not change the progress of an envelope that is POSTED: what it needs goes
on until the save (R428). (DEDUCED: log 144) -/
def State.maySend (s : State) (j : Job) : Bool :=
  s.startsFor j.ctx || ((s.ctx j.ctx).life.state != .saved && s.postedJobs.contains j.id)

/-- Could a beat of a job start, but for its translations and the limits of R211? -/
def State.couldStart (s : State) (j : Job) (b : Nat) : Bool :=
  !j.frozen && (s.vf j.vf).state != .resetting && s.maySend j && b < j.lowest + 64 && j.edges.all s.edgeOk && s.priorDone j && !s.tileHeld j

/-- The host window entry of a job (R373): none where the entry is invalid, or where the side's extent or its scale plane
(R216) passes its length. -/
def State.hostEntry (s : State) (j : Job) : Option HostEntry :=
  let x := if j.src.space = 3 then j.src else j.dst
  (lookup? j.k.hostwin (s.vf j.vf).hostWins).bind fun e =>
    if x.extent.2 ≤ (e.len : Int) && 0 ≤ x.extent.1 && (x.scale = 0 || x.scale + x.planeBytes ≤ e.len) then some e else none

/-- Runs of consecutive addresses. -/
def runsOf : List Nat → List (Nat × Nat)
  | [] => []
  | a :: t =>
    match runsOf t with
    | (b, n) :: rest => if a + 1 = b then (a, n + 1) :: rest else (a, 1) :: (b, n) :: rest
    | [] => [(a, 1)]

/-- RDMA READs of a VF on a queue pair that the host has not answered yet (Table 13.2). -/
def State.hostReads (s : State) (vf qp : Nat) : Nat :=
  sumOf (fun j => if j.vf = vf && j.src.space = 3 && (s.hostEntry j).any (fun e => e.qp = qp) then
      sumOf (fun (x : Beat) => if x.asked.isSome && !x.acked then
        ((j.beatList[x.num]?).map fun b => (runsOf (j.sourceBytes b)).length).getD 0 else 0) j.beats
    else 0) s.jobs

/-- Requests of a VF on a queue pair that the host has not answered yet. -/
def State.hostOwing (s : State) (vf qp : Nat) : Nat :=
  s.hostReads vf qp + sumOf (fun j =>
    if j.vf = vf && j.dst.space = 3 && (s.hostEntry j).any (fun e => e.qp = qp) then
      (j.beats.filter fun x => x.asked.isSome && !x.acked).length
    else 0) s.jobs

/-- Must a request to the host wait: its VF has no key (R369), or its queue pair, slowed by a congestion notification, has one
outstanding (R370)? (DESIGN CHOICE: log 143) -/
def State.hostHeld (s : State) (vf qp : Nat) : Bool :=
  (s.macsec vf).isNone || ((s.queuePair vf qp).slow && s.hostOwing vf qp != 0)

/-- Must the request of a beat to the host wait? -/
def State.sendWaits (s : State) (j : Job) : Bool := j.dst.space = 3 && (s.hostEntry j).any fun e => s.hostHeld j.vf e.qp

/-- Have the RDMA READs of a beat no place: at most 64 are outstanding on a queue pair, and a beat that needs more waits until none
is (Table 13.2)? (DESIGN CHOICE: log 130) -/
def State.readsFull (s : State) (j : Job) (b : Nat × Nat) : Bool :=
  (s.hostEntry j).any fun e =>
    let owing := s.hostReads j.vf e.qp
    s.hostHeld j.vf e.qp || (owing != 0 && 64 < owing + (runsOf (j.sourceBytes b)).length)

/-- Is a beat parked on a page fault (R458)? -/
def State.beatParked (s : State) (j : Job) (b : Beat) : Bool :=
  s.walks.any fun w => w.stage != .walking && w.waiters.contains (.beat j.id b.num)

/-- Beats in flight of an engine, and of a context (R211). A parked beat delays its job alone until it comes back (R458), and what
is left of a frozen job no other (R463). -/
def State.inFlight (s : State) (engine : Nat) (ctx : Option Nat) : Nat :=
  (s.jobs.filter fun j => coreOf j.ctx / 4 == engine && !j.frozen && ctx.all fun n => n == j.ctx).foldl
    (fun k j => k + (j.beats.filter fun b => !(b.parked || s.beatParked j b)).length) 0

/-- The members of a list after the one served last, then the others. -/
def rotate (last : Option Nat) (l : List Nat) : List Nat :=
  match last with
  | none => l
  | some x => l.filter (fun y => x < y) ++ l.filter fun y => y ≤ x

/-- EMBCOPY (R229). -/
def embCopy (va : Nat) : Trapped := ⟨.perm, BitVec.ofNat 64 (va / 2 ^ 12 * 2 ^ 12 + 0x34)⟩

/-! ## Reading a beat (R225 to R229) -/

def State.onBeat (s : State) (job beat : Nat) (f : Beat → Beat) : State :=
  s.onJob job fun j => { j with beats := j.beats.map fun b => if b.num == beat then f b else b }

/-- Bytes put under their addresses. -/
def putBytes (as : List Nat) (bs : List Byte) (l : Assoc Byte) : Assoc Byte :=
  (as.zip bs).foldl (fun l (p : Nat × Byte) => assocSet p.1 p.2 l) l

/-- Source bytes read in local memory at the home agents: the state, or the job's fault with the state it leaves (a cell that
found no evaluator is FAULTED, R308); nothing where a load would be
refused or a hold stands. -/
def State.readLocal (s : State) (j : Job) (beat : Nat) (as : List Nat) : Option (Except (Trapped × State) State) :=
  let path := j.path
  as.foldl (fun (acc : Option (Except (Trapped × State) State)) a =>
    match acc with
    | some (.ok s) =>
      match s.xlate path j.vf a .read with
      | .ok pa emb =>
        let have' := ((s.job? j.id).bind fun j => j.beats.find? fun b => b.num == beat).any fun b => (lookup? a b.bytes).isSome
        let waits := s.waiters.any fun w => w.loader == Loader.beat j.id beat && w.cell == cellOf pa
        if have' || waits then acc
        else if s.isHeld pa 1 then none
        else if s.bad.contains pa then some (.error (⟨.ecc, BitVec.ofNat 64 a⟩, s))
        else if !emb || (!j.k.kindle && s.tag (cellOf pa) ≠ 1 && s.tag (cellOf pa) ≠ 2) then
          some (.ok (s.onBeat j.id beat fun b => { b with bytes := assocSet a (s.byte pa) b.bytes }))
        else if !j.k.kindle then some (.error (embCopy a, s))
        else
          match s.loadCell (.beat j.id beat) [] none j.vf (cellOf pa) (cellOf a) with
          | .value bs => some (.ok (s.onBeat j.id beat fun b =>
              { b with bytes := putBytes ((List.range 16).map fun i => cellOf a + i) bs b.bytes }))
          | .waits s => some (.ok s)
          | .refused => none
          | .fails t s => some (.error (t, s))
      | _ => acc
    | _ => acc) (some (.ok s))

/-- Would the reads of a beat find no place now: an envelope's hold on a line (R419), a full ember table (R308), the RDMA READs
of its queue pair? -/
def State.readWaits (s : State) (j : Job) (beat : Nat) (b : Nat × Nat) : Bool :=
  match j.src.space with
  | 0 => (((s.flushCtx j.ctx).onJob j.id fun j => { j with beats := j.beats ++ [{ num := beat }] }).readLocal j beat (j.sourceBytes b)).isNone
  | 3 => s.readsFull j b
  | _ => false

/-- May the next beat of a job start, but for the limits of R211? -/
def State.mayStart (s : State) (j : Job) : Bool :=
  match j.nextBeat with
  | none => j.bytes == 0 && j.beats.isEmpty && j.step.isNone
  | some b =>
    s.couldStart j b &&
      (j.src.space != 0 || ((j.beatList[b]?).bind fun x => s.engineMissing j (j.sourceBytes x)).isNone) &&
      !(j.beatList[b]?).any (s.readWaits j b)

/-- Must a beat that the pager has answered for still wait outside the limits of R211? -/
def State.beatWaits (s : State) (j : Job) (b : Beat) : Bool :=
  b.parked && (s.beatParked j b || 16 ≤ s.inFlight (coreOf j.ctx / 4) none || 8 ≤ s.inFlight (coreOf j.ctx / 4) (some j.ctx))

/-- The job whose beat an engine starts next (R211). -/
def State.nextJob (s : State) (engine : Nat) : Option Job :=
  if 16 ≤ s.inFlight engine none then none
  else
    let able := s.jobs.filter fun j => coreOf j.ctx / 4 == engine && s.inFlight engine (some j.ctx) < 8 && s.mayStart j
    let rot := lookupD {} engine s.rots
    let vf := (rotate rot.vf ((List.range 192).filter fun v => able.any fun j => j.vf == v)).head?
    vf.bind fun v =>
      let ns := ((List.range 16).map fun i => 16 * engine + i).filter fun n => able.any fun j => j.ctx == n && j.vf == v
      (rotate (lookup? v rot.ctx) ns).head?.bind fun n => able.find? fun j => j.ctx == n

/-! ## Faults (R233, R461, R462) -/

/-- Is the request of a beat to another device or to the host still to be answered? -/
def Beat.owed (b : Beat) : Bool := b.asked.isSome && !b.acked

/-- A job frozen: it starts nothing more; of its beats those remain whose requests are on their way (R462). -/
def State.freezeJob (s : State) (j : Job) : State :=
  let kept := (j.beats.filter Beat.owed).map (·.num)
  let gone := fun (beat : Nat) => !kept.contains beat
  let s := s.onJob j.id fun j => { j with frozen := true, beats := j.beats.filter Beat.owed }
  { s with
    waiters := s.waiters.filter fun w => match w.loader with
      | .beat i b => !(i == j.id && gone b)
      | _ => true
    walks := s.walks.map fun w => { w with waiters := w.waiters.filter fun m => match m with
      | .beat i b => !(i == j.id && gone b)
      | _ => true } }

/-- A violation by a copy job. -/
def State.violateJob (s : State) (j : Job) (reason va : Nat) : State :=
  if s.freezes j.vf reason then
    (s.freezeJob j).postViolation 2 (coreOf j.ctx / 4) j.vf reason va j.addr
  else if reason = 1 then s.jobFault j ⟨.illaddr, BitVec.ofNat 64 va⟩
  else s.jobFault j ⟨.perm, BitVec.ofNat 64 (va / 2 ^ 12 * 2 ^ 12 + 0x1C)⟩

/-- REMOTE with a reason of Table 13.15 and the address that failed. -/
def remoteTrap (reason addr : Nat) : Trapped := ⟨.remote, BitVec.ofNat 64 (addr / 2 ^ 12 * 2 ^ 12 % 2 ^ 64 + reason)⟩

/-- The reuse hint of a side's descriptor, RES of Table 4.10. (DESIGN CHOICE: log 107) -/
def Side.hint (x : Side) : BitVec 2 := x.desc.elim 0 fun d => d.ctrl.extractLsb' 14 2

/-- The addresses of a beat's reads whose bytes it has got between two states. -/
def State.readBetween (s t : State) (j : Job) (beat : Nat) (as : List Nat) : List Nat :=
  let has := fun (s : State) (a : Nat) =>
    ((s.job? j.id).bind fun j => j.beats.find? fun b => b.num == beat).any fun b => (lookup? a b.bytes).isSome
  as.filter fun a => !has s a && has t a

/-- The accesses to the L2 of a beat's reads. -/
def State.visitRead (s t : State) (j : Job) (beat : Nat) (as : List Nat) : State :=
  t.visitAddrs j.path j.vf (s.readBetween t j beat as) j.src.hint


/-- DRAIN entries freed once the job has read everything (R192). -/
def State.freeDrain (s : State) (j : Nat) : State :=
  match s.job? j with
  | some job =>
    if job.readsDone then s.onCore (coreOf job.ctx) fun k => { k with board := k.board.filter fun e => e.fill || e.job != j }
    else s
  | none => s

/-- The source of a beat read, or its request sent; a fault comes with the state that the reads have left. -/
def State.readBeat (s : State) (j : Job) (beat : Nat) (b : Nat × Nat) : Option (Except (Trapped × State) State) :=
  let as := j.sourceBytes b
  let engine := coreOf j.ctx / 4
  let give := fun (s : State) (f : Nat → Byte) => some (.ok (s.onBeat j.id beat fun x => { x with bytes := putBytes as (as.map f) x.bytes }))
  match j.src.space with
  | 0 => (s.readLocal j beat as).map (Except.map fun t => s.visitRead t j beat as)
  | 1 =>
    match as.find? (s.spBad j.ctx) with
    | some a => some (.error (⟨.ecc, BitVec.ofNat 64 a⟩, s))
    | none => give s fun a => s.spByte j.ctx a
  | 4 =>
    match as.find? fun a => (s.ctx j.ctx).mat.bad.contains (8192 * j.src.tile + a) with
    | some a => some (.error (⟨.ecc, BitVec.ofNat 64 a⟩, s))
    | none => give s fun a => (s.ctx j.ctx).tileByte j.src.tile a
  | 2 =>
    match s.peerVf j.vf j.k.peer with
    | none => some (.error (remoteTrap 4 0, s))
    | some vf =>
      if !s.reachable j.k.peer then some (.error (remoteTrap 4 0, s))
      else
        let (s, q) := s.streamNext engine j.k.peer
        let s := s.onBeat j.id beat fun x => { x with asked := some q }
        some (.ok (s.send j.k.peer (.remote
          { streams := [⟨s.fabxy, engine, q, j.id, beat⟩], vf := vf, kind := 0, kindle := j.k.kindle, reads := runsOf as,
            writes := [], terms := [], redop := 0, window := none })))
  | _ =>
    match s.hostEntry j with
    | none => some (.error (remoteTrap 5 0, s))
    | some e =>
      if s.readsFull j b then none else
      let s := s.onBeat j.id beat fun x => { x with asked := some 0 }
      some (.ok (s.sendRoce j.vf ((runsOf as).map fun (p : Nat × Nat) => .read j.id beat e.qp (e.addr + p.1) e.rkey p.2)))

/-- BEAT_START: an engine starts the beat whose turn it is (R211). -/
def execBeatStart (job beat : Nat) (s : State) : Host.Outcome State Fault Refusal :=
  match s.job? job with
  | none => .next s
  | some j =>
    if ((s.nextJob (coreOf j.ctx / 4)).map (·.id)) ≠ some job then .next s
    else
      match j.nextBeat with
      | none => .next (s.completeJob j)
      | some n =>
        match j.beatList[n]? with
        | none => .next s
        | some b =>
          if n ≠ beat then .next s
          else
            let engine := coreOf j.ctx / 4
            let rot := lookupD {} engine s.rots
            let s1 := { s.flushCtx j.ctx with
              rots := assocSet engine { vf := some j.vf, ctx := assocSet j.vf j.ctx rot.ctx } s.rots }
            let s1 := s1.onJob job fun j => { j with started := true, beats := j.beats ++ [{ num := beat }] }
            let viol := if j.src.space = 0 then s1.engineViolation j .read (j.sourceBytes b) else none
            -- a host side without its entry ends the posting context here, whichever side it is (R373)
            let lost := (j.src.space == 3 || j.dst.space == 3) && (s1.hostEntry j).isNone
            match viol with
            | some (r, va) => .next (s1.violateJob j r va)
            | none =>
              if lost then .next (s1.jobFault j (remoteTrap 5 0)) else
              match s1.readBeat j beat b with
              | none => .next s
              | some (.error (t, s)) => .next (s.jobFault j t)
              | some (.ok t) => .next (t.freeDrain job)

/-! ## Landing a beat (R224 to R229) -/

/-- The answer of a remote device to a beat: the packet's number and what it says. -/
def State.answerFor (s : State) (job beat : Nat) : Option (Nat × RemoteAns) :=
  s.packets.findSome? fun p =>
    match p.2.msg with
    | .answer a => if p.2.dst == s.fabxy && a.stream.job == job && a.stream.beat == beat then some (p.1, a) else none
    | _ => none

/-- The host's answer to a beat, in a frame delivered to the job's VF (R368): the frame's number, the bytes, whether it is a
NAK. -/
def State.hostAnswer (s : State) (job beat : Nat) : Option (Nat × List Byte × Bool) :=
  s.frames.findSome? fun f =>
    match f.2.2.2 with
    | .answer j b data nak => if j == job && b == beat && (s.job? job).any (fun x => x.vf == f.2.1) then some (f.1, data, nak) else none
    | _ => none

def State.dropFrame (s : State) (id : Nat) : State := { s with frames := s.frames.filter fun f => f.1 != id }

/-- The bytes of a beat once an answer has brought them; and whether the beat's request is acknowledged. -/
def State.takeAnswer (s : State) (j : Job) (beat : Nat) (as : List Nat) : State :=
  let take := fun (s : State) (data : List Byte) =>
    s.onBeat j.id beat fun b =>
      { b with acked := true, bytes := if j.src.space = 2 || j.src.space = 3 then putBytes as data b.bytes else b.bytes }
  match s.answerFor j.id beat with
  | some (id, a) => if a.error = 0 then take (s.dropPacket id) a.data else s
  | none =>
    match s.hostAnswer j.id beat with
    | some (id, data, false) => take (s.dropFrame id) data
    | _ => s

/-- Masked bytes written to physical memory; the waits on the line are woken once the whole write is made. -/
def State.writeMasked (s : State) (pa : Nat) (mask val : Byte) : State :=
  let t := s.setBytes pa [(s.byte pa &&& ~~~mask) ||| (val &&& mask)]
  if mask = 0xFF then t else { t with bad := s.bad }

/-- A byte written by a copy engine or the fabric endpoint: through its cell on an EMB page (R229); false where the cell
is KINDLED. -/
def State.masterWrite (s : State) (p : Path) (vf : Nat) (kindle : Bool) (w : Nat × Byte × Byte) : State × Bool :=
  match s.xlate p vf w.1 .write with
  | .ok pa false => (s.writeMasked pa w.2.1 w.2.2, true)
  | .ok pa true =>
    let t := s.tag (cellOf pa)
    if !kindle then (s.writeMasked pa w.2.1 w.2.2, true)
    else if t = 2 then (s, false)
    else
      let old := if t = 0 then s.byte pa else 0
      ((s.storeCell pa [(old &&& ~~~w.2.1) ||| (w.2.2 &&& w.2.1)]).1, true)
  | _ => (s, true)

/-- The first of a list of addresses that lies in a cell tagged EMBER or KINDLED. -/
def State.emberMet (s : State) (p : Path) (vf : Nat) (as : List Nat) : Option Nat :=
  as.find? fun a =>
    match s.xlate p vf a .read with
    | .ok pa true => s.tag (cellOf pa) == 1 || s.tag (cellOf pa) == 2
    | _ => false

/-- The waits on the lines of virtual addresses woken, after all the bytes of a write (R242, R254). -/
def State.wakeAddrs (s : State) (p : Path) (vf : Nat) (as : List Nat) : State :=
  let lines := as.filterMap fun a =>
    match s.xlate p vf a .write with
    | .ok pa _ => some (pa / 64)
    | _ => none
  s.wakeLines fun l => lines.contains l

/-- Bytes written one after another: the state, and the lowest KINDLED cell met, whose bytes stay unwritten (R484). -/
def State.masterBytes (s : State) (p : Path) (vf : Nat) (kindle : Bool) (ws : List (Nat × Byte × Byte)) : State × Option Nat :=
  ws.foldl (fun (x : State × Option Nat) w =>
    let (s, ok) := x.1.masterWrite p vf kindle w
    (s, if ok then x.2 else some (min (cellOf w.1) (x.2.getD (cellOf w.1))))) (s, none)

/-- EMBSTORE at a cell. -/
def embStore (cell : Nat) : Trapped := ⟨.embstore, BitVec.ofNat 64 cell⟩

/-- Writes made together: the bytes of KINDLED cells stay unwritten, and the lowest of those cells is named (R484); a
master that may not kindle writes nothing where it meets a suspended computation (R229). (DEDUCED: log 47) -/
def State.masterWrites (s : State) (p : Path) (vf : Nat) (kindle : Bool) (ws : List (Nat × Byte × Byte)) :
    State × Option Trapped :=
  match if kindle then none else s.emberMet p vf (ws.map (·.1)) with
  | some a => (s, some (embCopy a))
  | none =>
    let (s, low) := s.masterBytes p vf kindle ws
    (s.wakeAddrs p vf (ws.map (·.1)), low.map embStore)

/-- The value that a reduction finds at consecutive addresses; a cell that holds no value reads as zero. -/
def State.oldValue (s : State) (p : Path) (vf : Nat) (as : List Nat) : Nat :=
  natOfBytes (as.map fun a => match s.xlate p vf a .write with
    | .ok pa emb => if emb && s.tag (cellOf pa) != 0 then 0 else s.byte pa
    | _ => 0)

/-- The first of a list of addresses whose data hold an uncorrectable error. -/
def State.badMet (s : State) (p : Path) (vf : Nat) (as : List Nat) : Option Nat :=
  as.find? fun a =>
    match s.xlate p vf a .read with
    | .ok pa _ => s.bad.contains pa
    | _ => false

/-- Reduced elements combined into memory (R219): address, operand, its exact value where it is a float. Each element is
written whole before a wait sees it (R242). An element that holds an uncorrectable error is not combined, which is the fault
of the reduction (R233); otherwise the lowest KINDLED cell that it meets is (R484). -/
def State.masterReduce (s : State) (p : Path) (vf : Nat) (kindle : Bool) (redop width : Nat)
    (ts : List (Nat × Nat × Exact)) : State × Option Trapped :=
  let span := fun (a : Nat) => (List.range width).map fun i => a + i
  let all := ts.flatMap fun t => span t.1
  match if kindle then none else s.emberMet p vf all with
  | some a => (s, some (embCopy a))
  | none =>
    let (s, ecc, low) := ts.foldl (fun (x : State × Option Nat × Option Nat) (t : Nat × Nat × Exact) =>
      match x.1.badMet p vf (span t.1) with
      | some a => (x.1, x.2.1.or (some a), x.2.2)
      | none =>
        let old := x.1.oldValue p vf (span t.1)
        let (s, low) := x.1.masterBytes p vf kindle (wholeWrites t.1 (natBytes width (combine redop t.2.2 old t.2.1)))
        (s, x.2.1, low.elim x.2.2 fun cell => some (min cell (x.2.2.getD cell)))) (s, none, none)
    (s.wakeAddrs p vf all, (ecc.map fun a => (⟨.ecc, BitVec.ofNat 64 a⟩ : Trapped)).or (low.map embStore))

/-- The bits of a byte that a write (address, mask, byte) gives it. -/
def maskedByte (old : Byte) (w : Nat × Byte × Byte) : Byte := (old &&& ~~~w.2.1) ||| (w.2.2 &&& w.2.1)

/-- A job's byte in what a card read at the count sees (R235): the job's write is no store due there (R49). -/
def Level.landUnder (l : Level) (w : Nat × Byte × Byte) : Level :=
  { l with under := l.under.map fun u => if u.1 = w.1 then (u.1, maskedByte u.2 w) else u }

/-- A job's byte in a context's window (R49). -/
def State.landByte (s : State) (n : Nat) (w : Nat × Byte × Byte) : State :=
  (s.setSpByte n (w.1, maskedByte (s.spByte n w.1) w)).onCtx n fun c =>
    { c with lv0 := c.lv0.landUnder w, lv1 := c.lv1.landUnder w }

/-- The bytes of a beat that land in a window or a tile. -/
def State.landLocal (s : State) (n : Nat) (tile : Option Nat) (ws : List (Nat × Byte × Byte)) : State :=
  ws.foldl (fun (s : State) (w : Nat × Byte × Byte) =>
    match tile with
    | some t => s.onCtx n fun c => c.setTileByte t (w.1, maskedByte (c.tileByte t w.1) w)
    | none => s.landByte n w) s

/-- A member that still receives the bytes of a multicast job (R225). -/
def State.receives (s : State) (n : Nat) : Bool :=
  let st := (s.ctx n).life.state
  n < 1024 && st != .frozen && st != .draining && st != .free

/-- Is the destination of a beat able to take it now: translated, no hold, no SAVED member? -/
def State.mayLand (s : State) (j : Job) (as : List Nat) : Bool :=
  match j.dst.space with
  | 0 =>
    (s.engineMissing j as).isNone && !as.any fun a =>
      match s.xlate j.path j.vf a .write with
      | .ok pa _ => s.isHeld pa 1
      | _ => false
  | 5 => j.members.all fun m => (s.ctx m).life.state != .saved
  | _ => true

/-- A wire value that its `f32` pattern does not hold exactly (R219): a whole number and an exponent. -/
def wideValue : Exact → Option (Int × Int)
  | .num n m e k =>
    match exactSum 0 [decodeFloat Ty.f32 (roundF Ty.f32 0 false (.num n m e k)).1, .num (!n) m e k] with
    | .num _ 0 _ _ => none
    | _ => some (if n then -(m : Int) else m, e)
  | _ => none

/-- The request that a beat makes of a remote device or of the host, once its data are there. A SEAL counts for RCVD the bytes
that its beat completes among those sent (R227). (DESIGN CHOICE: log 41) -/
def State.sendBeat (s : State) (j : Job) (beat : Nat) (b : Nat × Nat) (c : Carried) (order : List Nat) : State :=
  let engine := coreOf j.ctx / 4
  let ws := j.copyWrites b c order s.free
  let sent := (j.done ++ (j.beats.filter fun x => x.num != beat && x.asked.isSome).map (·.num)).filterMap fun i => j.beatList[i]?
  if j.dst.space = 3 then
    match s.hostEntry j with
    | none => s.jobFault j (remoteTrap 5 0)
    | some e =>
      let data := fun (p : Nat × Nat) => (List.range p.2).map fun i => (ws.filter fun w => w.1 == p.1 + i).foldl maskedByte 0
      let s := s.onBeat j.id beat fun x => { x with asked := some 0 }
      let mtu := (s.queuePair j.vf e.qp).mtu
      s.sendRoce j.vf ((runsOf (dedupAdj (ws.map (·.1)))).flatMap fun (p : Nat × Nat) =>
        (chunks mtu (data p)).zipIdx.map fun (x : List Byte × Nat) => .write j.id beat e.qp (e.addr + p.1 + mtu * x.2) e.rkey x.1)
  else
    match s.peerVf j.vf j.k.peer with
    | none => s.jobFault j (remoteTrap 4 0)
    | some vf =>
      if !s.reachable j.k.peer then s.jobFault j (remoteTrap 4 0)
      else
        let (s, q) := s.streamNext engine j.k.peer
        let s := s.onBeat j.id beat fun x => { x with asked := some q }
        let stream : Stream := ⟨s.fabxy, engine, q, j.id, beat⟩
        if j.eid ≠ 0 then
          let s := s.onCoord j.eid fun k => { k with out := k.out ++ [(stream, none)] }
          s.send j.k.peer (.seal { eid := j.eid, stream := stream, port := none, vf := vf, writes := ws, bytes := j.owed b sent,
                                   mask := (s.coord j.eid).elim 0 (·.mask), order := none })
        else
          let elems := if j.k.redop = 0 then [] else inOrder order c.elems
          let terms := elems.map fun (n, p, x) => (j.dst.bit n / 8, natBytes (j.dst.width / 8) (j.term p x).1)
          let wide := if j.k.redop = 1 then elems.map fun (_, _, x) => wideValue x else []
          let inWindow := fun (w : ReductionWindow) =>
            w.home == j.k.peer && w.vf == vf && w.redop == j.k.redop && w.base ≤ j.dst.base && j.dst.base + j.dst.len ≤ w.base + w.len
          let win := if j.k.redop = 0 then none else
            ((s.part (partOf j.vf)).windows.find? fun w => inWindow w.2).map (·.1)
          s.send j.k.peer (.remote
            { streams := [stream], vf := vf, kind := if j.k.redop = 0 then 1 else 2, kindle := j.k.kindle, reads := [],
              writes := if j.k.redop = 0 then ws else [], terms := terms, wide := wide, redop := j.k.redop, window := win })

/-- Damage of a beat, counted when it is converted (R218). -/
def Job.beatDamage (j : Job) (c : Carried) : Damage :=
  if j.k.redop = 0 then c.damage
  else c.elems.foldl (fun (d : Damage) x => d.add (j.term x.2.1 x.2.2).2) c.damage

/-- A beat landed in a local destination, and the fault that it met. It lands whole, in one step: R41 makes each aligned 8-byte unit
of it atomic and promises nothing of the order among them. (DESIGN CHOICE: log 165) -/
def State.landBeat (s : State) (j : Job) (beat : Nat) (b : Nat × Nat) (c : Carried) (order : List Nat) :
    State × Option Trapped :=
  let done := j.done.filterMap fun i => j.beatList[i]?
  let owed := j.owed b done
  let path := j.path
  let ws := j.copyWrites b c order s.free
  let tile := if j.dst.space = 4 then some j.dst.tile else none
  match j.dst.space with
  | 0 =>
    let (t, bad) :=
      if j.k.redop = 0 then s.masterWrites path j.vf j.k.kindle ws
      else s.masterReduce path j.vf j.k.kindle j.k.redop (j.dst.width / 8)
        ((inOrder order c.elems).map fun (e : Nat × Nat × Exact) => (j.dst.bit e.1 / 8, (j.term e.2.1 e.2.2).1, e.2.2))
    if bad.isSome then (t, bad)
    else ((t.visitAddrs path j.vf (dedupAdj (ws.map (·.1))) j.dst.hint).beatDone j.id beat owed, none)
  | 5 =>
    let s := (j.members.filter s.receives).foldl (fun s m => s.landLocal m none ws) s
    (s.beatDone j.id beat (owed * j.members.length), none)
  | _ =>
    if s.startsFor j.ctx then ((s.landLocal j.ctx tile ws).beatDone j.id beat owed, none)
    else
      let q : Quarantined := { job := j.id, beat := beat, tile := tile, writes := ws, owed := owed }
      ((s.onCtx j.ctx fun c => { c with quar := c.quar ++ [q] }).onJob j.id fun j =>
        { j with done := j.done ++ [beat], beats := j.beats.filter fun x => x.num != beat }, none)

/-- The virtual addresses that a beat writes or reduces in device memory. -/
def Job.landAddrs (j : Job) (b : Nat × Nat) (c : Carried) (order : List Nat) : List Nat :=
  if j.dst.space ≠ 0 then []
  else if j.k.redop ≠ 0 then (elemsOf b).flatMap j.dst.bytesOf
  else dedupAdj ((j.copyWrites b c order 0).map (·.1))

/-- A beat with its data, at its destination. -/
def State.finishBeat (s : State) (j : Job) (x : Beat) (b : Nat × Nat) (order : List Nat) : State :=
  let c := j.carry b x.bytes
  let outside := j.dst.space = 2 || j.dst.space = 3
  let counted := fun (s : State) => s.onJob j.id fun j => { j with damage := Damage.add j.damage (j.beatDamage c) }
  if outside && x.asked.isNone then
    if s.sendWaits j then s else { (counted s).sendBeat j x.num b c order with free := s.free + 4096 }
  else if outside then
    if x.acked && j.eid = 0 then s.beatDone j.id x.num (j.owed b (j.done.filterMap fun i => j.beatList[i]?)) else s
  else
    let as := j.landAddrs b c order
    if !s.mayLand j as then s
    else
      match if j.dst.space = 0 then s.engineViolation j .write as else none with
      | some (r, va) => s.violateJob j r va
      | none =>
        match (counted s).landBeat j x.num b c order with
        | (t, none) => { t with free := t.free + 4096 }
        | (t, some bad) => t.jobFault j bad

/-- The answer to a frozen job's request is discarded (R462). -/
def State.discardAnswer (s : State) (job beat : Nat) : State :=
  let ended := fun (s : State) => s.onJob job fun j => { j with beats := j.beats.filter fun b => b.num != beat }
  match s.answerFor job beat, s.hostAnswer job beat with
  | some (id, _), _ => ended (s.dropPacket id)
  | none, some (id, _, _) => ended (s.dropFrame id)
  | none, none => s

/-- BEAT_COMPLETE: the bytes of a beat land, or are sent to a remote device or the host, or are acknowledged by it; they
leave the job's count as they land (R224). -/
def execBeatComplete (job beat : Nat) (order : List Nat) (s : State) : Host.Outcome State Fault Refusal :=
  match s.job? job with
  | none => .next s
  | some j =>
    match j.beats.find? (fun x => x.num == beat), j.beatList[beat]? with
    | some x, some b =>
      if j.frozen then .next (s.discardAnswer job beat)
      else if s.beatWaits j x then .next s
      else
        let s := s.onBeat job beat fun x => { x with parked := false }
        let as := j.sourceBytes b
        let s := s.takeAnswer j beat as
        match (s.job? job).bind fun j => j.beats.find? fun x => x.num == beat with
        | none => .next s
        | some x =>
          match x.fault with
          | some t => .next (s.jobFault j t)
          | none =>
            if as.all fun a => (lookup? a x.bytes).isSome then
              .next ((s.finishBeat j x b order).freeDrain job)
            else if x.asked.isNone && (j.src.space == 0 || j.src.space == 2) && !s.isParked (.beat job beat) then
              -- what a full table refused, or a failed link lost, is asked for again
              match s.readBeat j beat b with
              | some (.ok t) => .next t
              | some (.error (t, s)) => .next (s.jobFault j t)
              | none => .next s
            else .next s
    | _, _ => .next s

/-- A sealed beat acknowledged into staging: the bytes that it completes among the acknowledged beats leave the counts (R224). -/
def State.sealedBeat (s : State) (job beat : Nat) : State :=
  match s.job? job with
  | none => s
  | some j =>
    match j.beatList[beat]? with
    | none => s
    | some b =>
      if j.frozen then s.onJob job fun j => { j with beats := j.beats.filter fun x => x.num != beat }
      else s.beatDone job beat (j.owed b (j.done.filterMap fun i => j.beatList[i]?))

/-- SEALACK: the request entry of a sealed store is freed and its signal completes; a job's beat has landed (R411,
R224). -/
def execSealack (pkt : Nat) (s : State) : Host.Outcome State Fault Refusal :=
  s.takePacket pkt fun k s =>
    match k.msg with
    | .sealack a =>
      let s := match a.port with
        | some (n, id) =>
          let sig := (s.entry n id).bind (·.sig)
          (s.onCtx n fun c =>
            { c with port := { c.port with queue := c.port.queue.filter fun q => q.id != id } }.completeSignal sig).settlePort n
        | none => s.sealedBeat a.stream.job a.stream.beat
      (s.onCoord a.eid fun c => { c with out := c.out.eraseP fun x => x.1 == a.stream }).reapCoord
    | _ => s

/-- REMOTE_ERROR: an error reply, a NAK or a retry exhaustion ends the posting context with REMOTE (R400, R373). -/
def execRemoteError (job beat : Nat) (s : State) : Host.Outcome State Fault Refusal :=
  match s.job? job with
  | none => .next s
  | some j =>
    if j.frozen then .next (s.discardAnswer job beat)
    else match s.answerFor job beat with
    | some (id, a) => if a.error = 0 then .next s else .next ((s.dropPacket id).jobFault j (remoteTrap a.error a.addr))
    | none =>
      match s.hostAnswer job beat with
      | some (id, _, true) => .next ((s.dropFrame id).jobFault j (remoteTrap 6 0))
      | _ => .next s

/-- The quarantine of a context drained into its window and tiles (R232). -/
def State.drainQuarantine (s : State) (n : Nat) : State :=
  let qs := (s.ctx n).quar
  let s := s.onCtx n fun c => { c with quar := [] }
  qs.foldl (fun (s : State) (q : Quarantined) =>
    let s := s.landLocal n q.tile q.writes
    match s.job? q.job with
    | some j =>
      let s := s.subBytes j q.owed
      match s.job? q.job with
      | some j => if j.bytes = 0 then s.completeJob j else s
      | none => s
    | none => s) s

end Sys2Proof.Machine
end

