-- ==== Sys2Proof/Machine/Remote.lean ====
section
/-!
DEFINITION. The fabric endpoint as destination (R62, R229, R398, R400, R402, R461, R462): the event
REMOTE_REQUEST_RECEIVE.
-/
namespace Sys2Proof

/-- The pages that a remote request touches. -/
def RemoteReq.pages (r : RemoteReq) : List Nat :=
  (r.reads.flatMap (fun (x : Nat × Nat) => Machine.pagesOfRange x.1 x.2) ++ r.writes.map (fun (w : Nat × Byte × Byte) => w.1 / 2 ^ 16) ++
    r.terms.map fun (t : Nat × List Byte) => t.1 / 2 ^ 16).eraseDups

/-- What a remote request needs of a page (Table 16.3). -/
def RemoteReq.need (r : RemoteReq) : Machine.Need := if r.kind = 0 then .read else .write

/-- The bytes that a remote read asks for, by address. -/
def RemoteReq.readAddrs (r : RemoteReq) : List Nat :=
  r.reads.flatMap fun (x : Nat × Nat) => (List.range x.2).map fun i => x.1 + i

/-- The bytes that a remote request changes. -/
def RemoteReq.writeAddrs (r : RemoteReq) : List Nat :=
  r.writes.map (fun (w : Nat × Byte × Byte) => w.1) ++ r.terms.flatMap fun (t : Nat × List Byte) => (List.range t.2.length).map fun i => t.1 + i

end Sys2Proof

namespace Sys2Proof.Machine
open Sys2Proof

/-- Every stream of a request answered: one acknowledgement, fanned out to every contributor (R402). -/
def State.answerStreams (s : State) (r : RemoteReq) (data : List Byte) (error addr : Nat) : State :=
  r.streams.foldl (fun s x => s.send x.dev (.answer { stream := x, data := data, error := error, addr := addr })) s

/-- A request that is over: nothing waits for it any more. -/
def State.endRemote (s : State) (pkt : Nat) : State :=
  { s.dropPacket pkt with
    gathered := s.gathered.filter fun g => g.1 != pkt
    waiters := s.waiters.filter fun w => w.loader != Loader.remote pkt }

/-- A request that has been performed and is answered: its numbers enter the windows of their streams, with its answer, which a
duplicate gets again (R398). (DEDUCED: log 64) -/
def State.closeRemote (s : State) (pkt : Nat) (r : RemoteReq) (data : List Byte) (error addr : Nat) : State :=
  (r.streams.foldl (fun s x => s.markSeen x error addr data) (s.endRemote pkt)).answerStreams r data error addr

/-- A request refused whole, so that nothing of it is performed: its numbers stay out of the windows. -/
def State.turnAway (s : State) (pkt : Nat) (r : RemoteReq) (error addr : Nat) : State :=
  (s.endRemote pkt).answerStreams r [] error addr

/-- A duplicate of a request that has been performed is acknowledged again, as it was, and not performed (R398). What was merged
with it cannot be told apart from it any more, and so is refused with RTRANS. (DESIGN CHOICE: log 161) -/
def State.answerAgain (s : State) (pkt : Nat) (r : RemoteReq) : State :=
  r.streams.foldl (fun s x =>
    let given := s.answerGiven x
    s.send x.dev (.answer (if s.seen x then { stream := x, data := given.data, error := given.error, addr := given.addr }
      else { stream := x, data := [], error := 1, addr := 0 }))) (s.endRemote pkt)

/-- A request refused by translation or permission, and so not performed: RTRANS, a violation record, and under FREEZE the
stream frozen (R461, R462, Table 16.7). (DEDUCED: log 64) -/
def State.refuseRemote (s : State) (pkt src : Nat) (r : RemoteReq) (reason va : Nat) : State :=
  let va := firstOn (if r.kind = 0 then r.readAddrs else r.writeAddrs) va
  let s := ((s.endRemote pkt).answerStreams r [] 1 va).postViolation 5 0 r.vf reason va src
  if s.freezes r.vf reason then s.onVf r.vf fun v => { v with streams := v.streams ++ [src] } else s

/-- The ember cells that a list of addresses lies in: address and physical address. -/
def State.cellsMet (s : State) (p : Path) (vf : Nat) (as : List Nat) : List (Nat × Nat) :=
  ((as.map cellOf).eraseDups).filterMap fun va =>
    match s.xlate p vf va .read with
    | .ok pa true => some (va, pa)
    | _ => none

/-- A kindle-allowed read meets a cell that it has not met yet (R307). -/
def State.gatherCell (s : State) (pkt vf : Nat) (c : Nat × Nat) : State :=
  if s.gathered.any (fun g => g.1 == pkt && g.2.1 == c.1) ||
      s.waiters.any (fun w => w.loader == Loader.remote pkt && w.cell == c.2) || s.isHeld c.2 16 then s
  else
    match s.loadCell (.remote pkt) [] none vf c.2 c.1 with
    | .value bs => { s with gathered := s.gathered ++ [(pkt, c.1, some bs)] }
    | .waits s => s
    | .refused => s
    | .fails _ s => { s with gathered := s.gathered ++ [(pkt, c.1, none)] }

/-- A byte that a remote read returns: of a gathered cell, or of memory. -/
def State.remoteByte (s : State) (pkt vf a : Nat) : Byte :=
  match s.gathered.find? fun g => g.1 == pkt && g.2.1 == cellOf a with
  | some (_, _, some bs) => bs.getD (a - cellOf a) 0
  | _ =>
    match s.xlate (ioPath vf) vf a .read with
    | .ok pa _ => s.byte pa
    | _ => 0

/-- Does a hold of an envelope cover one of the addresses? -/
def State.anyHeld (s : State) (p : Path) (vf : Nat) (as : List Nat) : Bool :=
  as.any fun a =>
    match s.xlate p vf a .read with
    | .ok pa _ => s.isHeld pa 1
    | _ => false

/-- A remote read, once every cell that it covers holds a value. -/
def State.remoteRead (s : State) (pkt : Nat) (r : RemoteReq) : State :=
  let p := ioPath r.vf
  let as := r.readAddrs
  let cells := s.cellsMet p r.vf as
  match if r.kindle then none else s.emberMet p r.vf as with
  | some a => s.turnAway pkt r 3 a
  | none =>
    let s := if r.kindle then cells.foldl (fun s c => s.gatherCell pkt r.vf c) s else s
    let got := fun (ok : Bool) (c : Nat × Nat) => s.gathered.any fun g => g.1 == pkt && g.2.1 == c.1 && g.2.2.isSome == ok
    match cells.find? (got false) with
    | some c => s.turnAway pkt r 3 c.1
    | none =>
      if r.kindle && !cells.all (got true) then s
      else if let some a := s.badMet p r.vf as then s.turnAway pkt r 2 a
      else (s.visitAddrs p r.vf as 0).closeRemote pkt r (as.map (s.remoteByte pkt r.vf)) 0 0

/-- A remote write or reduction performed at the home agents (R62, R402). -/
def State.remoteWrite (s : State) (pkt : Nat) (r : RemoteReq) : State :=
  let p := ioPath r.vf
  let w := (r.terms.headD (0, [])).2.length
  let (t, bad) :=
    if r.kind = 1 then s.masterWrites p r.vf r.kindle r.writes
    else s.masterReduce p r.vf r.kindle r.redop w ((exactTerms r).map fun (t : Nat × List Byte × Exact) =>
      (t.1, natOfBytes t.2.1, t.2.2))
  let t := t.visitAddrs p r.vf r.writeAddrs 0
  match bad with
  | some x =>
    if !r.kindle && x.cause = .perm then s.turnAway pkt r 3 (x.info.toNat % 2 ^ 52)
    else t.closeRemote pkt r [] (if x.cause = .ecc then 2 else 3) (x.info.toNat % 2 ^ 52)
  | none => t.closeRemote pkt r [] 0 0

/-- REMOTE_REQUEST_RECEIVE: a duplicate is acknowledged again (R398); a frozen stream, and one that translation refuses,
is answered with RTRANS, as is one that would be parked while its VF resets (R464; DESIGN CHOICE: log 163); a page fault or a hold
keeps the request; otherwise it is performed and answered. -/
def execRemoteRequestReceive (pkt : Nat) (s : State) : Host.Outcome State Fault Refusal :=
  match s.packet pkt with
  | some { src, dst, msg := .remote r, .. } =>
    if dst ≠ s.fabxy then .next s
    else if r.streams.any s.seen then .next (s.answerAgain pkt r)
    else if (s.vf r.vf).streams.contains src then .next ((s.endRemote pkt).answerStreams r [] 1 0)
    else if (s.ioMissing r.vf r.pages).isSome then
      .next (if (s.vf r.vf).state = .resetting then s.turnAway pkt r 1 0 else s)
    else
      match s.ioViolation r.vf r.need r.pages with
      | some (reason, va) => .next (s.refuseRemote pkt src r reason va)
      | none =>
        if s.anyHeld (ioPath r.vf) r.vf (if r.kind = 0 then r.readAddrs else r.writeAddrs) then .next s
        else .next (if r.kind = 0 then s.remoteRead pkt r else s.remoteWrite pkt r)
  | _ => .next s

end Sys2Proof.Machine
end

