-- ==== Sys2Proof/Machine/Intake.lean ====
section
/-!
DEFINITION. The Ethernet ports and the intake unit (R367 to R369, R374 to R390): which VF a frame reaches, the reassembly
and classification of messages, the rings, and the intake ops.
-/
namespace Sys2Proof.Machine
open Sys2Proof

/-! ## Frames (R368, R369) -/

/-- The VF whose MAC address on a port a frame names. -/
def State.macOwner (s : State) (port dest : Nat) : Option Nat :=
  (s.vfs.find? fun v => lookup? port v.2.macs == some dest).map (·.1)

/-- Is the frame one of RoCEv2, which MACsec protects? -/
def isRoce : EthBody → Bool
  | .uet _ => false
  | _ => true

/-- Has the port the MAC on which a frame arrives, and is the frame within the MTU (Table 13.1)? What else does not reach a
port. (DESIGN CHOICE: log 128) -/
def State.portTakes (s : State) (f : EthFrame) : Bool :=
  f.port < 10 && f.lane < (if lookupD false f.port s.split then 2 else 1) && f.bytes ≤ 9216

/-- The port's own counter at a frame's arrival, which never falls and starts at 0 (R3). (DESIGN CHOICE: log 145) -/
def State.portClock (s : State) (f : EthFrame) : Dword := lookupD 0 f.port s.portClocks + BitVec.ofNat 64 f.ticks

/-- RDMA READs of a queue pair of a VF that are not answered yet. -/
def State.openReads (s : State) (vf qp : Nat) : Nat :=
  (s.frames.filter fun x => x.2.1 == vf && match x.2.2.2 with
    | .read r => r.qp == qp
    | _ => false).length

/-- Does Table 13.2 allow a request: a queue pair of the VF, data within its path MTU, and at most 64 outstanding RDMA READs on
it? -/
def State.requestOk (s : State) (vf : Nat) : EthBody → Bool
  | .invalid => false
  | .write r => r.qp < 16 && r.data.length ≤ (s.queuePair vf r.qp).mtu
  | .read r => r.qp < 16 && s.openReads vf r.qp < 64
  | _ => true

/-- A packet stamped with the port's counter (R379, Table 13.7). -/
def stampBody (ts : Dword) : EthBody → EthBody
  | .uet p => .uet { p with ts := ts }
  | b => b

/-- The queue pair of a VF that a frame belongs to. -/
def State.pairOf (s : State) : EthBody → Option Nat
  | .write r | .read r => some r.qp
  | .cnp qp => some qp
  | .answer job _ _ _ => (s.job? job).bind fun j => (s.hostEntry j).map (·.qp)
  | _ => none

/-- Congestion on a queue pair (Table 13.2): a frame that bears a mark is answered with a congestion notification; one that comes is
obeyed until an answer comes unmarked. (DESIGN CHOICE: log 143) -/
def State.congest (s : State) (vf : Nat) (marked : Bool) (b : EthBody) : State :=
  match s.pairOf b, b with
  | some qp, .cnp _ => s.setSlow vf qp true
  | some qp, .answer _ _ _ _ => if marked then s.sendRoce vf [.cnp qp] else s.setSlow vf qp false
  | some qp, _ => if marked then s.sendRoce vf [.cnp qp] else s
  | none, _ => s

/-- Is a frame done with once its congestion is looked at? -/
def isNotice : EthBody → Bool
  | .cnp _ => true
  | _ => false

/-- ETHERNET_FRAME_RECEIVE: a frame for no VF of the port is counted and dropped; a RoCEv2 frame that fails MACsec is
dropped; a request outside Table 13.2 is answered with the NAK for an invalid request (R367 to R370). -/
def execEthernetFrameReceive (f : EthFrame) (s : State) : Host.Outcome State Fault Refusal :=
  if !s.portTakes f then .next s
  else
    let now := s.portClock f
    let s := { s with portClocks := assocSet f.port now s.portClocks }
    match s.macOwner f.port f.dest with
    | none => .next { s with unknown := assocSet f.port (lookupD 0 f.port s.unknown + 1) s.unknown }
    | some vf =>
      if isRoce f.body && !(f.secure && (s.macsec vf).isSome) then .next s
      else
      let s := s.congest vf f.ecn f.body
      if isNotice f.body then .next s
      else if !s.requestOk vf f.body then .next (s.sendRoce vf [.nakInvalid])
      else .next { s with frames := s.frames ++ [(s.nextId, vf, f.port, stampBody now f.body)], nextId := s.nextId + 1 }

def State.frame (s : State) (id : Nat) : Option (Nat × Nat × EthBody) := (s.frames.find? fun f => f.1 == id).map (·.2)

/-! ## Rings (R378, R381, R386) -/

def State.ring? (s : State) (vf k : Nat) : Option Ring := lookup? k (s.vf vf).rings
def State.setRing (s : State) (vf k : Nat) (r : Ring) : State := s.onVf vf fun v => { v with rings := assocSet k r v.rings }

def Ring.free (r : Ring) : Nat := r.size - r.used
def Ring.count (r : Ring) (i : Nat) : Nat := lookupD 0 i r.counts
def Ring.add (r : Ring) (i n : Nat) : Ring := { r with counts := assocSet i ((r.count i + n) % 2 ^ 64) r.counts }

/-- A message counted under an outcome: the counter and its byte counter (R380). (DEDUCED: log 72) -/
def Ring.outcome (r : Ring) (i len : Nat) : Ring :=
  let r := (r.add i 1).add (8 + i) len
  if 1 ≤ i && i ≤ 4 then { r with dropb := true } else r

/-- T advances over freed records (R378). -/
def Ring.advance (r : Ring) : List RingRec → Ring
  | [] => { r with recs := [] }
  | x :: t =>
    if x.state == .given || x.state == .removed then
      { r with t := (r.t + x.units) % r.size, used := r.used - x.units }.advance t
    else { r with recs := x :: t }

/-- Untaken records at T. -/
def Ring.untakenRun (r : Ring) : List RingRec := r.recs.takeWhile fun x => x.state == .untaken

/-- The shortest prefix of a run whose removal makes `u` units free (R381). -/
def shortestPrefix (free u : Nat) : List RingRec → Option (List RingRec)
  | run =>
    ((List.range (run.length + 1)).map fun i => run.take i).find? fun p => u ≤ free + p.foldl (fun n x => n + x.units) 0

/-- A prefix removed: OVERWRITTEN, its bytes, and the gap entry (R381, R382). -/
def Ring.remove (r : Ring) (p : List RingRec) : Ring :=
  match p with
  | [] => r
  | x :: _ =>
    let seqs := p.map (·.seq)
    let r := (r.add 5 p.length).add 13 (p.foldl (fun n x => n + x.len) 0)
    let gap := match r.gap with
      | some (q, n) => (q, n + p.length)
      | none => (x.seq, p.length)
    let recs := r.recs.map fun (y : RingRec) => if seqs.contains y.seq then { y with state := .removed } else y
    { r with gap := some gap }.advance recs

/-- The ring with room for `u` units under its policy; none where there is none (R381). -/
def Ring.makeRoom (r : Ring) (u : Nat) : Option Ring :=
  if u ≤ r.free then some r
  else if r.policy = 1 then (shortestPrefix r.free u r.untakenRun).map r.remove
  else none

/-- The addresses of the bytes of a run of units. -/
def Ring.unitAddrs (r : Ring) (first units : Nat) : List Nat :=
  (List.range units).flatMap fun i => (List.range 64).map fun b => r.base + 64 * ((first + i) % r.size) + b

/-! ## Messages (R374 to R383) -/

/-- The end of the bytes present from a place on. -/
def reach (ps : List (Nat × List Byte)) : Nat → Nat → Nat
  | 0, k => k
  | n + 1, k => reach ps n (ps.foldl (fun m p => if p.1 ≤ k then max m (p.1 + p.2.length) else m) k)

def Message.whole (m : Message) : Bool := m.head.total ≤ reach m.parts m.parts.length 0

/-- Does a packet belong to a message? -/
def Message.takes (m : Message) (vf : Nat) (p : UetPacket) : Bool :=
  m.vf == vf && m.head.flow == p.flow && m.head.msg == p.msg && m.head.slot == p.slot && m.head.ring == p.ring

/-- Is a packet decrypted by a key that its slot accepts (R376)? (DEDUCED: log 73) -/
def State.epochOk (s : State) (p : UetPacket) : Bool :=
  match lookup? p.slot s.keys with
  | some k => k.state == 2 || k.epoch == p.epoch
  | none => false

/-- A packet put into its message. -/
def Message.put (m : Message) (p : UetPacket) (ok : Bool) : Message :=
  { m with parts := m.parts ++ [(p.off, p.data)], valid := m.valid && ok, ecn := m.ecn || p.ecn }

/-- The message that a packet belongs to, with the packet. -/
def State.messageWith (s : State) (vf port : Nat) (p : UetPacket) : Message :=
  let ok := p.valid && s.epochOk p
  match s.messages.find? fun m => m.takes vf p with
  | some m => m.put p ok
  | none => { id := s.nextId, vf := vf, port := port, head := p, parts := [(p.off, p.data)], valid := ok, ecn := p.ecn }

/-- The bytes of an accepted record: header, payload, and unspecified bytes to the end of its last unit (R379).
(DESIGN CHOICE: log 74) -/
def Message.record (m : Message) (r : Ring) (units free : Nat) : List Byte :=
  let header := natBytes 8 r.next ++ natBytes 8 m.head.ts.toNat ++ natBytes 4 m.head.flow.toNat ++
    natBytes 2 m.head.total ++ natBytes 2 units ++
    [BitVec.ofNat 8 m.port, BitVec.ofNat 8 ((if r.dropb then 1 else 0) + if m.head.rud then 2 else 0)] ++
    natBytes 2 m.head.slot ++ natBytes 4 0
  let body := (joinPieces m.head.total m.parts).take m.head.total
  let rest := 64 * units - (32 + m.head.total)
  header ++ body ++ (List.range rest).map fun i => (Config.freeValue (free + i)).extractLsb' 0 8

/-- Does a credit grant go with an acknowledgement: not by a ring under BACKPRESSURE that has no unit free (Table 13.4)?
(DEDUCED: log 129) -/
def State.grants (s : State) (vf ring : Nat) : Bool := (s.ring? vf ring).any fun r => r.policy != 2 || r.free != 0

/-- The acknowledgement of a packet's message. -/
def State.ackOf (s : State) (vf : Nat) (p : UetPacket) (ecn : Bool) : Outward := .uetAck vf p.flow p.msg ecn (s.grants vf p.ring)

/-- What names a message for the duplicate filter: the VF, the key slot to which the sender's index in FLOW is relative
(Table 13.7), FLOW and the message number (R380). -/
def messageKey (vf : Nat) (p : UetPacket) : Nat × Nat × BitVec 32 × Nat := (vf, p.slot, p.flow, p.msg)

/-- A message that is over: acknowledged when it is reliable and has been counted (R380). -/
def State.closeMessage (s : State) (m : Message) (counted : Bool) : State :=
  let s := { s with messages := s.messages.filter fun x => x.id != m.id }
  if m.head.rud && counted then
    { s with counted := s.counted ++ [messageKey m.vf m.head],
             outbox := s.outbox ++ [s.ackOf m.vf m.head m.ecn] }
  else s

/-- A message dropped under a counter of its ring. -/
def State.dropMessage (s : State) (m : Message) (r : Ring) (counter : Nat) : State :=
  (s.setRing m.vf m.head.ring (r.outcome counter m.head.total)).closeMessage m true

/-- The semaphore of NOTIFY raised after an acceptance (R383). -/
def State.notifyRing (s : State) (vf : Nat) (r : Ring) : State :=
  match r.notify with
  | none => s
  | some (n, h) =>
    let c := s.ctx n
    let live := c.life.state == .ready || c.life.state == .stalled || c.life.state == .saved
    if live && c.id.vf == vf && h < c.id.semCount then s.raiseSem n h 1 else s

/-- A violation of the ring writer: the message is DROP-FULL, and under FREEZE the ring is frozen (R461, R462). -/
def State.refuseMessage (s : State) (m : Message) (r : Ring) (reason va : Nat) : State :=
  let s := s.postViolation 4 0 m.vf reason (firstOn (r.unitAddrs r.p ((32 + m.head.total + 63) / 64)) va) m.head.ring
  s.dropMessage m (if s.freezes m.vf reason then { r with frozen := true } else r) 1

/-- An accepted message written at P, and counted in the same step as P advances (R382, R383). (DEDUCED: log 75) -/
def State.acceptMessage (s : State) (m : Message) (r : Ring) (units : Nat) : State :=
  let bytes := m.record r units s.free
  let ws := (r.unitAddrs r.p units).zip bytes |>.map fun (x : Nat × Byte) => (x.1, (0xFF : Byte), x.2)
  let t := (s.masterWrites (ioPath m.vf) m.vf true ws).1.visitAddrs (ioPath m.vf) m.vf (r.unitAddrs r.p units) 0
  let s := { t with free := s.free + 64 }
  let rec1 : RingRec := { seq := r.next, units := units, first := r.p, len := m.head.total }
  let r1 := { (r.outcome 0 m.head.total) with
    p := (r.p + units) % r.size, used := r.used + units, recs := r.recs ++ [rec1], next := r.next + 1, dropb := false }
  ((s.setRing m.vf m.head.ring r1).closeMessage m true).notifyRing m.vf r1

/-- What stands in the way of a record's bytes: nothing, a wait for a translation or a hold, or a violation. -/
inductive WriteCheck where
  | ready
  | waits
  | refused (reason va : Nat)
  deriving DecidableEq, Repr

/-- The check of the pages and lines of a list of addresses. -/
def State.checkWrite (s : State) (vf : Nat) (as : List Nat) : WriteCheck :=
  let pages := (as.map fun a => a / 2 ^ 16).eraseDups
  if (s.ioMissing vf pages).isSome then .waits
  else
    match s.ioViolation vf .write pages with
    | some (r, va) => .refused r va
    | none => if s.anyHeld (ioPath vf) vf as then .waits else .ready

/-- What classifying a message comes to (R380): MISROUTE, a counter of the ring, or an acceptance by the ring as its policy
leaves it. -/
inductive Verdict where
  | misroute
  | drop (r : Ring) (counter : Nat)
  /-- Neither counted nor acknowledged (R381, BACKPRESSURE). -/
  | held
  | accept (r : Ring) (units : Nat)
  deriving DecidableEq, Repr

/-- The tests of R380 in their order. (DEDUCED: log 71) -/
def State.classify (s : State) (m : Message) (whole : Bool) : Verdict :=
  match s.ring? m.vf m.head.ring with
  | none => .misroute
  | some r =>
    let units := (32 + m.head.total + 63) / 64
    let keyOk := (lookup? m.head.slot s.keys).any fun k => (k.state == 1 || k.state == 2) && k.tss && k.owner == some m.vf
    if (s.vf m.vf).state ≠ .active then .misroute
    else if r.frozen then .drop r 1
    else if !keyOk then .drop r 4
    else if !m.valid then .drop r 2
    else if !whole || 16352 < m.head.total then .drop r 3
    else
      match r.makeRoom units with
      | some r => .accept r units
      | none => if r.policy = 2 && m.head.rud then .held else .drop r 1

/-- The pages of a record that a whole message still lacks, for the ring writer's walk. -/
def State.messageAddrs (s : State) (m : Message) : List Nat :=
  match s.classify m true with
  | .accept r units => r.unitAddrs r.p units
  | _ => []

/-- A message classified; none while its ring write waits (R458, R419). -/
def State.settleMessage (s : State) (m : Message) (whole : Bool) : Option State :=
  match s.classify m whole with
  | .misroute => some ((s.onVf m.vf fun v => { v with misroute := v.misroute + 1 }).closeMessage m false)
  | .drop r k => some (s.dropMessage m r k)
  | .held => some (s.closeMessage m false)
  | .accept r units =>
    match s.checkWrite m.vf (r.unitAddrs r.p units) with
    | .waits => none
    | .refused reason va => some (s.refuseMessage m ((s.ring? m.vf m.head.ring).getD r) reason va)
    | .ready => some (s.acceptMessage m r units)

/-- UET_PACKET_RECEIVE: a packet joins its message, which is classified when its last packet has come; a message already
counted is acknowledged again (R380). -/
def execUetPacketReceive (frame : Nat) (s : State) : Host.Outcome State Fault Refusal :=
  match s.frame frame with
  | some (vf, port, .uet p) =>
    let s1 := s.dropFrame frame
    if p.rud && s.counted.contains (messageKey vf p) then
      .next { s1 with outbox := s1.outbox ++ [s1.ackOf vf p p.ecn] }
    else
      let m := s.messageWith vf port p
      let s2 := { s1 with nextId := s1.nextId + 1, messages := s1.messages.filter (fun x => x.id != m.id) ++ [m] }
      if !m.whole then .next s2
      else .next ((s2.settleMessage m true).getD s)
  | _ => .next s

/-- REASSEMBLY_TIMEOUT: the reassembly interval of a message runs out (R380). -/
def execReassemblyTimeout (id : Nat) (s : State) : Host.Outcome State Fault Refusal :=
  match s.messages.find? fun m => m.id == id with
  | some m => .next ((s.settleMessage m false).getD s)
  | none => .next s

/-! ## Intake ops (R384 to R389) -/

/-- The ring of an intake op. -/
def ringOf (f : Tri) : Nat := (f.imm.extractLsb' 0 6).toNat

/-- An intake op enters the port unless its VF has no such ring (R389). -/
def acceptRing (landing : Bool) : Accept := fun s n r =>
  match r.work with
  | .op (.itake _ f) | .op (.igive _ f) | .op (.istat _ f) =>
    if (s.ring? (s.ctx n).id.vf (ringOf f)).isNone then .error (permInfo 0x40) else .ok (s.pushOp n r landing)
  | _ => .ok s

/-- `itake` (R384). -/
def execItake (h : Hdr) (f : Tri) (s : State) : Host.Outcome State Fault Refusal :=
  portOp h (triReq (.itake h f) f) [(0, f.d.toNat)] (acceptRing true) s
/-- `igive` (R384). (DEDUCED: log 76) -/
def execIgive (h : Hdr) (f : Tri) (s : State) : Host.Outcome State Fault Refusal :=
  portOp h (triReq (.igive h f) f) [] (acceptRing false) s
/-- `istat` (R384). -/
def execIstat (h : Hdr) (f : Tri) (s : State) : Host.Outcome State Fault Refusal :=
  portOp h (triReq (.istat h f) f) [(0, f.d.toNat)] (acceptRing true) s

/-- The ring that an intake op names. -/
def PortReq.ringNo (r : PortReq) : Option Nat :=
  match r.work with
  | .op (.itake _ f) | .op (.igive _ f) | .op (.istat _ f) => some (ringOf f)
  | _ => none

/-- An intake op whose turn it is: the context's earlier ops on the ring are performed (R388), and so is what an `igive`
releases. -/
def State.onRing (s : State) (n id : Nat) (k : PortReq → Nat → Ring → State → State) : Host.Outcome State Fault Refusal :=
  match s.entry n id with
  | none => .next s
  | some r =>
    match r.ringNo with
    | none => .next s
    | some x =>
      let vf := (s.ctx n).id.vf
      let earlier := ((s.ctx n).before r).any fun e => e.ringNo == some x
      if !s.mayPerform n r || earlier || (r.holdsAll && !s.canFlush n) then .next s
      else
        match s.ring? vf x with
        | none => .next (s.portFault n id (permInfo 0x40))
        | some g => .next ((k r x g (if r.holdsAll then s.flushCtx n else s)).settlePort n)

/-- TAKEN records of a ring. -/
def Ring.taken (r : Ring) : Nat := (r.recs.filter fun x => x.state == .taken).length

/-- The descriptor that `itake` returns, with the ring after it, and whether it names a data record (R385, Table 13.10).
(DEDUCED: log 70) -/
def Ring.take (r : Ring) : Ring × Nat × Bool :=
  if 1024 ≤ r.taken then (r, 2 ^ 31, false)
  else
    match r.gap with
    | some (q, n) => ({ r with gap := none }, q % 2 ^ 32 * 2 ^ 32 + 2 ^ 29 + min n 0xFFFFF, false)
    | none =>
      match r.recs.find? fun x => x.state == .untaken with
      | none => (r, 2 ^ 30, false)
      | some x =>
        ({ r with recs := r.recs.map fun y => if y.seq = x.seq then { y with state := .taken } else y },
          x.seq % 2 ^ 32 * 2 ^ 32 + x.units * 2 ^ 20 + x.first, true)

/-- ITAKE_PERFORM (R385); a data record acquires (R388). -/
def execItakePerform (n id : Nat) (s : State) : Host.Outcome State Fault Refusal :=
  s.onRing n id fun r x g s =>
    match r.work with
    | .op (.itake _ _) =>
      let (g, v, data) := g.take
      (s.setRing (s.ctx n).id.vf x g).onCtx n fun c =>
        let c := c.respond { id := id, words := [(r.dest, BitVec.ofNat 64 v)] }
        if data then c.setAcquired else c
    | _ => s

/-- The ring after `igive` of a descriptor; none where it names no TAKEN record (R386). -/
def Ring.give (r : Ring) (d : Dword) : Option Ring :=
  if d.extractLsb' 29 3 != 0 then some r
  else
    let first := (d.extractLsb' 0 20).toNat
    let q := (d.extractLsb' 32 32).toNat
    match r.recs.find? fun x => x.state == .taken && x.first == first && x.seq % 2 ^ 32 == q with
    | none => none
    | some x => some (r.advance (r.recs.map fun y => if y.seq = x.seq then { y with state := .given } else y))

/-- IGIVE_PERFORM (R386, R388). -/
def execIgivePerform (n id : Nat) (s : State) : Host.Outcome State Fault Refusal :=
  s.onRing n id fun r x g s =>
    match r.work with
    | .op (.igive _ _) =>
      match g.give r.addr with
      | none => s.portFault n id (permInfo 0x41)
      | some g => (s.setRing (s.ctx n).id.vf x g).onCtx n fun c =>
          { c with port := { c.port with queue := c.port.queue.filter fun q => q.id != id } }.completeSignal r.sig
    | _ => s

/-- A counter of Table 13.9. -/
def Ring.stat (r : Ring) (i : Nat) : Nat :=
  match i with
  | 16 => r.base
  | 17 => r.size
  | 18 => (r.recs.filter fun x => x.state == .untaken).length
  | 19 => r.taken
  | 20 => r.free
  | 21 => r.policy
  | _ => r.count i

/-- ISTAT_PERFORM (R387). -/
def execIstatPerform (n id : Nat) (s : State) : Host.Outcome State Fault Refusal :=
  s.onRing n id fun r _ g s =>
    match r.work with
    | .op (.istat _ f) =>
      let v := g.stat (f.imm.extractLsb' 8 5).toNat
      s.onCtx n fun c => c.respond { id := id, words := [(r.dest, BitVec.ofNat 64 v)] }
    | _ => s

end Sys2Proof.Machine
end

