-- ==== Sys2Proof/Machine/Selector.lean ====
section
/-!
DEFINITION. The rounds of a core's selector (R96 to R101): weights, quanta, deficits, turn lists, and the cycles of a core.
-/
namespace Sys2Proof.Machine
open Sys2Proof

/-- Ready contexts of a core whose VF has a weight (R96). -/
def State.runnable (s : State) (core : Nat) : List Nat :=
  (slotsOf core).filter fun n => s.isReady n && (s.share core (s.ctx n).id.vf).weight != 0

/-- A VF's contexts in the order of R98, step 2. -/
def State.vfOrder (s : State) (core vf : Nat) (ns : List Nat) : List Nat :=
  let sh := s.share core vf
  let turn := fun (issued eval : Bool) => rotate sh.lastSlot (ns.filter fun n =>
    sh.issuedNow.contains n == issued && ((s.ctx n).id.kind == .eval) == eval)
  turn false true ++ turn false false ++ turn true true ++ turn true false

/-- May a round start: none in progress has a ready entry left, and some context may run (R98, R100)? -/
def State.mayStartRound (s : State) (core : Nat) : Bool :=
  (s.turnOf core).isNone && !(s.runnable core).isEmpty

/-- A round started (R98): quanta, deficits, the turn list. -/
def State.startRound (s : State) (core : Nat) : State :=
  let sel := (s.core core).sel
  let ready := (slotsOf core).filter s.isReady
  let vfsReady := (List.range 192).filter fun v => ready.any fun n => (s.ctx n).id.vf == v
  let run := s.runnable core
  let order := rotate sel.lastVf ((List.range 192).filter fun v => run.any fun n => (s.ctx n).id.vf == v)
  let lists := order.map fun v => (v, s.vfOrder core v (run.filter fun n => (s.ctx n).id.vf == v))
  let quantum := fun (v : Nat) => 32 * (s.share core v).weight
  s.onSel core fun x =>
    let x := vfsReady.foldl (fun (x : Selector) v => x.onShare v fun h =>
      { h with quantum := quantum v, deficit := min (h.deficit + quantum v) (2 * quantum v) }) x
    { x with
      shares := x.shares.map fun p => (p.1, { p.2 with issuedNow := [] })
      turns := lists.flatMap (·.2)
      counts := lists.map fun p => (p.1, p.2.length)
      holder := none
      charged := 0
      lastVf := order.head?.or x.lastVf }

/-- ROUND_START (R98). -/
def execRoundStart (core : Nat) (s : State) : Host.Outcome State Fault Refusal :=
  .next (if s.mayStartRound core then s.startRound core else s)

/-- Cycles of a core pass (R3). -/
def State.passCycles (s : State) (core n : Nat) : State :=
  s.onCore core fun k => { k with cycle := k.cycle + BitVec.ofNat 64 n }

/-- A context is the core's issuing one: after another, one cycle passes in which the core issues nothing (R101). -/
def State.switchTo (s : State) (core n : Nat) : State :=
  (if (s.core core).sel.lastCtx.any fun m => m != n then s.passCycles core 1 else s).onSel core fun x => { x with lastCtx := some n }

/-- A context has issued a bundle: the rotation of its VF (R98), and the switch cycle of R101. -/
def State.noteIssue (s : State) (core n : Nat) : State :=
  s.onSel core fun x =>
    { x.onShare (s.ctx n).id.vf (fun h =>
        { h with lastSlot := some n, issuedNow := if h.issuedNow.contains n then h.issuedNow else h.issuedNow ++ [n] }) with
      lastCtx := some n }

end Sys2Proof.Machine
end

