-- ==== Sys2Proof/Machine/Micro.lean ====
section
/-!
DEFINITION. Micro-words (R336 to R343, R350, R364): their fields, which words are malformed, the lane operation, and how a
step changes the sequencing state.
-/
namespace Sys2Proof.Machine
open Sys2Proof

/-! ## Fields (Table 12.1) -/

abbrev MicroWord := BitVec 256

/-- Bits [lo + n - 1 : lo] of a micro-word. -/
def MicroWord.bits (w : MicroWord) (lo n : Nat) : Nat := (BitVec.extractLsb' lo n w).toNat
def MicroWord.bit (w : MicroWord) (i : Nat) : Bool := BitVec.getLsbD w i

/-- Kind and index of SRC0, SRC1, SRC2 and DST. -/
def MicroWord.src (w : MicroWord) (k : Nat) : Nat × Nat := (w.bits (70 + 9 * k) 3, w.bits (64 + 9 * k) 6)
def MicroWord.dst (w : MicroWord) : Nat × Nat := (w.bits 97 3, w.bits 91 6)
def MicroWord.alu (w : MicroWord) : Nat := w.bits 100 6
def MicroWord.aty (w : MicroWord) : Nat := w.bits 106 4
def MicroWord.imm (w : MicroWord) : Nat := w.bits 0 32
def MicroWord.mode (w : MicroWord) : Mode := ⟨w.bits 110 2, w.bit 112⟩
def MicroWord.tport (w : MicroWord) : Nat := w.bits 114 2
def MicroWord.bmask (w : MicroWord) : Nat := w.bits 32 16
def MicroWord.sprd (w : MicroWord) : Bool := w.bit 48
def MicroWord.spwr (w : MicroWord) : Bool := w.bit 49
def MicroWord.next (w : MicroWord) : Nat := w.bits 136 13
def MicroWord.seq (w : MicroWord) : Nat := w.bits 132 4

/-! ## Lane operations (Table 12.4) -/

/-- Sources that a lane operation uses. -/
def aluSources (alu : Nat) : Nat :=
  if alu = 5 ∨ alu = 17 ∨ alu = 22 then 3
  else if alu = 0 ∨ alu = 18 ∨ alu = 19 ∨ alu = 20 ∨ 23 ≤ alu then 1
  else 2

/-- The V op that a lane operation acts as, with the word's type, mode and immediate; none for PASS. -/
def MicroWord.vop (w : MicroWord) : Option Instr :=
  let h : Hdr := { ty := BitVec.ofNat 4 w.aty, sinc := 0, ssem := 0, wcnt := 0, wsem := 0, gneg := 0, grd := 0, stop := 0 }
  let m := w.bits 110 3
  let f := fun (fn imm : Nat) => ({ imm := BitVec.ofNat 44 imm, fn := BitVec.ofNat 8 (m + fn), c := 0, b := 0, a := 0, d := 0 } : Tri)
  match w.alu with
  | 1 => some (.vadd h (f 0 0))
  | 2 => some (.vsub h (f 0 0))
  | 3 => some (.vmul h (f 0 0))
  | 4 => some (.vmul h (f 8 0))
  | 5 => some (.vfma h (f 0 0))
  | 6 => some (.vmin h (f 0 0))
  | 7 => some (.vmax h (f 0 0))
  | 8 => some (.vand h (f 0 0))
  | 9 => some (.vor h (f 0 0))
  | 10 => some (.vxor h (f 0 0))
  | 11 => some (.vshl h (f 0 0))
  | 12 => some (.vshr h (f 0 0))
  | 13 => some (.vsar h (f 0 0))
  | 14 => some (.vcmp h (f 64 0))
  | 15 => some (.vcmp h (f (64 + 2 * 8) 0))
  | 16 => some (.vcmp h (f (64 + 3 * 8) 0))
  | 17 => some (.vsel h (f 0 0))
  | 18 => some (.vabs h (f 0 0))
  | 19 => some (.vneg h (f 0 0))
  | 20 => some (.vshuf h (f 0 (w.imm % 1024)))
  | 21 => some (.vperm h (f 0 0))
  | 22 => some (.vdot h (f 0 0))
  | 23 => some (.vred h (f 0 0))
  | 24 => some (.vred h (f (2 * 8) 0))
  | 25 => some (.vcvt h (f (w.imm % 16 * 8) (w.imm / 16 % 8)))
  | _ => none

/-- The width in which a source is broadcast (R145): the type's, the 32 bits of a dot product's addend and of PASS, which acts
as `vmov` KIND 0 (R167), the type that CVT converts from. -/
def MicroWord.srcWidth (w : MicroWord) (k : Nat) : Nat :=
  if (w.alu = 22 ∧ k = 2) ∨ w.alu = 0 then 32 else if w.alu = 25 then Ty.width (w.imm % 16) else Ty.width w.aty

/-- The result of the lane operation on three sources: the writes of its lanes, and flags (R339). -/
def laneResult (alu t : Nat) (m : Mode) (imm : Nat) (act : BitVec 128) (x y z : List Word) : List LaneWrite × FpFlags :=
  let u := unpackElems (Ty.width t)
  let map1 := fun (g : Nat → Elem) => elementWise t act ((u x).map g)
  let map2 := fun (g : Nat → Nat → Elem) => elementWise t act (List.zipWith g (u x) (u y))
  let map3 := fun (g : Nat → Nat → Nat → Elem) =>
    elementWise t act (List.zipWith (fun g c => g c) (List.zipWith g (u x) (u y)) (u z))
  let compare := fun (cond : Nat) => map2 fun a b =>
    let (r, fl) := compareElem t cond a b
    (if r then 2 ^ Ty.width t - 1 else 0, fl)
  let moved := fun (xs : List Nat) => elementWise t act (xs.map fun e => (e, 0))
  match alu with
  | 0 => (laneWrites act x, 0)
  | 1 => map2 (addElem t m false)
  | 2 => map2 (addElem t m true)
  | 3 => map2 (mulElem t m false)
  | 4 => map2 (mulElem t m true)
  | 5 => map3 (fusedElem t m 0)
  | 6 => map2 (minMaxElem t false)
  | 7 => map2 (minMaxElem t true)
  | 8 => map2 fun a b => (Nat.land a b, 0)
  | 9 => map2 fun a b => (Nat.lor a b, 0)
  | 10 => map2 fun a b => (Nat.xor a b, 0)
  | 11 => map2 (shlElem t m.sat)
  | 12 => map2 (shrElem t)
  | 13 => map2 (sarElem t)
  | 14 => compare 0
  | 15 => compare 2
  | 16 => compare 3
  | 17 => map3 fun a b c => (if c = 0 then b else a, 0)
  | 18 => map1 fun a => if Ty.isFloat t && !isNan t a then (magnitude t a, 0) else signElem t m.sat false a
  | 19 => map1 (signElem t m.sat true)
  | 20 => moved (shuffle (Ty.count t) 0 (imm % 1024) (u x) [])
  | 21 => moved (permute (Ty.count t) false (u x) (u y) [])
  | 22 =>
    let per := 32 / Ty.width t
    let r := List.zipWith (fun (p : List Nat × List Nat) (c : Word) => dotLane t m p.1 p.2 c.toNat)
      ((groups per 128 (u x)).zip (groups per 128 (u y))) z
    (laneWrites act (r.map fun e => BitVec.ofNat 32 e.1), activeFlags (activeLanes act) r)
  | 23 => elementWise t act (reduceOrScan t 0 m false act (u x))
  | 24 => elementWise t act (reduceOrScan t 2 m false act (u x))
  | _ =>
    convert (imm % 16) t (imm / 16 % 8) m act x

/-! ## Malformed words (R336, R338, R339, R364) -/

/-- Does an operand's kind, index or port make the word malformed? `src` tells a source from the destination. -/
def MicroWord.operandBad (w : MicroWord) (coll src : Bool) (o : Nat × Nat) : Bool :=
  match o.1 with
  | 1 => coll
  | 2 => coll || 4 ≤ o.2
  | 3 => 8 ≤ o.2
  | 4 => coll || w.tport != (if src then 1 else 2)
  | 5 => !(if src then w.sprd else w.spwr)
  | 6 => !src && (coll || 4 ≤ o.2)
  | 7 => !(coll && src)
  | _ => false

/-- The operands that a word uses: its sources, and its destination. -/
def MicroWord.sources (w : MicroWord) : List (Nat × Nat) := (List.range (aluSources w.alu)).map w.src

/-- Is a word malformed, in a core's control store or in the collective store? -/
def MicroWord.malformed (w : MicroWord) (coll : Bool) : Bool :=
  w.bits 157 99 != 0 || w.bit 113 || w.bit 63 ||
    (if coll then w.bit 155 else w.bits 149 8 != 0) ||
    9 < w.seq || w.bits 123 2 == 3 || 4 < w.bits 116 3 || w.tport == 3 || 4 < w.bits 50 3 || 4 < w.bits 53 3 ||
    25 < w.alu || (w.bmask != 0 && !w.sprd && !w.spwr) || w.aty == 15 ||
    w.sources.any (w.operandBad coll true) || w.operandBad coll false w.dst ||
    (coll && (w.tport != 0 || w.bits 116 16 != 0 || w.bmask != 0 || w.bits 56 6 != 0 || w.bits 50 3 == 2 || w.bits 53 3 == 2)) ||
    (match w.vop with
      | none => w.bits 110 3 != 0
      | some i => (checkOp .v i).isSome)

/-! ## Sequencing (R337, R340, R343) -/

/-- An address generator after a step; `reg` is the register value that BREG loads. -/
def AddrGen.after (g : AddrGen) (op imm reg : Nat) : AddrGen :=
  match op with
  | 1 => { g with addr := imm, base := imm }
  | 2 => { g with addr := reg % 2 ^ 32, base := reg % 2 ^ 32 }
  | 3 =>
    let n := imm / 2 ^ 16 % 2 ^ 13
    { g with stride := (BitVec.ofNat 16 imm).toInt, reload := n, count := n }
  | 4 =>
    let a := ((g.addr : Int) + g.stride) % 2 ^ 32 |>.toNat
    if g.count = 0 then { g with addr := a }
    else if g.count = 1 then { g with addr := g.base, count := g.reload }
    else { g with addr := a, count := g.count - 1 }
  | _ => g

/-- FANY and FALL from a result (R343). -/
def Micro.setFlags (m : Micro) (flag : Bool) (act : BitVec 128) (result : List Word) : Micro :=
  if flag then
    let l := (((activeLanes act).zip result).filter (·.1)).map fun p => p.2 != 0
    { m with fany := l.any id, fall := l.all id }
  else m

/-- The next micro-address and loop counters (Table 12.2). -/
def Micro.advance (m : Micro) (w : MicroWord) : Micro :=
  let fall := m.mpc + 1
  match w.seq with
  | 1 => { m with mpc := w.next }
  | 2 => if 1 < m.ml0 then { m with ml0 := m.ml0 - 1, mpc := w.next } else { m with ml0 := 0, mpc := fall }
  | 3 => if 1 < m.ml1 then { m with ml1 := m.ml1 - 1, mpc := w.next } else { m with ml1 := 0, mpc := fall }
  | 4 => { m with mpc := if m.fany then w.next else fall }
  | 5 => { m with mpc := if m.fall then w.next else fall }
  | 6 => { m with mpc := if m.fany then fall else w.next }
  | 7 => { m with ml0 := w.next, mpc := fall }
  | 8 => { m with ml1 := w.next, mpc := fall }
  | _ => { m with mpc := fall }

/-- Both address generators, the step count and the next address after a step; `reg` reads the register that an
IMM[1:0] selects. -/
def Micro.finish (m : Micro) (w : MicroWord) (reg : Nat → Nat) : Micro :=
  let v := reg (w.imm % 4)
  { m with ag0 := m.ag0.after (w.bits 50 3) w.imm v, ag1 := m.ag1.after (w.bits 53 3) w.imm v,
           steps := m.steps + 1 }.advance w

end Sys2Proof.Machine
end

