-- ==== Sys2Proof/Machine/ControlStore.lean ====
section
/-!
DEFINITION. Bound ops (R88, R333 to R355) and the Courier (R358 to R362): bindings made and removed, the pages of the
writable control store, routines micro-step by micro-step, and their refusal.
-/
namespace Sys2Proof.Machine
open Sys2Proof

/-! ## Bindings (R134, R135, R333) -/

/-- Pages of a binding's image. -/
def Binding.pages (b : Binding) : Nat := (b.words + 1023) / 1024
/-- Bytes of a page: 32 KiB, or up to the last word. -/
def Binding.pageBytes (b : Binding) (p : Nat) : Nat := min 32768 (32 * (b.words - 1024 * p))
def Binding.pageAddr (b : Binding) (p : Nat) : Nat := b.image.toNat + 32768 * p

/-- The routine of a context that runs under a binding. -/
def Ctx.routineOf (c : Ctx) (key : Nat) : Option Routine := c.routines.find? fun r => r.bind.key == key

/-- A binding of a context by its key: as bound, or as a routine still uses it. -/
def Ctx.bindingOf (c : Ctx) (key : Nat) : Option Binding :=
  ((c.binds.find? fun p => p.2.key == key).map (·.2)).or ((c.routineOf key).map (·.bind))

/-- A binding changed wherever the context holds it. -/
def Ctx.onBinding (c : Ctx) (key : Nat) (f : Binding → Binding) : Ctx :=
  { c with
    binds := c.binds.map fun p => (p.1, if p.2.key == key then f p.2 else p.2)
    routines := c.routines.map fun r => if r.bind.key == key then { r with bind := f r.bind } else r }

/-- Frames of bindings that nothing names any more are freed on every core (R362). -/
def State.freeFrames (s : State) (n key : Nat) : State :=
  if ((s.ctx n).bindingOf key).isSome then s
  else
    { s with cores := s.cores.map fun p => (p.1, { p.2 with
        frames := p.2.frames.filter fun f => f.key != key
        fetches := p.2.fetches.filter fun f => f.key != key }) }

/-- A binding removed (R135, R359, R361). -/
def State.unbind (s : State) (n key : Nat) : State :=
  (s.onCtx n fun c => { c with binds := c.binds.filter fun p => p.2.key != key }).freeFrames n key

/-- No page of a context's bindings is left in a frame: a restored context starts with none resident (R362, R355). -/
def State.dropPages (s : State) (n : Nat) : State :=
  let c := s.ctx n
  let keys := (c.binds.map fun b => b.2.key) ++ c.routines.map fun r => r.bind.key
  { s with cores := s.cores.map fun p => (p.1, { p.2 with frames := p.2.frames.filter fun f => !keys.contains f.key }) }

/-- The fetches that complete a binding's hash, in ascending page order (R358). -/
def State.queueHash (s : State) (n opc : Nat) (b : Binding) : State :=
  s.onCore (coreOf n) fun k =>
    { k with fetches := k.fetches ++ (List.range b.pages).map fun p =>
        { vf := (s.ctx n).id.vf, ctx := n, opc := opc, key := b.key, page := p, forHash := true } }

/-- An opcode bound anew, or unbound (R134, R135). -/
def State.applyBind (s : State) (n opc : Nat) (b : Option Binding) : State :=
  let old := lookup? opc (s.ctx n).binds
  let s := match old with
    | some o => s.unbind n o.key
    | none => s
  match b with
  | none => s
  | some b =>
    let b := { b with key := s.nextId }
    ({ s with nextId := s.nextId + 1 }.onCtx n fun c => { c with binds := assocSet opc b c.binds }).queueHash n opc b

/-! ## Issue (R88, R335, R344) -/

/-- A bound op: its routine runs before the context's next bundle. -/
def execBoundOp (opc : BitVec 8) (h : Hdr) (f : Tri) (s : State) : Host.Outcome State Fault Refusal :=
  .next (s.guarded h fun s =>
    match lookup? opc.toNat s.cur.binds with
    | none => s.raise ⟨.unbound, BitVec.ofNat 64 (opc.toNat + 256 * s.iss.pos)⟩
    | some b =>
      let (s, sig) := s.addSignal h false
      let r : Routine :=
        { opc := opc.toNat, h := h, f := f, bind := b, seq := s.cur.life.seq, slot := s.iss.slot, pos := s.iss.pos,
          sig := sig, micro := { mpc := b.entry } }
      s.onIss fun x => { x with bound := x.bound ++ [r] })

/-! ## The Courier (R358 to R361) -/

/-- The frame quota of a VF on a core (R332): its own, or an equal share of what the VFs with one of their own leave. Where
that is not a frame for each of the others, the default holds for all. (DESIGN CHOICE: log 126) -/
def State.frameQuota (s : State) (core vf : Nat) : Nat :=
  let vs := s.vfsOn core
  let own := fun v => lookup? v (s.core core).quotas
  let given := sumOf (fun v => (own v).getD 0) vs
  let rest := vs.filter fun v => (own v).isNone
  if given + rest.length ≤ 8 then (own vf).getD (equalShare (8 - given) rest.length (rest.findIdx (· == vf)))
  else equalShare 8 vs.length (vs.findIdx (· == vf))

/-- The page of the word that a routine executes next. -/
def Routine.page (r : Routine) : Nat := r.micro.mpc / 1024

/-- Is a context in its slot and able to issue? -/
def Ctx.isLive (c : Ctx) : Bool := c.life.state == .ready || c.life.state == .stalled

/-- Is a frame in use by a routine of its core (R360)? -/
def State.frameInUse (s : State) (core : Nat) (f : Frame) : Bool :=
  (slotsOf core).any fun n => (s.ctx n).isLive &&
    (s.ctx n).routines.any fun r => r.started && r.bind.key == f.key && r.page == f.page

/-- Is a frame held for the first bundle of a launched context, against the needs of the other contexts (R360)? -/
def State.awaitsFirst (s : State) (f : Frame) (by' : Option Nat) : Bool :=
  f.first.any fun n => by' != some n && (s.ctx n).life.seq == 0 && (s.ctx n).isLive

/-- May a frame be replaced, for a need of a context or for none? (DEDUCED: log 56) -/
def State.replaceable (s : State) (core vf : Nat) (by' : Option Nat) (f : Frame) : Bool :=
  f.vf == vf && !f.needed && !s.frameInUse core f && !s.awaitsFirst f by'

/-- Two frames that hold the same page. -/
def Frame.same (f g : Frame) : Bool := f.key == g.key && f.page == g.page

/-- Frames of a core without the pages that a VF holds beyond its quota, the least recently used first, as far as they may
go (R332). (DESIGN CHOICE: log 126) -/
def State.dropSurplus (s : State) (core : Nat) (fs : List Frame) (vf : Nat) : List Frame :=
  let surplus := (fs.filter fun f => f.vf == vf).length - s.frameQuota core vf
  let gone := (fs.reverse.filter (s.replaceable core vf none)).take surplus
  fs.filter fun f => !gone.any f.same

/-- The frames of a core within the quotas that are in force. -/
def State.trimFrames (s : State) (core : Nat) : State :=
  let fs := (s.core core).frames
  s.onCore core fun k => { k with frames := ((fs.map (·.vf)).eraseDups).foldl (s.dropSurplus core) fs }

/-- Has a VF no frame free: its quota is used up, or what others still hold leaves none (R332, R360)? -/
def State.framesFull (s : State) (core vf : Nat) : Bool :=
  let fs := (s.core core).frames
  s.frameQuota core vf ≤ (fs.filter fun f => f.vf == vf).length || 8 ≤ fs.length

/-- The VF's least recently used page that may make way for a need of a context (R360). -/
def State.frameVictim (s : State) (core : Nat) (f : Fetch) : Option Frame :=
  (s.core core).frames.reverse.find? (s.replaceable core f.vf (some f.ctx))

/-- Is a frame to be had for a fetch? -/
def State.frameRoom (s : State) (core : Nat) (f : Fetch) : Bool :=
  !s.framesFull core f.vf || (s.frameVictim core f).isSome

/-- The frame of a page. -/
def Core.frame (k : Core) (key page : Nat) : Option Frame := k.frames.find? fun f => f.key == key && f.page == page

/-- The page of a fetch put into a frame: when its VF has none free, the page that may go makes way (R360), and without one
the store is unchanged. -/
def State.putFrame (s : State) (core : Nat) (g : Fetch) (f : Frame) : State :=
  let rest :=
    if !s.framesFull core g.vf then some (s.core core).frames
    else (s.frameVictim core g).map fun v => (s.core core).frames.filter fun x => !x.same v
  s.onCore core fun k => { k with frames := (rest.map fun fs => f :: fs).getD k.frames }

/-- A frame marked for a need, or its need met, and used. -/
def State.useFrame (s : State) (core key page : Nat) (needed : Bool) : State :=
  s.onCore core fun k =>
    match k.frame key page with
    | some f => { k with frames := { f with needed := needed } :: k.frames.filter fun x => !(x.key == key && x.page == page) }
    | none => k

/-- Is the page that a routine needs next neither resident nor asked for (R358)? -/
def State.lacksPage (s : State) (n : Nat) (r : Routine) : Bool :=
  let k := s.core (coreOf n)
  (k.frame r.bind.key r.page).isNone && !k.fetches.any fun f => f.key == r.bind.key && f.page == r.page && !f.forHash

/-- A page that a routine needs and that is not resident is asked for, unless it has been. -/
def State.wantPage (s : State) (n : Nat) (r : Routine) : State :=
  if s.lacksPage n r then
    s.onCore (coreOf n) fun k => { k with fetches := k.fetches ++
      [{ vf := (s.ctx n).id.vf, ctx := n, opc := r.opc, key := r.bind.key, page := r.page, forHash := false }] }
  else s

/-- A fetch that is over. -/
def State.dropFetch (s : State) (core : Nat) (f : Fetch) : State :=
  s.onCore core fun k => { k with fetches := k.fetches.filter fun g =>
    !(g.key == f.key && g.page == f.page && g.forHash == f.forHash) }

/-- The fetch of a VF that is next, or in progress, on a core. -/
def State.nextFetch (s : State) (core vf : Nat) : Option Fetch := (s.core core).fetches.find? fun f => f.vf == vf

/-- Does a routine still need the page of a fetch? -/
def Ctx.needs (c : Ctx) (f : Fetch) : Bool := c.isLive && c.routines.any fun r => r.bind.key == f.key && r.page == f.page

/-- COURIER_FETCH: the oldest need of a VF on a core is taken up; one that is already met goes (R358, R360). -/
def execCourierFetch (core vf : Nat) (s : State) : Host.Outcome State Fault Refusal :=
  let s := s.trimFrames core
  match s.nextFetch core vf with
  | none => .next s
  | some f =>
    let b := (s.ctx f.ctx).bindingOf f.key
    let met := b.isNone || (!f.forHash && !(s.ctx f.ctx).needs f) || (f.forHash && b.any fun b => b.failed || (lookup? f.page b.tags).isSome)
    if (s.core core).frozen.contains vf || f.started then .next s
    else if met then .next (s.dropFetch core f)
    else if ((s.core core).frame f.key f.page).isSome then .next ((s.useFrame core f.key f.page true).dropFetch core f)
    else if s.frameRoom core f then
      .next (s.onCore core fun k => { k with fetches := k.fetches.map fun g => if g = f then { g with started := true } else g })
    else .next s

/-- The fetch in progress of a VF on a core, with its binding. -/
def State.fetching (s : State) (core vf : Nat) : Option (Fetch × Binding) :=
  match s.nextFetch core vf with
  | some f => if f.started then ((s.ctx f.ctx).bindingOf f.key).map fun b => (f, b) else none
  | none => none

/-- The 64 KiB pages that a fetch reads. -/
def fetchPages (f : Fetch) (b : Binding) : List Nat := pagesOfRange (b.pageAddr f.page) (b.pageBytes f.page)

/-- The first of them without a translation, as an address. -/
def State.courierMissing (s : State) (core vf : Nat) (ps : List Nat) : Option Nat :=
  (ps.find? fun p => (s.tlbHit (corePath core) vf (p * 2 ^ 16)).isNone).map fun p => p * 2 ^ 16

/-- The first violation of a fetch whose translations are present. -/
def State.courierViolation (s : State) (core vf : Nat) (ps : List Nat) : Option (Nat × Nat) :=
  ps.findSome? fun p =>
    match s.xlate (corePath core) vf (p * 2 ^ 16) .read with
    | .violation r => some (r, p * 2 ^ 16)
    | _ => none

/-- A routine whose page failed is refused with a reason when it is next looked at. -/
def State.refuseRoutine (s : State) (n key reason : Nat) : State :=
  s.onCtx n fun c => { c with routines := c.routines.map fun r => if r.bind.key == key then { r with refuse := some reason } else r }

/-- A fetch that failed: one made for the hash alone leaves the failure with the binding; another removes the binding,
and the op that needed the page is refused (R359, R361). -/
def State.failFetch (s : State) (core : Nat) (f : Fetch) (reason : Nat) : State :=
  let s := s.dropFetch core f
  if f.forHash then s.onCtx f.ctx fun c => c.onBinding f.key fun b => { b with failed := true }
  else (s.refuseRoutine f.ctx f.key reason).unbind f.ctx f.key

/-- A violation by the Courier (R461, R462): under POLICY TRAP the fetch fails, and one made
for the hash alone leaves the failure with the binding (R361). (DEDUCED: log 160) -/
def State.violateCourier (s : State) (core vf : Nat) (f : Fetch) (reason va : Nat) : State :=
  if s.freezes vf reason then
    let first := (s.fetching core vf).elim va fun x => max (x.2.pageAddr f.page) va
    (s.onCore core fun k => { k with frozen := k.frozen ++ [vf] }).postViolation 3 core vf reason first 0
  else s.failFetch core f 0x0B

/-- The bytes that a fetch reads at device scope. -/
def State.courierBytes (s : State) (core vf a n : Nat) : List Byte :=
  (List.range n).map fun i =>
    match s.xlate (corePath core) vf (a + i) .read with
    | .ok pa _ => s.byte pa
    | _ => 0

/-- A page of a binding that came for the first time: its tag, and the hash once every page has come (R359). -/
def Binding.firstPage (b : Binding) (key : BitVec 256) (p : Nat) (bs : List Byte) : Binding :=
  let b := { b with tags := assocSet p (aesCmac key bs) b.tags, fed := assocSet p bs b.fed }
  if b.fed.length = b.pages then { b with resident := true, hash := sha384 (b.fed.flatMap (·.2)), fed := [] } else b

/-- A page that has arrived (R359, R360). -/
def State.pageArrived (s : State) (core vf : Nat) (f : Fetch) (b : Binding) (bs : List Byte) : State :=
  let key := Config.randomKey (s.vf vf).pageKey
  let s1 := (s.putFrame core f
    { vf     := vf
      key    := f.key
      page   := f.page
      bytes  := bs
      needed := !f.forHash
      first  := if f.forHash && b.launch then some f.ctx else none }).dropFetch core f
  match lookup? f.page b.tags with
  | some t => if t = aesCmac key bs then s1 else s.failFetch core f 0x0A
  | none => s1.onCtx f.ctx fun c => c.onBinding f.key fun b => b.firstPage key f.page bs

/-- COURIER_FETCH_COMPLETE: the page comes once a frame of its VF's quota can take it (R332, R360). -/
def execCourierFetchComplete (core vf : Nat) (s : State) : Host.Outcome State Fault Refusal :=
  match s.fetching core vf with
  | none => .next s
  | some (f, b) =>
    let ps := fetchPages f b
    if (s.core core).frozen.contains vf || (s.courierMissing core vf ps).isSome || !s.frameRoom core f then .next s
    else
      match s.courierViolation core vf ps with
      | some (r, va) => .next (s.violateCourier core vf f r va)
      | none =>
        let a := b.pageAddr f.page
        let n := b.pageBytes f.page
        if s.anyHeld (corePath core) vf ((List.range ((n + 31) / 32)).map fun i => a + 32 * i) then .next s
        else if (s.badMet (corePath core) vf ((List.range n).map fun i => a + i)).isSome then .next (s.failFetch core f 0x0B)
        else
          let bs := s.courierBytes core vf a n
          .next ((s.visitAddrs (corePath core) vf ((List.range n).map fun i => a + i) 0).pageArrived core vf f b bs)

/-! ## What a routine waits for (R344, R347, R354, R358) -/

/-- The tiles of a mask. -/
def maskTiles (m : BitVec 12) : List Nat := (List.range 12).filter fun t => m.getLsbD t

/-- Is a tile of a context busy (R228, R278, R344)? -/
def State.tileBusy (s : State) (n t : Nat) : Bool :=
  let c := s.ctx n
  c.mat.queue.any (fun q => (opTiles q.op).contains t) ||
    (c.lv0.deferred ++ c.lv1.deferred).any (fun d => d.eff.onTile t) ||
    s.jobs.any (fun k => k.ctx == n && k.tiles.contains t) ||
    c.routines.any fun r => r.started && r.bind.tmask.getLsbD t

/-- Is a page of a binding resident on a core? -/
def State.isResident (s : State) (n : Nat) (r : Routine) : Bool := ((s.core (coreOf n)).frame r.bind.key r.page).isSome

/-- What a routine that has not started waits for: its image's hash (R134), its tiles, the M ops before it and every `tsts`
due by its bundle (R344, R347), and then, as it is about to start, its first page (R358). -/
def State.startWait (s : State) (n : Nat) (r : Routine) : Wait :=
  let q := (s.ctx n).mat.queue
  if r.refuse.isSome || r.bind.failed then .none
  else if !r.bind.resident then .courier
  else if (maskTiles r.bind.tmask).any (s.tileBusy n) || (r.bind.isM && !q.isEmpty) ||
      q.any fun o => o.level == (s.ctx n).trap.tl && !o.addrs.isEmpty && o.due < (s.ctx n).level.count then .busy
  else if !s.isResident n r then .courier
  else .none

/-- The units of a scratchpad port that a step touches: window addresses. -/
def touchedUnits (bmask addr : Nat) : List Nat :=
  ((List.range 16).filter fun u => bmask.testBit ((addr / 32 + u) % 16)).map fun u => addr + 32 * u

/-- Does a unit meet a scoreboard entry, or a queued tile op of its context that takes effect before the routine (R193, R294)?
One that is due later takes effect after its exit (R347). -/
def State.unitBlocked (s : State) (n a : Nat) (write : Bool) : Bool :=
  (s.core (coreOf n)).board.any (fun e => e.ctx == n && e.start < a + 32 && a < e.stop) ||
    (s.ctx n).mat.queue.any fun q =>
      !(q.level == (s.ctx n).trap.tl && (s.ctx n).level.count ≤ q.due) &&
        (q.addrs.any (fun x => a ≤ x && x < a + 32) || (write && q.reads.any fun x => a ≤ x && x < a + 32))

/-- The word that a routine executes next. -/
def State.word (s : State) (n : Nat) (r : Routine) : MicroWord :=
  match (s.core (coreOf n)).frame r.bind.key r.page with
  | some f => BitVec.ofNat 256 (imageField f.bytes (r.micro.mpc % 1024 * 32) 32)
  | none => 0

/-- Will the next word run, rather than end the routine (R337, R351)? -/
def Routine.runs (r : Routine) : Bool := r.micro.steps < r.bind.steps && r.micro.mpc < r.bind.words

/-- Does the next step wait for the range scoreboard? -/
def State.stepBlocked (s : State) (n : Nat) (r : Routine) : Bool :=
  let w := s.word n r
  (w.sprd && (touchedUnits w.bmask r.micro.ag0.addr).any fun a => s.unitBlocked n a false) ||
    (w.spwr && (touchedUnits w.bmask r.micro.ag1.addr).any fun a => s.unitBlocked n a true)

/-- Is a routine stopped by a page that is not asked for yet? -/
def State.mustAsk (s : State) (n : Nat) (r : Routine) : Bool :=
  (r.started || r.bind.resident) && s.lacksPage n r

/-- What the first routine of a context waits for. -/
def State.routineWait (s : State) (n : Nat) : Wait :=
  match (s.ctx n).routines with
  | [] => .none
  | r :: _ =>
    if !r.started then s.startWait n r
    else if r.refuse.isSome || !r.runs then .none
    else if !s.isResident n r then .courier
    else if s.stepBlocked n r then .scoreboard
    else .none

/-! ## Refusal and exit (R346, R350 to R353) -/

/-- TRAPINFO of REFUSED and STEPOVER (Table 12.6); a next MPC of 8,192, past the last word of a full store, shows as 0 in
its 13 bits. (DEDUCED: log 127) -/
def Routine.info (r : Routine) (reason : Nat) : Dword :=
  BitVec.ofNat 64 (reason + (if r.partSp then 2 ^ 8 else 0) + (if r.partT then 2 ^ 9 else 0) + (if r.partMt then 2 ^ 10 else 0) +
    r.micro.mpc % 2 ^ 13 * 2 ^ 12 + r.micro.steps * 2 ^ 25 + r.opc * 2 ^ 38 + r.pos * 2 ^ 46)

/-- The causes that meet at a boundary: one of class F ends the context; otherwise the first is delivered and the others
are held (R435). -/
def State.boundary (s : State) (n : Nat) (ts : List Trapped) (pc : Dword) : State :=
  let fatal := ts.filter fun t => t.cause.isFatal
  match sortKey (fun (t : Trapped) => t.cause.code) fatal, ts with
  | t :: _, _ => s.takeTrap n t pc
  | [], [] => s
  | [], t :: rest =>
    (s.takeTrap n t pc).onCtx n fun c => if c.trap.tl then { c with trap := { c.trap with held := c.trap.held ++ rest } } else c

/-- A bundle's routines are over: the causes that waited for them, with the one that a routine raised, strike (R435), or
the `halt` of the bundle takes effect (R140). (DEDUCED: log 20) -/
def State.closeRoutines (s : State) (n : Nat) (raised : Option Trapped) : State :=
  let c := s.ctx n
  let s := (s.meetNeeds n).onCtx n fun c => { c with routines := [], after := [], afterPost := [] }
  let s := c.routines.foldl (fun s r => s.freeFrames n r.bind.key) s
  if c.life.halting then s.haltContext n else s.boundary n (c.after ++ raised.toList ++ c.afterPost) c.pc

/-- A routine that cannot go on: its held writes are dropped, its signal is never made, and no later routine of the bundle
runs (R348, R350). The binding goes with it where its page was not to be had, or where it had failed before the routine
began (R359, R361). -/
def State.endRefused (s : State) (n : Nat) (r : Routine) (t : Trapped) : State :=
  let sigs := (s.ctx n).routines.filterMap (·.sig)
  (s.onCtx n fun c => { c with port := { c.port with queue := c.port.queue.filter fun q => !sigs.contains q.id } }).closeRoutines n
    (some t) |> fun s => if r.refuse.isSome || (!r.started && r.bind.failed) then s.unbind n r.bind.key else s

/-- A routine's exit (R346): its held writes land before the next bundle as writes of its own bundle. -/
def State.exitRoutine (s : State) (n : Nat) (r : Routine) : State :=
  let c := s.ctx n
  let targets := r.held.filterMap Effect.target
  let entry := fun (e : Effect) =>
    ({ due := c.level.count, seq := r.seq, slot := r.slot, eff := e, sig := none } : Deferred)
  let es := (r.held ++ [Effect.vector 0 [] r.flags]).map entry
  let s := s.onCtx n fun c =>
    let rest := (c.routines.drop 1).map fun (q : Routine) => { q with others := q.others ++ targets }
    let c := { c with routines := rest }.sampleStop
    let c := c.onLevel fun l => { l with deferred := l.deferred ++ es }
    c.completeSignal r.sig
  let s := s.freeFrames n r.bind.key
  if (s.ctx n).routines.isEmpty then s.closeRoutines n none else s

/-- BOUND_ROUTINE_START: the waits of R344 are over and the first step may run; a binding that failed is refused without a
step (R361). -/
def execBoundRoutineStart (n : Nat) (s : State) : Host.Outcome State Fault Refusal :=
  let c := s.ctx n
  match c.routines with
  | [] => .next s
  | r :: rest =>
    let live := c.life.state == .ready || (c.life.state == .stalled && !c.life.stopping)
    if r.started || !live || s.startWait n r ≠ .none then .next s
    else
      let turn := s.turnOf (coreOf n) == some n
      let s := (s.beforeReady n).onCtx n fun c => { c with life := { c.life with state := .ready, wait := .none } }
      if r.refuse.isSome || r.bind.failed then
        let t := s.endRefused n r ⟨.refused, r.info (r.refuse.getD 0x0B)⟩
        .next (if turn then t.chargeTurn (coreOf n) n 0 true else t)
      else
        let s := s.useFrame (coreOf n) r.bind.key r.page false
        .next (s.onCtx n fun c => { c with routines := { r with started := true } :: rest })

/-! ## Micro-steps (R337 to R347, R350) -/

/-- Op field A, B, C or D, by index. -/
def Routine.field (r : Routine) (k : Nat) : BitVec 7 :=
  match k with
  | 0 => r.f.a
  | 1 => r.f.b
  | 2 => r.f.c
  | _ => r.f.d

/-- The context as the routine reads its registers (R345). -/
def State.routineView (s : State) (n : Nat) (r : Routine) : Ctx :=
  { s.ctx n with regs := { r.regs with mt := (s.ctx n).regs.mt } }

/-- Is a vector register outside VMASK (R350)? -/
def Routine.vregBad (r : Routine) (o : Nat × Nat) : Bool :=
  match o.1 with
  | 1 => !r.bind.vmask.getLsbD o.2
  | 2 => (r.field (o.2 % 4)).toNat < 64 && !r.bind.vmask.getLsbD (r.field (o.2 % 4)).toNat
  | _ => false

/-- The tile and the row that a step's tile port names. -/
def Routine.tile (r : Routine) (w : MicroWord) : Nat :=
  match w.bits 116 3 with
  | 0 => w.bits 119 4
  | k => (r.field (k - 1)).toNat
def Routine.row (r : Routine) (w : MicroWord) : Nat :=
  match w.bits 123 2 with
  | 0 => w.bits 125 6
  | 1 => r.micro.ag0.addr % 64
  | _ => r.micro.ag1.addr % 64
def MicroWord.tseg (w : MicroWord) : Nat := if w.bit 131 then 1 else 0

/-- The check of the tile port (R341). -/
def State.tilePortBad (s : State) (n : Nat) (r : Routine) (w : MicroWord) : Option Nat :=
  let t := r.tile w
  let x := (s.ctx n).tctl t
  if w.tport = 0 then none
  else if 12 ≤ t || !r.bind.tmask.getLsbD t then some 0x05
  else if !tctlValid x || tctlRows x ≤ r.row w || (w.tseg = 1 && tctlRowBytes x ≤ 512) then some 0x06
  else none

/-- The checks of a scratchpad port (R342). -/
def Routine.spPortBad (r : Routine) (w : MicroWord) (on : Bool) (addr : Nat) : Option Nat :=
  if !on then none
  else if w.bmask &&& r.bind.banks.toNat != w.bmask then some 0x07
  else if addr % 32 ≠ 0 then some 0x08
  else if (touchedUnits w.bmask addr).any fun a => a < r.bind.spBase || r.bind.spBase + r.bind.spSize < a + 32 then some 0x09
  else none

/-- The reason for which a step is refused (R350). -/
def State.stepBad (s : State) (n : Nat) (r : Routine) (w : MicroWord) : Option Nat :=
  if w.malformed false then some 0x01
  else if w.sources.any r.vregBad then some 0x03
  else if w.dst.1 = 2 && 64 ≤ (r.field (w.dst.2 % 4)).toNat then some 0x04
  else if r.vregBad w.dst then some 0x03
  else (s.tilePortBad n r w).or
    ((r.spPortBad w w.sprd r.micro.ag0.addr).or (r.spPortBad w w.spwr r.micro.ag1.addr))

/-- The active lanes of a step (R343). -/
def Routine.lanes (r : Routine) (w : MicroWord) (view : Ctx) : BitVec 128 :=
  match w.bits 60 2 with
  | 0 => BitVec.allOnes 128
  | 1 => laneMask view r.h
  | 2 => view.q (w.bits 56 4)
  | _ => BitVec.ofNat 128 (2 ^ (w.bits 56 4 + 1) - 1)

/-- The 512 bytes that the tile port reads. -/
def State.tileRead (s : State) (n : Nat) (r : Routine) (w : MicroWord) : List Byte :=
  let c := s.ctx n
  let t := r.tile w
  let rb := tctlRowBytes (c.tctl t)
  (List.range 512).map fun i =>
    let o := 512 * w.tseg + i
    if o < rb then c.tileByte t (r.row w * rb + o) else 0

/-- The 512 bytes that the read port reads; units that it does not touch read as zero. -/
def State.spRead (s : State) (n : Nat) (w : MicroWord) (addr : Nat) : List Byte :=
  let us := touchedUnits w.bmask addr
  (List.range 16).flatMap fun u =>
    if us.contains (addr + 32 * u) then s.spBytes n (addr + 32 * u) 32 else List.replicate 32 0

/-- Lanes of a micro-temporary. -/
def Ctx.mtLanes (c : Ctx) (k : Nat) : List Word := lookupList 0 (128 * k) 128 c.regs.mt

/-- A source of a step (Table 12.3). -/
def State.microSource (s : State) (n : Nat) (r : Routine) (w : MicroWord) (view : Ctx) (k : Nat) : List Word :=
  let o := w.src k
  match o.1 with
  | 1 => view.lanes o.2
  | 2 => vecSource view (w.srcWidth k) (r.field (o.2 % 4))
  | 3 => view.mtLanes o.2
  | 4 => bytesLanes 128 (s.tileRead n r w)
  | 5 => bytesLanes 128 (s.spRead n w r.micro.ag0.addr)
  | 6 => List.replicate 128 (BitVec.ofNat 32 w.imm)
  | _ => List.replicate 128 0

/-- Writes over a list of lanes. -/
def applyLanes (ls : List Word) (ws : List LaneWrite) : List Word :=
  ws.foldl (fun ls x => ls.modify x.1 fun v => (v &&& ~~~x.2.1) ||| (x.2.2 &&& x.2.1)) ls

/-- The vector register that a step's destination names. -/
def Routine.destReg (r : Routine) (w : MicroWord) : Nat := if w.dst.1 = 1 then w.dst.2 else (r.field (w.dst.2 % 4)).toNat

/-- Does a lane write take byte i of 512? -/
def laneByte (ws : List LaneWrite) (i : Nat) : Bool :=
  ws.any fun x => x.1 == i / 4 && x.2.1.extractLsb' (8 * (i % 4)) 8 != 0#8

/-- Queued `tlds` ops that take effect after the routine's exit read what it stores, below the stores due before them
(R294, R347). -/
def Ctx.patchLoads (c : Ctx) (bs : List (Nat × Byte)) : Ctx :=
  let patch := fun (q : ArrayOp) =>
    let stores := (c.level.deferred.filter fun d => d.due < q.due).flatMap fun d => d.eff.stores
    let new := fun (p : Nat × Byte) =>
      if stores.any fun w => w.1 == p.1 then p.2 else ((bs.find? fun b => b.1 == p.1).map (·.2)).getD p.2
    if q.level == c.trap.tl && c.level.count ≤ q.due then { q with bytes := (q.reads.zip q.bytes).map new } else q
  { c with mat := { c.mat with queue := c.mat.queue.map patch } }

/-- A step's result at its destination: held for registers, made at once elsewhere (R345). (DEDUCED: log 54) -/
def State.microWrite (s : State) (n : Nat) (r : Routine) (w : MicroWord) (view : Ctx) (act : BitVec 128)
    (ws : List LaneWrite) (result : List Word) : State × Routine :=
  match w.dst.1 with
  | 1 | 2 =>
    let d := r.destReg w
    let v := view.setLanes d ws
    (s, { r with held := r.held ++ [.vector d ws 0], regs := v.regs })
  | 3 =>
    let k := 128 * w.dst.2
    let put := fun (c : Ctx) => { c with regs := { c.regs with mt := ws.foldl (fun m x =>
      sparseSet 0 (k + x.1) ((lookupD 0 (k + x.1) m &&& ~~~x.2.1) ||| (x.2.2 &&& x.2.1)) m) c.regs.mt } }
    (s.onCtx n put, { r with partMt := true })
  | 4 =>
    let rb := tctlRowBytes ((s.ctx n).tctl (r.tile w))
    let bs := ((List.range 512).zip (laneBytes result)).filterMap fun (i, b) =>
      let o := 512 * w.tseg + i
      if laneByte ws i && o < rb then some (r.row w * rb + o, b) else none
    (s.onCtx n fun c => c.setTileBytes (r.tile w) bs, { r with partT := true })
  | 5 =>
    let a := r.micro.ag1.addr
    let us := touchedUnits w.bmask a
    let bs := ((List.range 512).zip (laneBytes result)).filterMap fun (i, b) =>
      if laneByte ws i && us.contains (a + i / 32 * 32) then some (a + i, b) else none
    ((s.setSpBytes n bs).onCtx n fun c => c.patchLoads bs, { r with partSp := true })
  | 6 =>
    let d := (r.field (w.dst.2 % 4)).toNat % 64
    let lo := result.getD 0 0
    let hi := result.getD 1 0
    let x := BitVec.ofNat 64 (lo.toNat + 2 ^ 32 * hi.toNat)
    match act.getLsbD 0, act.getLsbD 1 with
    | true, true => (s, { r with held := r.held ++ [.scalar d x 0], regs := (view.setS d x).regs })
    | true, false => (s, { r with held := r.held ++ [.half d false lo], regs := (view.setS d (putHalf (view.s d) false lo)).regs })
    | false, true => (s, { r with held := r.held ++ [.half d true hi], regs := (view.setS d (putHalf (view.s d) true hi)).regs })
    | false, false => (s, r)
  | _ => (s, r)

/-- What a result replaces where its operation leaves lanes alone: what stands at its destination (R168, R339). -/
def State.microOld (s : State) (n : Nat) (r : Routine) (w : MicroWord) (view : Ctx) : List Word :=
  match w.dst.1 with
  | 1 | 2 => view.lanes (r.destReg w)
  | 3 => (s.ctx n).mtLanes w.dst.2
  | 6 =>
    let x := view.s ((r.field (w.dst.2 % 4)).toNat % 64)
    [x.extractLsb' 0 32, x.extractLsb' 32 32] ++ List.replicate 126 0
  | 4 => bytesLanes 128 (s.tileRead n r w)
  | 5 => bytesLanes 128 (s.spRead n w r.micro.ag1.addr)
  | _ => List.replicate 128 0

/-- One micro-word executed. (DEDUCED: log 55) -/
def State.executeWord (s : State) (n : Nat) (r : Routine) (w : MicroWord) : State × Routine :=
  let view := s.routineView n r
  let act := r.lanes w view
  let src := s.microSource n r w view
  let (ws, fl) := laneResult w.alu w.aty w.mode w.imm act (src 0) (src 1) (src 2)
  let result := applyLanes (s.microOld n r w view) ws
  let (s, r) := s.microWrite n r w view act ws result
  let m := r.micro.setFlags (w.bit 62) act result
  let reg := fun (k : Nat) => (view.s ((r.field k).toNat % 64)).toNat
  (s, { r with flags := r.flags ||| fl, micro := m.finish w reg })

/-- A step has held a write of a register that another op of its bundle writes: WAW (R107). That it is set as the step
executes, which is when the write is first known, is the model's reading. (DEDUCED: log 55) -/
def State.noteHeld (s : State) (n : Nat) (before after : Routine) : State :=
  if (after.held.drop before.held.length).any fun e => e.target.any after.others.contains then
    s.onCtx n fun c => c.orCtxst CtxFlag.waw
  else s

/-- Is it the context's turn on its core (R349)? -/
def State.hasTurn (s : State) (n : Nat) : Bool := s.turnOf (coreOf n) == some n

/-- A routine that ends without a step, with what its turn has left settled: its bundle's charge may have ended it
(R99, R139, R349). -/
def State.stopRoutine (s : State) (n : Nat) (r : Routine) (t : Trapped) : State :=
  (s.endRefused n r t).chargeTurn (coreOf n) n 0 true

/-- MICRO_STEP: the first routine of a context executes one word, or ends (R337, R350, R351), after the switch cycle of R101; a
routine whose STEPS are at most 256 is not cut off by the end of a turn (R349). -/
def execMicroStep (n : Nat) (s : State) : Host.Outcome State Fault Refusal :=
  let c := s.ctx n
  match c.routines with
  | [] => .next s
  | r :: rest =>
    if !r.started || !s.hasTurn n || s.routineWait n ≠ .none then .next s
    else if let some reason := r.refuse then .next (s.stopRoutine n r ⟨.refused, r.info reason⟩)
    else if r.bind.steps ≤ r.micro.steps then .next (s.stopRoutine n r ⟨.stepover, r.info 0⟩)
    else if r.bind.words ≤ r.micro.mpc then .next (s.stopRoutine n r ⟨.refused, r.info 0x02⟩)
    else
      let w := s.word n r
      match s.stepBad n r w with
      | some reason => .next (s.stopRoutine n r ⟨.refused, r.info reason⟩)
      | none =>
        let core := coreOf n
        let s := (s.switchTo core n).useFrame core r.bind.key r.page false
        let (s, q) := s.executeWord n r w
        let s := (s.noteHeld n r q).onCtx n fun c => { c with routines := q :: rest }
        let s := if w.seq = 9 then s.exitRoutine n q else s
        .next ((s.passCycles core 1).chargeTurn core n 1 (w.seq = 9 || 256 < r.bind.steps))

end Sys2Proof.Machine
end

