-- ==== Sys2Proof/Machine/Collective.lean ====
section
/-!
DEFINITION. Collective step routines (R239, R240, R364): one micro-word of the collective store a step, over the step's two
local tensors, its micro-temporaries and the 512-byte units that other devices send.
-/
namespace Sys2Proof.Machine
open Sys2Proof

/-- The device that an entry of a step's device list names, and the VF there; none outside the list, or where the peer
entry is not valid (R240). -/
def State.collDevice (s : State) (j : Job) (list i : Nat) : Option (Nat × Nat) :=
  ((lookupD [] list (s.part (partOf j.vf)).lists)[i]?).bind fun d =>
    if d = s.fabxy then some (d, j.vf) else (s.peerVf j.vf d).map fun v => (d, v)

/-- The word of a partition's share that a step executes next; none outside the share. -/
def State.collWord (s : State) (j : Job) (mpc : Nat) : Option MicroWord :=
  let (base, n) := (s.part (partOf j.vf)).coll
  if mpc < n then some (lookupD 0 (base + mpc) s.coll) else none

/-- The address of a port's 512 bytes within a local tensor. -/
def Side.portAddr (x : Side) (off : Nat) : Nat := x.start.toNat + off

/-- The checks of a port: alignment, and every byte within the tensor (R239, R342). -/
def Side.portBad (x : Side) (on : Bool) (off : Nat) : Option Nat :=
  if !on then none
  else if off % 32 ≠ 0 then some 0x08
  else if x.extent.1 ≤ ((x.portAddr off : Nat) : Int) && ((x.portAddr off + 512 : Nat) : Int) ≤ x.extent.2 then none
  else some 0x09

/-- SEND[7], and SEND[5:0]. -/
def MicroWord.sends (w : MicroWord) : Bool := w.bit 156
def MicroWord.sendTo (w : MicroWord) : Nat := w.bits 149 6

/-- The reason for which a word of a collective routine is refused (R239, R240, R364); for a SEND that names no device the
manual gives no code, and the reason is a free value. (DEDUCED: log 50, DESIGN CHOICE: log 51) -/
def State.collBad (s : State) (j : Job) (st : Step) (w : MicroWord) : Option Nat :=
  if w.malformed true then some 0x01
  else ((j.src.portBad w.sprd st.micro.ag0.addr).or (j.dst.portBad w.spwr st.micro.ag1.addr)).or
    (if w.sends && (s.collDevice j st.list w.sendTo).isNone then some ((Config.freeValue s.free).toNat % 256) else none)

/-- TRAPINFO of a refused step (Table 12.6), with the opcode of `coll`. (DEDUCED: log 52) -/
def Step.info (st : Step) (reason : Nat) : Dword :=
  BitVec.ofNat 64 (reason + (if st.mt.isEmpty then 0 else 2 ^ 10) + st.micro.mpc * 2 ^ 12 + st.micro.steps * 2 ^ 25 + 0x9E * 2 ^ 38)

/-- Sources of a word that take a received unit. -/
def MicroWord.receives (w : MicroWord) : List Nat := (List.range (aluSources w.alu)).filter fun k => (w.src k).1 == 7

/-- The oldest units received for a step's partition and device list: packet and bytes. (DEDUCED: log 53) -/
def State.unitsFor (s : State) (part list : Nat) : List (Nat × List Byte) :=
  s.packets.filterMap fun p =>
    match p.2.msg with
    | .unit q l bs => if p.2.dst = s.fabxy && q = part && l = list then some (p.1, bs) else none
    | _ => none

/-- The virtual addresses that a word reads and writes in memory. -/
def Job.stepReads (j : Job) (st : Step) (w : MicroWord) : List Nat :=
  if w.sprd && j.src.space == 0 && w.sources.any fun o => o.1 == 5 then
    (List.range 512).map fun i => j.src.portAddr st.micro.ag0.addr + i
  else []
/-- The bytes of the scratchpad that a word reads. -/
def Job.stepWindow (j : Job) (st : Step) (w : MicroWord) : List Nat :=
  if w.sprd && j.src.space != 0 && w.sources.any fun o => o.1 == 5 then
    (List.range 512).map fun i => j.src.portAddr st.micro.ag0.addr + i
  else []
/-- The bytes of device memory that a word writes. -/
def Job.stepWrites (j : Job) (st : Step) (w : MicroWord) : List Nat :=
  if w.dst.1 == 5 && j.dst.space == 0 then (List.range 512).map fun i => j.dst.portAddr st.micro.ag1.addr + i else []

/-- The bytes that a word reads from the input tensor: those of the read in progress, or the window's. -/
def State.stepInput (s : State) (j : Job) (st : Step) : List Byte :=
  let a := j.src.portAddr st.micro.ag0.addr
  if j.src.space = 0 then
    let bs := ((j.beats.find? fun b => b.num == st.micro.steps).map (·.bytes)).getD []
    (List.range 512).map fun i => lookupD 0 (a + i) bs
  else s.spBytes j.ctx a 512

/-- The bytes that lane writes make, with their masks (R168, R339). -/
def laneByteWrites (ws : List LaneWrite) : List (Nat × Byte × Byte) :=
  (List.range 512).filterMap fun i =>
    let x := ws.foldl (fun (x : Byte × Byte) w =>
      let m := w.2.1.extractLsb' (8 * (i % 4)) 8
      let v := w.2.2.extractLsb' (8 * (i % 4)) 8
      if w.1 = i / 4 then (x.1 ||| m, (x.2 &&& ~~~m) ||| (v &&& m)) else x) (0, 0)
    if x.1 = 0 then none else some (i, x)

/-- A word executed: its result sent or written, its flags and address generators, and the units it took. -/
def State.runStep (s : State) (j : Job) (st : Step) (w : MicroWord) : State × Option Trapped :=
  let units := s.unitsFor (partOf j.vf) st.list
  let taken := units.take w.receives.length
  let mtOf := fun (k : Nat) => lookupList (0 : Word) (128 * k) 128 st.mt
  let src := fun (k : Nat) =>
    match (w.src k).1 with
    | 3 => mtOf (w.src k).2
    | 5 => bytesLanes 128 (s.stepInput j st)
    | 6 => List.replicate 128 (BitVec.ofNat 32 w.imm)
    | 7 => bytesLanes 128 ((taken.getD (w.receives.findIdx fun x => x == k) (0, [])).2)
    | _ => List.replicate 128 0
  let act := BitVec.allOnes 128
  let (ws, _) := laneResult w.alu w.aty w.mode w.imm act (src 0) (src 1) (src 2)
  let result := applyLanes (if w.dst.1 = 3 then mtOf w.dst.2 else List.replicate 128 0) ws
  let bs := laneBytes result
  let st' := { st with
    micro := (st.micro.setFlags (w.bit 62) act result).finish w fun _ => 0
    mt := if w.dst.1 = 3 then sparseSetList 0 (128 * w.dst.2) result st.mt else st.mt }
  let s := taken.foldl (fun s u => s.dropPacket u.1) s
  let n := st.micro.steps
  let s := s.onJob j.id fun j => { j with step := some st', beats := j.beats.filter fun b => b.num != n }
  let s := if w.sends then
      match s.collDevice j st.list w.sendTo with
      | some (d, v) => s.send d (.unit (partOf v) st.list bs)
      | none => s
    else s
  if w.dst.1 = 5 then
    let a := j.dst.portAddr st.micro.ag1.addr
    let out := (laneByteWrites ws).map fun w => (a + w.1, w.2)
    if j.dst.space = 0 then
      let (t, bad) := s.masterWrites j.path j.vf j.k.kindle out
      (t.visitAddrs j.path j.vf ((List.range 8).map fun i => a + 64 * i) j.dst.hint, bad)
    else (s.landLocal j.ctx none out, none)
  else (s, none)

/-- The routine has exited: the step completes as a job (R224, R239). -/
def State.exitStep (s : State) (j : Job) : State :=
  let s := s.subBytes j j.bytes
  match s.job? j.id with
  | some j => s.completeJob { j with step := none }
  | none => s

/-- A word whose input has been asked for: it is executed once its bytes are there (R233, R364). -/
def State.stepOn (s : State) (j : Job) (st : Step) (w : MicroWord) (reads : List Nat) : State :=
  let b := j.beats.find? fun b => b.num == st.micro.steps
  match b.bind (·.fault), (j.stepWindow st w).find? (s.spBad j.ctx) with
  | some t, _ => s.jobFault j t
  | none, some a => s.jobFault j ⟨.ecc, BitVec.ofNat 64 a⟩
  | none, none =>
    if reads.all fun a => b.any fun b => (lookup? a b.bytes).isSome then
      match s.runStep j st w with
      | (s, some t) => s.jobFault j t
      | (s, none) => if w.seq = 9 then s.exitStep j else s
    else s

/-- A word whose checks have passed: its translations, holds and data must be there, and each unit it takes. -/
def State.performStep (s : State) (j : Job) (st : Step) (w : MicroWord) : State :=
  let reads := j.stepReads st w
  let writes := j.stepWrites st w
  let n := st.micro.steps
  if (s.unitsFor (partOf j.vf) st.list).length < w.receives.length || (s.engineMissing j (reads ++ writes)).isSome ||
      !s.mayLand j writes || (w.sends && !(s.collDevice j st.list w.sendTo).any fun d => s.reachable d.1) then s
  else
    match (s.engineViolation j .read reads).or (s.engineViolation j .write writes) with
    | some (r, va) => s.violateJob j r va
    | none =>
      let s := if j.beats.any (fun b => b.num == n) || reads.isEmpty then s
        else s.onJob j.id fun j => { j with beats := j.beats ++ [{ num := n }] }
      match if reads.isEmpty then some (.ok s) else s.readLocal j n reads with
      | none => s
      | some (.error (t, s)) => s.jobFault j t
      | some (.ok t) =>
        match t.job? j.id with
        | none => s
        | some i => (t.stepOn i st w reads).visitAddrs j.path j.vf (s.readBetween t j n reads) j.src.hint

/-- May a step's routine begin? -/
def State.stepReady (s : State) (j : Job) : Bool := j.started || s.couldStart j 0

/-- The address at which a step that stands at its `n`-th word lacks a translation. -/
def State.stepMiss (s : State) (j : Job) (n : Nat) : Option Nat :=
  j.step.bind fun st => (s.collWord j st.micro.mpc).bind fun w =>
    if n = st.micro.steps && st.micro.steps < st.bound && s.stepReady j && (s.collBad j st w).isNone then
      s.engineMissing j (j.stepReads st w ++ j.stepWrites st w)
    else none

/-- COLLECTIVE_MICRO_STEP: the fabric endpoint executes one word of a step's routine. -/
def execCollectiveMicroStep (job : Nat) (s : State) : Host.Outcome State Fault Refusal :=
  match s.job? job with
  | none => .next s
  | some j =>
    match j.step with
    | none => .next s
    | some st =>
      if j.frozen || !s.stepReady j then .next s
      else
        let s := if j.started then s else (s.flushCtx j.ctx).onJob job fun j => { j with started := true }
        if st.bound ≤ st.micro.steps then .next (s.jobFault j ⟨.stepover, st.info 0⟩)
        else
          match s.collWord j st.micro.mpc with
          | none => .next (s.jobFault j ⟨.refused, st.info 0x02⟩)
          | some w =>
            match s.collBad j st w with
            | some r => .next ({ s with free := s.free + 1 }.jobFault j ⟨.refused, st.info r⟩)
            | none => .next (s.performStep j st w)

end Sys2Proof.Machine
end

