-- ==== Sys2Proof/Machine/Control.lean ====
section
/-!
DEFINITION. Meanings of the S-slot ops that control: branches and loops (R120 to R126), control registers (R112 to
R114), tile shapes and tensor descriptors (R128 to R130), semaphores (R132, R133), bindings (R134, R135), traps, handler
return and the end of a context (R136 to R140).
-/
namespace Sys2Proof.Machine
open Sys2Proof

/-! ## Transfers (R120, R121) -/

/-- The address of the op plus 16 × OFF (R85). -/
def branchTarget (s : State) (f : Branch) : Dword := s.iss.opAddr + 16 * signExt f.off

/-- An S-slot transfer is taken: fetch goes to the target after the whole bundle (R126). -/
def State.transfer (s : State) (target : Dword) : State := s.onIss fun x => { x with ts := some target }

/-- A transfer to a register's value, which must be 16-byte aligned (R120). -/
def State.transferIndirect (s : State) (target : Dword) : State :=
  if target.extractLsb' 0 4 != 0 then s.raise ⟨.misalign, target⟩ else s.transfer target

/-- A return address pushed; CALLDEPTH with 64 entries in use (R121). -/
def State.pushReturn (s : State) (k : State → State) : State :=
  if 64 ≤ s.cur.ctl.ret.length then s.raise (permInfo 1)
  else k (s.onCur fun c => { c with ctl := { c.ctl with ret := s.iss.next :: c.ctl.ret } })

/-- `br` (R120). -/
def execBr (h : Hdr) (f : Branch) (s : State) : Host.Outcome State Fault Refusal :=
  .next (s.guarded h fun s => (s.signalNow h).transfer (branchTarget s f))

/-- `bri` (R120). -/
def execBri (h : Hdr) (f : Branch) (s : State) : Host.Outcome State Fault Refusal :=
  .next (s.guarded h fun s => (s.signalNow h).transferIndirect (s.cur.s f.a.toNat))

/-- `call` (R120, R121). -/
def execCall (h : Hdr) (f : Branch) (s : State) : Host.Outcome State Fault Refusal :=
  .next (s.guarded h fun s => (s.signalNow h).pushReturn fun t => t.transfer (branchTarget s f))

/-- Indirect `call` (R120, R121). Of a misaligned target and a full return stack the target is reported.
(DESIGN CHOICE: log 116) -/
def execCallIndirect (h : Hdr) (f : Branch) (s : State) : Host.Outcome State Fault Refusal :=
  .next (s.guarded h fun s =>
    let target := s.cur.s f.a.toNat
    if target.extractLsb' 0 4 != 0 then s.raise ⟨.misalign, target⟩
    else (s.signalNow h).pushReturn fun t => t.transfer target)

/-- `ret` (R120, R121). -/
def execRet (h : Hdr) (_f : Branch) (s : State) : Host.Outcome State Fault Refusal :=
  .next (s.guarded h fun s =>
    match s.cur.ctl.ret with
    | [] => s.raise (permInfo 2)
    | top :: rest =>
      ((s.signalNow h).onCur fun c => { c with ctl := { c.ctl with ret := rest } }).transfer top)

/-! ## The loop unit (R123, R125) -/

/-- ACTIVE := 0 for levels n to 5. -/
def Ctx.deactivateFrom (c : Ctx) (n : Nat) : Ctx :=
  c.onLevel fun v =>
    { v with loops := ((List.range 6).zip v.loops).map fun (i, l) => if n ≤ i then { l with active := false } else l }

/-- The count of a `loop`: an immediate or a register (R123). -/
def loopCount (c : Ctx) (f : Branch) : Dword :=
  if f.fn.getLsbD 6 then (f.fn.extractLsb' 0 6).zeroExtend 64 else c.s (f.fn.extractLsb' 0 6).toNat

/-- `loop` (R123). -/
def execLoop (h : Hdr) (f : Branch) (s : State) : Host.Outcome State Fault Refusal :=
  .next (s.guarded h fun s =>
    let n := f.a.toNat
    let count := loopCount s.cur f
    let last := branchTarget s f
    let t := (s.signalNow h).onCur fun c => c.deactivateFrom n
    if count = 0 then t.transfer (last + 16)
    else t.onCur fun c => c.setLoop n { lc := count, start := s.iss.next, stop := last, active := true })

/-- `lbrk` (R125). -/
def execLbrk (h : Hdr) (f : Branch) (s : State) : Host.Outcome State Fault Refusal :=
  .next (s.guarded h fun s =>
    ((s.signalNow h).onCur fun c => c.deactivateFrom f.a.toNat).transfer (branchTarget s f))

/-! ## Control registers (R112 to R114, Table 4.2) -/

/-- CTXST (Table 4.3). -/
def ctxstWord (c : Ctx) : Nat :=
  c.ctl.ctxst.toNat + (if c.trap.tl then 2 ^ 8 else 0) + (if c.id.kind = .eval then 2 ^ 10 else 0) +
    (if c.id.kind = .data then 2 ^ 11 else 0)

/-- TRAPCAUSE (Table 15.2). -/
def trapCauseWord (c : Ctx) : Nat :=
  c.trap.cause.toNat + (if c.trap.replay then 2 ^ 8 else 0) + c.trap.held.length * 2 ^ 10

/-- REDLOG word j: entry j / 3, its address, op word or operand (Table 4.2). -/
def redlogWord (c : Ctx) (j : Nat) : Dword :=
  match c.ctl.redlog[j / 3]? with
  | none => 0
  | some e => if j % 3 = 0 then e.addr else if j % 3 = 1 then e.opWord else e.operand

/-- The control register a number names (Table 4.2), as it stands. -/
def State.readControl (s : State) (n num : Nat) : Dword :=
  let c := s.ctx n
  let core := coreOf n
  match num with
  | 0x000 => BitVec.ofNat 64 n
  | 0x001 => BitVec.ofNat 64 c.id.vf
  | 0x002 => BitVec.ofNat 64 (core + if isLean core then 256 else 0)
  | 0x003 => BitVec.ofNat 64 s.fabxy
  | 0x004 => BitVec.ofNat 64 c.id.semBase
  | 0x005 => BitVec.ofNat 64 c.id.semCount
  | 0x006 => (s.core core).cycle
  | 0x007 => BitVec.ofNat 64 (s.part (partOf c.id.vf)).limit
  | 0x008 => BitVec.ofNat 64 c.ctl.ret.length
  | 0x010 => BitVec.ofNat 64 (ctxstWord c)
  | 0x011 => c.ctl.ctxctl.zeroExtend 64
  | 0x018 => BitVec.ofNat 64 (trapCauseWord c)
  | 0x019 => c.trap.pc
  | 0x01A => c.trap.info
  | 0x01B => c.trap.handler
  | 0x020 => c.ctl.fpstat.zeroExtend 64
  | 0x021 => c.ctl.dmgSat
  | 0x022 => c.ctl.dmgZero
  | 0x023 => c.ctl.dmgSac
  | 0x024 => c.ctl.landLate
  | 0x028 => BitVec.ofNat 64 (c.ctl.redlog.length + if c.ctl.overrun then 64 else 0)
  | 0x029 => BitVec.ofNat 64 c.ctl.chain.length
  | _ =>
    if num < 0x040 then (c.tctl (num - 0x030)).zeroExtend 64
    else if num < 0x100 then (c.loop (num - 0x040)).lc
    else if num < 0x160 then redlogWord c (num - 0x100)
    else c.ctl.chain.getD (num - 0x160) 0

/-- May the register be written at the context's trap level (Table 4.2)? -/
def controlWritable (tl : Bool) (num : Nat) : Bool :=
  num = 0x010 || num = 0x011 || num = 0x01B || (0x020 ≤ num && num ≤ 0x024) || (0x040 ≤ num && num ≤ 0x045) ||
    (tl && 0x018 ≤ num && num ≤ 0x01A)

/-- `mfk` (R112, R113). -/
def execMfk (h : Hdr) (f : Tri) (s : State) : Host.Outcome State Fault Refusal :=
  .next (s.guarded h fun s => s.timed h 1 (.scalar f.d.toNat (s.readControl s.iss.cur f.imm.toNat) 0))

/-- `mtk` (R112, R113): CTLWRITE where the register is read-only at the level. -/
def execMtk (h : Hdr) (f : Tri) (s : State) : Host.Outcome State Fault Refusal :=
  .next (s.guarded h fun s =>
    if controlWritable s.cur.trap.tl f.imm.toNat then s.timed h 1 (.control f.imm.toNat (s.cur.s f.a.toNat))
    else s.raise (permInfo 3))

/-! ## Tile control and tensor descriptors (R128 to R130) -/

/-- The shape conditions of `tset` (R128). -/
def tsetShapeOk (t rows cols : Nat) : Bool :=
  rows != 0 && rows ≤ 64 && cols != 0 && cols ≤ 256 && rows * cols * Ty.width t ≤ 65536 &&
    (!(t == Ty.s4 || t == Ty.s8 || t == Ty.e4m3 || t == Ty.q4x) || cols % 32 == 0)

/-- `tset` (R128, Table 4.6). -/
def execTset (h : Hdr) (f : Tri) (s : State) : Host.Outcome State Fault Refusal :=
  .next (s.guarded h fun s =>
    let rows := f.imm.extractLsb' 0 7
    let cols := f.imm.extractLsb' 7 9
    if tsetShapeOk h.typ rows.toNat cols.toNat then
      s.timed h 1 (.tctl f.d.toNat (f.imm.extractLsb' 16 6 ++ cols ++ rows ++ 1#1 ++ h.ty))
    else s.raise (tileShape 4 f.d.toNat))

/-- The least byte offset at or above `lo` and below `hi` with a bit of the image set. -/
def firstSet (bs : List Byte) (lo hi : Nat) : Option Nat :=
  (List.range hi).find? fun i => lo ≤ i && bs.getD i 0 != 0

/-- The checks of R130, in their order: the offset of the first that fails. -/
def descriptorFault (bs : List Byte) : Option Nat :=
  let ctrl := imageField bs 16 8
  let ty := ctrl % 16
  let ndim := ctrl / 16 % 8
  let scale := imageField bs 8 8
  let reserved :=
    if bs.getD 16 0 &&& 0x80 != 0 then some 16
    else match firstSet bs 18 32 with
      | some i => some i
      | none => firstSet bs 104 128
  let counts := (List.range 6).find? fun i => (imageField bs (32 + 4 * i) 4 != 0) != (decide (i < ndim))
  let strides := (List.range 6).find? fun i => ndim ≤ i && imageField bs (56 + 8 * i) 8 != 0
  if imageField bs 0 8 ≥ 2 ^ 52 then some 0
  else if scale ≥ 2 ^ 52 then some 8
  else if ty = 15 then some 16
  else if ndim = 0 ∨ 6 < ndim then some 16
  else if reserved.isSome then reserved
  else if let some i := counts then some (32 + 4 * i)
  else if let some i := strides then some (56 + 8 * i)
  else if imageField bs 56 8 ≠ 0 then some 56
  else if ty = Ty.q4x ∧ scale = 0 then some 8
  else if scale ≠ 0 ∧ !(ty == Ty.q4x || ty == Ty.e4m3 || ty == Ty.s8 || ty == Ty.s4) then some 8
  else if scale ≠ 0 ∧ imageField bs 32 4 % 32 ≠ 0 then some 32
  else none

/-- The descriptor in an image (Table 4.10). -/
def descriptorOf (bs : List Byte) : Desc where
  base    := BitVec.ofNat 64 (imageField bs 0 8)
  scale   := BitVec.ofNat 64 (imageField bs 8 8)
  ctrl    := BitVec.ofNat 64 (imageField bs 16 8)
  counts  := (List.range 6).map fun i => BitVec.ofNat 32 (imageField bs (32 + 4 * i) 4)
  strides := (List.range 6).map fun i => BitVec.ofNat 64 (imageField bs (56 + 8 * i) 8)

/-- `tdset` (R129, R130). -/
def execTdset (h : Hdr) (f : Tri) (s : State) : Host.Outcome State Fault Refusal :=
  .next (s.guarded h fun s =>
    let bs := laneBytes ((s.cur.lanes f.b.toNat).take 32)
    match descriptorFault bs with
    | some off => s.raise ⟨.tdinvalid, BitVec.ofNat 64 off⟩
    | none => s.timed h 1 (.descriptor f.imm.toNat (descriptorOf bs)))

/-! ## Semaphores (R132, R133) -/

/-- SEMRANGE of an op's own operand (R26). -/
def semOperandFault (s : State) (n : Nat) : Trapped := ⟨.semrange, BitVec.ofNat 64 (n + 256 * s.iss.pos + 2 * 2 ^ 11)⟩

/-- `hsig` (R132): the addition is held in program order as a signal is (R53). -/
def execHsig (h : Hdr) (f : Tri) (s : State) : Host.Outcome State Fault Refusal :=
  .next (s.guarded h fun s =>
    let n := (f.imm.extractLsb' 0 8).toNat
    let v := if f.fn.getLsbD 0 then (f.imm.extractLsb' 8 16).toNat else min (s.cur.s f.a.toNat).toNat 0xFFFF
    if s.cur.id.semCount ≤ n then s.raise (semOperandFault s n)
    else (s.addPort (blankReq (.signal n v))).1.signalNow h)

/-- `hget` (R133). -/
def execHget (h : Hdr) (f : Tri) (s : State) : Host.Outcome State Fault Refusal :=
  .next (s.guarded h fun s =>
    let n := (f.imm.extractLsb' 0 8).toNat
    if s.cur.id.semCount ≤ n then s.raise (semOperandFault s n)
    else s.timed h 1 (.scalar f.d.toNat (BitVec.ofNat 64 (s.sem s.iss.cur n)) 0))

/-! ## Bindings (R134, R135) -/

/-- The status of a binding record (Table 4.12), for a window of `win` bytes. -/
def bindStatus (win : Nat) (bs : List Byte) : Nat :=
  let steps := imageField bs 12 2
  let words := imageField bs 8 2
  let image := imageField bs 0 8
  if win < imageField bs 32 4 + imageField bs 36 4 then 1
  else if steps = 0 ∨ 4096 < steps then 2
  else if words = 0 ∨ 8192 < words ∨ words ≤ imageField bs 10 2 then 3
  else if image % 32 ≠ 0 ∨ 2 ^ 52 ≤ image then 4
  else if 2 ≤ imageField bs 14 1 ∨ imageField bs 15 1 ≠ 0 ∨ 2 ^ 12 ≤ imageField bs 24 2 ∨ imageField bs 28 4 ≠ 0 ∨
      (firstSet bs 40 64).isSome then 5
  else 0

/-- The binding a record describes (Table 4.11). -/
def bindingOf (bs : List Byte) : Binding where
  image  := BitVec.ofNat 64 (imageField bs 0 8)
  words  := imageField bs 8 2
  entry  := imageField bs 10 2
  steps  := imageField bs 12 2
  isM    := imageField bs 14 1 = 1
  vmask  := BitVec.ofNat 64 (imageField bs 16 8)
  tmask  := BitVec.ofNat 12 (imageField bs 24 2)
  banks  := BitVec.ofNat 16 (imageField bs 26 2)
  spBase := imageField bs 32 4
  spSize := imageField bs 36 4

/-- `wbind` (R134): the binding stands for bundles after its own. -/
def execWbind (h : Hdr) (f : Tri) (s : State) : Host.Outcome State Fault Refusal :=
  .next (s.guarded h fun s =>
    let bs := laneBytes ((s.cur.lanes f.b.toNat).take 16)
    let st := bindStatus s.cur.id.spSize bs
    let t := if st = 0 then s.onIss fun x => { x with bind := some (f.imm.toNat, some (bindingOf bs)) } else s
    t.timed h 1 (.scalar f.d.toNat (BitVec.ofNat 64 st) 0))

/-- `wunb` (R135). -/
def execWunb (h : Hdr) (f : Tri) (s : State) : Host.Outcome State Fault Refusal :=
  .next (s.guarded h fun s =>
    let st := if (lookup? f.imm.toNat s.cur.binds).isSome then 0 else 1
    (s.onIss fun x => { x with bind := some (f.imm.toNat, none) }).timed h 1 (.scalar f.d.toNat (BitVec.ofNat 64 st) 0))

/-- Word w of a binding (R135). -/
def bindingWord (b : Option Binding) (w : Nat) : Nat :=
  match b with
  | none => 0
  | some b =>
    if w = 0 then 1 + (if b.resident then 2 else 0) + (if b.isM then 4 else 0) + b.steps * 2 ^ 16
    else if b.resident then imageField b.hash (8 * (w - 1)) 8 else 0

/-- `wstat` (R135). -/
def execWstat (h : Hdr) (f : Tri) (s : State) : Host.Outcome State Fault Refusal :=
  .next (s.guarded h fun s =>
    s.timed h 1 (.scalar f.d.toNat (BitVec.ofNat 64 (bindingWord (lookup? f.imm.toNat s.cur.binds) f.fn.toNat)) 0))

/-! ## Traps, handler return, the end of a context (R136 to R140) -/

/-- A cause to be delivered after the bundle (R432). -/
def State.postCause (s : State) (t : Trapped) : State := s.onIss fun x => { x with post := some t }

/-- `trap`: SWTRAP after the bundle; NESTED at level 1 (R136). An op that traps after issue makes no signal (R30).
(DEDUCED: log 25) -/
def execTrap (h : Hdr) (f : Tri) (s : State) : Host.Outcome State Fault Refusal :=
  .next (s.guarded h fun s => s.postCause ⟨.swtrap, f.imm.zeroExtend 64⟩)

/-- `dbg`: BREAK after the bundle when CTXCTL.DBG is set at level 0; otherwise as `nop` (R137). -/
def execDbg (h : Hdr) (f : Tri) (s : State) : Host.Outcome State Fault Refusal :=
  .next (s.guarded h fun s =>
    if s.cur.ctl.ctxctl.getLsbD 1 && !s.cur.trap.tl then s.postCause ⟨.break_, f.imm.zeroExtend 64⟩
    else s.signalNow h)

/-- `eret`: a transfer to TRAPPC that leaves level 1 after its bundle; PERM at level 0 (R138). -/
def execEret (h : Hdr) (_f : Tri) (s : State) : Host.Outcome State Fault Refusal :=
  .next (s.guarded h fun s =>
    if s.cur.trap.tl then ((s.signalNow h).transfer s.cur.trap.pc).onIss fun x => { x with eret := true }
    else s.raise (permInfo 4))

/-- `yield` (R139). -/
def execYield (h : Hdr) (_f : Tri) (s : State) : Host.Outcome State Fault Refusal :=
  .next (s.guarded h fun s => (s.signalNow h).onIss fun x => { x with yield := true })

/-- `halt` (R140). -/
def execHalt (h : Hdr) (_f : Tri) (s : State) : Host.Outcome State Fault Refusal :=
  .next (s.guarded h fun s => (s.signalNow h).onIss fun x => { x with halt := true })

end Sys2Proof.Machine
end

