-- ==== Sys2Proof/Machine/Ember.lean ====
section
/-!
DEFINITION. The ember ops (R322 to R329), what the home agents do for them, and the end of an evaluation by EMBLIMIT
(R319).
-/
namespace Sys2Proof.Machine
open Sys2Proof

/-! ## Issue (R322) -/

/-- The pair of registers a pair op writes. -/
def pairTargets (f : MemF) : List (Nat × Nat) := [(0, f.d.toNat), (0, f.d.toNat + 1)]

/-- `emake` (R324). -/
def execEmake (h : Hdr) (f : MemF) (s : State) : Host.Outcome State Fault Refusal :=
  portOp h (memReq (.emake h f) f farAddr) [] (acceptFar 16 false) s
/-- `efill` (R325). -/
def execEfill (h : Hdr) (f : MemF) (s : State) : Host.Outcome State Fault Refusal :=
  portOp h (memReq (.efill h f) f farAddr) [] (acceptFar 16 false) s
/-- `epeek` (R328). -/
def execEpeek (h : Hdr) (f : MemF) (s : State) : Host.Outcome State Fault Refusal :=
  portOp h (memReq (.epeek h f) f farAddr) (pairTargets f) (acceptFar 8 true) s
/-- `efail` (R326). -/
def execEfail (h : Hdr) (f : MemF) (s : State) : Host.Outcome State Fault Refusal :=
  portOp h (memReq (.efail h f) f farAddr) [] (acceptFar 16 false) s
/-- `earm` (R327). -/
def execEarm (h : Hdr) (f : MemF) (s : State) : Host.Outcome State Fault Refusal :=
  portOp h (memReq (.earm h f) f farAddr) [] (acceptFar 16 false) s
/-- `estat` (R328). -/
def execEstat (h : Hdr) (f : MemF) (s : State) : Host.Outcome State Fault Refusal :=
  portOp h (memReq (.estat h f) f farAddr) (pairTargets f) (acceptFar 16 true) s

/-! ## At the home agent -/

/-- A store-like ember op that succeeded: its entry goes and its signal completes (R323). -/
def State.emberDone (s : State) (n : Nat) (r : PortReq) : State :=
  s.onCtx n fun c => { c with port := { c.port with queue := c.port.queue.filter fun q => q.id != r.id } }.completeSignal r.sig

/-- An ember op that writes meets its cell: EMBPAGE off EMB pages, nothing while a hold stands (R324, R419). -/
def State.atCell (s : State) (n id : Nat) (k : PortReq → Nat → State → State) : Host.Outcome State Fault Refusal :=
  match s.entry n id with
  | none => .next s
  | some r =>
    let waits := match s.xlatePort n r 0 with
      | .ok pa _ => s.isHeld pa 16
      | _ => false
    if waits || !s.releaseReady n r || (r.holdsAll && !s.canFlush n) then .next s
    else
      s.performing n id fun r s =>
        let s := if r.holdsAll then s.flushCtx n else s.releaseFirst n r
        match s.xlatePort n r 0 with
        | .ok pa true => s.visitOp (k r pa s) n r pa
        | .ok _ false => s.portFault n id (permInfo 0x30)
        | _ => s

/-- Is a CTRL dword well-formed (R324)? -/
def recipeOk (ctrl : Dword) : Bool :=
  ctrlCause ctrl == 0 && ctrl.extractLsb' 58 2 == 0 && ctrlPlace ctrl != 3 && ctrl.extractLsb' 0 4 == 0

/-- EMAKE_PERFORM (R324). -/
def execEmakePerform (n id : Nat) (s : State) : Host.Outcome State Fault Refusal :=
  s.atCell n id fun r pa s =>
    match r.work with
    | .op (.emake _ _) =>
      let set := (s.region (s.ctx n).id.vf r.addr.toNat).elim 0 (·.set)
      if !recipeOk r.w2 then s.portFault n id (permInfo 0x32)
      else if ctrlSet r.w2 ≠ set then s.portFault n id (permInfo 0x33)
      else if s.tag pa = 2 then s.portFault n id ⟨.embstore, r.addr⟩
      else ((s.setTag pa 1).setBytes pa (bytesLE 8 r.w1 ++ bytesLE 8 r.w2)).emberDone n r
    | _ => s

/-- Is the context the evaluator of the KINDLED cell (R325)? -/
def State.ownsCell (s : State) (n pa : Nat) : Bool := s.tag pa == 2 && (s.ownHearth n).any fun h => h.cell == pa

/-- EFILL_PERFORM (R325): a release, and a halting point (R252). -/
def execEfillPerform (n id : Nat) (s : State) : Host.Outcome State Fault Refusal :=
  s.atCell n id fun r pa s =>
    match r.work with
    | .op (.efill _ _) =>
      if !(s.ctx n).ctl.redlog.isEmpty then s.redFault n r
      else if s.ownsCell n pa then (s.fillCell pa (bytesLE 8 r.w1 ++ bytesLE 8 r.w2)).emberDone n r
      else s.portFault n id (permInfo 0x31)
    | _ => s

/-- EFAIL_PERFORM (R326). -/
def execEfailPerform (n id : Nat) (s : State) : Host.Outcome State Fault Refusal :=
  s.atCell n id fun r pa s =>
    match r.work with
    | .op (.efail _ _) =>
      if s.ownsCell n pa then (s.failCell pa (8 + r.w1.toNat % 8)).emberDone n r
      else s.portFault n id (permInfo 0x31)
    | _ => s

/-- EARM_PERFORM (R327). -/
def execEarmPerform (n id : Nat) (s : State) : Host.Outcome State Fault Refusal :=
  s.atCell n id fun r pa s =>
    match r.work with
    | .op (.earm _ _) => (if s.tag pa = 3 then (s.setTag pa 1).setCause pa 0 else s).emberDone n r
    | _ => s

/-- The status word of an address (Table 11.7). -/
def State.emberStatus (s : State) (vf va pa : Nat) (emb : Bool) : Dword :=
  if emb then
    let tag := s.tag (cellOf pa)
    let cause := if tag = 3 then ctrlCause (s.cellCtrl (cellOf pa)) else 0
    BitVec.ofNat 64 (tag + 16 * cause + 256 * (s.region vf va).elim 0 (·.set))
  else 4

/-- The hearth word of a cell (Table 11.8). -/
def State.hearthWord (s : State) (cell : Nat) : Dword :=
  match s.hearths.find? fun h => h.cell == cell with
  | none => 0
  | some h =>
    let waiters := (s.waiters.filter fun w => w.cell == cell).length
    BitVec.ofNat 64 (h.eval.getD 0 + (if h.eval.isSome then 2 ^ 10 else 0) + h.chain.length * 2 ^ 12 + waiters * 2 ^ 16 +
      (if (s.waitsOn cell).isEmpty then 0 else 2 ^ 29))

/-- Does the op return data of memory, which an uncorrectable error makes a fault (R202)? -/
def PortReq.readsWord (r : PortReq) : Bool :=
  match r.work with
  | .op (.epeek _ _) => true
  | _ => false

/-- A read of a cell without kindling it: two words at once (R328). -/
def State.peekCell (s : State) (n id : Nat) (second : PortReq → Nat → Bool → State → Dword) :
    Host.Outcome State Fault Refusal :=
  match s.entry n id with
  | none => .next s
  | some r =>
    let waits := match s.xlatePort n r 0 with
      | .ok pa _ => s.isHeld pa 8
      | _ => false
    if waits then .next s
    else
      s.performing n id fun r s =>
        match s.xlatePort n r 0 with
        | .ok pa emb =>
          let s := if emb then s else (s.syncLine n pa).staleLine n pa
          let status := s.emberStatus (s.ctx n).id.vf r.addr.toNat pa emb
          let word := second r pa emb s
          let s := s.visit (s.ctx n).id.vf (some r.addr.toNat) pa r.hint
          if r.readsWord && s.isBad pa 8 then s.portFault n id ⟨.ecc, 0⟩
          else s.onCtx n fun c =>
            let c := c.respond { id := id, words := [(r.dest, status), (r.dest + 1, word)] }
            c.acquiredBy r emb
        | _ => s

/-- EPEEK_PERFORM (R328). -/
def execEpeekPerform (n id : Nat) (s : State) : Host.Outcome State Fault Refusal :=
  match (s.entry n id).map (·.work) with
  | some (PortWork.op (.epeek _ _)) => s.peekCell n id fun _ pa _ s => s.dword pa
  | _ => .next s

/-- ESTAT_PERFORM (R328). -/
def execEstatPerform (n id : Nat) (s : State) : Host.Outcome State Fault Refusal :=
  match (s.entry n id).map (·.work) with
  | some (PortWork.op (.estat _ _)) => s.peekCell n id fun _ pa emb s => if emb then s.hearthWord (cellOf pa) else 0
  | _ => .next s

/-! ## EMBLIMIT (R319) -/

/-- EMBLIMIT_EXPIRY: a KINDLED cell of a region with a limit becomes FAULTED with TIMEOUT, and a placed evaluator ends
with EMBFAULT, whether READY, STALLED or SAVED. (DESIGN CHOICE: log 9) -/
def execEmblimitExpiry (cell : Nat) (s : State) : Host.Outcome State Fault Refusal :=
  match s.hearths.find? fun h => h.cell == cell with
  | none => .next s
  | some h =>
    if (s.region h.vf h.va).any fun r => r.limit != 0 then
      let s := s.failCell cell 1
      match h.eval with
      | none => .next s
      | some n =>
        let st := (s.ctx n).life.state
        if st == .ready || st == .stalled || st == .saved then
          let s := { s with saved := dropKey n s.saved }
          .next (s.retireFatal n (embFault 1 h.va) (s.ctx n).pc 0)
        else .next s
    else .next s

end Sys2Proof.Machine
end

