-- ==== Sys2Proof/Machine/Replay.lean ====
section
/-!
DEFINITION. The replay list (R432, R436): its entries sent again with the operands they captured, or discarded; and the
return from the handler (R138, R436).
-/
namespace Sys2Proof.Machine
open Sys2Proof

/-! ## Replay (R436) -/

/-- The scratchpad use that an entry captured (R189), with the address of a vector access as a whole. -/
def PortReq.scratchUse (r : PortReq) (size align : Nat) : ScratchUse := ⟨size, align, r.lanes⟩

/-- The check of R189 on a scratchpad op's captured addresses; none for any other op. -/
def State.scratchAgain (s : State) (n : Nat) (r : PortReq) : Option Trapped :=
  let sp := (s.ctx n).id.spSize
  match r.work with
  | .op (.lds h _) | .op (.sts h _) | .op (.vgat h _) | .op (.vsca h _) =>
    scratchFault sp (r.scratchUse (typeBytes h.typ) (typeBytes h.typ)) none
  | .op (.vlds _ _) | .op (.vsts _ _) => scratchFault sp (r.scratchUse 4 4) (some r.addr.toNat)
  | _ => none

/-- How a C-slot op enters the port: as at issue. A scratchpad op fails again the check that put it in the list, since
nothing of it has changed. -/
def acceptAgain : Accept := fun s n r =>
  match r.work with
  | .signal _ _ => .ok s
  | .op i =>
    match i with
    | .lds _ _ | .sts _ _ | .vlds _ _ | .vsts _ _ | .vgat _ _ | .vsca _ _ =>
      match s.scratchAgain n r with
      | some t => .error t
      | none => .ok s
    | .ldf h _ | .amo h _ | .cas h _ => acceptFar (typeBytes h.typ) true s n r
    | .stf h _ | .red h _ => acceptFar (typeBytes h.typ) false s n r
    | .vldf _ _ => acceptFar 64 true s n r
    | .vstf _ _ => acceptFar 64 false s n r
    | .pref _ _ | .fence _ _ => acceptBare s n r
    | .cflush _ _ | .gleave _ _ | .hsigr _ _ => acceptAlways false s n r
    | .resv _ _ => acceptResv s n r
    | .wta _ _ => acceptFar 8 true s n { r with deadline := s.wtaDeadline n r }
    | .epeek _ _ => acceptFar 8 true s n r
    | .estat _ _ => acceptFar 16 true s n r
    | .emake _ _ | .efill _ _ | .efail _ _ | .earm _ _ => acceptFar 16 false s n r
    | .bar _ _ => acceptBar s n r
    | .barr _ _ => acceptBarr s n r
    | .barw _ _ => acceptBarw s n r
    | .cpj _ _ | .cpc _ _ => acceptCards s n r
    | .coll _ _ => acceptColl s n r
    | .bbw _ _ => (acceptBbw s n r).map fun s => s.onCtx n Ctx.settleBbw
    | .sopen _ _ => acceptSopen s n r
    | .sst _ _ => acceptSeal 8 (fun r => natBytes 8 r.w1.toNat) s n r
    | .svst _ _ => acceptSeal 64 (fun r => r.vec) s n r
    | .spost _ _ => acceptSpost s n r
    | .svoid _ _ => acceptSvoid s n r
    | .swait _ _ => acceptSwait s n r
    | .sstat _ _ => acceptSstat s n r
    | .itake _ _ | .istat _ _ => acceptRing true s n r
    | .igive _ _ => acceptRing false s n r
    | _ => .ok s

/-- An entry that had passed its checks goes back into the port; a `bbw` waits on its counter again, and the
timeout of a `wta` starts anew on the core that sends it. (DESIGN CHOICE: log 159) -/
def State.requeue (s : State) (n : Nat) (r : PortReq) : State :=
  let r := { r with stage := .pending, landing := false, done := [], fails := [], immed := false }
  let put := fun (r : PortReq) => s.onCtx n fun c => { c with port := { c.port with queue := c.port.queue ++ [r] } }
  match r.work with
  | .op (.bbw _ f) => (put { r with stage := .waiting }).onCtx n fun c => c.wakeBbw f.a.toNat
  | .op (.wta _ _) => put { r with deadline := s.wtaDeadline n r }
  | _ => put r

/-- One entry of the list replayed. -/
def State.replayEntry (s : State) (n : Nat) (r : PortReq) : Except Trapped State :=
  if r.known then .ok (s.requeue n r) else acceptAgain s n r

/-- Request entries that an op's accesses take (R200, R388, R411); a flush of more lines than there are entries takes them all. -/
def State.requestLines (s : State) (n : Nat) (r : PortReq) : Nat :=
  match r.work with
  | .op (.pref _ f) => f.d.toNat + 1
  | .op (.cflush _ _) => min 1024 (max 1 (s.flushLines n r).length)
  | .op (.sst _ _) | .op (.svst _ _) => 1
  | _ => if r.cls.isSome || r.onIntake then 1 else 0

/-- Copy jobs of a context that are not over (R210). -/
def State.jobsOf (s : State) (n : Nat) : Nat := (s.jobs.filter fun j => j.ctx == n).length

/-- Does a context's work take entries of an engine between `s` and `t` that are not there: request entries (R200), landing
entries for operands (R437), queue entries (R210), scoreboard entries (R192)? -/
def State.exceeds (s t : State) (n : Nat) : Bool :=
  let lines := fun (u : State) => sumOf (s.requestLines n) (u.ctx n).port.queue
  let board := fun (u : State) => (u.core (coreOf n)).board.length
  (lines s < lines t && 1024 < lines t) || (s.jobsOf n < t.jobsOf n && 64 < t.jobsOf n) ||
    (board s < board t && 64 < board t) ||
    ((s.ctx n).landingReserved < (t.ctx n).landingReserved && 128 < (t.ctx n).landingUsed)

/-- What the replay of entries comes to: the state, the entries that stay in the list, and the first fault. -/
structure Resent where
  state : State
  left  : List PortReq
  fault : Option Trapped
  deriving DecidableEq, Repr

/-- Entries sent again in order (R436). One that faults again stays in the list with the later far accesses, which it
cancels (R202); any other op is still sent. An entry that an engine has no room for waits with those after it, as a bundle
would at issue (R101). (DEDUCED: log 136) -/
def State.resend (s : State) (n : Nat) (kept : List PortReq) (fault : Option Trapped) : List PortReq → Resent
  | [] => ⟨s, kept, fault⟩
  | r :: rest =>
    if fault.isSome && r.cls.isSome then s.resend n (kept ++ [r]) fault rest
    else match s.replayEntry n r with
      | .error t => s.resend n (kept ++ [r]) (fault.or (some t)) rest
      | .ok t => if s.exceeds t n then ⟨s, kept ++ r :: rest, fault⟩ else t.resend n kept fault rest

/-- The entries of the list that are to go before the next bundle sent again, as far as they can be (R436, R439). -/
def State.replayImmed (s : State) (n : Nat) : State :=
  let c := s.ctx n
  if !c.trap.list.any (·.immed) then s
  else
    let x := s.resend n [] none (c.trap.list.filter (·.immed))
    let t := x.state.onCtx n fun d =>
      { d with trap := { d.trap with list := mergeReplay (c.trap.list.filter fun r => !r.immed) x.left } }
    match x.fault with
    | some f => t.takeTrap n f c.pc
    | none => t

/-- Every entry of the list is to be sent again. -/
def Ctx.markReplay (c : Ctx) : Ctx :=
  { c with trap := { c.trap with list := c.trap.list.map fun r => { r with immed := true } } }

/-- The list discarded: no entry is performed, no result is written, no signal is made (R436). -/
def Ctx.discard (c : Ctx) (l : List PortReq) : Ctx :=
  let ids := (l.filter (·.known)).map (·.id)
  let gone := fun (d : Deferred) => match d.eff with
    | .landing id => ids.contains id
    | _ => false
  let sigs := (l.filterMap (·.sig)) ++ (c.allDeferred.filter gone).filterMap (·.sig)
  { c with
    lv0 := { c.lv0 with deferred := c.lv0.deferred.filter fun d => !gone d }
    lv1 := { c.lv1 with deferred := c.lv1.deferred.filter fun d => !gone d }
    port := { c.port with queue := c.port.queue.filter fun r => !sigs.contains r.id } }

/-! ## The return from the handler (R138, R436) -/

/-- Must the return still wait: for data of a level-1 result, or for the array? -/
def Ctx.returnWait (c : Ctx) : Wait :=
  if !c.lv1.deferred.all c.dataArrived then .landing
  else if (c.mat.queue.any fun q => q.level && !q.addrs.isEmpty) || c.lv1.deferred.any (fun d => c.awaitsArray d || c.awaitsResult d) then .busy
  else .none

/-- Every level-1 result and scratchpad effect still pending is applied, in the order of their due bundles (R138), up to a
load whose data hold an uncorrectable error, which is answered with true (R191). -/
def State.landLevel1 (s : State) (n : Nat) : State × Bool :=
  let ds := (s.ctx n).lv1.deferred
  ((sortKey id (ds.map (·.due))).eraseDups).foldl (fun (x : State × Bool) k =>
    let now := ds.filter fun d => d.due == k
    if x.2 || now.any (x.1.readsBad n) then (x.1, true)
    else
      let s := x.1.onCtx n fun c => { c with lv1 := { c.lv1 with deferred := c.lv1.deferred.filter fun d => d.due != k } }
      (s.landEntries n now, false)) (s, false)

/-- The return completes, unless a level-1 load meets an uncorrectable error: level 0 comes back; a held cause is delivered, or the replay list is replayed or discarded
(R436). -/
def State.finishReturn (s : State) (n : Nat) : State :=
  let (s, broken) := s.landLevel1 n
  let c := s.ctx n
  let s := if broken then s else s.onCtx n fun c =>
    { c with trap := { c.trap with tl := false }, lv1 := {}, pc := c.trap.pc, life := { c.life with returning := false } }
  if broken then s.retireFatal n ⟨.ecc, 0⟩ c.pc 0
  else match c.trap.held with
  | t :: rest => (s.onCtx n fun c => { c with trap := { c.trap with held := rest } }).takeTrap n t c.trap.pc
  | [] =>
    if c.trap.replay then (s.onCtx n Ctx.markReplay).replayImmed n
    else s.onCtx n fun d => { d.discard c.trap.list with trap := { d.trap with list := [] } }

/-- The return of a context whose `eret` has issued goes on as far as it can. (DEDUCED: log 16) -/
def State.tryReturn (s : State) (n : Nat) : State :=
  let c := s.ctx n
  if c.life.returning && c.routines.isEmpty && c.returnWait = .none && !c.trap.list.any (·.immed) then s.finishReturn n else s

end Sys2Proof.Machine
end

