-- ==== Sys2Proof/Machine/HostAccess.lean ====
section
/-!
DEFINITION. Host access over RDMA (R71, R321, R370 to R372, Table 13.3): the device-memory windows, the launch window with
its arming word (R35, R475), and the status window (R477, Table 17.8).
-/
namespace Sys2Proof.Machine
open Sys2Proof

/-! ## The status window (R477) -/

/-- STATE of a VF as the status block codes it. -/
def VfState.code : VfState → Nat
  | .free => 0
  | .active => 1
  | .resetting => 2

/-- Units of 32 bytes that a record occupies. -/
def unitsOf (r : List Byte) : Nat := (r.length + 31) / 32

/-- Bytes of the error ring that no record defines. -/
def openByte (i : Nat) : Byte := (Config.freeValue i).extractLsb' 0 8

/-- The bytes of a record's units, from unit `u` on; past its end nothing is stated. -/
def recordUnits (u : Nat) (r : List Byte) : List (Nat × Byte) :=
  (List.range (32 * unitsOf r)).map fun i => (32 * (u % 120) + i, r.getD i (openByte (32 * u + i)))

/-- The error ring: units written, and its bytes; a record that would pass the ring's end is preceded by a pad. -/
def errorRing (records : List (List Byte)) : Nat × Sparse Byte :=
  records.foldl (fun (x : Nat × Sparse Byte) r =>
    let put := fun (l : Sparse Byte) (ws : List (Nat × Byte)) => ws.foldl (fun l w => sparseSet 0 w.1 w.2 l) l
    let left := 120 - x.1 % 120
    let (u, l) :=
      if left < unitsOf r then
        (x.1 + left, put x.2 ((List.range (32 * left)).map fun i =>
          (32 * (x.1 % 120) + i, if i = 0 then 0 else openByte (32 * x.1 + i))))
      else x
    (u + unitsOf r, put l (recordUnits u r))) (0, [])

/-- SHORTFALL, with the thermal alarm in bit 63 (R207, R483). -/
def State.shortfallWord (s : State) (v : Vf) : Nat :=
  (v.shortfall.elim 0 fun p => p.1 + 2 ^ 8 * p.2) + if s.thermal then 2 ^ 63 else 0

/-- The 4,096 bytes of a VF's status window. (DEDUCED: log 95) -/
def State.statusWindow (s : State) (vf : Nat) : List Byte :=
  let v := s.vf vf
  let (pidx, ring) := errorRing v.records
  natBytes 8 (v.status + 2 ^ 8 * v.state.code + 2 ^ 16 * v.done) ++ natBytes 8 v.tag ++ natBytes 8 pidx ++
    natBytes 8 v.misroute ++ natBytes 8 (s.shortfallWord v) ++ natBytes 8 v.detail ++ List.replicate 208 0 ++
    lookupList 0 0 3840 ring

/-- A command of a VF that is over: its status, TAG and DETAIL (Table 17.8). -/
def State.commandDone (s : State) (vf status tag detail : Nat) : State :=
  s.onVf vf fun v => { v with status := status, tag := tag, detail := detail, done := v.done + 1 }

/-! ## The launch window (R35, R475) -/

/-- A dword of a launch window. -/
def windowDword (w : Sparse Byte) (off : Nat) : Nat := natOfBytes (lookupList 0 off 8 w)

/-- A write into the launch window, which may arm its command. (DEDUCED: log 86) -/
def State.writeLaunch (s : State) (vf off : Nat) (data : List Byte) : State :=
  let v := s.vf vf
  let w := sparseSetList 0 off data v.window
  let arms := off ≤ 4088 && 4088 < off + data.length && (windowDword w 4088) % 2 == 1
  if v.state = .resetting then (if arms then s.commandDone vf 0x0D (windowDword w 32) 0 else s)
  else
    let s := s.onVf vf fun v => { v with window := w }
    if !arms then s
    else if v.armed.isSome || !v.starts.isEmpty then s.commandDone vf 0x0C (windowDword w 32) 0
    else if !([1, 2, 3].contains (windowDword w 0 % 256)) then s.commandDone vf 0x01 (windowDword w 32) 0
    else s.onVf vf fun v => { v with armed := some w }

/-! ## Device-memory windows (R371, R372) -/

/-- The device-memory window that a request names, if the request lies in it and has its key. -/
def State.memoryWindow (s : State) (vf : Nat) (r : RdmaReq) (write : Bool) : Option Window :=
  (lookup? r.window (s.vf vf).windows).bind fun w =>
    if r.window < 8 && w.rkey == r.rkey && r.off + r.len ≤ w.len && (if write then w.write else w.read) then some w else none

/-- Virtual addresses of a request. -/
def windowAddrs (r : RdmaReq) (w : Window) : List Nat := (List.range r.len).map fun i => w.base + r.off + i

/-- The virtual pages that a frame's access touches. -/
def State.framePages (s : State) (vf : Nat) (b : EthBody) : List Nat :=
  let pages := fun (r : RdmaReq) (write : Bool) =>
    match s.memoryWindow vf r write with
    | some w => if r.len = 0 then [] else pagesOfRange (w.base + r.off) r.len
    | none => []
  if (s.vf vf).state ≠ .active then []
  else match b with
    | .write r => pages r true
    | .read r => pages r false
    | _ => []

/-- A frame answered. -/
def State.answerFrame (s : State) (frame vf : Nat) (xs : List RoceOut) : State := (s.dropFrame frame).sendRoce vf xs

/-- Does one of the addresses lie in an ember cell whose tag satisfies a predicate? -/
def State.cellWith (s : State) (vf : Nat) (as : List Nat) (q : Nat → Bool) : Bool :=
  as.any fun a =>
    match s.xlate (ioPath vf) vf a .read with
    | .ok pa true => q (s.tag (cellOf pa))
    | _ => false

/-- What stands in the way of a host access to device memory: it waits for a translation or a hold, or is answered with a
NAK or a tag error. -/
inductive HostCheck where
  | ready
  | waits
  | answered (o : RoceOut)
  deriving DecidableEq, Repr

/-- The checks of a host access. -/
def State.checkHost (s : State) (vf : Nat) (as : List Nat) (write : Bool) : HostCheck :=
  let pages := (as.map fun a => a / 2 ^ 16).eraseDups
  if (s.ioMissing vf pages).isSome then .waits
  else if (s.ioViolation vf (if write then .write else .read) pages).isSome then .answered .nakAccess
  else if s.anyHeld (ioPath vf) vf as then .waits
  else if s.cellWith vf as (if write then fun t => t == 2 else fun t => t != 0) then .answered .tagError
  else .ready

/-- Does a write of the VF's host to device memory that came before a frame still wait? -/
def State.earlierWrite (s : State) (vf frame : Nat) : Bool :=
  (s.frames.takeWhile fun f => f.1 != frame).any fun f => f.2.1 == vf && match f.2.2.2 with
    | .write r => r.window != 8
    | _ => false

/-- RDMA_WRITE: into device memory as stores at device scope, or into the launch window, after the host's earlier
writes to device memory, which a launch makes visible (R37, R371, R372, R475). -/
def execRdmaWrite (frame : Nat) (s : State) : Host.Outcome State Fault Refusal :=
  match s.frame frame with
  | some (vf, _, .write r) =>
    let v := s.vf vf
    if r.window = 8 then
      if v.state = .free ∨ r.rkey ≠ v.launchKey ∨ 4096 < r.off + r.len then .next (s.answerFrame frame vf [.nakAccess])
      else if s.earlierWrite vf frame then .next s
      else .next ((s.writeLaunch vf r.off (r.data.take r.len)).answerFrame frame vf [.rdma []])
    else
      match if v.state = .active then s.memoryWindow vf r true else none with
      | none => .next (s.answerFrame frame vf [.nakAccess])
      | some w =>
        let as := windowAddrs r w
        match s.checkHost vf as true with
        | .waits => .next s
        | .answered o => .next (s.answerFrame frame vf [o])
        | .ready =>
          let ws := (as.zip r.data).map fun (p : Nat × Byte) => (p.1, (0xFF : Byte), p.2)
          let t := (s.masterWrites (ioPath vf) vf true ws).1
          .next ((t.visitAddrs (ioPath vf) vf as 0).answerFrame frame vf [.rdma []])
  | _ => .next s

/-- RDMA_READ: device memory at device scope, or the status window (R71, R372, R477). -/
def execRdmaRead (frame : Nat) (s : State) : Host.Outcome State Fault Refusal :=
  match s.frame frame with
  | some (vf, _, .read r) =>
    let v := s.vf vf
    if r.window = 9 then
      if v.state = .free ∨ r.rkey ≠ v.statusKey ∨ 4096 < r.off + r.len then .next (s.answerFrame frame vf [.nakAccess])
      else .next (s.answerFrame frame vf (s.response vf r.qp (((s.statusWindow vf).drop r.off).take r.len)))
    else
      match if v.state = .active then s.memoryWindow vf r false else none with
      | none => .next (s.answerFrame frame vf [.nakAccess])
      | some w =>
        let as := windowAddrs r w
        match s.checkHost vf as false with
        | .waits => .next s
        | .answered o => .next (s.answerFrame frame vf [o])
        | .ready =>
          let read := fun (a : Nat) => match s.xlate (ioPath vf) vf a .read with
            | .ok pa _ => s.byte pa
            | _ => (0 : Byte)
          .next ((s.visitAddrs (ioPath vf) vf as 0).answerFrame frame vf (s.response vf r.qp (as.map read)))
  | _ => .next s

end Sys2Proof.Machine
end

