-- ==== Sys2Proof/Machine/Image.lean ====
section
/-!
DEFINITION. Plikan images (R467 to R472): the header, the section table, the form of an image, its signature, its
relocations, and the check of LIMIT over its code.
-/
namespace Sys2Proof.Machine
open Sys2Proof

/-! ## Header and sections (Tables 17.1 to 17.3) -/

/-- A section table entry. -/
structure Section where
  kind   : Nat
  align  : Nat
  size   : Nat
  off    : Nat
  vaddr  : Nat
  limitn : Nat
  deriving DecidableEq, Repr

/-- The section of an entry's 32 bytes. -/
def sectionOf (bs : List Byte) : Section where
  kind   := imageField bs 0 4
  align  := imageField bs 4 4
  size   := imageField bs 8 4
  off    := imageField bs 12 4
  vaddr  := imageField bs 16 8
  limitn := imageField bs 24 8

def imageNsect (bs : List Byte) : Nat := imageField bs 16 4
def imageSectoff (bs : List Byte) : Nat := imageField bs 8 8
def imageHashoff (bs : List Byte) : Nat := imageField bs 24 8
def imageSigned (bs : List Byte) : Bool := imageField bs 20 4 == 1

/-- The sections of an image. -/
def imageSections (bs : List Byte) : List Section :=
  (List.range (imageNsect bs)).map fun i => sectionOf (bs.drop (imageSectoff bs + 32 * i))

/-- The bytes of a section; a zero section holds none in the image. -/
def Section.content (x : Section) (bs : List Byte) : List Byte :=
  if x.kind = 4 then List.replicate x.size 0 else (bs.drop x.off).take x.size

/-- A relocation entry (Table 17.4). -/
structure Reloc where
  off    : Nat
  sect   : Nat
  kind   : Nat
  symbol : Nat
  addend : Int
  deriving DecidableEq, Repr

/-- Records of a fixed size in the sections of a kind. -/
def sectionRecords (bs : List Byte) (kind size : Nat) : List (List Byte) :=
  ((imageSections bs).filter fun x => x.kind == kind).flatMap fun x =>
    (List.range (x.size / size)).map fun i => ((x.content bs).drop (size * i)).take size

def imageRelocs (bs : List Byte) : List Reloc :=
  (sectionRecords bs 11 24).map fun r =>
    { off := imageField r 0 8, sect := imageField r 8 2, kind := imageField r 10 2, symbol := imageField r 12 4,
      addend := (BitVec.ofNat 64 (imageField r 16 8)).toInt }

/-- Symbols: section and value; name offset, section and value take eight bytes each. (PRESUMED: log 90) -/
def imageSymbols (bs : List Byte) : List (Nat × Nat) :=
  (sectionRecords bs 12 24).map fun r => (imageField r 8 8, imageField r 16 8)

/-- Bytes that a relocation of a kind patches (Table 17.5). -/
def relocSize (kind : Nat) : Nat := if kind = 1 then 8 else if kind = 2 then 4 else 16

/-- Is a section's entry in order, with the sizes and reserved fields of the records that Tables 17.3 and 17.7 lay out (R467,
R472)? (DEDUCED: log 89) -/
def Section.ok (x : Section) (bs : List Byte) : Bool :=
  let placed := x.kind ≤ 4
  1 ≤ x.kind && x.kind ≤ 12 && 4 ≤ x.align && x.align ≤ 30 &&
    (x.kind == 4 || (128 ≤ x.off && x.off + x.size ≤ imageHashoff bs)) &&
    x.vaddr % 2 ^ x.align == 0 && x.vaddr + x.size ≤ 2 ^ 52 &&
    (x.kind == 1 || x.limitn == 0) &&
    (x.kind != 1 || (x.vaddr % 65536 == 0 && x.size % 65536 == 0)) &&
    (placed || x.kind != 8 || (x.size % 72 == 0 &&
      (List.range (x.size / 72)).all fun i => ((x.content bs).drop (72 * i + 3)).take 5 |>.all fun b => b == 0)) &&
    (!(x.kind == 11 || x.kind == 12) || x.size % 24 == 0) &&
    (x.kind != 5 || 64 * 128 ≤ x.size) && (x.kind != 6 || x.size % 2 == 0) &&
    (x.kind != 7 || (x.size % 64 == 0 && (List.range (x.size / 64)).all fun i =>
      let ctrl := imageField ((x.content bs).drop (64 * i)) 0 8
      ctrl / 2 ^ 36 == 0 && !ctrl.testBit 15))

/-- Does a relocation name parts of the image that are there? -/
def relocOk (secs : List Section) (symbols : Nat) (r : Reloc) : Bool :=
  1 ≤ r.kind && r.kind ≤ 10 && r.symbol < symbols &&
    match secs[r.sect]? with
    | some x => r.off + relocSize r.kind ≤ x.size
    | none => false

/-- The check FORMAT: header, section table, reserved fields and bounds agree with their tables (R467).
(DEDUCED: log 89) -/
def imageFormatOk (bs : List Byte) : Bool :=
  let n := imageNsect bs
  let h := imageHashoff bs
  128 ≤ bs.length && imageField bs 0 4 == 0x4E4B4C50 && imageField bs 4 4 == 1 && imageField bs 20 4 ≤ 1 &&
    ((bs.drop 40).take 88).all (fun b => b == 0) &&
    1 ≤ n && n ≤ 4096 && h % 16 == 0 && 128 ≤ imageSectoff bs && imageSectoff bs + 32 * n ≤ h &&
    bs.length == h + 48 + (if imageSigned bs then 96 else 0) &&
    (imageSections bs).all (fun x => x.ok bs) &&
    (imageSymbols bs).all (fun y => y.1 < n) &&
    (imageRelocs bs).all (relocOk (imageSections bs) (imageSymbols bs).length)

/-- The check HASH (R467). -/
def imageHashOk (bs : List Byte) : Bool :=
  sha384 (bs.take (imageHashoff bs)) == (bs.drop (imageHashoff bs)).take 48

/-- The check SIGNATURE (R470). -/
def imageSignatureOk (bs : List Byte) (required : Bool) (keys : List (List Byte)) : Bool :=
  let h := imageHashoff bs
  if imageSigned bs then
    keys.any fun k => ecdsaVerify k ((bs.drop h).take 48) ((bs.drop (h + 48)).take 96)
  else !required

/-! ## Relocations (R468, Table 17.5) -/

/-- The final address of a symbol. -/
def symbolAddr (secs : List Section) (y : Nat × Nat) : Nat := (secs[y.1]?.elim 0 (·.vaddr)) + y.2

/-- V of a relocation, with whether it divides evenly. -/
def relocValue (secs : List Section) (symbols : List (Nat × Nat)) (r : Reloc) : Int × Bool :=
  let v : Int := symbolAddr secs (symbols.getD r.symbol (0, 0)) + r.addend
  let p : Int := (secs[r.sect]?.elim 0 (·.vaddr)) + r.off
  if r.kind = 5 ∨ r.kind = 6 ∨ r.kind = 10 then ((v - p) / 16, (v - p) % 16 == 0) else (v, true)

/-- Does a number fit a signed field? -/
def fitsSigned (w : Nat) (v : Int) : Bool := -(2 ^ (w - 1)) ≤ v && v < 2 ^ (w - 1)

/-- Does V fit the field of its kind? -/
def relocFits (kind : Nat) (v : Int) : Bool :=
  match kind with
  | 2 => -(2 ^ 31) ≤ v && v < 2 ^ 32
  | 4 | 10 => fitsSigned 44 v
  | 5 => fitsSigned 32 v
  | 6 => fitsSigned 32 v && 1 ≤ v
  | 7 => fitsSigned 28 v
  | 8 => fitsSigned 24 v
  | 9 => fitsSigned 22 v
  | _ => true

/-- The first relocation whose V does not fit, for which a load refuses the image (R92, RELOC_RANGE). -/
def badReloc (bs : List Byte) : Option Reloc :=
  let secs := imageSections bs
  (imageRelocs bs).find? fun r =>
    let (v, even) := relocValue secs (imageSymbols bs) r
    !even || !relocFits r.kind v

/-- Low bit and width of the op field that a kind patches. -/
def relocField (kind : Nat) : Nat × Nat :=
  match kind with
  | 3 => (55, 64)
  | 4 | 10 => (84, 44)
  | 5 | 6 => (84, 32)
  | 7 => (92, 28)
  | 8 => (92, 24)
  | _ => (92, 22)

/-- The field of an op replaced by the low bits of V. -/
def patchOp (kind : Nat) (op : Nat) (v : Int) : Nat :=
  let (lo, w) := relocField kind
  op - op / 2 ^ lo % 2 ^ w * 2 ^ lo + (v % 2 ^ w).toNat * 2 ^ lo

/-- A relocation applied to its section's bytes. -/
def applyReloc (c : List Byte) (r : Reloc) (v : Int) : List Byte :=
  let n := relocSize r.kind
  let old := imageField c r.off n
  let new := if r.kind ≤ 2 then (v % 2 ^ (8 * n)).toNat else patchOp r.kind old v
  overwrite c r.off (natBytes n new)

/-- The sections of an image as they are to be placed: section, address and bytes, relocations applied. -/
def placedSections (bs : List Byte) : List (Section × List Byte) :=
  let secs := imageSections bs
  ((List.range secs.length).zip secs).map fun (i, x) =>
    (x, ((imageRelocs bs).filter fun r => r.sect == i).foldl
      (fun c r => applyReloc c r (relocValue secs (imageSymbols bs) r).1) (x.content bs))

/-! ## LIMIT (R471) -/

/-- A bundle of a code section, by the index of its first op: its ops, and the index after its last. -/
structure CodeBundle where
  first : Nat
  next  : Nat
  ops   : List (Nat × Instr)
  deriving DecidableEq, Repr

/-- The bundle from index `i` on, within its line (R73): nothing where no op has STOP set. An op that does not decode is
none of its ops: it transfers nowhere. -/
def codeBundle (ops : List Op) (i : Nat) : Option CodeBundle :=
  go (8 - i % 8) i []
where
  go : Nat → Nat → List (Nat × Instr) → Option CodeBundle
    | 0, _, _ => none
    | k + 1, j, acc =>
      match ops[j]? with
      | none => none
      | some w =>
        let acc := acc ++ (parseOp w).toList.map fun x => (j, x)
        if w.getLsbD 8 then some { first := i, next := j + 1, ops := acc } else go k (j + 1) acc

/-- The index that an op's offset leads to. -/
def opTarget (j : Nat) (off : Int) : Int := (j : Int) + off

/-- The guard `p0`, not inverted. -/
def isPlain (h : Hdr) : Bool := h.grd == 0 && h.gneg == 0

/-- The direct transfer of an op at index `j`: where it may lead. -/
def directTarget (j : Nat) : Instr → Option Int
  | .br _ f | .call _ f | .lbrk _ f => some (opTarget j f.off.toInt)
  | .loop _ f => some (opTarget j f.off.toInt + 1)
  | .vbany _ f | .vball _ f => some (opTarget j f.imm.toInt)
  | _ => none

/-- Does an op end every path through its bundle? -/
def endsPath (first j : Nat) : Instr → Bool
  | .br h f | .call h f | .lbrk h f => isPlain h && opTarget j f.off.toInt ≤ first
  | .halt h _ | .yield h _ | .eret h _ => isPlain h
  | .ret h _ | .bri h _ | .callIndirect h _ => isPlain h
  | _ => false

/-- The loops of a code section: index of the END op, whether its count is an immediate of 2 or more, index of START. -/
def codeLoops (ops : List Op) : List (Nat × Bool × Nat) :=
  (List.range ops.length).filterMap fun j =>
    match (ops[j]?).bind parseOp with
    | some (.loop _ f) =>
      let last := opTarget j f.off.toInt
      let next := ((List.range (8 - j % 8)).find? fun k => (ops[j + k]?).any fun w => w.getLsbD 8).map fun k => j + k + 1
      if 0 ≤ last then some (last.toNat, f.fn.getLsbD 6 && 2 ≤ (f.fn.extractLsb' 0 6).toNat, next.getD (j + 1)) else none
    | _ => none

/-- Bundles from an index to the one that holds another, by fall-through. -/
def bundlesTo (ops : List Op) : Nat → Nat → Nat → Nat
  | 0, _, _ => 1
  | k + 1, i, stop =>
    match codeBundle ops i with
    | some b => if stop < b.next then 1 else 1 + bundlesTo ops k b.next stop
    | none => 1

/-- The longest path that reaches each index: its bundles and the index of its first one. -/
abbrev Reached := Assoc (Nat × Nat)

def Reached.join (r : Reached) (i : Nat) (x : Nat × Nat) : Reached :=
  match lookup? i r with
  | some y => if y.1 < x.1 then assocSet i x r else r
  | none => assocSet i x r

/-- One index of a section, in rising order: what reaches it goes on as R471 says; the longest path so far is kept. -/
def limitStep (ops : List Op) (loops : List (Nat × Bool × Nat)) (x : Reached × (Nat × Nat)) (i : Nat) : Reached × (Nat × Nat) :=
  match lookup? i x.1, codeBundle ops i with
  | some (len, first), some b =>
    let best := if x.2.1 < len then (len, first) else x.2
    let ends := b.ops.any fun o => endsPath b.first o.1 o.2
    let here := loops.filter fun l => b.first ≤ l.1 && l.1 < b.next
    let counted := here.filter fun l => l.2.1
    let r := if ends || !counted.isEmpty then x.1 else
      (b.ops.filterMap fun o => directTarget o.1 o.2).foldl
        (fun (r : Reached) t => if (i : Int) < t then r.join t.toNat (len + 1, first) else r) x.1
    let r := if ends || !counted.isEmpty then r else r.join b.next (len + 1, first)
    let r := if ends then r else counted.foldl (fun (r : Reached) l => r.join b.next (bundlesTo ops ops.length l.2.2 l.1 + 1, l.2.2)) r
    (r, best)
  | _, _ => x

/-- The longest path of a code section from its start and its labels: bundles, and index of the first one. -/
def longestPath (ops : List Op) (labels : List Nat) : Nat × Nat :=
  let start : Reached := (0 :: labels).foldl (fun (r : Reached) i => r.join i (1, i)) []
  ((List.range ops.length).foldl (limitStep ops (codeLoops ops)) (start, (0, 0))).2

/-- The ops of a section. -/
def opsOf (c : List Byte) : List Op := (groups 16 (c.length / 16) c).map fun g => BitVec.ofNat 128 (natOfBytes g)

/-- The check LIMIT (R95, R471): the byte offset of the first bundle of a code section's longest path, where it is too long.
(DEDUCED: log 92) -/
def limitFault (bs : List Byte) (limit : Nat) : Option Nat :=
  let secs := imageSections bs
  ((List.range secs.length).zip (placedSections bs)).findSome? fun (i, x, c) =>
    if x.kind ≠ 1 then none
    else if limit < x.limitn then some 0
    else
      let labels := (imageSymbols bs).filterMap fun y => if y.1 = i && y.2 % 16 = 0 then some (y.2 / 16) else none
      let (len, first) := longestPath (opsOf c) labels
      if (if x.limitn = 0 then limit else x.limitn) < len then some (16 * first) else none

/-! ## The checks together (Table 17.8) -/

/-- What a partition and a VF bring to the checks. -/
structure LoadPolicy where
  required : Bool
  keys     : List (List Byte)
  loaded   : Nat
  limit    : Nat

/-- The checks of a LOAD in their order: a status with its DETAIL, or nothing. -/
def loadFault (bs : List Byte) (p : LoadPolicy) : Option (Nat × Nat) :=
  if !imageFormatOk bs then some (0x01, 0)
  else if !imageHashOk bs then some (0x02, 0)
  else if !imageSignatureOk bs p.required p.keys then some (0x03, 0)
  else if 64 ≤ p.loaded then some (0x0F, 0)
  else match badReloc bs with
    | some r => some (0x04, r.symbol + 2 ^ 32 * r.kind)
    | none => (limitFault bs p.limit).map fun off => (0x05, off)

/-- The code object of an image that loads. -/
def imageOf (bs : List Byte) : Image where
  code   := ((imageSections bs).filter fun x => x.kind == 1).map fun x => (x.vaddr, x.size)
  tables := (placedSections bs).filterMap fun (x, c) => if 5 ≤ x.kind && x.kind ≤ 10 then some (x.kind, x.vaddr, c) else none

end Sys2Proof.Machine
end

