-- ==== Sys2Proof/Machine/Tables.lean ====
section
/-!
DEFINITION. Page tables as the pager writes them (R304, R305, R418, R449, R451, R472): the leaves and tables of a VF, the
partition's table window, and the first mapping of ember pages.
-/
namespace Sys2Proof.Machine
open Sys2Proof

/-- A window: first unit and number of units; an empty one meets none. -/
abbrev Span := Nat × Nat
def Span.meets (a b : Span) : Bool := a.2 != 0 && b.2 != 0 && a.1 < b.1 + b.2 && b.1 < a.1 + a.2

/-! ## What the tables map (R449, R450) -/

/-- The physical address of a mapped virtual address. -/
def State.mapped (s : State) (vf va : Nat) : Option (Nat × BitVec 6) :=
  match s.walk vf va with
  | .leaf base _ pa bits => some (pa + (va - base), bits)
  | _ => none

/-- The leaf that maps an address: where its entry stands, the entry, the page and its size. -/
def State.leafFrom (s : State) (part va : Nat) : Nat → Nat → Option (Nat × Nat × Nat × Nat)
  | l, table =>
    let at' := table + 8 * (va / 2 ^ levelShift l % levelEntries l)
    match s.walkEntry part va l table with
    | .leaf base size pa bits =>
      if bits.getLsbD 1 then some (at', natOfBytes (s.bytes at' 8), base, size)
      else match l with
        | 0 => none
        | l + 1 => s.leafFrom part va l pa
    | _ => none
def State.leafOf (s : State) (vf va : Nat) : Option (Nat × Nat × Nat × Nat) :=
  if (s.vf vf).root = 0 then none else s.leafFrom (partOf vf) va 3 (s.vf vf).root

/-- The tables that a VF's walks reach: level, first virtual address mapped, physical address; `k` levels down. -/
def State.tablesOf (s : State) (vf : Nat) : Nat → Nat → Nat → List (Nat × Nat × Nat)
  | 0, va, table => [(0, va, table)]
  | l + 1, va, table =>
    (l + 1, va, table) :: (List.range (levelEntries (l + 1))).flatMap fun i =>
      match s.walkEntry (partOf vf) (va + i * 2 ^ levelShift (l + 1)) (l + 1) table with
      | .leaf _ _ pa bits =>
        if bits.getLsbD 1 || pa = table then [] else s.tablesOf vf l (va + i * 2 ^ levelShift (l + 1)) pa
      | _ => []

/-- The VFs of a partition that have tables, with the root of each. -/
def State.rootsOf (s : State) (part : Nat) : List (Nat × Nat) :=
  ((List.range 8).map fun i => (8 * part + i, (s.vf (8 * part + i)).root)).filter fun r => r.2 != 0

/-- Where the walks of a partition's VFs meet an entry at an address of physical memory: VF, level, first virtual address
that the entry maps. -/
def State.entriesAt (s : State) (part pa : Nat) : List (Nat × Nat × Nat) :=
  (s.rootsOf part).flatMap fun (vf, root) =>
    (s.tablesOf vf 3 0 root).filterMap fun (l, va, table) =>
      if table ≤ pa && pa < table + 8 * levelEntries l then some (vf, l, va + (pa - table) / 8 * 2 ^ levelShift l) else none

/-- A leaf: VF, level, virtual address, entry. -/
abbrev Leaf := Nat × Nat × Nat × Nat

/-- Is an entry a valid leaf with a bit set? -/
def isLeafWith (e bit : Nat) : Bool := e % 4 == 3 && e.testBit bit

/-- The leaves that an entry of a level leads to. -/
def State.leavesUnder (s : State) (vf : Nat) : Nat → Nat → Nat → List Leaf
  | 0, va, e => if e % 4 = 3 then [(vf, 0, va, e)] else []
  | l + 1, va, e =>
    if e % 4 = 3 then [(vf, l + 1, va, e)]
    else if e % 4 = 1 then
      (List.range (levelEntries l)).flatMap fun i =>
        s.leavesUnder vf l (va + i * 2 ^ levelShift l) (natOfBytes (s.bytes (entryPage e + 8 * i) 8))
    else []

/-- The leaves that a level-3 table leads to. -/
def State.leavesFrom (s : State) (vf root : Nat) : List Leaf :=
  if root = 0 then [] else
    (List.range (levelEntries 3)).flatMap fun i =>
      s.leavesUnder vf 3 (i * 2 ^ levelShift 3) (natOfBytes (s.bytes (root + 8 * i) 8))

/-- Where a leaf maps a virtual address of its VF. -/
def leafAt (x : Leaf) (vf va : Nat) : Option Nat :=
  if x.1 = vf ∧ x.2.2.1 ≤ va ∧ va < x.2.2.1 + 2 ^ levelShift x.2.1 then some (entryPage x.2.2.2 + (va - x.2.2.1)) else none

/-! ## Cells of ember pages (R305) -/

/-- No L1 holds a line of a frame any more (R305). -/
def State.uncache (s : State) (frame : Nat) : State :=
  { s with cores := s.cores.map fun k => (k.1, { k.2 with l1 := k.2.l1.filter fun l => l.line / 1024 != frame }) }

/-- What the L1s hold of a frame written back. -/
def State.flushFrame (s : State) (frame : Nat) : State :=
  s.cores.foldl (fun (s : State) k => s.writeBackIf k.1 fun l => l.line / 1024 == frame) s

/-- A page of a VF is mapped EMB on a frame, of which no L1 keeps a line. When it is first, its cells are VALUE and hold zeros; pages that the frame was
mapped for before, and is no longer, are forgotten. (DEDUCED: log 81) -/
def State.freshFrame (s : State) (vf page frame : Nat) : State :=
  let known := lookupD [] frame s.embFrames
  let within := fun (a : Nat) => a / 65536 == frame
  if !s.ownsRange (partOf vf) (65536 * frame) 65536 then s
  else if known.contains (vf, page) then (s.flushFrame frame).uncache frame
  else
    let still := known.filter fun k => (s.mapped k.1 (65536 * k.2)).any fun m => m.1 == 65536 * frame
    { s.uncache frame with
             mem := s.mem.filter fun p => !within p.1
             bad := s.bad.filter fun a => !within a
             tags := s.tags.filter fun p => !within (16 * p.1)
             embFrames := assocSet frame (still ++ [(vf, page)]) s.embFrames }

/-- The 64 KiB pages of a leaf that lie in a region of its VF: page and frame. -/
def State.embPages (s : State) (x : Leaf) : List (Nat × Nat) :=
  (List.range (2 ^ levelShift x.2.1 / 65536)).filterMap fun i =>
    if (s.region x.1 (x.2.2.1 + 65536 * i)).isSome then some (x.2.2.1 / 65536 + i, entryPage x.2.2.2 / 65536 + i) else none

/-- The ember pages among leaves that have been mapped. -/
def State.freshLeaves (s : State) (new : List Leaf) : State :=
  (new.filter fun x => isLeafWith x.2.2.2 5).foldl (fun (s : State) x =>
    (s.embPages x).foldl (fun s p => s.freshFrame x.1 p.1 p.2) s) s

/-! ## What tables may hold (R418, R451, R472) -/

/-- Is a page wholly inside a code section of an image of a VF that is loaded? -/
def State.inCode (s : State) (vf va size : Nat) : Bool :=
  (s.vf vf).images.any fun i => i.2.code.any fun c => c.1 ≤ va && va + size ≤ c.1 + c.2

/-- The lines staged for a leaf's VF that lie on its page, by virtual and physical address. -/
def State.stagedOn (s : State) (x : Leaf) : List (Nat × Nat) :=
  let pa := entryPage x.2.2.2
  (s.dests.filter fun d => d.vf == some x.1).flatMap fun d =>
    (d.lines.filter fun l => pa ≤ l.line && l.line < pa + 2 ^ levelShift x.2.1).map fun l => (x.2.2.1 + (l.line - pa), l.line)

/-- Would an entry take from a VF a page on which a line is staged, which stays mapped until the record is freed (R418)? -/
def State.takesStaged (s : State) (old new : List Leaf) : Bool :=
  old.any fun x => (s.stagedOn x).any fun l => !new.any fun y => leafAt y x.1 l.1 == some l.2

/-- Do the tables of a partition lie outside every page that its VFs map (R451)? -/
def State.tablesApart (s : State) (part : Nat) : Bool :=
  let roots := s.rootsOf part
  let tables := roots.flatMap fun (vf, root) => (s.tablesOf vf 3 0 root).map fun (l, _, table) => (table, 8 * levelEntries l)
  roots.all fun (vf, root) => (s.leavesFrom vf root).all fun x =>
    tables.all fun t => !Span.meets (entryPage x.2.2.2, 2 ^ levelShift x.2.1) t

/-- May tables lead to new leaves in the place of old ones, `t` being the state that has them? None may make executable
what is not code of a loaded image (R451, R472), nor take a page with staged lines (R418), nor map a table (R451).
(DEDUCED: log 81, DESIGN CHOICE: log 135) -/
def State.mayMap (s t : State) (part : Nat) (old new : List Leaf) : Bool :=
  (new.all fun (vf, l, va, e) => !isLeafWith e 4 || s.inCode vf va (2 ^ levelShift l)) && !s.takesStaged old new &&
    t.tablesApart part

/-! ## The table window (R451, R456, R472) -/

/-- An entry written in the partition's HBM, once no envelope holds its line (R419); one that tables may not hold is
refused. -/
def State.tableWrite (s : State) (part addr e : Nat) : State :=
  if addr % 8 ≠ 0 || !s.ownsRange part addr 8 || s.isHeld addr 8 then s
  else
    let t := s.homeWrite addr (natBytes 8 e)
    match s.entriesAt part addr with
    | [] => t
    | at' =>
      let new := at'.flatMap fun (vf, l, va) => t.leavesUnder vf l va e
      let old := if s.dests.isEmpty then [] else
        at'.flatMap fun (vf, l, va) => s.leavesUnder vf l va (natOfBytes (s.bytes addr 8))
      if s.mayMap t part old new then t.freshLeaves new else s

/-- TABLE_WINDOW_WRITE: the pager writes an entry. -/
def execTableWindowWrite (w : TableWrite) (s : State) : Host.Outcome State Fault Refusal :=
  .next (s.tableWrite w.part w.addr w.value.toNat)

/-! ## The ROOT register (R449) -/

/-- A VF with another ROOT, if its tables may lead to what that table holds: a table written before it was linked is held
to the same rules. (DEDUCED: log 81) -/
def State.rootWrite (s : State) (vf root : Nat) : Option State :=
  let t := s.onVf vf fun v => { v with root := root }
  let new := s.leavesFrom vf root
  let old := if s.dests.isEmpty then [] else s.leavesFrom vf (s.vf vf).root
  if root % 65536 = 0 && (root == 0 || s.ownsRange (partOf vf) root 65536) && s.mayMap t (partOf vf) old new then some (t.freshLeaves new) else none

end Sys2Proof.Machine
end

