-- ==== Sys2Proof/Machine/Launch.lean ====
section
/-!
DEFINITION. The launch unit (R35 to R38, R446, R447, R469 to R476, Tables 1.7 and 17.6 to 17.8): LOAD, LAUNCH, UNLOAD, the
start records on their way, and code objects.
-/
namespace Sys2Proof.Machine
open Sys2Proof

/-! ## The command of a launch window (Table 17.6) -/

/-- The command that a VF's launch window has armed. -/
def State.command (s : State) (vf : Nat) : Option (Sparse Byte) := if (s.vf vf).state = .active then (s.vf vf).armed else none

def cmdOp (w : Sparse Byte) : Nat := windowDword w 0 % 256
def cmdForce (w : Sparse Byte) : Bool := windowDword w 0 / 256 % 2 == 1
def cmdHandle (w : Sparse Byte) : Nat := windowDword w 8
def cmdLen (w : Sparse Byte) : Nat := windowDword w 16
def cmdAddr (w : Sparse Byte) : Nat := windowDword w 24
def cmdTag (w : Sparse Byte) : Nat := windowDword w 32

/-- A command that is over. -/
def State.finishCommand (s : State) (vf status detail : Nat) : State :=
  match (s.vf vf).armed with
  | some w => (s.onVf vf fun v => { v with armed := none }).commandDone vf status (cmdTag w) detail
  | none => s

/-! ## VF memory as the launch unit reaches it -/

/-- The pages of a range. -/
def rangePages (a n : Nat) : List Nat := if n = 0 then [] else pagesOfRange a n

/-- The parts of a range that lie in one 64 KiB page each: address and length. -/
def pageParts (a n : Nat) : List (Nat × Nat) :=
  (rangePages a n).map fun p =>
    let lo := max a (p * 2 ^ 16)
    (lo, min (a + n) ((p + 1) * 2 ^ 16) - lo)

/-- Bytes of VF memory; none where a page cannot be read. -/
def State.vfBytes (s : State) (vf a n : Nat) : Option (List Byte) :=
  if 2 ^ 52 < a + n then none
  else
    ((pageParts a n).mapM fun x =>
      (s.mapped vf x.1).bind fun (pa, bits) => if bits.getLsbD 2 then some (s.bytes pa x.2) else none).map List.flatten

/-- Bytes placed in VF memory. -/
def State.placeBytes (s : State) (vf a : Nat) (bs : List Byte) : State :=
  (pageParts a bs.length).foldl (fun (s : State) (x : Nat × Nat) =>
    match s.mapped vf x.1 with
    | some (pa, _) =>
      let t := s.homeWrite pa ((bs.drop (x.1 - a)).take x.2)
      let first := x.1 / 64
      let lines := (List.range ((x.1 + x.2 + 63) / 64 - first)).map fun i => max x.1 (64 * (first + i))
      { t with l2 := lines.foldl (fun l va => t.l2After l vf (some va) (pa + (va - x.1)) 0) t.l2 }
    | none => s) s

/-! ## Code pages (R472, R473) -/

/-- The entry of an executable leaf, and of the same leaf without X: code is readable, and not writable. -/
def codeEntry (e : Nat) (x : Bool) : Nat :=
  e / 64 * 64 + e % 4 + 4 + if x then 16 else 0

/-- The leaves inside a code section made executable, or no longer so, through the table window; no TLB keeps the old
ones. (DEDUCED: log 81) -/
def State.markCode (s : State) (vf : Nat) (c : Nat × Nat) (x : Bool) : State :=
  let s := (List.range (c.2 / 65536)).foldl (fun (s : State) i =>
    let va := c.1 + 65536 * i
    match s.leafOf vf va with
    | some (pa, e, base, size) =>
      if c.1 ≤ base && base + size ≤ c.1 + c.2 && va = base then s.tableWrite (partOf vf) pa (codeEntry e x) else s
    | none => s) s
  s.dropTlb vf c.1 c.2

/-- The pages of an ember region mapped EMB through the table window, and their cells there (R304, R305).
(DEDUCED: log 81) -/
def State.markEmb (s : State) (vf : Nat) (r : Region) : State :=
  let s := (List.range (r.size / 65536)).foldl (fun (s : State) i =>
    let va := r.base + 65536 * i
    match s.leafOf vf va with
    | some (pa, e, base, _) =>
      let s := if e.testBit 5 then s else s.tableWrite (partOf vf) pa (e + 32)
      s.freshFrame vf (va / 65536) ((entryPage e + (va - base)) / 65536)
    | none => s) s
  s.dropTlb vf r.base r.size

/-! ## LOAD (R469 to R472) -/

/-- The bytes of the image that a LOAD names. -/
def State.imageBytes (s : State) (vf : Nat) (w : Sparse Byte) : Option (List Byte) := s.vfBytes vf (cmdAddr w) (cmdLen w)

/-- What a VF and its partition bring to the checks of a LOAD. -/
def State.loadPolicy (s : State) (vf : Nat) : LoadPolicy :=
  let p := s.part (partOf vf)
  { required := p.required, keys := p.trusted, loaded := (s.vf vf).images.length, limit := p.limit }

/-- The ranges of VF memory that a command still has to reach, in order: first address and length. -/
def State.commandRanges (s : State) (vf : Nat) : List (Nat × Nat) :=
  match s.command vf with
  | none => []
  | some w =>
    if cmdOp w = 1 then
      (cmdAddr w, cmdLen w) ::
        match s.imageBytes vf w with
        | some bs => if (loadFault bs (s.loadPolicy vf)).isSome then [] else
            (placedSections bs).map fun x => (x.1.vaddr, x.1.size)
        | none => []
    else if cmdOp w = 2 ∧ (lookup? (cmdHandle w) (s.vf vf).images).isSome ∧ cmdLen w ≤ 1024 then
      [(cmdAddr w, 64 * (cmdLen w - 62))]
    else []

/-- The virtual pages of those ranges. -/
def State.commandPages (s : State) (vf : Nat) : List Nat := (s.commandRanges vf).flatMap fun r => rangePages r.1 r.2

/-- Does an envelope hold a line that a command has to read or write: it waits at the home agent (R419)? -/
def State.commandHeld (s : State) (vf : Nat) : Bool :=
  !s.dests.isEmpty && (s.commandRanges vf).any fun r => (pageParts r.1 r.2).any fun x =>
    (s.mapped vf x.1).any fun m => s.isHeld m.1 x.2

/-- The first page that a command finds unmapped, as an address: the command is held. -/
def State.commandMiss (s : State) (vf : Nat) : Option Nat :=
  ((s.commandPages vf).find? fun p => s.walk vf (p * 2 ^ 16) == .fault).map fun p => p * 2 ^ 16

/-- A handle that names no image of the VF. -/
def Vf.newHandle (v : Vf) : Nat :=
  ((List.range 65536).find? fun i => (lookup? ((v.handle + i) % 65535 + 1) v.images).isNone).elim 0
    fun i => (v.handle + i) % 65535 + 1

/-- An image that passed every check: placed, relocated, its code executable, its handle given. (DEDUCED: log 88) -/
def State.placeImage (s : State) (vf : Nat) (bs : List Byte) : State :=
  let h := (s.vf vf).newHandle
  let img := imageOf bs
  let s := (placedSections bs).foldl (fun (s : State) x => s.placeBytes vf x.1.vaddr x.2) s
  let s := s.onVf vf fun v => { v with images := assocSet h img v.images, handle := h }
  (img.code.foldl (fun s c => s.markCode vf c true) s).finishCommand vf 0 (h * 2 ^ 48)

/-- LOAD: the image is checked in the order of Table 17.8; a page that is not mapped holds the command. -/
def execLoad (vf : Nat) (s : State) : Host.Outcome State Fault Refusal :=
  match s.command vf with
  | none => .next s
  | some w =>
    if cmdOp w ≠ 1 || (s.commandMiss vf).isSome || s.commandHeld vf then .next s
    else
      match s.imageBytes vf w with
      | none => .next (s.finishCommand vf 0x01 0)
      | some bs =>
        match loadFault bs (s.loadPolicy vf) with
        | some (st, detail) => .next (s.finishCommand vf st detail)
        | none => .next (s.placeImage vf bs)

/-! ## Start records (Table 17.7) -/

/-- A start record. -/
structure Start where
  bytes : List Byte
  deriving DecidableEq, Repr

def Start.ctrl (r : Start) (lo n : Nat) : Nat := imageField r.bytes 0 8 / 2 ^ lo % 2 ^ n
def Start.core (r : Start) : Nat := r.ctrl 0 8
def Start.num (r : Start) : Nat := 4 * r.core + r.ctrl 8 2
def Start.cls (r : Start) : Nat := r.ctrl 10 2
def Start.spblk (r : Start) : Nat := r.ctrl 12 3
def Start.semBase (r : Start) : Nat := r.ctrl 16 8
def Start.semCount (r : Start) : Nat := r.ctrl 24 9
def Start.nsets (r : Start) : Nat := r.ctrl 33 3
def Start.entry (r : Start) : Nat := imageField r.bytes 8 8
def Start.handler (r : Start) : Nat := imageField r.bytes 16 8
def Start.arg (r : Start) (i : Nat) : Dword := BitVec.ofNat 64 (imageField r.bytes (16 + 8 * i) 8)
def Start.sets (r : Start) : List Nat := (List.range (min r.nsets 4)).map fun i => imageField r.bytes (56 + i) 1
/-- Scratchpad window in bytes. -/
def Start.spBase (r : Start) : Nat := 4096 * imageField r.bytes 60 2
def Start.spSize (r : Start) : Nat := 4096 * imageField r.bytes 62 2

/-- Reserved bits clear, a class that exists, ENTRY and HANDLER aligned (R476). -/
def Start.formOk (r : Start) : Bool :=
  r.ctrl 36 28 == 0 && r.ctrl 15 1 == 0 && r.cls != 3 && r.entry % 16 == 0 && r.handler % 16 == 0

/-- The records of a LAUNCH: the first 62 from the window, the others from VF memory (R476). -/
def State.launchRecords (s : State) (vf : Nat) (w : Sparse Byte) : Option (List Start) :=
  let n := cmdLen w
  let inline := (List.range (min n 62)).map fun i => (⟨lookupList 0 (64 + 64 * i) 64 w⟩ : Start)
  ((List.range (n - 62)).mapM fun i => (s.vfBytes vf (cmdAddr w + 64 * i) 64).map fun b => (⟨b⟩ : Start)).map fun more =>
    inline ++ more

/-- Start records on their way, of every VF. -/
def State.startsPending (s : State) : List Start := s.vfs.flatMap fun v => v.2.starts.map fun b => ⟨b⟩

/-- The scratchpad and semaphore windows of a record, of a slot. -/
def Start.spans (r : Start) : Span × Span := ((r.spBase, r.spSize), (r.semBase, r.semCount))
def Ctx.spans (c : Ctx) : Span × Span := ((c.id.spBase, c.id.spSize), (c.id.semBase, c.id.semCount))
def spansMeet (a b : Span × Span) : Bool := Span.meets a.1 b.1 || Span.meets a.2 b.2

/-- Slots of a core that are not FREE. -/
def State.liveSlots (s : State) (core : Nat) : List Nat := (slotsOf core).filter fun n => (s.ctx n).life.state != .free

/-- Is a core's split fixed, by a slot in IDLE, READY, STALLED, SAVED, FROZEN or DRAINING or by a record on its way? -/
def State.splitFixed (s : State) (core : Nat) : Bool :=
  !(s.liveSlots core).isEmpty || s.startsPending.any fun r => r.core == core

/-- Blocks that a core can give its scratchpad (R183). -/
def maxBlocks (core : Nat) : Nat := if isLean core then 3 else 7

/-- A split that a core may have, and windows that lie inside it (R183, R184). -/
def windowsFit (core blocks : Nat) (x : Span × Span) : Bool :=
  blocks ≤ maxBlocks core && x.1.1 + x.1.2 ≤ 262144 * blocks && x.2.1 + x.2.2 ≤ 256

/-- The check WINDOW of one record against the slots and records that are live. -/
def State.startWindowOk (s : State) (r : Start) : Bool :=
  let core := r.core
  (!s.splitFixed core || (s.core core).blocks == r.spblk) && windowsFit core r.spblk r.spans &&
    (s.liveSlots core).all (fun n => !spansMeet (s.ctx n).spans r.spans) &&
    s.startsPending.all fun p => p.core != core || !spansMeet p.spans r.spans

/-- Do two records of one vector leave each other's windows alone? -/
def startsDisjoint : List Start → Bool
  | [] => true
  | r :: t => t.all (fun x => x.core != r.core || !spansMeet x.spans r.spans) && startsDisjoint t

/-! ## What an image brings to a launch (Table 17.3) -/

def Image.section (img : Image) (kind : Nat) : List (List Byte) :=
  (img.tables.filter fun t => t.1 == kind).map fun t => t.2.2
/-- The entries of a set table: a record's bytes are set index, member count and, in two bytes, the byte offset of its
first member in the table; the records end where the first members stand; a member's bytes are core and slot.
(DESIGN CHOICE: log 91) -/
def setRecords (b : List Byte) : List (Nat × List Nat) :=
  go (b.length / 4) 0 b.length
where
  go : Nat → Nat → Nat → List (Nat × List Nat)
    | 0, _, _ => []
    | k + 1, i, stop =>
      if stop < 4 * i + 4 then []
      else
        let off := imageField b (4 * i + 2) 2
        (imageField b (4 * i) 1, (List.range (imageField b (4 * i + 1) 1)).map fun m =>
          4 * imageField b (off + 2 * m) 1 + imageField b (off + 2 * m + 1) 1) :: go k (i + 1) (min stop off)

/-- The set table: index and members (R17). -/
def Image.sets (img : Image) : List (Nat × List Nat) := (img.section 6).flatMap setRecords
/-- `.bind` records: context number, opcode, binding record. -/
def Image.binds (img : Image) : List (Nat × Nat × List Byte) :=
  (img.section 8).flatMap fun b => (List.range (b.length / 72)).map fun i =>
    let r := (b.drop (72 * i)).take 72
    (4 * imageField r 0 1 + imageField r 1 1, imageField r 2 1, r.drop 8)
/-- `.ember` regions; EMBLIMIT has 24 bits (R304). -/
def Image.regions (img : Image) : List Region :=
  ((img.section 9).flatMap Config.emberRecords).map fun (b, n, k, t) => { base := b, size := n, set := k, limit := t % 2 ^ 24 }
/-- `.ring` declarations: index and ring. -/
def Image.rings (img : Image) : List (Nat × Ring) :=
  ((img.section 10).flatMap Config.ringRecords).map fun (i, b, u, p, n, h) =>
    (i, { base := b, size := u, policy := p, notify := if n = 0 then none else some (n - 1, h) })
def Image.holds (img : Image) (a : Nat) : Bool := img.code.any fun c => c.1 ≤ a && a < c.1 + c.2

/-- The sets that list a context. (DEDUCED: log 93) -/
def setsOf (t : List (Nat × List Nat)) (n : Nat) : List Nat := (t.filter fun e => e.2.contains n).map (·.1)

/-- The check SETS of Table 1.7. -/
def State.setsOk (s : State) (part : Nat) (t : List (Nat × List Nat)) (rs : List Start) : Bool :=
  t.length ≤ 256 && t.all (fun e => e.1 < 256 && (s.part part).sets.contains e.1) &&
    (t.flatMap (·.2)).all (fun n => (setsOf t n).length ≤ 4) &&
    rs.all fun r => r.nsets ≤ 4 && r.sets.all (fun k => (setsOf t r.num).contains k) &&
      (setsOf t r.num).all fun k => r.sets.contains k

/-- The regions of a VF once an image's stand beside those of earlier launches. -/
def mergeRegions (old new : List Region) : List Region := old.filter (fun r => !new.any fun x => x.base == r.base) ++ new

/-- No two regions overlap. -/
def regionsDisjoint : List Region → Bool
  | [] => true
  | r :: t => t.all (fun x => !Span.meets (x.base, x.size) (r.base, r.size)) && regionsDisjoint t

/-- The check of the regions themselves (R304). -/
def State.regionsOk (s : State) (vf : Nat) (new : List Region) : Bool :=
  let all := mergeRegions (s.vf vf).regions new
  new.length ≤ 16 && all.length ≤ 16 && new.all (fun r => r.base % 65536 == 0 && r.size % 65536 == 0 && r.size != 0) &&
    regionsDisjoint new && regionsDisjoint all

/-- Can a ring be created (R377)? One that an earlier launch created stands. -/
def State.ringOk (s : State) (vf : Nat) (x : Nat × Ring) : Bool :=
  match s.ring? vf x.1 with
  | some r => r.base == x.2.base && r.size == x.2.size && r.policy == x.2.policy && r.notify == x.2.notify
  | none => x.1 < 64 && x.2.base % 64 == 0 && x.2.policy < 3 &&
      ((List.range 17).any fun k => x.2.size == 16 * 2 ^ k)

/-- The check of an image's rings. -/
def State.ringsOk (s : State) (vf : Nat) (rs : List (Nat × Ring)) : Bool :=
  let new := rs.filter fun x => (s.ring? vf x.1).isNone
  let count := fun (vs : List (Nat × Vf)) => sumOf (fun v => v.2.rings.length) vs
  rs.all (s.ringOk vf) && (rs.map (·.1)).eraseDups.length == rs.length &&
    (s.vf vf).rings.length + new.length ≤ 64 && count s.vfs + new.length ≤ 2048 &&
    count (s.vfs.filter fun v => partOf v.1 == partOf vf) + new.length ≤ (s.part (partOf vf)).rings

/-- A set's members once the contexts of a launch have joined it. -/
def joinedMembers (t : List (Nat × List Nat)) (rs : List Start) (k : Nat) : List Nat :=
  (t.filter fun e => e.1 == k).flatMap fun e => e.2.filter fun n => rs.any fun r => r.num == n

/-- The checks of a LAUNCH in their order: the status of the first that fails (R36, Table 17.8). A `.bind` record of
a slot that is FREE and named by no start record has no window to be checked against. (DEDUCED: log 87, DESIGN CHOICE: log 146) -/
def State.launchFault (s : State) (vf : Nat) (img : Image) (rs : List Start) : Option Nat :=
  let part := partOf vf
  let t := img.sets
  let busy := fun (r : Start) =>
    (s.ctx r.num).life.state != .free || s.startsPending.any (fun p => p.num == r.num) ||
      1 < (rs.filter fun x => x.num == r.num).length
  let foreign := fun (g : Region) =>
    ((s.set g.set).members ++ (t.filter fun e => e.1 == g.set).flatMap (·.2)).any fun n =>
      ((s.ctx n).id.vf != vf && (s.ctx n).life.state != .free) ||
        s.vfs.any fun v => v.1 != vf && v.2.starts.any fun b => Start.num ⟨b⟩ == n
  let taken := fun (e : Nat × List Nat) => !(joinedMembers t rs e.1).isEmpty &&
    s.vfs.any fun v => v.1 != vf && v.2.state != .free && v.2.regions.any fun g => g.set == e.1
  let badBind := fun (b : Nat × Nat × List Byte) =>
    let window := match rs.find? fun r => r.num == b.1 with
      | some r => r.spSize
      | none => if (s.ctx b.1).life.state = .free then 2 ^ 32 else (s.ctx b.1).id.spSize
    b.2.1 < 0xC0 || bindStatus window b.2.2 != 0
  if rs.isEmpty || 1024 < rs.length || !rs.all Start.formOk then some 0x0B
  else if rs.any (fun r => rs.any fun x => x.core == r.core && x.spblk != r.spblk) then some 0x09
  else if !rs.all (fun r => (s.part part).cores.contains r.core) then some 0x07
  else if rs.any busy then some 0x08
  else if !(rs.all s.startWindowOk && startsDisjoint rs) then some 0x09
  else if !s.setsOk part t rs then some 0x0A
  else if !rs.all (fun r => img.holds r.entry) then some 0x0B
  else if !s.regionsOk vf img.regions then some 0x09
  else if img.regions.any foreign || t.any taken then some 0x0A
  else if !s.ringsOk vf img.rings then some 0x09
  else if img.binds.any badBind then some 0x0B
  else none

/-- A launch waits while it would change the split of a core whose dirty lines cannot be written back yet (R184, R419).
(DESIGN CHOICE: log 178) -/
def State.launchWaits (s : State) (rs : List Start) : Bool :=
  rs.any fun r => !s.splitFixed r.core && !s.canSetBlocks r.core r.spblk

/-- A launch that passed every check: sets, regions and rings are set up, the splits are set, the records set out. -/
def State.distribute (s : State) (vf h : Nat) (img : Image) (rs : List Start) : State :=
  let s := rs.foldl (fun (s : State) r =>
    if s.splitFixed r.core then s else s.setBlocks r.core r.spblk) s
  let s := (img.sets.map (·.1)).eraseDups.foldl (fun (s : State) k =>
    s.onSet k fun e => { e with members := (e.members ++ joinedMembers img.sets rs k).eraseDups }) s
  let s := s.onVf vf fun v =>
    { v with
      regions := mergeRegions v.regions img.regions
      rings := img.rings.foldl (fun l x => if (lookup? x.1 l).isSome then l else assocSet x.1 x.2 l) v.rings
      starts := rs.map (·.bytes), starting := h }
  (img.regions.foldl (fun (s : State) r => s.markEmb vf r) s).finishCommand vf 0 0

/-- LAUNCH (R36, R476). -/
def execLaunch (vf : Nat) (s : State) : Host.Outcome State Fault Refusal :=
  match s.command vf with
  | none => .next s
  | some w =>
    if cmdOp w ≠ 2 || (s.commandMiss vf).isSome || s.commandHeld vf then .next s
    else
      match lookup? (cmdHandle w) (s.vf vf).images with
      | none => .next (s.finishCommand vf 0x06 0)
      | some img =>
        if 1024 < cmdLen w then .next (s.finishCommand vf 0x0B 0)
        else
          match s.launchRecords vf w with
          | none => .next (s.finishCommand vf 0x0B 0)
          | some rs =>
            match s.launchFault vf img rs with
            | some st => .next (s.finishCommand vf st 0)
            | none => .next (if s.launchWaits rs then s else s.distribute vf (cmdHandle w) img rs)

/-! ## A start record arrives (R37, R38) -/

/-- The context of a start record. (DEDUCED: log 23) -/
def Start.ctx (r : Start) (vf : Nat) (sets : List Nat) (descs : Assoc Desc) : Ctx :=
  let put := fun (l : Sparse Dword) (i : Nat) => sparseSet 0 i (r.arg i) l
  { life := { state := if r.cls = 2 then .idle else .ready }
    id := { vf := vf, kind := if r.cls = 2 then .eval else if r.cls = 1 then .data else .ord, semBase := r.semBase,
            semCount := r.semCount, spBase := r.spBase, spSize := r.spSize, sets := sets }
    pc := BitVec.ofNat 64 r.entry
    regs := { s := [1, 2, 3, 4].foldl put [] }
    ctl := { desc := descs }
    trap := { handler := BitVec.ofNat 64 r.handler &&& ~~~0xF#64 } }

/-- The descriptors of an image's `.tensor` entries: of 64 images of 128 bytes those that are VALID (R129, Tables 4.10 and 17.3). -/
def Image.descs (img : Image) : Assoc Desc :=
  (img.section 5).foldl (fun (l : Assoc Desc) c =>
    ((List.range 64).filter (Config.tensorValid c)).foldl
      (fun l i => assocSet i (descriptorOf ((c.drop (128 * i)).take 128)) l) l) []

/-- START_RECORD_ARRIVAL: the slot of context number `n` becomes READY or IDLE (R37), with the bindings of its `.bind`
records (R38, R95, R333). -/
def execStartRecordArrival (vf n : Nat) (s : State) : Host.Outcome State Fault Refusal :=
  let v := s.vf vf
  match v.starts.find? fun b => Start.num ⟨b⟩ == n with
  | none => .next s
  | some b =>
    let r : Start := ⟨b⟩
    match lookup? v.starting v.images with
    | none => .next s
    | some img =>
      let s := s.onVf vf fun v => { v with starts := v.starts.filter fun x => x != b }
      let s := ((s.setCtx n (r.ctx vf (setsOf img.sets n) img.descs)).clearSems n).trimMicro (coreOf n)
      let s := (img.binds.filter fun x => x.1 == n).foldl
        (fun (s : State) x => s.applyBind n x.2.1 (some { bindingOf x.2.2 with launch := true })) s
      .next (if r.cls = 2 then s.offerSlot n else s)

/-! ## UNLOAD (R446, R447, R473) -/

/-- Does a context hold an address inside a code object (R446)? -/
def Ctx.usesCode (c : Ctx) (img : Image) : Bool :=
  let within := fun (a : Dword) => img.holds a.toNat
  let live := c.life.state == .ready || c.life.state == .stalled || c.life.state == .saved
  live && (within c.pc || (c.trap.tl && within c.trap.pc) || within c.trap.handler || c.ctl.ret.any within ||
    (c.lv0.loops ++ c.lv1.loops).any fun l => l.active && (within l.start || within l.stop))

/-- Contexts of a VF that use a code object. -/
def State.codeUsers (s : State) (vf : Nat) (img : Image) : List Nat :=
  (s.ctxs.filter fun p => p.2.id.vf == vf && p.2.usesCode img).map (·.1)

/-- A SAVED context that can never be restored: its slot goes to DRAINING, marked LOST, with an error record of KIND
LOST, and what was kept for it is discarded (R444, R445, R447). -/
def State.loseSaved (s : State) (n : Nat) (t : Trapped) (extra : Nat) : State :=
  let c := s.ctx n
  let s := s.postRecord c.id.vf (errorRecord 0x12 t n { c with trap := { c.trap with pc := c.pc } } extra)
  let s := s.dropSaved n
  (s.onCtx n fun c => { c with life := { c.life with lost := true } }).endContext n true

/-- A context ended with CODEGONE (R447). -/
def State.endCodeUser (s : State) (n : Nat) : State :=
  if (s.ctx n).life.state = .saved then s.loseSaved n ⟨.codegone, 0⟩ 0
  else s.retireFatal n ⟨.codegone, 0⟩ (s.ctx n).pc 0

/-- A code object gone: its pages lose X before OK is posted (R473). -/
def State.dropImage (s : State) (vf h : Nat) (img : Image) : State :=
  let s := s.onVf vf fun v => { v with images := dropKey h v.images, darots := v.darots.filter fun d => !img.code.contains (d.1, d.2.1) }
  (img.code.foldl (fun s c => s.markCode vf c false) s).finishCommand vf 0 0

/-- An UNLOAD with a given FORCE. -/
def State.unload (s : State) (vf : Nat) (force : Bool) : State :=
  match s.command vf with
  | none => s
  | some w =>
    if cmdOp w ≠ 3 || cmdForce w != force then s
    else
      match lookup? (cmdHandle w) (s.vf vf).images with
      | none => s.finishCommand vf 0x06 0
      | some img =>
        let users := s.codeUsers vf img
        if users.isEmpty then s.dropImage vf (cmdHandle w) img
        else if force then
          -- a context in its slot retires at its next bundle boundary
          if users.any (fun n => (s.ctx n).life.state != .saved && !(s.ctx n).routines.isEmpty) then s
          else (users.foldl State.endCodeUser s).dropImage vf (cmdHandle w) img
        else s.finishCommand vf 0x0E 0

/-- UNLOAD (R446, R473). -/
def execUnload (vf : Nat) (s : State) : Host.Outcome State Fault Refusal := .next (s.unload vf false)
/-- UNLOAD_FORCE (R447, R473). -/
def execUnloadForce (vf : Nat) (s : State) : Host.Outcome State Fault Refusal := .next (s.unload vf true)

/-! ## Translated Darot code (R474) -/

/-- The size of a code object of translated code: whole 64 KiB pages (R472). -/
def darotSize (code : List Byte) : Nat := (code.length + 65535) / 65536 * 65536

/-- May a VF get translated code: room for an image, and the check of R471 under the VF's LIMIT? -/
def State.darotOk (s : State) (vf : Nat) (code : List Byte) : Bool :=
  (s.vf vf).state == .active && !code.isEmpty && (s.vf vf).images.length < 64 &&
    (longestPath (opsOf code) []).1 ≤ (s.part (partOf vf)).limit

/-- Can translated code stand at an address of a VF: where the VF has mapped nothing and no code lies (R472)? -/
def State.darotFits (s : State) (vf n va : Nat) : Bool :=
  va + n ≤ 2 ^ 52 && !(s.vf vf).images.any (fun i => i.2.code.any fun c => Span.meets c (va, n)) &&
    (s.leavesFrom vf (s.vf vf).root).all fun x => !Span.meets (x.2.2.1, 2 ^ levelShift x.2.1) (va, n)

/-- Where a VF gets translated code, which the manual does not give: from a free block of 1 GiB on, the first place of whole
blocks at which the code can stand. No more places are taken up than are tried. (DESIGN CHOICE: log 94) -/
def State.darotPlace (s : State) (vf : Nat) (code : List Byte) : Option Nat :=
  let n := darotSize code
  let step := (n + 2 ^ 30 - 1) / 2 ^ 30
  let used := (s.leavesFrom vf (s.vf vf).root).length +
    sumOf (fun (i : Nat × Image) => sumOf (fun c => c.2 / 2 ^ 30 + 2) i.2.code) (s.vf vf).images
  if s.darotOk vf code then
    ((List.range (used + 2)).map fun i => ((Config.freeValue s.free).toNat + step * i) % 2 ^ 22 * 2 ^ 30).find? (s.darotFits vf n)
  else none

/-- Where an entry of the cache lies: past every address that a page table can name (Table 16.2). (DESIGN CHOICE: log 94) -/
def darotBase (l : List Darot) (i : Nat) : Nat := 2 ^ 48 + sumOf (fun d => darotSize d.code) (l.take i)

/-- Translated code mapped R and X, as a code object of the VF. (DESIGN CHOICE: log 94) -/
def State.mapDarot (s : State) (vf va pa : Nat) (code : List Byte) : State :=
  let h := (s.vf vf).newHandle
  let n := darotSize code
  (s.onVf vf fun v => { v with
    images := assocSet h { code := [(va, n)], tables := [] } v.images, handle := h, darots := v.darots ++ [(va, n, pa)] }).dropTlb vf va n

/-- The cache once a VF has translated an input: an entry of the same key gets the VF's bit, otherwise one is made. -/
def darotWith (l : List Darot) (vf : Nat) (input : List Byte) (version : Nat) : List Darot :=
  let key := sha384 input
  let mine := fun (d : Darot) => d.hash == key && d.version == version
  if l.any mine then l.map fun d => if mine d && !(d.vfs.contains vf) then { d with vfs := d.vfs ++ [vf] } else d
  else l ++ [{ hash := key, version := version, vfs := [vf], code := Config.darotCode input version }]

/-- DAROT_X_TRANSLATION: a lookup by hash and version that hits only an entry whose bit of the VF is set; otherwise the
code is made, and its entry, kept in device memory, gets the VF's bit. The code is mapped for the VF, unless it is already.
(DESIGN CHOICE: log 94) -/
def execDarotXTranslation (vf : Nat) (input : List Byte) (version : Nat) (s : State) : Host.Outcome State Fault Refusal :=
  let mine := fun (d : Darot) => d.hash == sha384 input && d.version == version
  let l := darotWith s.darot vf input version
  let code := ((l.find? mine).map (·.code)).getD []
  let pa := darotBase l (l.findIdx mine)
  let hit := s.darot.any fun d => mine d && d.vfs.contains vf
  let s1 := if s.darot.any mine then s else s.setBytes pa code
  let place := if hit && (s.vf vf).darots.any fun d => d.2.2 == pa then none else s.darotPlace vf code
  .next { (place.elim s1 fun va => s1.mapDarot vf va pa code) with
    darot := l, outbox := s.outbox ++ [.darot vf code], free := s.free + 1 }

end Sys2Proof.Machine
end

