-- ==== Sys2Proof/Machine/SaveArea.lean ====
section
/-!
DEFINITION. The save area (R441 to R443): the 320 KiB image of Tables 15.3 to 15.7 as pieces of bytes at offsets, and its
block tags.
-/
namespace Sys2Proof.Machine
open Sys2Proof

/-- A piece of the image: its offset and its bytes; bytes of no piece are zero. -/
abbrev Piece := Nat × List Byte

def dwordBytes (xs : List Dword) : List Byte := xs.flatMap fun x => natBytes 8 x.toNat
def numBytes (n : Nat) (xs : List Nat) : List Byte := xs.flatMap (natBytes n)

/-! ## Deferred writes (Table 15.5) -/

/-- A deferred-write entry as it is written: source, value, file, number, address, and the deferred value slots it takes,
each with its byte mask. -/
structure DeferredImage where
  source : Nat := 0
  value  : Nat := 0
  file   : Nat
  number : Nat := 0
  addr   : Nat := 0
  slots  : List (List Byte × List Bool) := []

/-- The code of an element size. -/
def sizeCode (bytes : Nat) : Nat := if bytes = 1 then 0 else if bytes = 2 then 1 else if bytes = 4 then 2 else 3

/-- Bytes and mask of lane writes. -/
def laneSlot (ws : List (Nat × Word × Word)) : List Byte × List Bool :=
  let at' := fun (i : Nat) => ws.find? fun w => w.1 == i
  ((List.range 128).flatMap fun i => (at' i).elim [0, 0, 0, 0] fun w => natBytes 4 w.2.2.toNat,
   (List.range 128).flatMap fun i => (at' i).elim [false, false, false, false]
     fun w => (natBytes 4 w.2.1.toNat).map fun b => b != 0)

/-- Bytes with every one of them in the mask. -/
def wholeSlot (bs : List Byte) : List Byte × List Bool := (bs, bs.map fun _ => true)

/-- The 88-byte form of a descriptor (Table 15.3). -/
def descBytes (d : Desc) : List Byte :=
  dwordBytes [d.base, d.scale, d.ctrl ||| 0x80] ++ numBytes 4 (d.counts.map (·.toNat)) ++ dwordBytes (d.strides.drop 1)

/-- Where the bytes of a `vtwr` lie in its tile: row, segment of 512 bytes, and the tile byte at which the segment begins. -/
def Ctx.tileSegment (c : Ctx) (t : Nat) (ws : List (Nat × Byte)) : Nat × Nat × Nat :=
  let rb := max 1 (tctlRowBytes (c.tctl t))
  let first := (ws.map (·.1)).min?.getD 0
  (first / rb, first % rb / 512, first / rb * rb + first % rb / 512 * 512)

/-- What an effect is written as; none for one that stands elsewhere in the area. -/
def Effect.image (c : Ctx) (spTypes : Nat → Bool) : Effect → Option DeferredImage
  | .scalar n v _ => some { file := 0, number := n, value := v.toNat }
  | .half n high v => some { file := 0, number := n, value := if high then v.toNat * 2 ^ 32 else v.toNat }
  | .pred n b => some { file := 1, number := n, value := if b then 1 else 0 }
  | .lanePred _ _ _ _ => none
  | .vector n ws _ => some { file := 3, number := n, source := 1, slots := [laneSlot ws] }
  | .damage _ _ _ => none
  | .latch b bs => some { file := if b then 5 else 4, source := 1, slots := [wholeSlot bs] }
  | .control num v => some { file := 6, number := num, value := v.toNat }
  | .tctl t v => some { file := 7, number := t, value := v.toNat }
  | .descriptor n d => some { file := 8, number := n, source := 1, slots := [wholeSlot (descBytes d)] }
  | .tileBytes t ws =>
    let (row, seg, base) := c.tileSegment t ws
    let at' := fun (i : Nat) => ws.find? fun w => w.1 == base + i
    some { file := 9, number := t + 16 * row + 1024 * seg, source := 1,
           slots := [((List.range 512).map fun i => (at' i).elim 0 (·.2), (List.range 512).map fun i => (at' i).isSome)] }
  | .store 0 size _ [w] => some { file := 10, number := sizeCode size, value := w.2.2, addr := w.2.1 }
  | .store 0 _ _ _ => none
  | .store ents size ea ws =>
    let data := laneSlot (ws.map fun w => (w.1, 0xFFFFFFFF, BitVec.ofNat 32 w.2.2))
    if ents = 8 then some { file := 10, number := sizeCode size + 4, source := 1, addr := ea, slots := [data] }
    else some { file := 10, number := sizeCode size + 8, source := 1,
                slots := [data, wholeSlot ((List.range 128).flatMap fun i => natBytes 4 (((ws.find? fun w => w.1 == i).map (·.2.1)).getD 0))] }
  | .loadScalar n ty a =>
    some { file := 11, number := n + 128 * sizeCode (typeBytes ty) + (if spTypes ty then 512 else 0), addr := a }
  | .loadLanes ents ea n ty as =>
    let addrs := (List.range 128).flatMap fun i => natBytes 4 (((as.find? fun a => a.1 == i).map (·.2)).getD 0)
    let mask := (List.range 128).flatMap fun i => List.replicate 4 (as.any fun a => a.1 == i)
    some { file := 11, number := n + 128 * sizeCode (typeBytes ty) + (if spTypes ty then 512 else 0) + (if ents = 8 then 1024 else 64),
           source := 1, addr := if ents = 8 then 0 else ea, slots := [(if ents = 8 then addrs else [], mask)] }
  | .landing _ => none

/-- Progress in writing the deferred-write list: entries, value slots, landing entries written so far. -/
structure DeferredPlan where
  entries : List (List Byte) := []
  slots   : List (List Byte × List Bool) := []
  landing : List (List Byte) := []

/-- One entry of 16 bytes. -/
def deferredEntry (level : Bool) (rem index : Nat) (x : DeferredImage) : List Byte :=
  natBytes 16 (x.value % 2 ^ 64 * 2 ^ 64 + rem * 2 ^ 56 + (if level then 2 ^ 55 else 0) + x.source * 2 ^ 53 + index * 2 ^ 45 +
    x.file * 2 ^ 41 + x.number % 4096 * 2 ^ 29 + x.addr)

/-- The landing entries of a datum, in 64 bytes each. -/
def Landing.entries (l : Landing) : List (List Byte) :=
  match l.vector with
  | some (_, bs) => (List.range 8).map fun i => (bs.drop (64 * i)).take 64
  | none => [numBytes 8 (l.words.map fun w => w.2.toNat)]

/-- One pending result or effect put into the plan. -/
def DeferredPlan.put (p : DeferredPlan) (c : Ctx) (level : Bool) (count : Nat) (d : Deferred) : DeferredPlan :=
  let rem := d.due - count + 1
  match d.eff with
  | .landing id =>
    match c.port.landings.find? fun l => l.id == id with
    | none => p
    | some l =>
      let index := p.landing.length
      let regs : List (Nat × Nat) := match l.vector with
        | some (v, _) => [(3, v)]
        | none => l.words.map fun w => (0, w.1)
      { p with
        entries := p.entries ++ regs.map fun r => deferredEntry level rem index { source := 2, file := r.1, number := r.2 }
        landing := p.landing ++ l.entries }
  | .lanePred n m v _ =>
    let data := natBytes 16 v.toNat ++ natBytes 16 m.toNat
    -- a landing entry, or where those of the slot are full a deferred value slot (log 99)
    if p.landing.length < 128 then
      { p with
        entries := p.entries ++ [deferredEntry level rem p.landing.length { source := 2, file := 2, number := n }]
        landing := p.landing ++ [data] }
    else
      { p with
        entries := p.entries ++ [deferredEntry level rem p.slots.length { source := 1, file := 2, number := n }]
        slots := p.slots ++ [wholeSlot (data ++ List.replicate 480 0)] }
  | e =>
    match e.image c Ty.signed with
    | none => p
    | some x => { p with entries := p.entries ++ [deferredEntry level rem p.slots.length x], slots := p.slots ++ x.slots }

/-- The whole list, in issue order, entries of one bundle in slot order. -/
def Ctx.deferredPlan (c : Ctx) : DeferredPlan :=
  let all := (c.lv0.deferred.map fun d => (false, d)) ++ c.lv1.deferred.map fun d => (true, d)
  (sortKey (fun (x : Bool × Deferred) => 8 * x.2.seq + x.2.slot) all).foldl
    (fun p x => p.put c x.1 (if x.1 then c.lv1.count else c.lv0.count) x.2) {}

/-! ## The replay list (Table 15.6) -/

/-- Has an entry of the replay list a result that lands? -/
def PortReq.hasResult (r : PortReq) : Bool :=
  0 < r.slots || match r.work with
    | .op (.lds _ _) | .op (.vlds _ _) | .op (.vgat _ _) => true
    | _ => false

/-- A replay entry of 32 bytes; captured vectors go into landing entries. W2 of a TRI or JOB op, whose W1 is its immediate,
holds s(B). (DEDUCED: log 99) -/
def Ctx.replayEntry (c : Ctx) (land : List (List Byte)) (r : PortReq) : List Byte × List (List Byte) :=
  let op : BitVec 128 := match r.work with
    | .op i => encode i
    | .signal _ _ => 0
  let f := fun (lo n : Nat) => (op.extractLsb' lo n).toNat
  let lv := if r.level then c.lv1 else c.lv0
  let rem := if r.hasResult then r.due - lv.count + 1 else 0
  let eight := fun (bs : List Byte) => (List.range 8).map fun i => (bs.drop (64 * i)).take 64
  let isVec := !r.vec.isEmpty
  let (w1, land) := if isVec then (land.length, land ++ eight r.vec)
    else (if r.mem.isSome then r.w1.toNat else f 84 44, land)
  let isIdx := match r.work with
    | .op (.vgat _ _) | .op (.vsca _ _) => true
    | _ => false
  let (w2, land) := if isIdx then
      (land.length, land ++ eight ((List.range 128).flatMap fun i => natBytes 4 (((r.lanes.find? fun a => a.1 == i).map (·.2)).getD 0)))
    else (if r.mem.isNone then r.w1.toNat else if r.eid = 0 then r.w2.toNat else r.order, land)
  let sealed := match r.work with
    | .op (.sst _ _) | .op (.svst _ _) => true
    | _ => false
  let info := f 0 8 + f 44 4 * 2 ^ 8 + f 76 8 * 2 ^ 12 + f 48 7 * 2 ^ 20 + f 32 8 * 2 ^ 27 + f 40 4 * 2 ^ 35 + rem * 2 ^ 39 +
    (if r.mem.isNone then 0 else f 123 1 * 2 ^ 47 + (if sealed then f 114 6 else f 116 4) * 2 ^ 48) + (if isVec || isIdx then 2 ^ 60 else 0) +
    (if r.immed then 2 ^ 61 else 0) + (if r.level then 2 ^ 62 else 0) + 2 ^ 63
  (numBytes 8 [r.addr.toNat, w1, w2, info], land)

/-- The list, with the landing entries it adds. -/
def Ctx.replayImage (c : Ctx) (land : List (List Byte)) : List (List Byte) × List (List Byte) :=
  c.trap.list.foldl (fun (acc : List (List Byte) × List (List Byte)) r =>
    let (e, l) := c.replayEntry acc.2 r
    (acc.1 ++ [e], l)) ([], land)

/-! ## Micro record and copy jobs (Table 15.7) -/

/-- The micro record of the routines in progress. -/
def Ctx.microImage (c : Ctx) : List Piece :=
  match c.routines with
  | [] => []
  | r :: rest =>
    let op := fun (x : Routine) => natBytes 16 (encode (.boundOp (BitVec.ofNat 8 x.opc) x.h x.f)).toNat
    let m := r.micro
    let flags := (if m.fany then 1 else 0) + (if m.fall then 2 else 0) + (if rest.isEmpty then 0 else 4)
    let gen := fun (g : AddrGen) =>
      numBytes 4 [g.addr, g.base] ++ numBytes 2 [(g.stride % 65536).toNat, g.count, g.reload] ++ natBytes 2 0
    let held := fun (file : Nat) => sortKey (fun (x : Nat) => x) (((r.held.filterMap Effect.target).filter fun k => k.1 == file).map (·.2)).eraseDups
    let mask := fun (ns : List Nat) => ns.foldl (fun k n => k + 2 ^ n) 0
    let view : Ctx := { c with regs := r.regs }
    [ (0x2900, op r ++ (rest.head?).elim [] op), (0x2920, numBytes 2 [m.mpc, m.ml0, m.ml1, m.steps, flags]),
      (0x292C, gen m.ag0 ++ gen m.ag1),
      (0x294C, natBytes 8 r.flags.toNat ++ natBytes 8 (mask (held 3)) ++ natBytes 8 (mask (held 0))),
      (0x2964, (held 0).flatMap fun n => natBytes 8 (view.s n).toNat) ] ++
    ((List.range 8).zip (held 3)).map fun (i, n) => (0x13000 + 512 * i, laneBytes (view.lanes n))

/-- A copy-job record of 256 bytes. -/
def State.jobImage (s : State) (j : Job) : List Byte :=
  let group := s.jobs.filter fun k => k.group == j.group
  let grouped := j.grouped || 1 < group.length
  let last := (group.getLast?.map (·.id)) == some j.id
  let (ssem, sinc) := match j.sig.bind fun id => (s.ctx j.ctx).port.queue.find? fun r => r.id == id with
    | some r => match r.work with
      | .signal h v => (h, v)
      | .op _ => (0, 0)
    | none => (0, 0)
  let owed := j.bytes % 2 ^ 40 + j.bb.getD 0 * 2 ^ 40 + (if j.bb.isSome then 2 ^ 44 else 0) + (if j.started then 2 ^ 45 else 0) +
    (if grouped then 2 ^ 46 else 0) + (if grouped && last then 2 ^ 47 else 0) + ssem * 2 ^ 48 + sinc * 2 ^ 56 + 2 ^ 63
  let side := fun (x : Side) => (x.desc).elim (List.replicate 88 0) descBytes
  let lw := j.lowest
  let mask := (List.range 64).foldl (fun k i => if j.done.contains (lw + i) then k + 2 ^ i else k) 0
  j.card.take 24 ++ natBytes 8 owed ++ (j.card.drop 32).take 32 ++ side j.src ++ side j.dst ++ natBytes 4 lw ++
    natBytes 2 ((j.src.exp % 65536).toNat) ++ natBytes 2 ((j.dst.exp % 65536).toNat) ++ natBytes 8 mask

/-- Start, length and bytes of a quarantined beat. -/
def Quarantined.extent (q : Quarantined) : Nat × Nat :=
  let lo := (q.writes.map (·.1)).min?.getD 0
  let hi := (q.writes.map (·.1)).max?.getD 0
  (lo, hi - lo + 1)
def Quarantined.bytes (q : Quarantined) : List Byte :=
  let (lo, n) := q.extent
  (List.range n).map fun i => ((q.writes.find? fun w => w.1 == lo + i).map (·.2.2)).getD 0

/-! ## The image (Tables 15.3 and 15.4) -/

/-- A binding entry of 64 bytes. -/
def Binding.bytes (b : Binding) : List Byte :=
  natBytes 8 b.image.toNat ++ numBytes 2 [b.words, b.entry, b.steps] ++ [if b.isM then 1 else 0, 0] ++
    natBytes 8 b.vmask.toNat ++ natBytes 2 b.tmask.toNat ++ natBytes 2 b.banks.toNat ++ natBytes 4 0 ++
    natBytes 4 b.spBase ++ natBytes 4 b.spSize ++ [if b.resident then 3 else 1] ++ List.replicate 23 0

/-- An envelope slot of 128 bytes. -/
def Ctx.envImage (c : Ctx) (k : Nat) : List Byte :=
  match lookup? k c.env with
  | none => []
  | some e => dwordBytes [e.word] ++ natBytes 8 e.mask.toNat ++ natBytes 8 c.envOrder ++
      numBytes 6 ((maskDevices e.mask).map fun d => lookupD 0 d e.sent)

/-- The barrier fields of the header: each set of the context, whether it has arrived, whether its release is here. -/
def State.barrierImage (s : State) (n : Nat) : List Byte :=
  let ks := ((s.sets.filter fun p => p.2.members.contains n).map (·.1)).take 4
  numBytes 2 (ks.map fun k =>
    k + (if (s.set k).arrivals.contains n then 256 else 0) + (if (s.set k).released.contains n then 512 else 0))

/-- The pieces of a context's save area. (DEDUCED: log 99) -/
def State.saveImage (s : State) (n seq : Nat) : List Piece :=
  let c := s.ctx n
  let plan := c.deferredPlan
  let (replays, landing) := c.replayImage plan.landing
  let jobs := s.jobs.filter fun j => j.ctx == n
  let kind := match c.id.kind with
    | .ord => 0
    | .data => 1
    | .eval => 2
  let counts := plan.entries.length + replays.length * 2 ^ 8 + jobs.length * 2 ^ 16 + c.quar.length * 2 ^ 24 +
    if c.routines.isEmpty then 0 else 2 ^ 28
  let at' := fun (base size : Nat) (l : List (List Byte)) =>
    ((List.range l.length).zip l).map fun (i, bs) => (base + size * i, bs)
  let qdir := ((List.range c.quar.length).zip c.quar).map fun (i, q) =>
    natBytes 16 (jobs.findIdx (fun j => j.id == q.job) + (if q.tile.isSome then 64 else 0) + q.extent.2 * 2 ^ 8 +
      q.extent.1 * 2 ^ 32 + 4096 * i * 2 ^ 64)
  let heldCauses := c.trap.held.flatMap fun t => natBytes 8 t.cause.code ++ natBytes 8 t.info.toNat
  let loops := (c.lv0.loops ++ c.lv1.loops).flatMap fun l =>
    dwordBytes [l.lc, l.start, l.stop, if l.active then 1 else 0]
  let ctl := [ctxstWord c, c.ctl.ctxctl.toNat, c.ctl.fpstat.toNat, c.ctl.dmgSat.toNat, c.ctl.dmgZero.toNat, c.ctl.dmgSac.toNat,
    c.ctl.landLate.toNat, (s.readControl n 0x028).toNat, c.ctl.ret.length] ++ ((List.range 12).map fun t => (c.tctl t).toNat) ++
    [statusWord c.mat.stat0, statusWord c.mat.stat1, c.ctl.chain.length] ++ c.ctl.chain.map (·.toNat)
  [ (0x00, numBytes 8 [1, n + c.id.vf * 2 ^ 16 + kind * 2 ^ 24 + (if c.trap.tl then 2 ^ 32 else 0), c.pc.toNat, seq,
      c.id.spSize / 4096 + c.id.semCount * 2 ^ 16, counts]),
    (0x30, s.barrierImage n), (0x40, qdir.flatMap id),
    (0x100, dwordBytes c.ctl.ret.reverse), (0x300, loops),
    (0x480, numBytes 8 [trapCauseWord c, c.trap.pc.toNat, c.trap.info.toNat, c.trap.handler.toNat] ++ heldCauses),
    (0x4E0, numBytes 8 ctl),
    (0x5E0, c.ctl.redlog.flatMap fun e => dwordBytes [e.addr, e.opWord, e.operand]),
    (0x1100, dwordBytes ((List.range 64).map c.s)),
    (0x1300, natBytes 8 ((List.range 32).foldl (fun k i => if c.p i then k + 2 ^ i else k) 0)),
    (0x1308, (List.range 16).flatMap fun i => natBytes 16 (c.q i).toNat),
    (0x1408, (List.range 16).flatMap fun i => natBytes 8 (lookupD 0 i c.bb).toNat),
    (0x1488, (List.range c.id.semCount).flatMap fun h => natBytes 2 (s.sem n h)),
    (0x1688, laneBytes ((lookupList 0 0 64 c.mat.latchA) ++ lookupList 0 0 64 c.mat.latchB)) ] ++
  at' 0x900 128 ((List.range 16).map c.envImage) ++
  at' 0x1900 64 ((List.range 64).map fun i => (lookup? (0xC0 + i) c.binds).elim [] Binding.bytes) ++
  c.microImage ++ at' 0x2B00 16 plan.entries ++ at' 0x3500 32 replays ++
  at' 0x4500 88 ((List.range 64).map fun i => (lookup? i c.ctl.desc).elim [] descBytes) ++
  at' 0x5B00 256 (jobs.map s.jobImage) ++
  at' 0x9B00 64 ((plan.slots.take 16).map fun x => (groups 8 64 (x.2.map fun b => if b then 1 else 0)).map fun g =>
    BitVec.ofNat 8 (g.foldr (fun b k => b + 2 * k) 0)) ++
  at' 0xA000 512 ((List.range 64).map fun v => laneBytes (c.lanes v)) ++
  at' 0x12000 512 ((List.range 8).map fun k => laneBytes (c.mtLanes k)) ++
  at' 0x14000 512 ((plan.slots.map (·.1)).take 16) ++ at' 0x16000 64 (landing.take 128) ++
  at' 0x18000 8192 ((List.range 12).map fun t => (List.range 8192).map (c.tileByte t)) ++
  at' 0x30000 12 ((List.range 8192).map fun i => natBytes 12 (c.cell (i / 4096) (i % 4096 / 64) (i % 64)).toNat) ++
  at' 0x48000 4096 (c.quar.map Quarantined.bytes)

/-- The byte of an image at an offset. -/
def imageByte (ps : List Piece) (o : Nat) : Byte :=
  match ps.find? fun p => p.1 ≤ o && o < p.1 + p.2.length with
  | some p => p.2.getD (o - p.1) 0
  | none => 0

/-- A 4 KiB block of an image. -/
def imageBlock (ps : List Piece) (b : Nat) : List Byte :=
  let here := ps.filter fun p => p.1 < 4096 * (b + 1) && 4096 * b < p.1 + p.2.length
  (List.range 4096).map fun i => imageByte here (4096 * b + i)

/-! ## The image read back (R444, step 2) -/

/-- Numbers of `size` bytes in a row in an area. -/
def areaNums (f : Nat → Nat → Nat) (off size n : Nat) : List Nat := (List.range n).map fun i => f (off + size * i) size
/-- Bit vectors of the same kind. -/
def areaBits (w : Nat) (f : Nat → Nat → Nat) (off size n : Nat) : List (BitVec w) := (areaNums f off size n).map (BitVec.ofNat w)

/-- The status of an accumulator (Table 9.2). -/
def accStatusOf (w : Nat) : AccStatus :=
  { tag := w % 4, ovf := w.testBit 2, malf := w.testBit 3, nanin := w.testBit 4, win := (BitVec.ofNat 17 (w / 32)).toInt }

/-- The register files as an area holds them. -/
def regsOfArea (f : Nat → Nat → Nat) : Regs :=
  { s  := sparseSetList 0 0 (areaBits 64 f 0x1100 8 64) []
    p  := BitVec.ofNat 32 (f 0x1300 8 / 2 * 2)
    q  := sparseSetList 0 1 (areaBits 128 f 0x1318 16 15) []
    v  := sparseSetList 0 0 (areaBits 32 f 0xA000 4 8192) []
    mt := sparseSetList 0 0 (areaBits 32 f 0x12000 4 1024) [] }

/-- The loop unit of a level. -/
def loopsOfArea (f : Nat → Nat → Nat) (off : Nat) : List LoopLevel :=
  (List.range 6).map fun i =>
    { lc := BitVec.ofNat 64 (f (off + 32 * i) 8), start := BitVec.ofNat 64 (f (off + 32 * i + 8) 8)
      stop := BitVec.ofNat 64 (f (off + 32 * i + 16) 8), active := (f (off + 32 * i + 24) 8).testBit 0 }

/-- Bytes of an area. -/
def areaBytes (f : Nat → Nat → Nat) (off n : Nat) : List Byte := natBytes n (f off n)

/-- A descriptor in its 88-byte form. -/
def descOfArea (f : Nat → Nat → Nat) (off : Nat) : Desc :=
  { base := BitVec.ofNat 64 (f off 8), scale := BitVec.ofNat 64 (f (off + 8) 8), ctrl := BitVec.ofNat 64 (f (off + 16) 8)
    counts := areaBits 32 f (off + 24) 4 6, strides := 0 :: areaBits 64 f (off + 48) 8 5 }

/-- The control registers of a context as an area holds them. -/
def Ctl.ofArea (k : Ctl) (f : Nat → Nat → Nat) : Ctl :=
  let d := fun (off : Nat) => BitVec.ofNat 64 (f off 8)
  { k with
    ctxst := BitVec.ofNat 5 (f 0x4E0 8), ctxctl := BitVec.ofNat 2 (f 0x4E8 8), fpstat := BitVec.ofNat 7 (f 0x4F0 8)
    dmgSat := d 0x4F8, dmgZero := d 0x500, dmgSac := d 0x508, landLate := d 0x510
    redlog := (List.range k.redlog.length).map fun i => ⟨d (0x5E0 + 24 * i), d (0x5E8 + 24 * i), d (0x5F0 + 24 * i)⟩
    chain := areaBits 64 f 0x5A0 8 (f 0x598 8)
    desc := (List.range 64).filterMap fun i =>
      let d := descOfArea f (0x4500 + 88 * i)
      if d.ctrl.getLsbD 7 then some (i, d) else none
    tctl := sparseSetList 0 0 (areaBits 27 f 0x528 8 12) []
    ret := (areaBits 64 f 0x100 8 (f 0x520 8)).reverse }

/-- The array state as an area holds it. -/
def MatSt.ofArea (m : MatSt) (f : Nat → Nat → Nat) : MatSt :=
  { m with
    tiles := sparseSetList 0 0 (areaBits 8 f 0x18000 1 98304) []
    acc := sparseSetList 0 0 (areaBits 96 f 0x30000 12 8192) []
    stat0 := accStatusOf (f 0x588 8), stat1 := accStatusOf (f 0x590 8)
    latchA := sparseSetList 0 0 (areaBits 32 f 0x1688 4 64) []
    latchB := sparseSetList 0 0 (areaBits 32 f 0x1788 4 64) [] }

/-- A binding as the area gives it; its hash and page tags were never there (R442). -/
def Binding.ofArea (b : Binding) (f : Nat → Nat → Nat) (off : Nat) : Binding :=
  { b with
    image := BitVec.ofNat 64 (f off 8), words := f (off + 8) 2, entry := f (off + 10) 2, steps := f (off + 12) 2
    isM := (f (off + 14) 1).testBit 0, vmask := BitVec.ofNat 64 (f (off + 16) 8), tmask := BitVec.ofNat 12 (f (off + 24) 2)
    banks := BitVec.ofNat 16 (f (off + 26) 2), spBase := f (off + 32) 4, spSize := f (off + 36) 4
    resident := (f (off + 40) 1).testBit 1 }

/-- An envelope slot as the area gives it. -/
def EnvSlot.ofArea (e : EnvSlot) (f : Nat → Nat → Nat) (off : Nat) : EnvSlot :=
  let mask := BitVec.ofNat 64 (f (off + 8) 8)
  { e with
    state := f off 8 % 16, cause := f off 8 / 16 % 2 ^ 12, gen := f off 8 / 2 ^ 16, mask := mask
    sent := (maskDevices mask).zip (areaNums f (off + 24) 6 (maskDevices mask).length) }

/-- The sequencing state of a paused routine (Table 15.7). -/
def microOfArea (f : Nat → Nat → Nat) : Micro :=
  let gen := fun (off : Nat) => ({ addr := f off 4, base := f (off + 4) 4, stride := (BitVec.ofNat 16 (f (off + 8) 2)).toInt,
                                   count := f (off + 10) 2, reload := f (off + 12) 2 } : AddrGen)
  { mpc := f 0x2920 2, ml0 := f 0x2922 2, ml1 := f 0x2924 2, steps := f 0x2926 2, fany := (f 0x2928 2).testBit 0
    fall := (f 0x2928 2).testBit 1, ag0 := gen 0x292C, ag1 := gen 0x293C }

/-- A pending effect with the values that its entry gives (Table 15.5): VALUE, SOURCE, INDEX, ADDR. -/
def Effect.ofArea (c : Ctx) (f : Nat → Nat → Nat) (value source index addr : Nat) (e : Effect) : Effect :=
  let slot := 0x14000 + 512 * index
  let lane := fun (k l : Nat) => f (slot + 512 * k + 4 * l) 4
  match e with
  | .scalar n _ fl => .scalar n (BitVec.ofNat 64 value) fl
  | .half n high _ => .half n high (BitVec.ofNat 32 (if high then value / 2 ^ 32 else value))
  | .pred n _ => .pred n (value.testBit 0)
  | .lanePred n _ _ fl =>
    let at' := if source = 2 then 0x16000 + 64 * index else slot
    .lanePred n (BitVec.ofNat 128 (f (at' + 16) 16)) (BitVec.ofNat 128 (f at' 16)) fl
  | .vector n ws fl => .vector n (ws.map fun w => (w.1, w.2.1, BitVec.ofNat 32 (lane 0 w.1))) fl
  | .damage a b d => .damage a b d
  | .latch b bs => .latch b (areaBytes f slot bs.length)
  | .control n _ => .control n (BitVec.ofNat 64 value)
  | .tctl t _ => .tctl t (BitVec.ofNat 27 value)
  | .descriptor n _ => .descriptor n (descOfArea f slot)
  | .tileBytes t ws =>
    let base := (c.tileSegment t ws).2.2
    .tileBytes t (ws.map fun w => (w.1, if w.1 < base + 512 then BitVec.ofNat 8 (f (slot + (w.1 - base)) 1) else w.2))
  | .store 0 size ea [w] => .store 0 size ea [(w.1, addr, value)]
  | .store 0 size ea ws => .store 0 size ea ws
  | .store ents size ea ws => .store ents size (if ents = 8 then addr else ea)
      (ws.map fun w => (w.1, if ents = 8 then w.2.1 else lane 1 w.1, lane 0 w.1))
  | .loadScalar n ty _ => .loadScalar n ty addr
  | .loadLanes ents ea n ty as =>
    if ents = 8 then .loadLanes ents ea n ty (as.map fun a => (a.1, lane 0 a.1)) else .loadLanes ents addr n ty as
  | .landing id => .landing id

/-- The data of a landing as its entries give them. -/
def Landing.ofArea (l : Landing) (f : Nat → Nat → Nat) (index : Nat) : Landing :=
  { l with
    words := l.words.zipIdx.map fun w => (w.1.1, BitVec.ofNat 64 (f (0x16000 + 64 * index + 8 * w.2) 8))
    vector := l.vector.map fun v => (v.1, areaBytes f (0x16000 + 64 * index) v.2.length) }

/-- Entries of the deferred-write list that a pending result takes. -/
def Ctx.entriesOf (c : Ctx) (d : Deferred) : Nat :=
  match d.eff with
  | .landing id => ((c.port.landings.find? fun l => l.id == id).map fun l => if l.vector.isSome then 1 else l.words.length).getD 0
  | .lanePred _ _ _ _ => 1
  | e => if (e.image c Ty.signed).isSome then 1 else 0

/-- The deferred-write list and the landing entries as the area gives them (Table 15.5). -/
def Ctx.deferredOfArea (c : Ctx) (f : Nat → Nat → Nat) : Ctx :=
  let all := (c.lv0.deferred.map fun d => (false, d)) ++ c.lv1.deferred.map fun d => (true, d)
  ((sortKey (fun (x : Bool × Deferred) => 8 * x.2.seq + x.2.slot) all).foldl (fun (acc : Ctx × Nat) x =>
    let (e, i) := acc
    let lo := f (0x2B00 + 16 * i) 8
    let k := c.entriesOf x.2
    let d := if k = 0 then x.2 else
      { x.2 with
        due := (if x.1 then c.lv1.count else c.lv0.count) + lo / 2 ^ 56 - 1
        eff := x.2.eff.ofArea c f (f (0x2B08 + 16 * i) 8) (lo / 2 ^ 53 % 4) (lo / 2 ^ 45 % 256) (lo % 2 ^ 29) }
    let e := if x.1 then { e with lv1 := { e.lv1 with deferred := e.lv1.deferred ++ [d] } }
      else { e with lv0 := { e.lv0 with deferred := e.lv0.deferred ++ [d] } }
    let own := fun (l : Landing) => k != 0 && x.2.eff == .landing l.id
    let ls := e.port.landings.map fun l => if own l then l.ofArea f (lo / 2 ^ 45 % 256) else l
    ({ e with port := { e.port with landings := ls } }, i + k)) ({ c with lv0 := { c.lv0 with deferred := [] }, lv1 := { c.lv1 with deferred := [] } }, 0)).1

/-- A replay entry as the area gives it (Table 15.6). -/
def PortReq.ofArea (r : PortReq) (c : Ctx) (f : Nat → Nat → Nat) (off : Nat) : PortReq :=
  let w := fun (i : Nat) => f (off + 8 * i) 8
  let isMem := r.mem.isSome
  let landV := (w 3).testBit 60
  let isIdx := match r.work with
    | .op (.vgat _ _) | .op (.vsca _ _) => true
    | _ => false
  { r with
    addr := BitVec.ofNat 64 (w 0)
    w1 := if !isMem then BitVec.ofNat 64 (w 2) else if landV && !r.vec.isEmpty then r.w1 else BitVec.ofNat 64 (w 1)
    w2 := if isMem && !isIdx && r.eid == 0 then BitVec.ofNat 64 (w 2) else r.w2
    order := if isMem && !isIdx && r.eid != 0 then w 2 else r.order
    vec := if r.vec.isEmpty then [] else areaBytes f (0x16000 + 64 * w 1) r.vec.length
    lanes := if isIdx then r.lanes.map fun l => (l.1, f (0x16000 + 64 * w 2 + 4 * l.1) 4) else r.lanes
    due := if r.hasResult then (if r.level then c.lv1.count else c.lv0.count) + w 3 / 2 ^ 39 % 256 - 1 else r.due
    immed := (w 3).testBit 61, level := (w 3).testBit 62 }

/-- A quarantined beat with its bytes as the area gives them. -/
def Quarantined.ofArea (q : Quarantined) (f : Nat → Nat → Nat) (i : Nat) : Quarantined :=
  { q with writes := q.writes.map fun w =>
      (w.1, w.2.1, (w.2.2 &&& ~~~w.2.1) ||| (BitVec.ofNat 8 (f (0x48000 + 4096 * i + (w.1 - q.extent.1)) 1) &&& w.2.1)) }

/-- A copy job with what its record gives of its progress (Table 15.7). -/
def Job.ofArea (j : Job) (f : Nat → Nat → Nat) (i : Nat) : Job :=
  let off := 0x5B00 + 256 * i
  let owed := f (off + 24) 8
  let low := f (off + 240) 4
  { j with
    bytes := owed % 2 ^ 40, bb := if owed.testBit 44 then some (owed / 2 ^ 40 % 16) else none, started := owed.testBit 45
    done := List.range low ++ ((List.range 64).filter fun k => (f (off + 248) 8).testBit k).map (low + ·) }

/-- A context loaded from its area, whose numbers `f` reads by offset and size. What the area does not hold (R442), and what names
a thing of the model in it, such as the number of a port entry or the op of a list entry, stays as the save kept it.
(DEDUCED: log 100) -/
def Ctx.ofArea (c : Ctx) (f : Nat → Nat → Nat) : Ctx :=
  let k := c.deferredOfArea f
  { k with
    pc := BitVec.ofNat 64 (f 0x10 8), regs := regsOfArea f, ctl := c.ctl.ofArea f, mat := c.mat.ofArea f
    bb := sparseSetList 0 0 (areaBits 48 f 0x1408 8 16) []
    lv0 := { k.lv0 with loops := loopsOfArea f 0x300 }, lv1 := { k.lv1 with loops := loopsOfArea f 0x3C0 }
    binds := c.binds.map fun b => (b.1, b.2.ofArea f (0x1900 + 64 * (b.1 - 0xC0)))
    env := c.env.map fun e => (e.1, e.2.ofArea f (0x900 + 128 * e.1))
    envOrder := if c.env.isEmpty then c.envOrder else f ((c.env.headD (0, {})).1 * 128 + 0x910) 8
    quar := c.quar.zipIdx.map fun q => q.1.ofArea f q.2
    routines := c.routines.zipIdx.map fun r => if r.2 = 0 then
      { r.1 with micro := microOfArea f, flags := BitVec.ofNat 7 (f 0x294C 8) } else r.1
    trap := { c.trap with
      list := c.trap.list.zipIdx.map fun r => r.1.ofArea c f (0x3500 + 32 * r.2)
      held := c.trap.held.zipIdx.map fun t => { t.1 with info := BitVec.ofNat 64 (f (0x4A8 + 16 * t.2) 8) }
      tl := (f 0x08 8).testBit 32, cause := BitVec.ofNat 8 (f 0x480 8), replay := (f 0x480 8).testBit 8
      pc := BitVec.ofNat 64 (f 0x488 8), info := BitVec.ofNat 64 (f 0x490 8), handler := BitVec.ofNat 64 (f 0x498 8) } }

/-- Blocks of a save area. -/
def saveBlocks : Nat := 80

/-- The tag of a block (R443): over its bytes, its number, the area's address and SAVESEQ. (PRESUMED: log 98) -/
def blockTag (key : BitVec 256) (bytes : List Byte) (b : Nat) (area : Dword) (seq : Nat) : BitVec 128 :=
  aesCmac key (bytes ++ natBytes 8 b ++ natBytes 8 area.toNat ++ natBytes 8 seq)

end Sys2Proof.Machine
end

