-- ==== Sys2Proof/Machine/ContextUnit.lean ====
section
/-!
DEFINITION. The context unit (R15, R25, R232, R439, R440, R444, R445): the stop flag, the save, the restore, and the end of
a DRAINING slot.
-/
namespace Sys2Proof.Machine
open Sys2Proof

/-! ## The stop flag and the waits it cancels (R439) -/

/-- STOP_FLAG_SET: a READY context stops at its next test point, a STALLED one and a routine of more than 256 STEPS at
once (R354, R439). (DEDUCED: log 96) -/
def execStopFlagSet (n : Nat) (area : Dword) (s : State) : Host.Outcome State Fault Refusal :=
  let c := s.ctx n
  if (c.life.state == .ready || c.life.state == .stalled) && c.life.stop.isNone && area.toNat % 4096 = 0 then
    .next (s.onCtx n fun c =>
      let c : Ctx := { c with life := { c.life with stop := some area, stopping := c.life.state == .stalled } }
      c.sampleStop)
  else .next s

/-- Has a context stopped, at a place where it may be saved (R354, R438)? -/
def State.hasStopped (s : State) (n : Nat) : Bool :=
  let c := s.ctx n
  (c.life.state == .ready || c.life.state == .stalled) && c.life.stopping && c.life.stop.isSome && !c.mustRun

/-- Is an access parked on a page fault, an ember load that waits, or a `bbw` that waits? -/
def State.isWithdrawn (s : State) (n : Nat) (r : PortReq) : Bool :=
  match r.stage with
  | .emberWait | .refused => true
  | .pending => s.walks.any fun w => w.stage != .walking && w.waiters.contains (.port n r.id)
  | .waiting => r.bbwOn.isSome
  | _ => false

/-- The jobs of a stopped context that wait for what only its restore brings: a scratchpad access that has not fallen due, an op in
the replay list, a tile that earlier work keeps, a job that waits so itself (R194, R222, R228). -/
def State.jobsHeld (s : State) (n : Nat) : List Nat :=
  let c := s.ctx n
  s.jobs.foldl (fun l j =>
    let held := (c.allDeferred.any fun d => d.eff.isScratch && d.seq ≤ j.seq / 8) ||
      (c.trap.list.any fun e => e.open? && e.level == j.level && 8 * e.seq + e.slot < j.seq) || s.tileHeld j ||
      j.edges.any fun e => l.contains e.job && !s.edgeOk e
    if j.ctx == n && held then j.id :: l else l) []

/-- Does the envelope of a `spost` need a job that the stop holds back? Its entry then goes with the context, and the envelope goes
on at the restore (R428). (DESIGN CHOICE: log 164) -/
def State.postHeld (s : State) (n : Nat) (r : PortReq) : Bool :=
  r.isSpost && s.jobs.any fun j => j.eid == r.eid && (s.jobsHeld n).contains j.id

/-- Must an entry wait for a withdrawn one (R44, R203), or for a job that the stop holds back? -/
def State.waitsForList (s : State) (n : Nat) (r : PortReq) : Bool :=
  let t := s.onCtx n fun c => { c with port := { c.port with queue := [] } }
  r.stage == .pending && (match r.work with
    | .signal _ _ => false
    | .op _ => true) &&
    (s.postHeld n r || t.isBlocked n r || r.fence?.any fun m => ((t.ctx n).before r).any fun e => e.cls.any fun k => m.1.getLsbD k)

/-- An entry of the port put into the replay list, marked IMMED. -/
def State.moveToList (s : State) (n : Nat) (r : PortReq) : State :=
  let r' := { r with stage := .pending, known := true, immed := true, landing := false, done := [], fails := [] }
  let s := s.onCtx n fun c =>
    { c with
      trap := { c.trap with list := mergeReplay c.trap.list [r'] }
      port := { c.port with queue := c.port.queue.filter fun q => q.id != r.id } }
  { s with
    waiters := s.waiters.filter fun w => w.loader != Loader.port n r.id
    walks := s.walks.map fun w => { w with waiters := w.waiters.filter fun m => m != .port n r.id } }

/-- Ember loads, `bbw` ops and parked ops become replay entries, and with them what may not be performed before them. -/
def State.withdrawOps (s : State) (n : Nat) : State :=
  ((s.ctx n).port.queue).foldl (fun s r => if s.isWithdrawn n r || s.waitsForList n r then s.moveToList n r else s) s

/-- A wait for a line or for a decision is cancelled with the value that stands (R255, R415); the word of a line that an envelope
holds is read once the hold is released (R419). -/
def State.cancelWaits (s : State) (n : Nat) : State :=
  ((s.ctx n).port.queue).foldl (fun s r =>
    if r.isWaitingWta then (if s.isHeld r.pa 8 then s else s.cancelWait n r)
    else if r.isSwait r.eid then
      match (s.ctx n).env.find? fun e => e.2.eid == r.eid with
      | some e => s.onCtx n fun c => c.respond { id := r.id, words := [(r.dest, e.2.word)] }
      | none => s
    else s) s

/-- Is a beat in flight unable to end by itself: it waits for a page, a cell, or a destination that cannot take it? -/
def State.beatStuck (s : State) (j : Job) (b : Beat) : Bool :=
  s.walks.any (fun w => w.stage != .walking && w.waiters.contains (.beat j.id b.num)) ||
    s.waiters.any (fun w => w.loader == .beat j.id b.num) ||
    (b.asked.isNone || b.acked) && (j.dst.space == 0 || j.dst.space == 5) && (j.beatList[b.num]?).any fun x =>
      (j.sourceBytes x).all (fun a => (lookup? a b.bytes).isSome) && !s.mayLand j (j.landAddrs x (j.carry x b.bytes) [])

/-- The engine stops at beat boundaries (R231): a beat that cannot end is given up, to be started again. -/
def State.stopBeats (s : State) (n : Nat) : State :=
  (s.jobs.filter fun j => j.ctx == n && j.step.isNone).foldl (fun s j =>
    let stuck := (j.beats.filter (s.beatStuck j)).map (·.num)
    let gone := fun (job beat : Nat) => job == j.id && stuck.contains beat
    let s := s.onJob j.id fun j => { j with beats := j.beats.filter fun b => !stuck.contains b.num }
    { s with
      waiters := s.waiters.filter fun w => match w.loader with
        | .beat i b => !gone i b
        | _ => true
      walks := s.walks.map fun w => { w with waiters := w.waiters.filter fun m => match m with
        | .beat i b => !gone i b
        | _ => true } }) s

/-- No wait of a context for its own fetch stands in a walk any more. -/
def State.dropFetchWaits (s : State) (n : Nat) : State :=
  { s with walks := s.walks.map fun w => { w with waiters := w.waiters.filter fun m => m != .fetch n } }

/-- Has everything of a stopped context drained (R439, step 5)? What remains in its port are signals that its pending
results, jobs and replay entries still owe. -/
def State.isDrained (s : State) (n : Nat) : Bool :=
  let c := s.ctx n
  c.mat.queue.isEmpty && c.port.faults.isEmpty && c.port.landings.all (·.arrived) &&
    c.port.queue.all (fun r => match r.work with
      | .signal _ _ => r.stage == .incomplete || s.isBlocked n r
      | .op _ => false) &&
    (s.jobs.all fun j => j.ctx != n || j.step.isSome || j.beats.isEmpty) && s.canFlush n

/-! ## The save (R439, R442, R443) -/

/-- Is every page of a save area mapped, and no line of it held by an envelope (R419)? -/
def State.areaMapped (s : State) (vf area : Nat) : Bool :=
  (List.range saveBlocks).all fun b => (s.mapped vf (area + 4096 * b)).any fun m => !s.isHeld m.1 4096

/-- The save area written with its tags, and the slot SAVED. -/
def State.saveContext (s : State) (n : Nat) (area : Dword) : State :=
  let s := ((s.flushCtx n).dropFetches n).dropFetchWaits n
  let vf := (s.ctx n).id.vf
  let seq := lookupD 0 n s.seqs + 1
  let key := Config.randomKey (s.vf vf).saveKey
  let ps := s.saveImage n seq
  let tags := (List.range saveBlocks).map fun b => blockTag key (imageBlock ps b) b area seq
  let s := (List.range saveBlocks).foldl (fun (s : State) b => s.placeBytes vf (area.toNat + 4096 * b) (imageBlock ps b)) s
  let s := { s with saved := assocSet n { area := area, seq := seq, tags := tags } s.saved, seqs := assocSet n seq s.seqs }
  let s := s.onCore (coreOf n) fun k => { k with board := k.board.filter fun e => e.ctx != n }
  (s.onCtx n fun c =>
    { c with life := { c.life with state := .saved, wait := .none, stop := none, stopping := false, fetchFault := none } }).leaveTurn n

/-- SAVE_COMPLETE: waits are cancelled, and once everything has drained the save area is written. (DEDUCED: log 97) -/
def execSaveComplete (n : Nat) (s : State) : Host.Outcome State Fault Refusal :=
  if s.hasStopped n then
    let t := ((s.withdrawOps n).cancelWaits n).stopBeats n
    match (t.ctx n).life.stop with
    | some area =>
      if t.isDrained n && t.areaMapped (t.ctx n).id.vf area.toNat then .next (t.saveContext n area) else .next t
    | none => .next t
  else .next s

/-! ## The restore (R232, R440, R444, R445) -/

/-- A context number replaced in a list. -/
def renumber (a b : Nat) (l : List Nat) : List Nat := l.map fun x => if x = a then b else x

/-- Whatever names a context by its number names it by its new one (R13, R17, R444). -/
def State.renumberCtx (s : State) (a b : Nat) : State :=
  { s with
    sets := s.sets.map fun p => (p.1, { p.2 with members := renumber a b p.2.members, arrivals := renumber a b p.2.arrivals,
                                                 released := renumber a b p.2.released })
    hearths := s.hearths.map fun h => if h.eval = some a then { h with eval := some b } else h
    jobs := s.jobs.map fun j => { j with ctx := if j.ctx = a then b else j.ctx, members := renumber a b j.members }
    coords := s.coords.map fun k => match k.post with
      | some (n, id) => if n = a then { k with post := some (b, id) } else k
      | none => k
    vfs := s.vfs.map fun v => (v.1, { v.2 with rings := v.2.rings.map fun r => (r.1, match r.2.notify with
      | some (n, h) => if n = a then { r.2 with notify := some (b, h) } else r.2
      | none => r.2) })
    packets := s.packets.map fun p => (p.1, match p.2.msg with
      | .seal m => match m.port with
        | some (n, id) => if n = a then { p.2 with msg := .seal { m with port := some (b, id) } } else p.2
        | none => p.2
      | .sealack m => match m.port with
        | some (n, id) => if n = a then { p.2 with msg := .sealack { m with port := some (b, id) } } else p.2
        | none => p.2
      | _ => p.2) }

/-- Does a restore keep to R444: a slot that the context reserves or a FREE one of its partition, the split, windows that
fit and meet no other? -/
def State.restoreOk (s : State) (r : RestoreCmd) : Bool :=
  let core := coreOf r.ctx
  let id := (s.ctx r.old).id
  let x : Span × Span := ((r.spBase, id.spSize), (r.semBase, id.semCount))
  r.ctx < 1024 && (s.part r.part).cores.contains core &&
    (r.ctx == r.old || ((s.ctx r.ctx).life.state == .free && !s.startsPending.any fun p => p.num == r.ctx)) &&
    (!s.splitFixed core || (s.core core).blocks == r.spBlk) && r.spBase % 4096 == 0 && windowsFit core r.spBlk x &&
    (s.liveSlots core).all (fun n => n == r.ctx || !spansMeet (s.ctx n).spans x) &&
    s.startsPending.all fun p => p.core != core || !spansMeet p.spans x

/-- The first block of a save area that fails its tag check against SAVESEQ (R443, R444, step 1). -/
def State.badBlock (s : State) (n : Nat) (sv : Saved) (area : Nat) : Option Nat :=
  let vf := (s.ctx n).id.vf
  let seq := lookupD 0 n s.seqs
  let key := Config.randomKey (s.vf vf).saveKey
  if sv.seq ≠ seq ∨ (s.vfBytes vf (area + 0x18) 8).map natOfBytes ≠ some seq then some 0
  else (List.range saveBlocks).find? fun b =>
    (s.vfBytes vf (area + 4096 * b) 4096).map (fun bs => blockTag key bs b (BitVec.ofNat 64 area) seq) ≠ sv.tags[b]?

/-- The first block of a save area whose data hold an uncorrectable error (R444). -/
def State.brokenBlock (s : State) (vf area : Nat) : Option Nat :=
  if s.bad.isEmpty then none
  else (List.range saveBlocks).find? fun b =>
    (rangePages (area + 4096 * b) 4096).any fun p =>
      match s.walk vf (p * 2 ^ 16) with
      | .leaf base size pa _ => (s.bad.any fun x => pa ≤ x && x < pa + size && area + 4096 * b ≤ base + (x - pa) &&
          base + (x - pa) < area + 4096 * (b + 1))
      | _ => false

/-- One kept effect applied (Table 15.12). -/
def State.applyPending (s : State) (n : Nat) : Pending → State
  | .sem h v => s.addSem n h v
  | .release k => s.depart n k
  | .envelope eid st cause => s.onCtx n fun c => c.outcome eid st cause
  | .damage a b d => s.onCtx n fun c => c.addDamage a b d
  | .bytes bb k => s.onCtx n fun c => c.subCounter bb k
  | .jobDone _ sig => s.fireSignal n sig

/-- The context taken to its slot with its windows and their contents (R25). -/
def State.moveContext (s : State) (r : RestoreCmd) : State :=
  let c := s.ctx r.old
  let bytes := (List.range c.id.spSize).map fun i => (i, s.spByte r.old i)
  let sems := (List.range c.id.semCount).map fun h => (h, s.sem r.old h)
  let seq := lookupD 0 r.old s.seqs + 1
  let s := if r.ctx = r.old then s else
    { s.renumberCtx r.old r.ctx with ctxs := dropKey r.old s.ctxs, seqs := assocSet r.old seq s.seqs }
  let s := { s with seqs := assocSet r.ctx seq s.seqs }
  let s := (s.beforeReady r.ctx).setCtx r.ctx
    { c with
      id := { c.id with spBase := r.spBase, semBase := r.semBase }
      life := { c.life with state := .ready, wait := .none }
      ctl := { c.ctl with sinceTest := 0 }
      port := { c.port with acquired := true }
      mat := { c.mat with bad := [] } }
  let s := s.setSpBytes r.ctx bytes
  sems.foldl (fun s p => s.setSem r.ctx p.1 p.2) s

/-- The registers and semaphores of a SAVED context loaded from its area (R444, step 2). -/
def State.loadArea (s : State) (r : RestoreCmd) : State :=
  let vf := (s.ctx r.old).id.vf
  let f := fun (off n : Nat) => natOfBytes ((s.vfBytes vf (r.area + off) n).getD [])
  let sems := (List.range (s.ctx r.old).id.semCount).map fun h => (h, f (0x1488 + 2 * h) 2)
  let js := (s.jobs.filter fun j => j.ctx == r.old).map (·.id)
  let s := { s with jobs := s.jobs.map fun (j : Job) => if j.ctx = r.old then j.ofArea f (js.findIdx fun id => id == j.id) else j }
  sems.foldl (fun s p => s.setSem r.old p.1 p.2) (s.onCtx r.old fun c => c.ofArea f)

/-- The scoreboard entries of a context's jobs (R192). -/
def State.boardOf (s : State) (n : Nat) : List BoardEntry := (s.jobs.filter fun j => j.ctx == n).flatMap Job.ranges

/-- The scoreboard entries of a context's jobs taken again (R232). -/
def State.takeBoard (s : State) (n : Nat) : State :=
  s.onCore (coreOf n) fun k => { k with board := k.board ++ s.boardOf n }

/-- Hashes that are not complete are fetched for again on the new core (R359). -/
def State.resumeHashes (s : State) (n : Nat) : State :=
  let c := s.ctx n
  let kept := c.routines.filter fun r => c.binds.all fun b => b.2.key != r.bind.key
  (c.binds ++ kept.map fun r => (r.opc, r.bind)).foldl
    (fun (s : State) b => if b.2.resident || b.2.failed then s else s.queueHash n b.1 b.2) s

/-- A context whose area has passed the check is READY again. (DEDUCED: log 79, DEDUCED: log 100) -/
def State.bringBack (s : State) (r : RestoreCmd) (sv : Saved) : State :=
  let core := coreOf r.ctx
  let s := if s.splitFixed core then s else s.setBlocks core r.spBlk
  let s := { s with saved := dropKey r.old s.saved }.loadArea r
  let s := ((s.moveContext r).dropPages r.ctx).trimMicro core
  let s := sv.pend.foldl (fun s p => s.applyPending r.ctx p) s
  ((((s.takeBoard r.ctx).drainQuarantine r.ctx).replayImmed r.ctx).resumeHashes r.ctx).settlePort r.ctx

/-- Must a RESTORE wait: for a page of its area, for an envelope's hold on a line that the new split evicts (R419), or for
scoreboard entries for the context's jobs (R232)? (DESIGN CHOICE: log 139) -/
def State.restoreWaits (s : State) (r : RestoreCmd) : Bool :=
  let core := coreOf r.ctx
  !s.areaMapped (s.ctx r.old).id.vf r.area || (!s.splitFixed core && !s.canSetBlocks core r.spBlk) ||
    64 < (s.core core).board.length + (s.boardOf r.old).length

/-- RESTORE: refused with WINDOW where R444 asks it, held while it must wait; a failed check loses the context.
(DEDUCED: log 101) -/
def execRestore (r : RestoreCmd) (s : State) : Host.Outcome State Fault Refusal :=
  let c := s.ctx r.old
  match if c.life.state = .saved ∧ partOf c.id.vf = r.part then lookup? r.old s.saved else none with
  | none => .next s
  | some sv =>
    if !s.restoreOk r then .next { s with outbox := s.outbox ++ [.refused 0x09] }
    else if s.restoreWaits r then .next s
    else
      match s.badBlock r.old sv r.area, s.brokenBlock c.id.vf r.area with
      | _, some b => .next (s.loseSaved r.old ⟨.ecc, 0⟩ b)
      | some b, none => .next (s.loseSaved r.old ⟨.savetag, 0⟩ b)
      | none, none => .next (s.bringBack r sv)

/-! ## The end of a DRAINING slot (R15, R23) -/

/-- Has nothing of a slot that drains anything left to do? -/
def State.slotDrained (s : State) (n : Nat) : Bool :=
  let c := s.ctx n
  let live := s.liveSignals n
  c.port.queue.all (fun r => match r.work with
    | .op _ => r.stage == .faulted
    | .signal _ _ => r.stage == .incomplete && !live.contains r.id) &&
    c.mat.queue.isEmpty && s.jobs.all fun j => j.ctx != n

/-- Nothing waits for a slot any more: its walks, its place in the member lists of jobs in progress, and the signal of an
envelope not yet decided, where its number may come to name another context. -/
def State.forget (s : State) (n : Nat) : State :=
  { s with
    walks := s.walks.map fun w => { w with waiters := w.waiters.filter fun m => match m with
      | .port k _ => k != n
      | .fetch k => k != n
      | _ => true }
    jobs := s.jobs.map fun j => { j with members := renumber n (1024 + n) j.members }
    coords := s.coords.map fun k => if k.post.any fun p => p.1 == n then { k with post := none } else k }

/-- SLOT_DRAIN_COMPLETE: an ordinary slot becomes FREE; an evaluator slot IDLE, with its windows, its memberships and its
bindings and its REDLOG, which only a launch and a reset clear (R251), and is offered to the kindle queues (R16, R310). A slot whose VF is being reset waits for the scrub. -/
def execSlotDrainComplete (n : Nat) (s : State) : Host.Outcome State Fault Refusal :=
  let c := s.ctx n
  if c.life.state != .draining || c.life.reset then .next s
  else if !c.quar.isEmpty then .next (s.drainQuarantine n)
  else if !s.slotDrained n then .next s
  else
    let s := (s.abandon n).forget n
    if c.id.kind = .eval then
      let s := s.setCtx n
        { life  := { state := .idle }
          id    := c.id
          binds := c.binds
          ctl   := { redlog := c.ctl.redlog, overrun := c.ctl.overrun } }
      let s := c.id.sets.foldl (fun (s : State) k => s.onSet k fun e =>
        if e.members.contains n then e else { e with members := e.members ++ [n] }) s
      .next (s.offerSlot n)
    else
      let s := c.binds.foldl (fun (s : State) b => s.unbind n b.2.key) s
      .next { s with ctxs := dropKey n s.ctxs }

end Sys2Proof.Machine
end

