-- ==== Sys2Proof/Machine/Management.lean ====
section
/-!
DEFINITION. The management core (R478 to R480, R483): boot, measurement, the SPDM responder, power.
-/
namespace Sys2Proof.Machine
open Sys2Proof

/-! ## Measurement (R479) -/

/-- M := SHA-384(M ‖ hash). -/
def extendRegister (ms : List (List Byte)) (reg : Nat) (hash : List Byte) : List (List Byte) :=
  ms.set reg (sha384 (ms.getD reg [] ++ hash))

/-- EXTEND: the supervisor extends a register from 4 to 15, and the log keeps it. -/
def execExtend (reg : Nat) (value : List Byte) (s : State) : Host.Outcome State Fault Refusal :=
  if s.ready && 4 ≤ reg && reg < 16 && value.length = 48 then
    .next { s with meas := extendRegister s.meas reg value, measLog := s.measLog ++ [(reg, value)] }
  else .next s

/-! ## Boot (R478, Table 17.9) -/

/-- The read-only store: the micro-words of the base routines (R331, R363). No op reads or writes it. -/
def readOnlyStore : List (BitVec 256) := (List.range 4096).map Config.baseWord

/-- The images of the boot: 0 the ROM, 1 the management firmware, 2 the read-only store, whose bytes are its words, 3 the port
firmware. -/
def bootBytes (i : Nat) : List Byte :=
  if i = 2 then readOnlyStore.flatMap fun w => natBytes 32 w.toNat else Config.bootImage i

/-- Does the signature of an image of step 3 verify? -/
def imageVerified (i : Nat) : Bool := ecdsaVerify Config.brovalKey (sha384 (bootBytes i)) (Config.bootSignature i)

/-- The images of step 3 that verify before the first that does not. -/
def imagesVerified : Nat := ([1, 2, 3].takeWhile imageVerified).length

/-- The registers once the first images are measured. -/
def measuredTo (n : Nat) : List (List Byte) :=
  (List.range n).foldl (fun ms i => extendRegister ms i (sha384 (bootBytes i))) (List.replicate 16 (List.replicate 48 0))

/-- The step of the boot that fails: one that the hardware fails, or step 3 where a signature does not verify. -/
def bootFailure (failing : Option Nat) : Option Nat :=
  match failing with
  | some k => if k = 1 ∨ k = 2 then some k else if imagesVerified = 3 then some k else some 3
  | none => if imagesVerified = 3 then none else some 3

/-- How many images are measured: the ROM before it runs, the others in step 3, as far as they verify. Where the hardware
fails in step 3 the manual does not say after which, a free value. (DEDUCED: log 103) -/
def State.imagesMeasured (s : State) (failing : Option Nat) : Nat :=
  if failing = some 1 ∨ failing = some 2 then 1
  else if failing = some 3 then 1 + min imagesVerified ((Config.freeValue s.free).toNat % 4)
  else 1 + imagesVerified

/-- POWER_ON: everything is as at reset, HBM is scrubbed, and the boot runs to READY or to the step that fails, which
leaves what the steps before it did. Draws of the random source are not repeated. (DEDUCED: log 103) -/
def execPowerOn (failing : Option Nat) (s : State) : Host.Outcome State Fault Refusal :=
  let t := { State.reset with
    agenda := s.agenda, draws := s.draws, free := s.free + 1, outbox := s.outbox, meas := measuredTo (s.imagesMeasured failing) }
  match bootFailure failing with
  | some k => .next { t with outbox := s.outbox ++ [.bootFailed k] }
  | none => .next { t with ready := true }

/-! ## SPDM (R480): the contents of each response -/

/-- A response, where the responder is reached. (PRESUMED: log 102) -/
def State.respond (s : State) (ok : Bool) (data : List Byte) : State :=
  if s.ready then { s with outbox := s.outbox ++ [.spdm (if ok then some data else none)] } else s

/-- GET_VERSION: version 1.2. -/
def execGetVersion (s : State) : Host.Outcome State Fault Refusal := .next (s.respond true [0x12])

/-- GET_CAPABILITIES: the flags of what the responder answers, which the manual does not give. -/
def execGetCapabilities (s : State) : Host.Outcome State Fault Refusal := .next (s.respond true Config.capabilities)

/-- NEGOTIATE_ALGORITHMS: one that offers neither SHA-384 nor the Brainpool curve fails; otherwise what is offered of the
two is taken. -/
def execNegotiateAlgorithms (sha384 brainpool : Bool) (s : State) : Host.Outcome State Fault Refusal :=
  let ok := sha384 || brainpool
  let s' := s.respond ok [if sha384 then 1 else 0, if brainpool then 1 else 0]
  .next (if s.ready then { s' with spdm := ok } else s')

/-- GET_DIGESTS: the SHA-384 hash of the certificate chain. -/
def execGetDigests (s : State) : Host.Outcome State Fault Refusal := .next (s.respond s.spdm (sha384 Config.certificateChain))

/-- GET_CERTIFICATE: the chain of the identity key. -/
def execGetCertificate (s : State) : Host.Outcome State Fault Refusal := .next (s.respond s.spdm Config.certificateChain)

/-- CHALLENGE: the requester's nonce signed with the identity key. -/
def execChallenge (nonce : List Byte) (s : State) : Host.Outcome State Fault Refusal :=
  let hash := sha384 Config.certificateChain
  .next (s.respond s.spdm (hash ++ ecdsaSign (sha384 (hash ++ nonce))))

/-- The block of a register: its value, and for registers 4 to 15 the log of its extensions. -/
def State.measureBlock (s : State) (reg : Nat) : List Byte :=
  s.meas.getD reg [] ++ if reg < 4 then [] else (s.measLog.filter fun l => l.1 == reg).flatMap (·.2)

/-- GET_MEASUREMENTS: one register's block; a request for a signed response brings a nonce, which the signature covers. -/
def execGetMeasurements (reg : Nat) (nonce : Option (List Byte)) (s : State) : Host.Outcome State Fault Refusal :=
  let block := s.measureBlock reg
  .next (s.respond (s.spdm && reg < 16) (block ++ nonce.elim [] fun x => ecdsaSign (sha384 (block ++ x))))

/-! ## Power (R483) -/

/-- POWER_CAP_SET: 1,200 W to 2,000 W. -/
def execPowerCapSet (watts : Nat) (s : State) : Host.Outcome State Fault Refusal :=
  .next (if s.ready && 1200 ≤ watts && watts ≤ 2000 then { s with cap := watts } else s)

/-- The cap in force: 1,200 W under a thermal alarm. -/
def State.capInForce (s : State) : Nat := if s.thermal then 1200 else s.cap

/-- POWER_SAMPLE: the sample of 100 µs, which never shows more than the module's 2,000 W (R4); throttling above the cap changes
only time. (DEDUCED: log 105) -/
def execPowerSample (watts : Nat) (s : State) : Host.Outcome State Fault Refusal := .next { s with power := min watts 2000 }

/-- COOLANT_TEMPERATURE_CHANGE: the alarm above 45 °C, until below 40 °C. -/
def execCoolantTemperatureChange (celsius : Nat) (s : State) : Host.Outcome State Fault Refusal :=
  .next { s with thermal := if 45 < celsius then true else if celsius < 40 then false else s.thermal }

end Sys2Proof.Machine
end

