-- ==== Sys2Proof/Machine/Walks.lean ====
section
/-!
DEFINITION. Misses, walks and the pager (R451, R452, R454 to R458, R461, R462, R472): who waits for a translation, what a
walk's end does to the masters joined to it, the fault ring, the pager's answers, the table window and INVALIDATE.
-/
namespace Sys2Proof.Machine
open Sys2Proof

/-! ## Who misses (R452, R454) -/

/-- The address at which an entry of a port lacks a translation. -/
def State.portMiss (s : State) (n id : Nat) : Option Nat :=
  (s.entry n id).bind fun r =>
    if r.cls.isNone || !s.mayPerform n r then none else if r.isHint then s.prefMiss n r else s.missingPort n r

/-- Is a master a `pref`, whose page is skipped where it needs the pager (R205)? -/
def State.isHintMaster (s : State) : Master → Bool
  | .port n id => (s.entry n id).any PortReq.isHint
  | _ => false

/-- A `pref` that waits for a page skips it. -/
def State.skipPage (s : State) (page : Nat) : Master → State
  | .port n id => s.skipPref n id page
  | _ => s

/-- The address of the line that a STALLED context cannot fetch. -/
def State.fetchMiss (s : State) (n : Nat) : Option Nat :=
  let c := s.ctx n
  let va := c.pc.toNat / 128 * 128
  if c.life.state != .stalled || c.life.wait != .pageFault || c.life.stopping || 2 ^ 52 ≤ va then none
  else
    match s.landDue n with
    | .landed t => if t.xlate (corePath (coreOf n)) c.id.vf va .exec = .miss then some va else none
    | _ => none

/-- The address at which a beat lacks a translation: of its source, before it starts or while it is read, or of its
destination once its data are there. -/
def State.beatMiss (s : State) (job beat : Nat) : Option Nat :=
  (s.job? job).bind fun j =>
    if j.frozen then none
    else if j.step.isSome then s.stepMiss j beat
    else (j.beatList[beat]?).bind fun b =>
      let as := j.sourceBytes b
      match j.beats.find? fun x => x.num == beat with
      | none => if j.src.space = 0 && j.nextBeat = some beat && s.couldStart j beat then s.engineMissing j as else none
      | some x =>
        if as.all fun a => (lookup? a x.bytes).isSome then s.engineMissing j (j.landAddrs b (j.carry b x.bytes) [])
        else if j.src.space = 0 then s.engineMissing j as
        else none

/-- The address at which the Courier's fetch lacks a translation. -/
def State.courierMiss (s : State) (core vf : Nat) : Option Nat :=
  if (s.core core).frozen.contains vf then none
  else (s.fetching core vf).bind fun (f, b) => s.courierMissing core vf (fetchPages f b)

/-- The message that a UET frame completes. -/
def State.wholeMessage (s : State) (frame : Nat) : Option Message :=
  match s.frame frame with
  | some (vf, port, .uet p) =>
    let m := s.messageWith vf port p
    if m.whole && !(p.rud && s.counted.contains (messageKey vf p)) then some m else none
  | _ => none

/-- What a request held on the I/O die still needs: its VF and pages. -/
def State.packetPages (s : State) (k : Packet) : Option (Nat × List Nat) :=
  if k.dst ≠ s.fabxy then none
  else match k.msg with
    | .seal m => if s.sealLive m && (s.vf m.vf).state ≠ .resetting then some (m.vf, writePages m.writes) else none
    | .remote r =>
      if r.streams.any s.seen || (s.vf r.vf).state = .resetting || (s.vf r.vf).streams.contains k.src then none else some (r.vf, r.pages)
    | _ => none
def State.frameNeeds (s : State) (f : Nat × Nat × Nat × EthBody) : Nat × List Nat :=
  match s.wholeMessage f.1 with
  | some m => (m.vf, ((s.messageAddrs m).map fun a => a / 2 ^ 16).eraseDups)
  | none => (f.2.1, s.framePages f.2.1 f.2.2.2)

/-- Requests that the masters of the I/O die hold for want of a translation: VF and address. -/
def State.outsideMisses (s : State) : List (Nat × Nat) :=
  ((s.packets.filterMap (fun k => s.packetPages k.2) ++ s.frames.map s.frameNeeds).filterMap fun p =>
    (s.ioMissing p.1 p.2).map fun va => (p.1, va)) ++
  (s.vfs.map (·.1)).filterMap fun vf => (s.commandMiss vf).map fun va => (vf, va)

/-- What a master misses: the part of the shared TLBs it asks, its VF, and the address. -/
def State.missOf (s : State) : Master → Option (Nat × Nat × Nat)
  | .port n id => (s.portMiss n id).map fun va => ((corePath (coreOf n)).pool, (s.ctx n).id.vf, va)
  | .fetch n => (s.fetchMiss n).map fun va => ((corePath (coreOf n)).pool, (s.ctx n).id.vf, va)
  | .beat j b => (s.beatMiss j b).bind fun va =>
      (s.job? j).map fun k => (k.path.pool, k.vf, va)
  | .courier core vf => (s.courierMiss core vf).map fun va => ((corePath core).pool, vf, va)
  | .outside vf va => if s.outsideMisses.contains (vf, va) then some ((ioPath vf).pool, vf, va) else none

/-- The part of the shared TLBs that a master asks. -/
def State.poolOf (s : State) : Master → Option Nat
  | .port n _ | .fetch n => some (corePath (coreOf n)).pool
  | .beat j _ => (s.job? j).map fun k => k.path.pool
  | .courier core _ => some (corePath core).pool
  | .outside vf _ => some (ioPath vf).pool

/-- TLB_MISS: a miss starts or joins a walk (R455). -/
def execTlbMiss (m : Master) (s : State) : Host.Outcome State Fault Refusal :=
  match s.missOf m with
  | some (pool, vf, va) =>
    let known := s.walks.any fun w => w.vf == vf && w.page == va / 2 ^ 16 && w.stage != .walking
    .next (if known && s.isHintMaster m then s.skipPage (va / 2 ^ 16) m else s.startWalk pool vf va m)
  | none => .next s

/-! ## What a refusal does to a master (R400, R418, R458, R461, R462) -/

/-- The address of an access on a page: its own if it begins there, otherwise the page's. -/
def onPage (a page : Nat) : Nat := if a / 2 ^ 16 = page then a else page * 2 ^ 16

/-- A violation by a fetch of a context that still issues. -/
def State.violateFetch (s : State) (n reason va : Nat) : State :=
  if (s.ctx n).life.state != .ready && (s.ctx n).life.state != .stalled then s
  else if s.freezes (s.ctx n).id.vf reason then s.freezeCtx n reason va 0
  else s.onCtx n fun c => { c with life := { c.life with fetchFault := some (violationTrap reason va) } }

/-- A packet held for a page whose walk was refused. -/
def State.refusePacket (s : State) (pkt reason va : Nat) : State :=
  match s.packet pkt with
  | some { src, msg := .seal m, .. } => s.refuseSeal pkt src m 3
  | some { src, msg := .remote r, .. } => s.refuseRemote pkt src r reason va
  | _ => s

/-- A frame held for a page whose walk was refused: a host access gets a NAK, a ring's message is dropped. -/
def State.refuseFrame (s : State) (frame reason va : Nat) : State :=
  match s.wholeMessage frame with
  | some m =>
    match s.ring? m.vf m.head.ring with
    | some r => (s.dropFrame frame).refuseMessage m r reason va
    | none => s
  | none =>
    match s.frame frame with
    | some (vf, _, _) => s.answerFrame frame vf [.nakAccess]
    | none => s

/-- A command of a launch window held for a page whose walk was refused: its image or its records cannot be read. -/
def State.refuseCommand (s : State) (vf page : Nat) : State :=
  match s.command vf with
  | some w =>
    if s.commandMiss vf = some (page * 2 ^ 16) then s.finishCommand vf (if cmdOp w = 1 then 0x01 else 0x0B) 0 else s
  | none => s

/-- Every request of the I/O die that waits for a page is refused. -/
def State.refuseOutside (s : State) (vf page reason : Nat) : State :=
  let waits := fun (s : State) (p : Nat × List Nat) => p.1 == vf && s.ioMissing p.1 p.2 == some (page * 2 ^ 16)
  let s := s.refuseCommand vf page
  let s := (s.packets.filter fun k => (s.packetPages k.2).any (waits s)).foldl
    (fun s k => s.refusePacket k.1 reason (page * 2 ^ 16)) s
  (s.frames.filter fun f => waits s (s.frameNeeds f)).foldl (fun s f => s.refuseFrame f.1 reason (page * 2 ^ 16)) s

/-- A walk of a page ended in a violation for one of its masters. -/
def State.violateMaster (s : State) (vf page reason : Nat) : Master → State
  | .port n id =>
    match s.entry n id with
    | some r => if r.isHint then s.skipPref n id page else (s.violatePort n r reason (onPage r.addr.toNat page)).settlePort n
    | none => s
  | .fetch n =>
    let c := s.ctx n
    let live := c.life.state == .ready || c.life.state == .stalled
    if live && c.pc.toNat / 2 ^ 16 = page then s.violateFetch n reason (c.pc.toNat / 128 * 128) else s
  | .beat job beat =>
    match s.job? job, s.beatMiss job beat with
    | some j, some va => if va / 2 ^ 16 = page then s.violateJob j reason va else s
    | _, _ => s
  | .courier core v =>
    match s.fetching core v with
    | some (f, _) => s.violateCourier core v f reason (page * 2 ^ 16)
    | none => s
  | .outside _ _ => s.refuseOutside vf page reason

/-- A beat that was parked counts again once it has come back under the limits (R211, R458). -/
def State.keepParked (s : State) : Master → State
  | .beat job beat => s.onBeat job beat fun b => { b with parked := true }
  | _ => s

/-- A walk that is over: its masters ask again. -/
def State.endWalk (s : State) (w : Walk) : State :=
  let s := if w.stage = .walking then s else w.waiters.foldl State.keepParked s
  { s with walks := s.walks.filter fun x => x.id != w.id }

/-- A walk that ended in a violation, or that the pager refused. -/
def State.violateWalk (s : State) (w : Walk) (reason : Nat) : State :=
  w.waiters.foldl (fun s m => s.violateMaster w.vf w.page reason m) (s.endWalk w)

def State.walkOf (s : State) (id : Nat) : Option Walk := s.walks.find? fun w => w.id == id

/-- WALK_COMPLETE, of a walk that has a slot: a leaf fills the TLBs that were asked and the masters go on; a page fault waits for its record, and a `pref` skips the page; a violation strikes
(R205, R450, R455, R457, R461). -/
def execWalkComplete (walk : Nat) (s : State) : Host.Outcome State Fault Refusal :=
  match s.walkOf walk with
  | none => .next s
  | some w =>
    if w.stage ≠ .walking || !s.hasSlot w then .next s
    else
      match s.walk w.vf (w.page * 2 ^ 16) with
      | .leaf va size pa bits =>
        let e : TlbEntry := { vf := w.vf, va := va, size := size, pa := pa, bits := bits }
        let others := ((w.waiters.filterMap s.poolOf).filter (· != w.pool)).eraseDups
        .next ((others.foldl (fun (s : State) p => s.tlbFill p e) (s.endWalk w)).tlbFill w.pool e)
      | .fault =>
        let (hints, rest) := w.waiters.partition s.isHintMaster
        let s := hints.foldl (fun s m => s.skipPage w.page m) s
        .next (if rest.isEmpty && !hints.isEmpty then s.endWalk w
          else { s with walks := s.walks.map fun x => if x.id == walk then { x with stage := .faulted, waiters := rest } else x })
      | .violation r => .next (s.violateWalk w r)

/-- What the I/O die's masters need of a page that they miss. -/
def State.outsideNeeds (s : State) (vf page : Nat) : List (MasterKind × Need) :=
  let waits := fun (p : Nat × List Nat) => p.1 == vf && s.ioMissing p.1 p.2 == some (page * 2 ^ 16)
  (s.packets.filterMap fun k => if (s.packetPages k.2).any waits then
      match k.2.msg with
      | .remote r => some (.fabric, r.need)
      | _ => some (.envelope, .write)
    else none) ++
  (s.frames.filterMap fun f => if waits (s.frameNeeds f) then
      match f.2.2.2 with
      | .write _ => some (.host, .write)
      | .read _ => some (.host, .read)
      | _ => some (.ringWriter, .write)
    else none) ++
  if s.commandMiss vf = some (page * 2 ^ 16) then
    [(.launch, if (s.command vf).any (fun w => cmdOp w == 1 && (s.imageBytes vf w).isSome) then .write else .read)]
  else []

/-- The accesses of a master that has joined a walk: its kind and what it needs (Table 16.3). -/
def State.accessesOf (s : State) (page : Nat) : Master → List (MasterKind × Need)
  | .port n id => (s.entry n id).toList.map fun r => (.context, r.need)
  | .fetch _ => [(.context, .exec)]
  | .courier _ _ => [(.courier, .read)]
  | .beat job beat => (s.job? job).toList.map fun j =>
      let reads := match j.step with
        | some st => (s.collWord j st.micro.mpc).elim [] (j.stepReads st)
        | none => (j.beatList[beat]?).elim [] fun b => j.sourceBytes b
      let missing := reads.any fun a => a / 2 ^ 16 == page && match j.beats.find? fun x => x.num == beat with
        | some x => (lookup? a x.bytes).isNone
        | none => true
      (if j.step.isSome then .fabric else .copyJob, if missing && j.src.space == 0 || missing && j.step.isSome then .read else .write)
  | .outside vf _ => s.outsideNeeds vf page

/-- FAULT_RECORD_POST: the record of a walk that ended in a page fault enters the fault ring of its partition once one of
the 4,096 records is free, and goes to the pager with what was joined (R457). -/
def execFaultRecordPost (walk : Nat) (s : State) : Host.Outcome State Fault Refusal :=
  match s.walkOf walk with
  | none => .next s
  | some w =>
    let used := (s.walks.filter fun x => x.stage == .posted && partOf x.vf == partOf w.vf).length
    if w.stage = .faulted ∧ used < 4096 then
      .next { s with
        walks := s.walks.map fun x => if x.id == walk then { x with stage := .posted } else x
        outbox := s.outbox ++ [.faultRecord (partOf w.vf) walk w.vf (w.page * 2 ^ 16) (w.waiters.flatMap (s.accessesOf w.page))] }
    else .next s

/-- The posted record of a partition. -/
def State.recordOf (s : State) (part rec : Nat) : Option Walk :=
  s.walks.find? fun w => w.id == rec && w.stage == .posted && partOf w.vf == part

/-- MAP: the parked accesses are translated again by a new walk (R458). -/
def execMap (part rec : Nat) (s : State) : Host.Outcome State Fault Refusal :=
  match s.recordOf part rec with
  | some w => .next (s.endWalk w)
  | none => .next s

/-- REFUSE: the parked accesses fail with REFUSED-BY-PAGER (R458). -/
def execRefuse (part rec : Nat) (s : State) : Host.Outcome State Fault Refusal :=
  match s.recordOf part rec with
  | some w => .next (s.violateWalk w 1)
  | none => .next s

/-! ## INVALIDATE (R456) -/

/-- INVALIDATE: the command starts, once the device takes commands (R478). -/
def execInvalidate (vf va len : Nat) (s : State) : Host.Outcome State Fault Refusal :=
  .next (if s.ready then { s with invals := s.invals ++ [(vf, va, len)] } else s)

/-- The VF of a load that waits at a cell. -/
def State.loaderVf (s : State) : Loader → Option Nat
  | .port n _ => some (s.ctx n).id.vf
  | .beat j _ => (s.job? j).map (·.vf)
  | .remote k => match s.packet k with
    | some { msg := .remote r, .. } => some r.vf
    | _ => none

/-- Accesses that wait at a home agent under a translation that goes are parked for a new walk: a `wta` and loads of ember
cells ask again (R456). -/
def State.askAgain (s : State) (vf va len : Nat) : State :=
  let meets := fun (a n : Nat) => a < va + len && va < a + n
  let parked := fun (r : PortReq) =>
    if (r.isWaitingWta || r.stage == .emberWait) && meets r.addr.toNat r.size then { r with stage := .pending } else r
  { s with
    ctxs := s.ctxs.map fun p => (p.1, if p.2.id.vf = vf then
      { p.2 with port := { p.2.port with queue := p.2.port.queue.map parked } } else p.2)
    waiters := s.waiters.filter fun w => !(s.loaderVf w.loader == some vf && meets w.va 16) }

/-- INVALIDATE_COMPLETE: the entries are gone, and no access translated through one is outstanding: this machine performs
an access in the step that translates it, or it waits at a home agent and asks again. -/
def execInvalidateComplete (vf va len : Nat) (s : State) : Host.Outcome State Fault Refusal :=
  if s.invals.contains (vf, va, len) then .next { (s.dropTlb vf va len).askAgain vf va len with invals := s.invals.erase (vf, va, len) }
  else .next s

end Sys2Proof.Machine
end

