-- ==== Sys2Proof/Machine/Reset.lean ====
section
/-!
DEFINITION. The function-level reset of a VF (R262, R330, R390, R427, R464 to R466, Table 16.9).
-/
namespace Sys2Proof.Machine
open Sys2Proof

/-- Slots of a VF that are not FREE. -/
def State.slotsOfVf (s : State) (vf : Nat) : List Nat :=
  (s.ctxs.filter fun p => p.2.id.vf == vf && p.2.life.state != .free).map (·.1)

/-- Step 4 of a slot: every register, its windows and its bindings (Table 16.9). -/
def State.scrubSlot (s : State) (n : Nat) : State :=
  let c := s.ctx n
  let s := (s.clearSems n).onCore (coreOf n) fun k =>
    { k with scratch := k.scratch.filter fun p => !(c.id.spBase ≤ p.1 && p.1 < c.id.spBase + c.id.spSize)
             bad := k.bad.filter fun a => !(c.id.spBase ≤ a && a < c.id.spBase + c.id.spSize)
             board := k.board.filter fun e => e.ctx != n }
  let s := s.forget n
  { s with ctxs := dropKey n s.ctxs }

/-- Step 1 of a slot: an IDLE evaluator slot becomes FREE at once (Table 1.2, Table 16.9); another stops, its pending writes, its array queue, its routines and its save are given up, and of its
port only requests already sent remain; a `spost` has sent none, and step 5 voids its envelope (R427). -/
def State.resetSlot (s : State) (n : Nat) : State :=
  let c := s.ctx n
  if c.life.state = .idle then (s.leaveSets n).scrubSlot n
  else
  let kept := c.port.queue.filter fun r => s.isSent n r && !r.isReading && r.fence?.isNone && !r.isSpost
  let s := ((s.withdraw n).dropFetches n).onCtx n fun c =>
    { (c.endLife [] true) with
      life := { (c.endLife [] true).life with reset := true, lost := c.life.lost || c.life.state == .saved }
      port := { c.port with queue := kept, landings := [], faults := [], departs := [] }
      mat := { c.mat with queue := [] } }
  if c.life.state = .saved then s.dropSaved n else s

/-- Step 2: queued jobs go; started ones start no beat, and those of their beats that cannot end by themselves go. A
collective step in progress goes too. -/
def State.resetJobs (s : State) (vf : Nat) : State :=
  let kept := fun (j : Job) => j.vf != vf || (j.started && j.step.isNone && !j.beats.isEmpty)
  let stuck := fun (j : Job) (b : Beat) => j.vf == vf && s.beatStuck j b
  { s with
    jobs := (s.jobs.map fun j =>
      if j.vf = vf then { j with orphan := true, beats := j.beats.filter fun b => !stuck j b } else j).filter kept }

/-- Accesses of a VF's masters on the I/O die that are parked for a page are withdrawn (R464): a fabric request is answered with
RTRANS, a SEAL fails its record, a host access gets a NAK. (DESIGN CHOICE: log 163) -/
def State.withdrawOutside (s : State) (vf : Nat) : State :=
  let parked := fun (pages : List Nat) => (s.ioMissing vf pages).isSome
  let s := s.packets.foldl (fun (t : State) (k : Nat × Packet) =>
    if (s.packetPages k.2).any fun p => p.1 == vf && parked p.2 then
      match k.2.msg with
      | .remote r => t.turnAway k.1 r 1 0
      | .seal m => t.refuseSeal k.1 k.2.src m 8
      | _ => t
    else t) s
  s.frames.foldl (fun (t : State) (f : Nat × Nat × Nat × EthBody) =>
    if f.2.1 = vf && parked (s.framePages vf f.2.2.2) then t.answerFrame f.1 vf [.nakAccess] else t) s

/-- FUNCTION_LEVEL_RESET: steps 1 and 2, with what step 3 withdraws at once; a reset already in progress is joined
(R464). (DEDUCED: log 85) -/
def execFunctionLevelReset (vf : Nat) (s : State) : Host.Outcome State Fault Refusal :=
  if (s.vf vf).state ≠ .active then .next s
  else
    let slots := s.slotsOfVf vf
    let jobs := (s.jobs.filter fun j => j.vf == vf).length
    let s := (s.finishCommand vf 0x0D 0).withdrawOutside vf
    let s := s.onVf vf fun v => { v with state := .resetting, starts := [], reset := some (slots.length, jobs) }
    let s := slots.foldl State.resetSlot s
    let s := s.resetJobs vf
    let s := slots.foldl State.leaveSets s
    .next { s with
      walks := s.walks.filter fun w => w.vf != vf
      cores := s.cores.map fun k => (k.1, { k.2 with fetches := k.2.fetches.filter fun f => f.vf != vf }) }

/-- Has a request been sent whose answer is still to come: a `wta` that waits, a load that an ember cell holds or has refused,
a fault on its way? -/
def PortReq.awaitsAnswer (r : PortReq) : Bool :=
  match r.stage with
  | .emberWait | .refused | .faulted => true
  | .waiting => r.isWta
  | _ => false

/-- The outstanding counter of a VF: requests that its masters have sent and that are neither answered nor performed (R460,
R463). Of a slot that resets, nothing else stays in the port; the Courier performs a fetch in the step that takes it up. -/
def State.outstanding (s : State) (vf : Nat) : Nat :=
  sumOf (fun n => ((s.ctx n).port.queue.filter fun r => match r.work with
    | .op _ => (s.ctx n).life.reset || s.isSent n r || r.awaitsAnswer
    | .signal _ _ => false).length) (s.slotsOfVf vf) +
    sumOf (fun j => if j.vf = vf then j.beats.length else 0) s.jobs

/-- Has every request of a VF been answered or performed (R463)? -/
def State.vfDrained (s : State) (vf : Nat) : Bool := s.outstanding vf == 0

/-- Step 4 of what the VF has elsewhere: control-store frames, translations, range registers, frozen engines. -/
def State.scrubVf (s : State) (vf : Nat) : State :=
  let s := { s with
    cores := s.cores.map fun (k : Nat × Core) => (k.1, { k.2 with
      frames := k.2.frames.filter fun f => f.vf != vf
      frozen := k.2.frozen.filter fun v => v != vf
      tlb := k.2.tlb.filter fun e => e.vf != vf })
    tlbs := s.tlbs.map fun (t : Nat × List TlbEntry) => (t.1, t.2.filter fun e => e.vf != vf) }
  let s := { s with l2 := (List.range 8).foldl (fun (l : L2) i => l.release (8 * vf + i)) s.l2 }
  s.onVf vf fun v => { v with ranges := [], shortfall := none, streams := [] }

/-- Step 5, ember state (R330). -/
def State.resetEmber (s : State) (vf : Nat) : State :=
  let mine := s.hearths.filter fun h => h.vf == vf
  let cells := mine.map (·.cell)
  let s := cells.foldl (fun (s : State) cell => (s.setTag cell 3).setCause cell 4) s
  { s with hearths := s.hearths.filter fun h => h.vf != vf, waiters := s.waiters.filter fun w => !cells.contains w.cell }

/-- Step 5, envelopes (R427): those of the VF not yet decided are voided; records of the VF in STAGING fail. -/
def State.resetEnvelopes (s : State) (vf : Nat) : State :=
  let open' := (s.coords.filter fun k => k.vf == vf && k.decision.isNone).map (·.eid)
  let s := open'.foldl (fun s e => s.decideEnvelope e 8) s
  ((s.dests.filter fun d => d.vf == some vf && d.state == .staging).map (·.eid)).foldl (fun s e => s.failDest e 8) s

/-- The reset record (R465). -/
def resetRecord (vf slots jobs violations : Nat) : List Byte :=
  [0x13, 0] ++ natBytes 2 0xFFFF ++ [BitVec.ofNat 8 vf, 0, 0, 0] ++ natBytes 8 0 ++
    natBytes 8 (slots % 65536 + jobs % 65536 * 2 ^ 16 + violations % 65536 * 2 ^ 32) ++ natBytes 8 0

/-- RESET_DRAIN_COMPLETE: once the VF's requests have drained, the reset scrubs, releases and reports. -/
def execResetDrainComplete (vf : Nat) (s : State) : Host.Outcome State Fault Refusal :=
  match (s.vf vf).reset with
  | none => .next s
  | some (slots, jobs) =>
    if (s.vf vf).state ≠ .resetting || !s.vfDrained vf then .next s
    else
      let s := { s with jobs := s.jobs.filter fun j => j.vf != vf }
      let s := (s.slotsOfVf vf).foldl State.scrubSlot s
      let s := ((s.scrubVf vf).resetEnvelopes vf).resetEmber vf
      let s := s.postRecord vf (resetRecord vf slots jobs (s.vf vf).violations)
      .next (s.onVf vf fun v => { v with state := .active, rings := [], violations := 0, reset := none })

end Sys2Proof.Machine
end

