-- ==== Sys2Proof/Machine/Scalar.lean ====
section
/-!
DEFINITION. Meanings of the S-slot ops that compute (R110 to R119, R141). Each result lands at its due count (Table
3.15) and its sticky bits with it.
-/
namespace Sys2Proof.Machine
open Sys2Proof

/-- A scalar result at due `d`, when the guard is true. -/
def scalarOp (h : Hdr) (rd : BitVec 7) (d : Nat) (f : Ctx → Dword × CtxFlags) (s : State) : Host.Outcome State Fault Refusal :=
  .next (s.guarded h fun s => s.timed h d (.scalar rd.toNat (f s.cur).1 (f s.cur).2))

/-- The mould of R115: operands read by the type, an exact x, and Fit; `x` also says whether DZ is set. -/
def typedOp (h : Hdr) (f : Tri) (d : Nat) (sat : Bool) (x : Int → Int → Int × Bool) (s : State) :
    Host.Outcome State Fault Refusal :=
  scalarOp h f.d d (fun c =>
    let t := h.typ
    let (v, dz) := x (typedOperand t (c.s f.a.toNat).toNat) (typedOperand t (scalarB c f 1).toNat)
    let (r, clamped) := fit t sat v
    (r, (if clamped then CtxFlag.sat else 0) ||| (if dz then CtxFlag.dz else 0))) s

/-- `nop` (R141); a padding bundle of one issues and counts as any other (R94). -/
def execNop (h : Hdr) (_f : Tri) (s : State) : Host.Outcome State Fault Refusal := .next (s.guarded h fun s => s.signalNow h)

/-- `add`: a + b (Table 4.5). -/
def execAdd (h : Hdr) (f : Tri) (s : State) : Host.Outcome State Fault Refusal :=
  typedOp h f 1 f.sat (fun a b => (a + b, false)) s

/-- `sub`: a − b (Table 4.5). -/
def execSub (h : Hdr) (f : Tri) (s : State) : Host.Outcome State Fault Refusal :=
  typedOp h f 1 f.sat (fun a b => (a - b, false)) s

/-- `mul`: a × b, due 2 (Table 4.5). -/
def execMul (h : Hdr) (f : Tri) (s : State) : Host.Outcome State Fault Refusal :=
  typedOp h f 2 f.sat (fun a b => (a * b, false)) s

/-- `mulh`: the upper half of the product, due 2 (Table 4.5). -/
def execMulh (h : Hdr) (f : Tri) (s : State) : Host.Outcome State Fault Refusal :=
  typedOp h f 2 false (fun a b => (a * b / 2 ^ Ty.width h.typ, false)) s

/-- a / b rounded toward zero; all ones or −1 and DZ for a zero divisor (Table 4.5). -/
def divValue (t : Nat) (a b : Int) : Int × Bool :=
  if b = 0 then (if Ty.signed t then -1 else 2 ^ Ty.width t - 1, true) else (a.tdiv b, false)

/-- a − b × (a / b); a and DZ for a zero divisor (Table 4.5). -/
def remValue (a b : Int) : Int × Bool := if b = 0 then (a, true) else (a.tmod b, false)

/-- `div`, due 8 (Table 4.5). -/
def execDiv (h : Hdr) (f : Tri) (s : State) : Host.Outcome State Fault Refusal := typedOp h f 8 f.sat (divValue h.typ) s

/-- `rem`, due 8 (Table 4.5). -/
def execRem (h : Hdr) (f : Tri) (s : State) : Host.Outcome State Fault Refusal := typedOp h f 8 false remValue s

/-- The bitwise ops on the w-bit patterns (Table 4.5). -/
def bitwiseOp (h : Hdr) (f : Tri) (g : Nat → Nat → Nat) (s : State) : Host.Outcome State Fault Refusal :=
  typedOp h f 1 false (fun a b => ((g (pattern h.typ a) (pattern h.typ b) : Nat), false)) s

/-- `and` (Table 4.5). -/
def execAnd (h : Hdr) (f : Tri) (s : State) : Host.Outcome State Fault Refusal := bitwiseOp h f Nat.land s
/-- `or` (Table 4.5). -/
def execOr (h : Hdr) (f : Tri) (s : State) : Host.Outcome State Fault Refusal := bitwiseOp h f Nat.lor s
/-- `xor` (Table 4.5). -/
def execXor (h : Hdr) (f : Tri) (s : State) : Host.Outcome State Fault Refusal := bitwiseOp h f Nat.xor s

/-- The shift amount: b mod w, b taken as natural (Table 4.5). -/
def shiftAmount (t : Nat) (b : Int) : Nat := pattern t b % Ty.width t

/-- `shl`: a × 2^n (Table 4.5). -/
def execShl (h : Hdr) (f : Tri) (s : State) : Host.Outcome State Fault Refusal :=
  typedOp h f 1 f.sat (fun a b => (a * 2 ^ shiftAmount h.typ b, false)) s

/-- `shr`: the pattern shifted right, zeros in (Table 4.5). -/
def execShr (h : Hdr) (f : Tri) (s : State) : Host.Outcome State Fault Refusal :=
  typedOp h f 1 false (fun a b => ((pattern h.typ a / 2 ^ shiftAmount h.typ b : Nat), false)) s

/-- The w-bit pattern of a read as signed. -/
def signedPattern (t : Nat) (a : Int) : Int :=
  let n := pattern t a
  if 2 ^ (Ty.width t - 1) ≤ n then (n : Int) - 2 ^ Ty.width t else n

/-- `sar`: the pattern read as signed, shifted right (Table 4.5). -/
def execSar (h : Hdr) (f : Tri) (s : State) : Host.Outcome State Fault Refusal :=
  typedOp h f 1 false (fun a b => (signedPattern h.typ a / 2 ^ shiftAmount h.typ b, false)) s

/-- `min` (Table 4.5). -/
def execMin (h : Hdr) (f : Tri) (s : State) : Host.Outcome State Fault Refusal :=
  typedOp h f 1 false (fun a b => (min a b, false)) s
/-- `max` (Table 4.5). -/
def execMax (h : Hdr) (f : Tri) (s : State) : Host.Outcome State Fault Refusal :=
  typedOp h f 1 false (fun a b => (max a b, false)) s

/-- An untyped op: due 1, no flag (R117). -/
def untypedOp (h : Hdr) (rd : BitVec 7) (f : Ctx → Dword) (s : State) : Host.Outcome State Fault Refusal :=
  scalarOp h rd 1 (fun c => (f c, 0)) s

/-- `addi` (R117). -/
def execAddi (h : Hdr) (f : Tri) (s : State) : Host.Outcome State Fault Refusal :=
  untypedOp h f.d (fun c => c.s f.a.toNat + signExt f.imm) s

/-- `li` (R117). -/
def execLi (h : Hdr) (f : Wide) (s : State) : Host.Outcome State Fault Refusal := untypedOp h f.d (fun _ => f.imm) s

/-- `lea` (R117). -/
def execLea (h : Hdr) (f : Tri) (s : State) : Host.Outcome State Fault Refusal :=
  untypedOp h f.d (fun c => c.s f.a.toNat + (c.s f.b.toNat <<< (f.fn.extractLsb' 0 3).toNat) + signExt f.imm) s

/-- Bits [pos + wid − 1 : pos] of a value. -/
def bitField (v : Dword) (pos wid : Nat) : Nat := v.toNat / 2 ^ pos % 2 ^ wid

/-- `ext` (R117). -/
def execExt (h : Hdr) (f : Tri) (s : State) : Host.Outcome State Fault Refusal :=
  untypedOp h f.d (fun c => BitVec.ofNat 64 (bitField (c.s f.a.toNat) f.pos f.wid)) s

/-- `exts`: sign-extended (R117). -/
def execExts (h : Hdr) (f : Tri) (s : State) : Host.Outcome State Fault Refusal :=
  untypedOp h f.d (fun c =>
    let n := bitField (c.s f.a.toNat) f.pos f.wid
    BitVec.ofInt 64 (if 2 ^ (f.wid - 1) ≤ n then (n : Int) - 2 ^ f.wid else n)) s

/-- `ins` (R117). -/
def execIns (h : Hdr) (f : Tri) (s : State) : Host.Outcome State Fault Refusal :=
  untypedOp h f.d (fun c =>
    let m : Dword := BitVec.ofNat 64 ((2 ^ f.wid - 1) * 2 ^ f.pos)
    (c.s f.a.toNat &&& ~~~m) ||| ((c.s f.b.toNat <<< f.pos) &&& m)) s

/-- Zero bits above the highest one bit of a w-bit number; w if it is zero (R117). -/
def leadingZeros (w n : Nat) : Nat := if n = 0 then w else w - 1 - Nat.log2 n

/-- `clz` (R117). -/
def execClz (h : Hdr) (f : Tri) (s : State) : Host.Outcome State Fault Refusal :=
  untypedOp h f.d (fun c =>
    BitVec.ofNat 64 (leadingZeros (Ty.width h.typ) ((c.s f.a.toNat).toNat % 2 ^ Ty.width h.typ))) s

/-- `popc` (R117). -/
def execPopc (h : Hdr) (f : Tri) (s : State) : Host.Outcome State Fault Refusal :=
  untypedOp h f.d (fun c => BitVec.ofNat 64 (popCount (Ty.width h.typ) (c.s f.a.toNat).toNat)) s

/-- `sel` (R117). -/
def execSel (h : Hdr) (f : Tri) (s : State) : Host.Outcome State Fault Refusal :=
  untypedOp h f.d (fun c =>
    if c.p (f.fn.extractLsb' 0 5).toNat != f.fn.getLsbD 5 then c.s f.a.toNat else c.s f.b.toNat) s

/-- The outcome c of `cmp` (R118). -/
def compareTyped (t cond : Nat) (a b : Dword) : Bool :=
  let x := typedOperand t a.toNat
  let y := typedOperand t b.toNat
  match cond with
  | 0 => x == y
  | 1 => x != y
  | 2 => x < y
  | 3 => x ≤ y
  | 4 => x > y
  | 5 => x ≥ y
  | 6 => Nat.land (pattern t x) (pattern t y) != 0
  | _ => Nat.land (pattern t x) (pattern t y) == 0

/-- `cmp`: the outcome to p(D) and its complement to p(C), both due 1 (R118). -/
def execCmp (h : Hdr) (f : Tri) (s : State) : Host.Outcome State Fault Refusal :=
  .next (s.guarded h fun s =>
    let c := compareTyped h.typ (f.fn.extractLsb' 0 4).toNat (s.cur.s f.a.toNat) (scalarB s.cur f 4)
    (s.defer 1 (.pred f.d.toNat c) none).timed h 1 (.pred f.c.toNat !c))

/-- `plog` (R119). -/
def execPlog (h : Hdr) (f : Tri) (s : State) : Host.Outcome State Fault Refusal :=
  .next (s.guarded h fun s =>
    let i := (if s.cur.p f.a.toNat then 2 else 0) + (if s.cur.p f.b.toNat then 1 else 0)
    s.timed h 1 (.pred f.d.toNat (f.fn.getLsbD i)))

end Sys2Proof.Machine
end

