-- ==== Sys2Proof/Machine/Supervisor.lean ====
section
/-!
DEFINITION. Commands of the partition supervisor (R19, R96, R240, R332, R367, R368, R371, R373, R375, R376, R391, R392,
R401, R405, R406, R423, R453, R459, R460, R470, R481, Tables 16.4 and 16.5).
-/
namespace Sys2Proof.Machine
open Sys2Proof

/-- A command refused with a status of Table 17.8. -/
def State.refuseCommandWith (s : State) (status : Nat) : State := { s with outbox := s.outbox ++ [.refused status] }

/-- A command that names what the device does not have, or a value outside its range: it changes nothing; its status is
not given and is a free value. -/
def State.refuseValue (s : State) : State :=
  { s with free := s.free + 1 }.refuseCommandWith ((Config.freeValue s.free).toNat % 256)

/-- A command carried out where its operands are good. -/
def State.command? (s : State) (ok : Bool) (f : State → State) : State := if ok then f s else s.refuseValue

/-- Does a VF have a context slot in use? -/
def State.vfInUse (s : State) (vf : Nat) : Bool := !(s.slotsOfVf vf).isEmpty || !(s.vf vf).starts.isEmpty
/-- Does a VF of a partition have one? -/
def State.partInUse (s : State) (part : Nat) : Bool := (List.range 8).any fun i => s.vfInUse (8 * part + i)

/-- Has a VF been created (R460)? -/
def State.vfExists (s : State) (vf : Nat) : Bool := vf < 192 && (s.vf vf).state != .free
def State.partExists (s : State) (part : Nat) : Bool := part < 24 && (s.part part).created

/-! ## Partitions and VFs -/

/-- Other partitions. -/
def State.otherParts (s : State) (part : Nat) : List Partition := (s.parts.filter fun p => p.1 != part).map (·.2)

/-- No resource of the command belongs to another partition, and each exists (R459). (DESIGN CHOICE: log 82) -/
def State.partitionOk (s : State) (p : PartitionCmd) : Bool :=
  let others := s.otherParts p.part
  let apart := fun (own : List Nat) (f : Partition → List Nat) => own.all fun x => !others.any fun q => (f q).contains x
  let span := fun (own : Nat × Nat) (size : Nat) (f : Partition → Nat × Nat) =>
    own.1 + own.2 ≤ size && others.all fun q => !Span.meets (f q) own
  p.part < 24 && p.cores.all (· < 256) && apart p.cores Partition.cores && p.units.all (· < 384) && 2 ≤ p.units.length &&
    apart p.units Partition.units && p.sets.all (· < 256) && apart p.sets Partition.sets && span p.keys 4096 Partition.keys &&
    span p.coll 2048 Partition.coll && sumOf Partition.rings others + p.rings ≤ 2048 &&
    sumOf Partition.records (others.filter (·.created)) + (s.part p.part).records ≤ 4096

/-- Does a line staged for a VF of a partition lie in a unit that the partition would lose (R418)? -/
def State.losesStaged (s : State) (p : PartitionCmd) : Bool :=
  s.dests.any fun d => d.vf.any fun v => partOf v == p.part && d.lines.any fun l => !p.units.contains (l.line / 2 ^ 30)

/-- Members of one list that are not in the other, either way. -/
def changed (a b : List Nat) : List Nat := (a.filter fun x => !b.contains x) ++ b.filter fun x => !a.contains x

/-- Key slots and set entries that a partition gains or loses: whoever had them has them no longer (R459). (DEDUCED: log 166) -/
def State.clearMoved (s : State) (p : PartitionCmd) : State :=
  let q := s.part p.part
  let held := fun (r : Nat × Nat) (x : Nat) => r.1 ≤ x && x < r.1 + r.2
  { s with
    keys := s.keys.filter fun k => held q.keys k.1 == held p.keys k.1
    sets := s.sets.filter fun e => !(changed q.sets p.sets).contains e.1 }

/-- PARTITION_CREATE: the partition gets its resources, while none of its VFs has a slot in use (R406, R459) and no staged line
would lose its unit (R418). (DESIGN CHOICE: log 135) -/
def execPartitionCreate (p : PartitionCmd) (s : State) : Host.Outcome State Fault Refusal :=
  if !s.ready then .next s
  else if s.partInUse p.part || s.losesStaged p then .next (s.refuseCommandWith 0x0E)
  else .next (s.command? (s.partitionOk p) fun s =>
    let s := s.clearMoved p
    let s : State := { s with embFrames := s.embFrames.filter fun r => !p.units.contains (r.1 / 2 ^ 14) }
    (s.onPart p.part fun q =>
      { q with created := true, cores := p.cores, units := p.units, sets := p.sets, keys := p.keys, rings := p.rings
               coll := p.coll }).trimShared)

/-- The VFs of a partition that exist. -/
def State.vfsOf (s : State) (part : Nat) : List Nat := ((List.range 8).map fun i => 8 * part + i).filter s.vfExists

/-- The L2 way quotas of a partition's VFs, by default and as set (Table 16.5), in sum. -/
def State.waysGiven (s : State) (part : Nat) : Nat := sumOf s.wayQuota (s.vfsOf part)

/-- The staging entries given to a partition's VFs (R406). -/
def State.stagingGiven (s : State) (part : Nat) : Nat := sumOf (fun v => (s.vf v).staging.getD (2 ^ 21)) (s.vfsOf part)

/-- A VF that has just been created, where its default quotas would pass what the other VFs of the partition leave: it gets the
rest (R406, Table 16.5). (DESIGN CHOICE: log 155) -/
def State.fitQuotas (s : State) (vf : Nat) : State :=
  let part := partOf vf
  let ways := (s.part part).ways
  let excess := s.waysGiven part - ways
  let left := 2 ^ 24 - (s.stagingGiven part - 2 ^ 21)
  s.onVf vf fun v => { v with
    ways := if excess = 0 then none else some (s.wayQuota vf - excess)
    staging := if 2 ^ 21 ≤ left then none else some left }

/-- Frames that pages of an earlier VF of a number were mapped EMB on (R305). -/
def State.forgetFrames (s : State) (vf : Nat) : State :=
  { s with embFrames := s.embFrames.map fun p => (p.1, p.2.filter fun k => k.1 != vf) }

/-- VF_CREATE: a FREE VF of a partition becomes ACTIVE with keys drawn for it (R359, R443, R460). (DEDUCED: log 83) -/
def execVfCreate (vf root : Nat) (freeze : Bool) (s : State) : Host.Outcome State Fault Refusal :=
  match if vf < 192 && s.partExists (partOf vf) && (s.vf vf).state == .free then s.rootWrite vf root else none with
  | none => .next s.refuseValue
  | some _ =>
    .next (((({ s with draws := s.draws + 2 } : State).forgetFrames vf).setVf vf
      { state := .active, root := root, freeze := freeze, saveKey := s.draws, pageKey := s.draws + 1 }).fitQuotas vf)

/-! ## Sets, weights, keys -/

/-- Is a member of a set live (R19)? An evaluator slot that drains belongs to its sets still: it keeps them for its next
evaluation (R16). -/
def State.setLive (s : State) (k : Nat) : Bool :=
  let live := fun (c : Ctx) => c.life.state != .free && c.life.state != .idle
  (s.set k).members.any (fun n => live (s.ctx n)) ||
    s.ctxs.any fun p => p.2.id.kind == .eval && p.2.id.sets.contains k && live p.2

/-- The sets of an evaluator slot as an entry that has been rewritten leaves them. -/
def Ident.withSet (d : Ident) (k : Nat) (member : Bool) : Ident :=
  { d with sets := d.sets.filter (· != k) ++ if member then [k] else [] }

/-- SET_ENTRY_REWRITE: refused with BUSY while a member is live (R19); the members are contexts of the partition's cores (R459). -/
def execSetEntryRewrite (part k : Nat) (members : List Nat) (s : State) : Host.Outcome State Fault Refusal :=
  if s.setLive k then .next (s.refuseCommandWith 0x0E)
  else .next (s.command? ((s.part part).sets.contains k && members.all fun n => n < 1024 && (s.part part).cores.contains (coreOf n)) fun s =>
    let s := s.onSet k fun e => { e with members := members.eraseDups, arrivals := [], released := [] }
    { s with ctxs := s.ctxs.map fun (p : Nat × Ctx) =>
        (p.1, if p.2.life.state = .idle then { p.2 with id := p.2.id.withSet k (members.contains p.1) } else p.2) })

/-- VF_WEIGHT_WRITE (R96): the weight stands even before the VF has a slot on the core. (DESIGN CHOICE: log 110) -/
def execVfWeightWrite (core vf w : Nat) (s : State) : Host.Outcome State Fault Refusal :=
  .next (s.command? (core < 256 && w < 256 && s.vfExists vf && (s.part (partOf vf)).cores.contains core) fun s =>
    s.onCore core fun k => k.onSel fun x => x.onShare vf fun h => { h with weight := w })

/-- KEY_SLOT_WRITE: a slot of the partition's share gets its fields (R375, R376). -/
def execKeySlotWrite (k : KeySlotCmd) (s : State) : Host.Outcome State Fault Refusal :=
  let share := (s.part k.part).keys
  .next (s.command? (share.1 ≤ k.slot && k.slot < share.1 + share.2 && k.state < 3 && k.owner.all fun v => partOf v == k.part) fun s =>
    { s with keys := assocSet k.slot ({
        owner := k.owner, state := k.state, epoch := k.epoch, key0 := k.key0, key1 := k.key1, tss := k.tss } : KeySlot) s.keys })

/-- COLLECTIVE_ROUTINE_LOAD: words of the partition's share of the collective store, and device lists (R240). -/
def execCollectiveRoutineLoad (part base : Nat) (words : List (BitVec 256)) (lists : List (Nat × List Nat)) (s : State) :
    Host.Outcome State Fault Refusal :=
  let share := (s.part part).coll
  let good := base + words.length ≤ share.2 && lists.all fun l => l.1 < 16 && l.2.length ≤ 64 && l.2.all (· < 64)
  .next (s.command? (s.partExists part && good) fun s =>
    { s with coll := sparseSetList 0 (share.1 + base) words s.coll }.onPart part fun p =>
      { p with lists := lists.foldl (fun l (x : Nat × List Nat) => assocSet x.1 x.2 l) p.lists })

/-! ## Registers without a command of their own (R481) -/

/-- A field of a VF that exists. -/
def State.writeVf (s : State) (vf : Nat) (ok : Bool) (f : Vf → Vf) : State :=
  s.command? (s.vfExists vf && ok) fun s => s.onVf vf f

/-- A field of a partition that exists. -/
def State.writePart (s : State) (part : Nat) (ok : Bool) (f : Partition → Partition) : State :=
  s.command? (s.partExists part && ok) fun s => s.onPart part f

/-- A resource of a partition, which is assigned while none of its VFs has a context slot in use (R459). -/
def State.assignPart (s : State) (part : Nat) (ok : Bool) (f : Partition → Partition) : State :=
  if s.partInUse part then s.refuseCommandWith 0x0E else s.writePart part ok f

/-- REDUCTION_WINDOW_REGISTER: one of a partition's 16 windows (R401), while none of its VFs has a slot in use (R459). -/
def execReductionWindowRegister (part idx : Nat) (w : ReductionWindow) (s : State) : Host.Outcome State Fault Refusal :=
  .next (s.assignPart part (idx < 16 && (w.redop == 1 || w.redop == 2 || w.redop == 5 || w.redop == 6)) fun p =>
    { p with windows := assocSet idx w p.windows })

/-- The frames of a core that the other VFs' quotas take (R332). -/
def State.framesOfOthers (s : State) (core vf : Nat) : Nat :=
  sumOf (fun (q : Nat × Nat) => if q.1 = vf then 0 else q.2) (s.core core).quotas

/-- Shares of a die's TLB entries and walk slots that the other partitions take (R453). -/
def State.tlbOfOthers (s : State) (part die : Nat) : Nat × Nat :=
  (s.otherParts part).foldl (fun (t : Nat × Nat) q =>
    match lookup? die q.tlb with
    | some x => (t.1 + x.1, t.2 + x.2)
    | none => t) (0, 0)

/-- The fabric map written: a link that has no peer device any more fails, and what no route reaches any more is not sent
(R391, R397, R399). -/
def State.writeMap (s : State) (xy cols rows : Nat) (broken : List (Nat × Nat)) : State :=
  let links := joinPorts xy cols rows s.links
  let lost := s.livePorts.filter fun p => (lookup? p links).isNone
  let s := lost.foldl State.failLink s
  let s : State := { s with fabxy := xy, fabCols := cols, fabRows := rows, broken := broken, links := joinPorts xy cols rows s.links }
  (s.packets.foldl State.dropUnreachable s).reapCoord

/-- One register written. (DEDUCED: log 84) -/
def State.writeRegister (s : State) : SupReg → State
  | .limit part v => s.assignPart part (64 ≤ v && v ≤ 4096) fun p => { p with limit := v }
  | .preptime part us => s.assignPart part (1 ≤ us && us ≤ 10000) fun p => { p with preptime := us }
  | .indoubt part us => s.assignPart part (100 ≤ us && us ≤ 10000000) fun p => { p with indoubt := us }
  | .records part n =>
    s.assignPart part (n + sumOf Partition.records ((s.otherParts part).filter (·.created)) ≤ 4096) fun p => { p with records := n }
  | .staging vf n =>
    let f := fun (v : Vf) => { v with staging := some n }
    if s.partInUse (partOf vf) then s.refuseCommandWith 0x0E
    else s.writeVf vf ((s.onVf vf f).stagingGiven (partOf vf) ≤ 2 ^ 24) f
  | .wayQuota part n =>
    let f := fun (p : Partition) => { p with ways := n }
    s.assignPart part (n ≤ 15 && n + sumOf Partition.ways (s.otherParts part) ≤ 12 && (s.onPart part f).waysGiven part ≤ n) f
  | .vfWays vf n =>
    let f := fun (v : Vf) => { v with ways := some n }
    s.writeVf vf ((s.vf vf).ranges.all (fun r => r.2.ways == 0) &&
      (s.onVf vf f).waysGiven (partOf vf) ≤ (s.part (partOf vf)).ways) f
  | .residency part hint =>
    if s.partInUse part || !s.partExists part then s.assignPart part true id
    else { s.assignPart part true (fun p => { p with hint := hint }) with l2 := s.afterMode part hint }
  | .tlbShare part die entries walks =>
    let (e, w) := s.tlbOfOthers part die
    (s.assignPart part (die < 4 && e + entries ≤ 65536 - 24 * 512 && w + walks ≤ 1024 - 24 * 8) fun p =>
      { p with tlb := assocSet die (entries, walks) p.tlb }).trimShared
  | .root vf v => if s.vfExists vf then (s.rootWrite vf v).getD s.refuseValue else s.refuseValue
  | .policy vf freeze =>
    if s.vfInUse vf then s.refuseCommandWith 0x0E else s.writeVf vf true fun x => { x with freeze := freeze }
  | .frames core vf n =>
    s.command? (core < 256 && s.vfExists vf && 1 ≤ n && n + s.framesOfOthers core vf ≤ 8) fun s =>
      s.onCore core fun k => { k with quotas := assocSet vf n k.quotas }
  | .peer vf dev target =>
    s.writeVf vf (dev < 64) fun x => { x with peers := match target with
      | some v => assocSet dev v x.peers
      | none => dropKey dev x.peers }
  | .hostEntry vf idx entry =>
    s.writeVf vf (idx < 4096 && entry.all fun e => e.1 < 16) fun x => { x with hostWins := match entry with
      | some (qp, addr, rkey, len) => assocSet idx { qp := qp, addr := addr, rkey := rkey, len := len } x.hostWins
      | none => dropKey idx x.hostWins }
  | .window vf idx win =>
    s.writeVf vf (idx < 8 && win.all fun w => 2 ^ 16 ≤ w.2.1 && w.2.1 ≤ 2 ^ 52) fun x => { x with windows := match win with
      | some (base, len, rkey, r, w) => assocSet idx { base := base, len := len, rkey := rkey, read := r, write := w } x.windows
      | none => dropKey idx x.windows }
  | .queuePair vf qp mtu =>
    s.writeVf vf (qp < 16 && (mtu == 1024 || mtu == 2048 || mtu == 4096)) fun x =>
      { x with qps := assocSet qp { s.queuePair vf qp with mtu := mtu } x.qps }
  | .ring vf idx base size policy notify =>
    let r : Ring := { base := base, size := size, policy := policy, notify := notify }
    s.writeVf vf (s.ringsOk vf [(idx, r)]) fun x =>
      { x with rings := if (lookup? idx x.rings).isSome then x.rings else assocSet idx r x.rings }
  | .windowKeys vf launch status => s.writeVf vf true fun x => { x with launchKey := launch, statusKey := status }
  | .mac port vf v => s.writeVf vf (port < 10) fun x => { x with macs := assocSet port v x.macs }
  | .portMode port split => s.command? (port < 10) fun s => { s with split := assocSet port split s.split }
  | .signature part required keys => s.writePart part (keys.length ≤ 8) fun p => { p with required := required, trusted := keys }
  | .fabric xy cols rows broken =>
    s.command? (xy < 64 && 1 ≤ cols && cols ≤ 8 && 1 ≤ rows && rows ≤ 8 && fabCol xy < cols && fabRow xy < rows) fun s =>
      s.writeMap xy cols rows broken

/-- SUPERVISOR_REGISTER_WRITE, a command that has passed its MACsec check (R481). (DESIGN CHOICE: log 167) -/
def execSupervisorRegisterWrite (r : SupReg) (s : State) : Host.Outcome State Fault Refusal :=
  .next (if s.ready then s.writeRegister r else s)

end Sys2Proof.Machine
end

