-- ==== Sys2Proof/Machine/Vector.lean ====
section
/-!
DEFINITION. Meanings of the V-slot ops (R155 to R181): each forms its element results with the operations of
Machine/Lanes.lean and lands lanes, flags or predicate bits at its due count (Table 3.15).
-/
namespace Sys2Proof.Machine
open Sys2Proof

/-! ## The moulds -/

/-- Lane writes and flags of one vector register at due `d`, under the op's lane guard. -/
def laneOp (h : Hdr) (rd : BitVec 7) (d : Nat) (f : Ctx → BitVec 128 → List LaneWrite × FpFlags) (s : State) :
    Host.Outcome State Fault Refusal :=
  .next (s.guarded h fun s =>
    let r := f s.cur (laneMask s.cur h)
    s.timed h d (.vector rd.toNat r.1 r.2))

/-- One source, element by element. -/
def mapOp (h : Hdr) (f : Tri) (d : Nat) (g : Nat → Elem) (s : State) : Host.Outcome State Fault Refusal :=
  laneOp h f.d d (fun c m => elementWise h.typ m ((elemSource c h.typ f.a).map g)) s

/-- Two sources, element by element. -/
def zipOp (h : Hdr) (f : Tri) (d : Nat) (g : Nat → Nat → Elem) (s : State) : Host.Outcome State Fault Refusal :=
  laneOp h f.d d (fun c m => elementWise h.typ m (List.zipWith g (elemSource c h.typ f.a) (elemSource c h.typ f.b))) s

/-- Three sources, element by element. -/
def zip3Op (h : Hdr) (f : Tri) (d : Nat) (g : Nat → Nat → Nat → Elem) (s : State) : Host.Outcome State Fault Refusal :=
  laneOp h f.d d (fun c m =>
    elementWise h.typ m (List.zipWith (fun g x => g x)
      (List.zipWith g (elemSource c h.typ f.a) (elemSource c h.typ f.b)) (elemSource c h.typ f.c))) s

/-- A rearrangement: the elements of the result in order, no flags. -/
def moveOp (h : Hdr) (f : Tri) (d : Nat) (g : Ctx → List Nat) (s : State) : Host.Outcome State Fault Refusal :=
  laneOp h f.d d (fun c m => elementWise h.typ m ((g c).map fun x => (x, 0))) s

/-- Lane-predicate bits of the active lanes at due 2. -/
def predOp (h : Hdr) (rd : BitVec 7) (f : Ctx → BitVec 128 → BitVec 128 × FpFlags) (s : State) :
    Host.Outcome State Fault Refusal :=
  .next (s.guarded h fun s =>
    let m := laneMask s.cur h
    let r := f s.cur m
    s.timed h 2 (.lanePred rd.toNat m r.1 r.2))

/-! ## Arithmetic (R159 to R164) -/

/-- `vadd` (R159). -/
def execVadd (h : Hdr) (f : Tri) (s : State) : Host.Outcome State Fault Refusal :=
  zipOp h f 2 (addElem h.typ (Mode.of f.fn) false) s
/-- `vsub` (R159). -/
def execVsub (h : Hdr) (f : Tri) (s : State) : Host.Outcome State Fault Refusal :=
  zipOp h f 2 (addElem h.typ (Mode.of f.fn) true) s
/-- `vmul` (R159). -/
def execVmul (h : Hdr) (f : Tri) (s : State) : Host.Outcome State Fault Refusal :=
  zipOp h f 4 (mulElem h.typ (Mode.of f.fn) (f.fn.getLsbD 3)) s
/-- `vfma`, `vfms`, `vfnma`, `vfnms` by NEG (R159). -/
def execVfma (h : Hdr) (f : Tri) (s : State) : Host.Outcome State Fault Refusal :=
  zip3Op h f 4 (fusedElem h.typ (Mode.of f.fn) (f.fn.extractLsb' 3 2).toNat) s
/-- `vmin` (R160). -/
def execVmin (h : Hdr) (f : Tri) (s : State) : Host.Outcome State Fault Refusal := zipOp h f 2 (minMaxElem h.typ false) s
/-- `vmax` (R160). -/
def execVmax (h : Hdr) (f : Tri) (s : State) : Host.Outcome State Fault Refusal := zipOp h f 2 (minMaxElem h.typ true) s
/-- `vabs` (R162). -/
def execVabs (h : Hdr) (f : Tri) (s : State) : Host.Outcome State Fault Refusal :=
  mapOp h f 2 (fun a =>
    if Ty.isFloat h.typ then
      if isNan h.typ a then signElem h.typ false false a else (magnitude h.typ a, 0)
    else signElem h.typ (f.fn.getLsbD 2) false a) s
/-- `vneg` (R162). -/
def execVneg (h : Hdr) (f : Tri) (s : State) : Host.Outcome State Fault Refusal :=
  mapOp h f 2 (signElem h.typ (f.fn.getLsbD 2) true) s
/-- `vrcp` (R163). -/
def execVrcp (h : Hdr) (f : Tri) (s : State) : Host.Outcome State Fault Refusal :=
  mapOp h f 6 (functionElem recip h.typ (Mode.of f.fn)) s
/-- `vrsq` (R163). -/
def execVrsq (h : Hdr) (f : Tri) (s : State) : Host.Outcome State Fault Refusal :=
  mapOp h f 6 (functionElem recipSqrt h.typ (Mode.of f.fn)) s
/-- `vexp2` (R163). -/
def execVexp2 (h : Hdr) (f : Tri) (s : State) : Host.Outcome State Fault Refusal :=
  mapOp h f 6 (functionElem exp2 h.typ (Mode.of f.fn)) s
/-- `vlog2` (R163). -/
def execVlog2 (h : Hdr) (f : Tri) (s : State) : Host.Outcome State Fault Refusal :=
  mapOp h f 6 (functionElem log2Exact h.typ (Mode.of f.fn)) s
/-- `vand` (R164). -/
def execVand (h : Hdr) (f : Tri) (s : State) : Host.Outcome State Fault Refusal :=
  zipOp h f 2 (fun a b => (Nat.land a b, 0)) s
/-- `vor` (R164). -/
def execVor (h : Hdr) (f : Tri) (s : State) : Host.Outcome State Fault Refusal :=
  zipOp h f 2 (fun a b => (Nat.lor a b, 0)) s
/-- `vxor` (R164). -/
def execVxor (h : Hdr) (f : Tri) (s : State) : Host.Outcome State Fault Refusal :=
  zipOp h f 2 (fun a b => (Nat.xor a b, 0)) s
/-- `vshl` (R164). -/
def execVshl (h : Hdr) (f : Tri) (s : State) : Host.Outcome State Fault Refusal :=
  zipOp h f 2 (shlElem h.typ (f.fn.getLsbD 2)) s
/-- `vshr` (R164). -/
def execVshr (h : Hdr) (f : Tri) (s : State) : Host.Outcome State Fault Refusal := zipOp h f 2 (shrElem h.typ) s
/-- `vsar` (R164). -/
def execVsar (h : Hdr) (f : Tri) (s : State) : Host.Outcome State Fault Refusal := zipOp h f 2 (sarElem h.typ) s
/-- `vpopc` (R164). -/
def execVpopc (h : Hdr) (f : Tri) (s : State) : Host.Outcome State Fault Refusal :=
  mapOp h f 2 (fun a => (popCount (Ty.width h.typ) a, 0)) s
/-- `vclip` (R161). -/
def execVclip (h : Hdr) (f : Tri) (s : State) : Host.Outcome State Fault Refusal := zip3Op h f 2 (clipElem h.typ) s

/-! ## Compare, select, predicates, moves (R165 to R167) -/

/-- The conditions of `vcmp` element by element, with flags. -/
def compareElems (c : Ctx) (h : Hdr) (f : Tri) : List (Bool × FpFlags) :=
  List.zipWith (compareElem h.typ (f.fn.extractLsb' 3 3).toNat) (elemSource c h.typ f.a) (elemSource c h.typ f.b)

/-- `vcmp` (R165): a lane predicate by any or all of a lane's elements, or element masks when MASK is set. -/
def execVcmp (h : Hdr) (f : Tri) (s : State) : Host.Outcome State Fault Refusal :=
  if f.fn.getLsbD 6 then
    laneOp h f.d 2 (fun c m => elementWise h.typ m ((compareElems c h f).map fun (b, fl) =>
      (if b then 2 ^ Ty.width h.typ - 1 else 0, fl))) s
  else
    predOp h f.d (fun c m =>
      let r := compareElems c h f
      let per := groups (32 / Ty.width h.typ) 128 (r.map (·.1))
      (predOfLanes (per.map fun g => if f.fn.getLsbD 7 then g.all id else g.any id),
        activeFlags (activeElems (Ty.width h.typ) m) (r.map fun (_, fl) => (0, fl)))) s

/-- `vsel` (R166). -/
def execVsel (h : Hdr) (f : Tri) (s : State) : Host.Outcome State Fault Refusal :=
  moveOp h f 2 (fun c =>
    List.zipWith (fun q (a, b) => if q then a else b) (activeElems (Ty.width h.typ) (c.q f.c.toNat))
      ((elemSource c h.typ f.a).zip (elemSource c h.typ f.b))) s

/-- `vplog` (R166). -/
def execVplog (h : Hdr) (f : Tri) (s : State) : Host.Outcome State Fault Refusal :=
  predOp h f.d (fun c _ =>
    let a := activeLanes (c.q f.a.toNat)
    let b := activeLanes (c.q f.b.toNat)
    (predOfLanes (List.zipWith (fun x y => f.fn.getLsbD (3 + (if x then 2 else 0) + (if y then 1 else 0))) a b), 0)) s

/-- `vmov` by KIND (R167). -/
def execVmov (h : Hdr) (f : Tri) (s : State) : Host.Outcome State Fault Refusal :=
  match (f.fn.extractLsb' 3 2).toNat with
  | 0 => laneOp h f.d 2 (fun c m => (laneWrites m (vecSource c 32 f.a), 0)) s
  | 1 => laneOp h f.d 2 (fun c m =>
      (laneWrites m ((activeLanes (c.q f.a.toNat)).map fun b => if b then 0xFFFFFFFF else 0), 0)) s
  | 2 => predOp h f.d (fun c _ => (predOfLanes ((c.lanes f.a.toNat).map fun x => x != 0), 0)) s
  | _ => predOp h f.d (fun c _ => (c.q f.a.toNat, 0)) s

/-! ## Conversion and dot products (R168, R169) -/

/-- `vcvt` (R168). -/
def execVcvt (h : Hdr) (f : Tri) (s : State) : Host.Outcome State Fault Refusal :=
  laneOp h f.d 3 (fun c m =>
    let src := (f.fn.extractLsb' 3 4).toNat
    convert src h.typ f.imm.toNat (Mode.of f.fn) m (vecSource c (Ty.width src) f.a)) s

/-- `vdot` (R169). -/
def execVdot (h : Hdr) (f : Tri) (s : State) : Host.Outcome State Fault Refusal :=
  laneOp h f.d 4 (fun c m =>
    let w := Ty.width h.typ
    let a := groups (32 / w) 128 (elemSource c h.typ f.a)
    let b := groups (32 / w) 128 (elemSource c h.typ f.b)
    let r := List.zipWith (fun (a, b) (x : Word) => dotLane h.typ (Mode.of f.fn) a b x.toNat) (a.zip b) (vecSource c 32 f.c)
    (laneWrites m (r.map fun e => BitVec.ofNat 32 e.1), activeFlags (activeLanes m) r)) s

/-! ## Rearrangement, reductions, scans (R170 to R173) -/

/-- `vbcast` (R170). -/
def execVbcast (h : Hdr) (f : Tri) (s : State) : Host.Outcome State Fault Refusal :=
  moveOp h f 2 (fun c =>
    let a := elemSource c h.typ f.a
    List.replicate a.length (a.getD f.imm.toNat 0)) s

/-- `vmovs` to a scalar register (R170). -/
def execVmovsExtract (h : Hdr) (f : Tri) (s : State) : Host.Outcome State Fault Refusal :=
  .next (s.guarded h fun s =>
    s.timed h 3 (.scalar f.d.toNat (extendTyped h.typ ((elemSource s.cur h.typ f.a).getD f.imm.toNat 0)) 0))

/-- `vmovs` into one element (R170). -/
def execVmovsInsert (h : Hdr) (f : Tri) (s : State) : Host.Outcome State Fault Refusal :=
  .next (s.guarded h fun s =>
    let x := (s.cur.s (f.b.toNat - 64)).toNat
    s.timed h 3 (.vector f.d.toNat [elemWrite (Ty.width h.typ) f.imm.toNat (x % 2 ^ Ty.width h.typ)] 0))

/-- `vperm` (R171). -/
def execVperm (h : Hdr) (f : Tri) (s : State) : Host.Outcome State Fault Refusal :=
  moveOp h f 3 (fun c =>
    permute (Ty.count h.typ) (f.fn.getLsbD 3) (elemSource c h.typ f.a) (elemSource c h.typ f.b) (elemSource c h.typ f.c)) s

/-- `vshuf` (R172). -/
def execVshuf (h : Hdr) (f : Tri) (s : State) : Host.Outcome State Fault Refusal :=
  moveOp h f 3 (fun c =>
    shuffle (Ty.count h.typ) (f.fn.extractLsb' 3 4).toNat f.imm.toNat (elemSource c h.typ f.a) (elemSource c h.typ f.b)) s

/-- A reduction or a scan over the fixed tree (R173); the flags are those of the nodes that active elements use. -/
def treeOp (h : Hdr) (f : Tri) (scan : Bool) (s : State) : Host.Outcome State Fault Refusal :=
  laneOp h f.d 6 (fun c m =>
    elementWise h.typ m
      (reduceOrScan h.typ (f.fn.extractLsb' 3 3).toNat (Mode.of f.fn) scan m (elemSource c h.typ f.a))) s

/-- `vred` (R173). -/
def execVred (h : Hdr) (f : Tri) (s : State) : Host.Outcome State Fault Refusal := treeOp h f false s
/-- `vscan` (R173). -/
def execVscan (h : Hdr) (f : Tri) (s : State) : Host.Outcome State Fault Refusal := treeOp h f true s

/-! ## The quantiser (R174, R175) -/

/-- `vq4x`: codes, side lanes, damage totals and flags, all at due 5 (R174). -/
def execVq4x (h : Hdr) (f : Tri) (s : State) : Host.Outcome State Fault Refusal :=
  .next (s.guarded h fun s =>
    let c := s.cur
    let (codes, sides, (sat, zeroed, sac), fl) :=
      quantise h.typ (f.fn.extractLsb' 4 3).toNat (f.fn.getLsbD 3) (baseExp (c.s (f.b.toNat - 64))) (c.lanes f.a.toNat)
    let s := s.defer 5 (.vector f.d.toNat codes fl) none
    let s := s.defer 5 (.vector f.c.toNat sides 0) none
    s.timed h 5 (.damage sat zeroed sac))

/-- `vdq4x` (R175). -/
def execVdq4x (h : Hdr) (f : Tri) (s : State) : Host.Outcome State Fault Refusal :=
  .next (s.guarded h fun s =>
    let c := s.cur
    let r := dequantise h.typ (f.fn.extractLsb' 4 3).toNat (Mode.of f.fn) (baseExp (c.s (f.b.toNat - 64)))
      (c.lanes f.a.toNat) (c.lanes f.c.toNat)
    let (ws, fl) := elementWise h.typ (BitVec.allOnes 128) r
    s.timed h 2 (.vector f.d.toNat ws fl))

/-! ## Log parsing (R176, R177) -/

/-- `vhash` (R176). -/
def execVhash (h : Hdr) (f : Tri) (s : State) : Host.Outcome State Fault Refusal :=
  laneOp h f.d 2 (fun c m =>
    (laneWrites m (List.zipWith (crcLane ((f.fn.extractLsb' 3 2).toNat + 1)) (vecSource c 32 f.c) (vecSource c 32 f.a)), 0)) s

/-- The hits of `vfind`, byte by byte (R177). -/
def findHits (c : Ctx) (f : Tri) : List Bool :=
  (laneBytes (c.lanes f.a.toNat)).map
    (needleHit (f.fn.getLsbD 6) ((f.fn.extractLsb' 3 2).toNat + 1) (natBytes 4 (f.imm.extractLsb' 0 32).toNat))

/-- `vfind` (R177). -/
def execVfind (h : Hdr) (f : Tri) (s : State) : Host.Outcome State Fault Refusal :=
  if f.fn.getLsbD 5 then
    laneOp h f.d 2 (fun c m => (laneWrites m (packElems 8 128 ((findHits c f).map fun b => if b then 0xFF else 0)), 0)) s
  else predOp h f.d (fun c _ => (predOfLanes ((groups 4 128 (findHits c f)).map fun g => g.any id), 0)) s

/-! ## Vector branches (R178) -/

/-- A taken V0 branch (R126). -/
def State.vectorBranch (s : State) (h : Hdr) (f : Tri) (taken : Bool) : State :=
  (s.signalNow h).onIss fun x => { x with tv := if taken then some (x.opAddr + 16 * signExt f.imm) else x.tv }

/-- `vbany` (R178). -/
def execVbany (h : Hdr) (f : Tri) (s : State) : Host.Outcome State Fault Refusal :=
  .next (s.guarded h fun s => s.vectorBranch h f ((s.cur.q f.a.toNat &&& laneMask s.cur h) != 0))
/-- `vball` (R178). -/
def execVball (h : Hdr) (f : Tri) (s : State) : Host.Outcome State Fault Refusal :=
  .next (s.guarded h fun s => s.vectorBranch h f ((~~~(s.cur.q f.a.toNat) &&& laneMask s.cur h) == 0))

/-! ## Tile rows (R179 to R181) -/

/-- ROW and SEG of `vtrd` and `vtwr`. -/
def tileRow (f : Tri) : Nat := (f.imm.extractLsb' 0 6).toNat
def tileSeg (f : Tri) : Nat := if f.imm.getLsbD 6 then 1 else 0

/-- TILESHAPE of `vtrd` and `vtwr` (R181, R303). -/
def rowFault (x : BitVec 27) (f : Tri) (tile : Nat) : Option Trapped :=
  if !tctlValid x then some (tileShape 1 tile)
  else if tctlRows x ≤ tileRow f ∨ (tileSeg f = 1 ∧ tctlRowBytes x ≤ 512) then some (tileShape 6 tile)
  else none

/-- `vtrd` (R179). -/
def execVtrd (h : Hdr) (f : Tri) (s : State) : Host.Outcome State Fault Refusal :=
  .next (s.guarded h fun s =>
    let c := s.cur
    let t := f.a.toNat
    let x := c.tctl t
    match rowFault x f t with
    | some e => s.raise e
    | none =>
      let rb := tctlRowBytes x
      let bs := (List.range 512).map fun i =>
        let o := 512 * tileSeg f + i
        if o < rb then c.tileByte t (tileRow f * rb + o) else 0
      s.timed h 3 (.vector f.d.toNat (laneWrites (laneMask c h) (bytesLanes 128 bs)) 0))

/-- `vtwr` (R180). -/
def execVtwr (h : Hdr) (f : Tri) (s : State) : Host.Outcome State Fault Refusal :=
  .next (s.guarded h fun s =>
    let c := s.cur
    let t := f.d.toNat
    let x := c.tctl t
    match rowFault x f t with
    | some e => s.raise e
    | none =>
      let rb := tctlRowBytes x
      let m := laneMask c h
      let ws := ((List.range 512).zip (laneBytes (c.lanes f.a.toNat))).filterMap fun (i, b) =>
        let o := 512 * tileSeg f + i
        if m.getLsbD (i / 4) && o < rb then some (tileRow f * rb + o, b) else none
      s.timed h 2 (.tileBytes t ws))

end Sys2Proof.Machine
end

