-- ==== Sys2Proof/Machine/Dispatch.lean ====
section
/-!
DEFINITION. One arm per instruction: each is a direct call of its meaning.
-/
namespace Sys2Proof.Machine
open Sys2Proof

/-- What an instruction does in a state. -/
def exec (i : Instr) (s : State) : Host.Outcome State Fault Refusal :=
  match i with
  | .nop h f => Sys2Proof.Machine.execNop h f s
  | .add h f => Sys2Proof.Machine.execAdd h f s
  | .sub h f => Sys2Proof.Machine.execSub h f s
  | .mul h f => Sys2Proof.Machine.execMul h f s
  | .mulh h f => Sys2Proof.Machine.execMulh h f s
  | .div h f => Sys2Proof.Machine.execDiv h f s
  | .rem h f => Sys2Proof.Machine.execRem h f s
  | .and h f => Sys2Proof.Machine.execAnd h f s
  | .or h f => Sys2Proof.Machine.execOr h f s
  | .xor h f => Sys2Proof.Machine.execXor h f s
  | .shl h f => Sys2Proof.Machine.execShl h f s
  | .shr h f => Sys2Proof.Machine.execShr h f s
  | .sar h f => Sys2Proof.Machine.execSar h f s
  | .min h f => Sys2Proof.Machine.execMin h f s
  | .max h f => Sys2Proof.Machine.execMax h f s
  | .addi h f => Sys2Proof.Machine.execAddi h f s
  | .li h f => Sys2Proof.Machine.execLi h f s
  | .lea h f => Sys2Proof.Machine.execLea h f s
  | .ext h f => Sys2Proof.Machine.execExt h f s
  | .exts h f => Sys2Proof.Machine.execExts h f s
  | .ins h f => Sys2Proof.Machine.execIns h f s
  | .clz h f => Sys2Proof.Machine.execClz h f s
  | .popc h f => Sys2Proof.Machine.execPopc h f s
  | .sel h f => Sys2Proof.Machine.execSel h f s
  | .cmp h f => Sys2Proof.Machine.execCmp h f s
  | .plog h f => Sys2Proof.Machine.execPlog h f s
  | .br h f => Sys2Proof.Machine.execBr h f s
  | .bri h f => Sys2Proof.Machine.execBri h f s
  | .call h f => Sys2Proof.Machine.execCall h f s
  | .callIndirect h f => Sys2Proof.Machine.execCallIndirect h f s
  | .ret h f => Sys2Proof.Machine.execRet h f s
  | .loop h f => Sys2Proof.Machine.execLoop h f s
  | .lbrk h f => Sys2Proof.Machine.execLbrk h f s
  | .mfk h f => Sys2Proof.Machine.execMfk h f s
  | .mtk h f => Sys2Proof.Machine.execMtk h f s
  | .tset h f => Sys2Proof.Machine.execTset h f s
  | .tdset h f => Sys2Proof.Machine.execTdset h f s
  | .trap h f => Sys2Proof.Machine.execTrap h f s
  | .eret h f => Sys2Proof.Machine.execEret h f s
  | .yield h f => Sys2Proof.Machine.execYield h f s
  | .halt h f => Sys2Proof.Machine.execHalt h f s
  | .hsig h f => Sys2Proof.Machine.execHsig h f s
  | .hget h f => Sys2Proof.Machine.execHget h f s
  | .wbind h f => Sys2Proof.Machine.execWbind h f s
  | .wunb h f => Sys2Proof.Machine.execWunb h f s
  | .wstat h f => Sys2Proof.Machine.execWstat h f s
  | .dbg h f => Sys2Proof.Machine.execDbg h f s
  | .vadd h f => Sys2Proof.Machine.execVadd h f s
  | .vsub h f => Sys2Proof.Machine.execVsub h f s
  | .vmul h f => Sys2Proof.Machine.execVmul h f s
  | .vfma h f => Sys2Proof.Machine.execVfma h f s
  | .vmin h f => Sys2Proof.Machine.execVmin h f s
  | .vmax h f => Sys2Proof.Machine.execVmax h f s
  | .vabs h f => Sys2Proof.Machine.execVabs h f s
  | .vneg h f => Sys2Proof.Machine.execVneg h f s
  | .vrcp h f => Sys2Proof.Machine.execVrcp h f s
  | .vrsq h f => Sys2Proof.Machine.execVrsq h f s
  | .vexp2 h f => Sys2Proof.Machine.execVexp2 h f s
  | .vlog2 h f => Sys2Proof.Machine.execVlog2 h f s
  | .vand h f => Sys2Proof.Machine.execVand h f s
  | .vor h f => Sys2Proof.Machine.execVor h f s
  | .vxor h f => Sys2Proof.Machine.execVxor h f s
  | .vshl h f => Sys2Proof.Machine.execVshl h f s
  | .vshr h f => Sys2Proof.Machine.execVshr h f s
  | .vsar h f => Sys2Proof.Machine.execVsar h f s
  | .vcmp h f => Sys2Proof.Machine.execVcmp h f s
  | .vsel h f => Sys2Proof.Machine.execVsel h f s
  | .vcvt h f => Sys2Proof.Machine.execVcvt h f s
  | .vq4x h f => Sys2Proof.Machine.execVq4x h f s
  | .vdq4x h f => Sys2Proof.Machine.execVdq4x h f s
  | .vbcast h f => Sys2Proof.Machine.execVbcast h f s
  | .vmovsExtract h f => Sys2Proof.Machine.execVmovsExtract h f s
  | .vmovsInsert h f => Sys2Proof.Machine.execVmovsInsert h f s
  | .vperm h f => Sys2Proof.Machine.execVperm h f s
  | .vshuf h f => Sys2Proof.Machine.execVshuf h f s
  | .vred h f => Sys2Proof.Machine.execVred h f s
  | .vscan h f => Sys2Proof.Machine.execVscan h f s
  | .vpopc h f => Sys2Proof.Machine.execVpopc h f s
  | .vdot h f => Sys2Proof.Machine.execVdot h f s
  | .vclip h f => Sys2Proof.Machine.execVclip h f s
  | .vmov h f => Sys2Proof.Machine.execVmov h f s
  | .vbany h f => Sys2Proof.Machine.execVbany h f s
  | .vball h f => Sys2Proof.Machine.execVball h f s
  | .vplog h f => Sys2Proof.Machine.execVplog h f s
  | .vhash h f => Sys2Proof.Machine.execVhash h f s
  | .vfind h f => Sys2Proof.Machine.execVfind h f s
  | .vtrd h f => Sys2Proof.Machine.execVtrd h f s
  | .vtwr h f => Sys2Proof.Machine.execVtwr h f s
  | .mma h f => Sys2Proof.Machine.execMma h f s
  | .mmz h f => Sys2Proof.Machine.execMmz h f s
  | .mrdTile h f => Sys2Proof.Machine.execMrdTile h f s
  | .mrdVector h f => Sys2Proof.Machine.execMrdVector h f s
  | .mclr h f => Sys2Proof.Machine.execMclr h f s
  | .macc h f => Sys2Proof.Machine.execMacc h f s
  | .mstat h f => Sys2Proof.Machine.execMstat h f s
  | .tlds h f => Sys2Proof.Machine.execTlds h f s
  | .tsts h f => Sys2Proof.Machine.execTsts h f s
  | .ttr h f => Sys2Proof.Machine.execTtr h f s
  | .tmov h f => Sys2Proof.Machine.execTmov h f s
  | .tfill h f => Sys2Proof.Machine.execTfill h f s
  | .tq4x h f => Sys2Proof.Machine.execTq4x h f s
  | .xseta h f => Sys2Proof.Machine.execXseta h f s
  | .xsetb h f => Sys2Proof.Machine.execXsetb h f s
  | .xfill h f => Sys2Proof.Machine.execXfill h f s
  | .xrd h f => Sys2Proof.Machine.execXrd h f s
  | .lds h f => Sys2Proof.Machine.execLds h f s
  | .sts h f => Sys2Proof.Machine.execSts h f s
  | .vlds h f => Sys2Proof.Machine.execVlds h f s
  | .vsts h f => Sys2Proof.Machine.execVsts h f s
  | .vgat h f => Sys2Proof.Machine.execVgat h f s
  | .vsca h f => Sys2Proof.Machine.execVsca h f s
  | .ldf h f => Sys2Proof.Machine.execLdf h f s
  | .stf h f => Sys2Proof.Machine.execStf h f s
  | .vldf h f => Sys2Proof.Machine.execVldf h f s
  | .vstf h f => Sys2Proof.Machine.execVstf h f s
  | .pref h f => Sys2Proof.Machine.execPref h f s
  | .fence h f => Sys2Proof.Machine.execFence h f s
  | .cflush h f => Sys2Proof.Machine.execCflush h f s
  | .resv h f => Sys2Proof.Machine.execResv h f s
  | .amo h f => Sys2Proof.Machine.execAmo h f s
  | .cas h f => Sys2Proof.Machine.execCas h f s
  | .red h f => Sys2Proof.Machine.execRed h f s
  | .wta h f => Sys2Proof.Machine.execWta h f s
  | .bar h f => Sys2Proof.Machine.execBar h f s
  | .barr h f => Sys2Proof.Machine.execBarr h f s
  | .barw h f => Sys2Proof.Machine.execBarw h f s
  | .gleave h f => Sys2Proof.Machine.execGleave h f s
  | .hsigr h f => Sys2Proof.Machine.execHsigr h f s
  | .cpj h f => Sys2Proof.Machine.execCpj h f s
  | .cpq h f => Sys2Proof.Machine.execCpq h f s
  | .cpc h f => Sys2Proof.Machine.execCpc h f s
  | .bbw h f => Sys2Proof.Machine.execBbw h f s
  | .bbrd h f => Sys2Proof.Machine.execBbrd h f s
  | .coll h f => Sys2Proof.Machine.execColl h f s
  | .emake h f => Sys2Proof.Machine.execEmake h f s
  | .efill h f => Sys2Proof.Machine.execEfill h f s
  | .epeek h f => Sys2Proof.Machine.execEpeek h f s
  | .efail h f => Sys2Proof.Machine.execEfail h f s
  | .earm h f => Sys2Proof.Machine.execEarm h f s
  | .estat h f => Sys2Proof.Machine.execEstat h f s
  | .sopen h f => Sys2Proof.Machine.execSopen h f s
  | .sst h f => Sys2Proof.Machine.execSst h f s
  | .svst h f => Sys2Proof.Machine.execSvst h f s
  | .spost h f => Sys2Proof.Machine.execSpost h f s
  | .svoid h f => Sys2Proof.Machine.execSvoid h f s
  | .swait h f => Sys2Proof.Machine.execSwait h f s
  | .sstat h f => Sys2Proof.Machine.execSstat h f s
  | .itake h f => Sys2Proof.Machine.execItake h f s
  | .igive h f => Sys2Proof.Machine.execIgive h f s
  | .istat h f => Sys2Proof.Machine.execIstat h f s
  | .boundOp opc h f => Sys2Proof.Machine.execBoundOp opc h f s
  | .roundStart core => Sys2Proof.Machine.execRoundStart core s
  | .landingDataArrival ctx id => Sys2Proof.Machine.execLandingDataArrival ctx id s
  | .farFaultArrival ctx id => Sys2Proof.Machine.execFarFaultArrival ctx id s
  | .farStoreAck ctx id => Sys2Proof.Machine.execFarStoreAck ctx id s
  | .semaphoreSignal ctx id => Sys2Proof.Machine.execSemaphoreSignal ctx id s
  | .arrayOpPerform ctx => Sys2Proof.Machine.execArrayOpPerform ctx s
  | .boundRoutineStart ctx => Sys2Proof.Machine.execBoundRoutineStart ctx s
  | .microStep ctx => Sys2Proof.Machine.execMicroStep ctx s
  | .courierFetch core vf => Sys2Proof.Machine.execCourierFetch core vf s
  | .courierFetchComplete core vf => Sys2Proof.Machine.execCourierFetchComplete core vf s
  | .beatStart job beat => Sys2Proof.Machine.execBeatStart job beat s
  | .beatComplete job beat order => Sys2Proof.Machine.execBeatComplete job beat order s
  | .collectiveMicroStep job => Sys2Proof.Machine.execCollectiveMicroStep job s
  | .farLoadPerform ctx id lines => Sys2Proof.Machine.execFarLoadPerform ctx id lines s
  | .farStorePerform ctx id lines => Sys2Proof.Machine.execFarStorePerform ctx id lines s
  | .emberLoadResend ctx id => Sys2Proof.Machine.execEmberLoadResend ctx id s
  | .emblimitExpiry cell => Sys2Proof.Machine.execEmblimitExpiry cell s
  | .amoPerform ctx id => Sys2Proof.Machine.execAmoPerform ctx id s
  | .casPerform ctx id => Sys2Proof.Machine.execCasPerform ctx id s
  | .redPerform ctx id => Sys2Proof.Machine.execRedPerform ctx id s
  | .redlogAppend ctx id => Sys2Proof.Machine.execRedlogAppend ctx id s
  | .wtaArrival ctx id => Sys2Proof.Machine.execWtaArrival ctx id s
  | .wtaTimeout ctx id => Sys2Proof.Machine.execWtaTimeout ctx id s
  | .barrierArrival ctx id => Sys2Proof.Machine.execBarrierArrival ctx id s
  | .barrierRelease ctx set => Sys2Proof.Machine.execBarrierRelease ctx set s
  | .gleavePerform ctx id => Sys2Proof.Machine.execGleavePerform ctx id s
  | .hsigrDeliver ctx id => Sys2Proof.Machine.execHsigrDeliver ctx id s
  | .emakePerform ctx id => Sys2Proof.Machine.execEmakePerform ctx id s
  | .efillPerform ctx id => Sys2Proof.Machine.execEfillPerform ctx id s
  | .efailPerform ctx id => Sys2Proof.Machine.execEfailPerform ctx id s
  | .earmPerform ctx id => Sys2Proof.Machine.execEarmPerform ctx id s
  | .epeekPerform ctx id => Sys2Proof.Machine.execEpeekPerform ctx id s
  | .estatPerform ctx id => Sys2Proof.Machine.execEstatPerform ctx id s
  | .itakePerform ctx id => Sys2Proof.Machine.execItakePerform ctx id s
  | .igivePerform ctx id => Sys2Proof.Machine.execIgivePerform ctx id s
  | .istatPerform ctx id => Sys2Proof.Machine.execIstatPerform ctx id s
  | .startRecordArrival vf rec => Sys2Proof.Machine.execStartRecordArrival vf rec s
  | .slotDrainComplete ctx => Sys2Proof.Machine.execSlotDrainComplete ctx s
  | .stopFlagSet ctx area => Sys2Proof.Machine.execStopFlagSet ctx area s
  | .saveComplete ctx => Sys2Proof.Machine.execSaveComplete ctx s
  | .restore r => Sys2Proof.Machine.execRestore r s
  | .tlbMiss m => Sys2Proof.Machine.execTlbMiss m s
  | .walkComplete walk => Sys2Proof.Machine.execWalkComplete walk s
  | .faultRecordPost walk => Sys2Proof.Machine.execFaultRecordPost walk s
  | .map part rec => Sys2Proof.Machine.execMap part rec s
  | .refuse part rec => Sys2Proof.Machine.execRefuse part rec s
  | .tableWindowWrite w => Sys2Proof.Machine.execTableWindowWrite w s
  | .invalidate vf va len => Sys2Proof.Machine.execInvalidate vf va len s
  | .invalidateComplete vf va len => Sys2Proof.Machine.execInvalidateComplete vf va len s
  | .functionLevelReset vf => Sys2Proof.Machine.execFunctionLevelReset vf s
  | .resetDrainComplete vf => Sys2Proof.Machine.execResetDrainComplete vf s
  | .setEntryRewrite part set members => Sys2Proof.Machine.execSetEntryRewrite part set members s
  | .vfWeightWrite core vf w => Sys2Proof.Machine.execVfWeightWrite core vf w s
  | .vfCreate vf root freeze => Sys2Proof.Machine.execVfCreate vf root freeze s
  | .partitionCreate p => Sys2Proof.Machine.execPartitionCreate p s
  | .keySlotWrite k => Sys2Proof.Machine.execKeySlotWrite k s
  | .reductionWindowRegister part idx w => Sys2Proof.Machine.execReductionWindowRegister part idx w s
  | .collectiveRoutineLoad part base words lists => Sys2Proof.Machine.execCollectiveRoutineLoad part base words lists s
  | .supervisorRegisterWrite r => Sys2Proof.Machine.execSupervisorRegisterWrite r s
  | .hostPublish eid => Sys2Proof.Machine.execHostPublish eid s
  | .hostDiscard eid => Sys2Proof.Machine.execHostDiscard eid s
  | .extend reg value => Sys2Proof.Machine.execExtend reg value s
  | .powerCapSet watts => Sys2Proof.Machine.execPowerCapSet watts s
  | .load vf => Sys2Proof.Machine.execLoad vf s
  | .launch vf => Sys2Proof.Machine.execLaunch vf s
  | .unload vf => Sys2Proof.Machine.execUnload vf s
  | .unloadForce vf => Sys2Proof.Machine.execUnloadForce vf s
  | .getVersion => Sys2Proof.Machine.execGetVersion s
  | .getCapabilities => Sys2Proof.Machine.execGetCapabilities s
  | .negotiateAlgorithms sha384 brainpool => Sys2Proof.Machine.execNegotiateAlgorithms sha384 brainpool s
  | .getDigests => Sys2Proof.Machine.execGetDigests s
  | .getCertificate => Sys2Proof.Machine.execGetCertificate s
  | .challenge nonce => Sys2Proof.Machine.execChallenge nonce s
  | .getMeasurements reg nonce => Sys2Proof.Machine.execGetMeasurements reg nonce s
  | .powerOn failing => Sys2Proof.Machine.execPowerOn failing s
  | .powerSample watts => Sys2Proof.Machine.execPowerSample watts s
  | .coolantTemperatureChange celsius => Sys2Proof.Machine.execCoolantTemperatureChange celsius s
  | .ethernetFrameReceive f => Sys2Proof.Machine.execEthernetFrameReceive f s
  | .rdmaWrite frame => Sys2Proof.Machine.execRdmaWrite frame s
  | .rdmaRead frame => Sys2Proof.Machine.execRdmaRead frame s
  | .uetPacketReceive frame => Sys2Proof.Machine.execUetPacketReceive frame s
  | .reassemblyTimeout msg => Sys2Proof.Machine.execReassemblyTimeout msg s
  | .flitReceive port f => Sys2Proof.Machine.execFlitReceive port f s
  | .replayRequest port seq => Sys2Proof.Machine.execReplayRequest port seq s
  | .linkRetrain port => Sys2Proof.Machine.execLinkRetrain port s
  | .linkFailure port => Sys2Proof.Machine.execLinkFailure port s
  | .linkKeyEstablish port peerValue signed => Sys2Proof.Machine.execLinkKeyEstablish port peerValue signed s
  | .linkKeyRotation port => Sys2Proof.Machine.execLinkKeyRotation port s
  | .packetForward pkt port merged => Sys2Proof.Machine.execPacketForward pkt port merged s
  | .remoteRequestReceive pkt => Sys2Proof.Machine.execRemoteRequestReceive pkt s
  | .seal pkt => Sys2Proof.Machine.execSeal pkt s
  | .sealack pkt => Sys2Proof.Machine.execSealack pkt s
  | .fail pkt => Sys2Proof.Machine.execFail pkt s
  | .envelopePrepareSend eid => Sys2Proof.Machine.execEnvelopePrepareSend eid s
  | .prepare pkt => Sys2Proof.Machine.execPrepare pkt s
  | .ready pkt => Sys2Proof.Machine.execReady pkt s
  | .publish pkt => Sys2Proof.Machine.execPublish pkt s
  | .discard pkt => Sys2Proof.Machine.execDiscard pkt s
  | .done pkt => Sys2Proof.Machine.execDone pkt s
  | .query pkt => Sys2Proof.Machine.execQuery pkt s
  | .queryResend eid => Sys2Proof.Machine.execQueryResend eid s
  | .decisionResend eid => Sys2Proof.Machine.execDecisionResend eid s
  | .preptimeExpiry eid => Sys2Proof.Machine.execPreptimeExpiry eid s
  | .indoubtIntervalExpiry eid => Sys2Proof.Machine.execIndoubtIntervalExpiry eid s
  | .remoteError job beat => Sys2Proof.Machine.execRemoteError job beat s
  | .darotXTranslation vf input version => Sys2Proof.Machine.execDarotXTranslation vf input version s

end Sys2Proof.Machine
end

