-- ==== Sys2Proof/Machine/Issue.lean ====
section
/-!
DEFINITION. Issue of a bundle (R72 to R79, R89, R90, R99 to R109): fetch, the checks in their order, what a bundle waits
for, what holds it at issue, its execution, and what follows at its end (R124, R126, R127, R435).
-/
namespace Sys2Proof

/-! ## Slots and registers of ops (R74, R285) -/

/-- The first slot of a class, and how many slots it has (R74). -/
def SlotClass.base : SlotClass → Nat
  | .s => 0
  | .v => 1
  | .m => 3
  | .x => 4
  | .c => 5
def SlotClass.limit : SlotClass → Nat
  | .v | .c => 2
  | _ => 1

/-- The scalar and vector registers that a field names: file 0 or 3, and number. -/
def FieldKind.reg (k : FieldKind) (x : BitVec 7) : List (Nat × Nat) :=
  match k with
  | .s => [(0, x.toNat)]
  | .v | .vOnly => [(3, x.toNat)]
  | .vs => [if x.toNat < 64 then (3, x.toNat) else (0, x.toNat - 64)]
  | .sOnly => [(0, x.toNat - 64)]
  | _ => []

/-- Registers that an op names outside the fields of its row: a pair's second register, base exponents, a count. -/
def Instr.extraRegs : Instr → List (Nat × Nat)
  | .mma _ f | .mmz _ f => [(0, f.ea.toNat), (0, f.eb.toNat)]
  | .cas _ f | .wta _ f | .emake _ f | .efill _ f | .epeek _ f | .estat _ f => [(0, f.d.toNat + 1)]
  | .loop _ f => if f.fn.getLsbD 6 then [] else [(0, (f.fn.extractLsb' 0 6).toNat)]
  | _ => []

/-- The scalar and vector registers that an op reads or writes. -/
def Instr.regs (i : Instr) : List (Nat × Nat) :=
  match i.op?, i.row with
  | some (_, _, p), some r =>
    let (d, a, b, c) := p.regs
    r.d.reg d ++ r.a.reg a ++ r.b.reg b ++ r.c.reg c ++ i.extraRegs
  | _, _ => []

end Sys2Proof

namespace Sys2Proof.Machine
open Sys2Proof

/-! ## Fetch (R72, R73) -/

/-- An op of a bundle: its class, slot (S, V0, V1, M, X, C0, C1), place and address. -/
structure BundleOp where
  i    : Instr
  cls  : SlotClass
  slot : Nat
  pos  : Nat
  addr : Dword
  deriving DecidableEq, Repr

/-- What the fetch of the entry line comes to. -/
inductive Fetched where
  | parked
  | violation (reason va : Nat)
  | line (s : State) (bytes : List Byte)
  deriving DecidableEq, Repr

/-- The entry line of a context's next bundle, through the core's L1 (R72); a line whose address exceeds 52 bits is
refused as REFUSED-BY-PAGER is. (DEDUCED: log 12, DEDUCED: log 13) -/
def State.fetchLine (s : State) (n : Nat) : Fetched :=
  let c := s.ctx n
  let core := coreOf n
  let va := c.pc.toNat / 128 * 128
  if 2 ^ 52 ≤ va then .violation 1 va
  else
    match s.xlate (corePath core) c.id.vf va .exec with
    | .miss => .parked
    | .violation r => .violation r va
    | .ok pa _ =>
      if s.isHeld pa 128 then .parked
      else
        let s := (s.touch (corePath core) c.id.vf va).l1Ready core c.id.vf (pa / 64)
        let lo := s.l1Bytes core c.id.vf pa 64
        let s := s.l1Ready core c.id.vf (pa / 64 + 1)
        .line s (lo ++ s.l1Bytes core c.id.vf (pa + 64) 64)

/-- The ops of a line from the entry op on. (DEDUCED: log 14) -/
def lineOps (pc : Dword) (bs : List Byte) : List Op :=
  (groups 16 8 bs).drop (pc.toNat / 16 % 8) |>.map fun g => BitVec.ofNat 128 (natOfBytes g)

/-- The ops up to the first whose STOP bit is set (R73). -/
def untilStop : List Op → Option (List Op)
  | [] => none
  | w :: t => if w.getLsbD 8 then some [w] else (untilStop t).map fun l => w :: l

/-! ## The checks of R90 -/

/-- TRAPINFO of ILLOP (R89). -/
def illop (r : IllOp) (pos : Nat) : Trapped := ⟨.illop, BitVec.ofNat 64 (r.code + 256 * pos)⟩

/-- The END of a `loop` must lie after the last op of its bundle (R123): OFF against the number of ops that follow. -/
def loopBad (i : Instr) (after : Nat) : Bool :=
  match i with
  | .loop _ f => f.off.toInt ≤ after
  | _ => false

/-- Step 3 for one op: OPCODE, UNBOUND, then the checks of its fields; `after` ops follow it in its bundle. -/
def Ctx.checkWord (c : Ctx) (pos after : Nat) (w : Op) : Except Trapped (Instr × SlotClass) :=
  match parseOp w with
  | none => .error (illop .opcode pos)
  | some i =>
    let cls := match i with
      | .boundOp opc _ _ => (lookup? opc.toNat c.binds).map fun b => if b.isM then SlotClass.m else .v
      | _ => some i.freeClass
    match cls with
    | none => .error ⟨.unbound, (w.extractLsb' 0 8).zeroExtend 64 + BitVec.ofNat 64 (256 * pos)⟩
    | some cls =>
      match checkOp cls i with
      | some .guard => .error (illop .guard pos)
      | some .type => .error (illop .type pos)
      | r =>
        if loopBad i after then .error (illop .field pos)
        else match r with
          | some r => .error (illop r pos)
          | none => .ok (i, cls)

/-- Step 3 for a bundle, in memory order. -/
def Ctx.checkWords (c : Ctx) (pos : Nat) : List Op → Except Trapped (List (Instr × SlotClass))
  | [] => .ok []
  | w :: t =>
    match c.checkWord pos t.length w with
    | .error e => .error e
    | .ok x =>
      match c.checkWords (pos + 1) t with
      | .error e => .error e
      | .ok l => .ok (x :: l)

/-- The ops of a bundle in their slots (R74, R76). -/
def placeOps (entry : Dword) (xs : List (Instr × SlotClass)) : List BundleOp :=
  (List.range xs.length).zip xs |>.map fun (k, i, cls) =>
    let same := ((xs.take k).filter fun y => y.2 == cls).length
    { i := i, cls := cls, slot := cls.base + same, pos := k, addr := entry + BitVec.ofNat 64 (16 * k) }

/-- SLOTORDER, then SLOTOVER, then V1BRANCH (R74, R75), each at the first op that breaks it. -/
def slotFault (ops : List BundleOp) : Option Trapped :=
  let order := ops.find? fun o => ops.any fun p => p.pos < o.pos && o.cls.rank < p.cls.rank
  let beyond := ops.find? fun o => o.cls.base + o.cls.limit ≤ o.slot
  let branch := ops.find? fun o => o.slot == 2 && match o.i with
    | .vbany _ _ | .vball _ _ => true
    | _ => false
  (order.map fun o => illop .slotorder o.pos).or
    ((beyond.map fun o => illop .slotover o.pos).or (branch.map fun o => illop .v1branch o.pos))

/-- The header of an op. -/
def BundleOp.hdr (o : BundleOp) : Option Hdr := o.i.op?.map fun x => x.2.1

/-- Does the op execute (R81, R82)? -/
def BundleOp.on (o : BundleOp) (c : Ctx) : Bool := o.hdr.any fun h => guardTrue c h

/-- SEMRANGE of one op: wait field, signal field, then the operand of `hsig` or `hget` (R26). -/
def semFault (c : Ctx) (o : BundleOp) : Option Trapped :=
  let bad := fun (n src : Nat) =>
    if c.id.semCount ≤ n then
      some (⟨.semrange, BitVec.ofNat 64 (n + 256 * o.pos + src * 2 ^ 11)⟩ : Trapped) else none
  o.hdr.bind fun h =>
    let wait := if h.wcnt == 0 then none else bad h.wsem.toNat 0
    let sig := if h.sinc == 0 then none else bad h.ssem.toNat 1
    let operand := match o.i with
      | .hsig _ f | .hget _ f => if o.on c then bad (f.imm.extractLsb' 0 8).toNat 2 else none
      | _ => none
    wait.or (sig.or operand)

/-- Steps 2 to 5 of R90 on the ops of the entry line. -/
def Ctx.checkBundle (c : Ctx) (line : List Op) : Except Trapped (List BundleOp) :=
  match untilStop line with
  | none => .error (illop .linecross 0)
  | some ws =>
    match c.checkWords 0 ws with
    | .error t => .error t
    | .ok xs =>
      let ops := placeOps c.pc xs
      match slotFault ops, ops.findSome? (semFault c) with
      | some t, _ => .error t
      | none, some t => .error t
      | none, none => .ok ops

/-! ## What a bundle stalls on (Table 1.3, R34, R108, R193, R285, R294) -/

/-- The registers of op fields that an M op reads through TCTL: a base exponent (R291, R292, R298). -/
def Ctx.expRegs (c : Ctx) : Instr → List (Nat × Nat)
  | .mrdTile h f => if h.typ = Ty.e4m3 ∨ h.typ = Ty.q4x then [(0, tctlExpReg (c.tctl f.d.toNat))] else []
  | .tq4x _ f => [(0, tctlExpReg (c.tctl (if f.fn.getLsbD 4 then f.a.toNat else f.d.toNat)))]
  | _ => []

/-- The registers that a bound op counts as reading and writing (R285). -/
def boundRegs (b : Binding) (f : Tri) : List (Nat × Nat) :=
  ((List.range 64).filter fun i => b.vmask.getLsbD i).map (fun i => (3, i)) ++
    [f.a, f.b, f.c, f.d].map fun (x : BitVec 7) => (0, x.toNat % 64)

/-- The registers that a bound op's fields name and that its routine may write (R338, R350): its destinations, for R108.
(DEDUCED: log 19) -/
def boundDests (b : Binding) (f : Tri) : List (Nat × Nat) :=
  [f.a, f.b, f.c, f.d].flatMap fun (x : BitVec 7) =>
    (if x.toNat < 64 && b.vmask.getLsbD x.toNat then [(3, x.toNat)] else []) ++ [(0, x.toNat % 64)]

/-- The registers that pending timed writes of the running level are to write; s0 takes no part (R86). -/
def Ctx.timedTargets (c : Ctx) : List (Nat × Nat) :=
  (c.level.deferred.flatMap fun d => match d.eff with
    | .landing id => c.landingTargets id
    | e => e.target.toList).filter fun k => k ≠ (0, 0)

/-- The bytes of the window that an op's issue tests: address and number, and whether it writes them (R193, R294). -/
def windowUse (c : Ctx) (i : Instr) : List (Nat × Nat) × Bool :=
  let some' := fun (u : ScratchUse) => u.addrs.map fun p => (p.2, u.size)
  match i with
  | .lds h f => (some' (scalarUse c h f), false)
  | .sts h f => (some' (scalarUse c h f), true)
  | .vlds _ f => (some' (vectorUse c f), false)
  | .vsts _ f => (some' (vectorUse c f), true)
  | .vgat h f => (some' (gatherUse c h f), false)
  | .vsca h f => (some' (gatherUse c h f), true)
  | .tlds _ f => ((tileAddrs (c.tctl f.d.toNat) (tileEa c f).toNat (c.s f.b.toNat).toNat).map fun a => (a, 1), false)
  | .tsts _ f => ((tileAddrs (c.tctl f.d.toNat) (tileEa c f).toNat (c.s f.b.toNat).toNat).map fun a => (a, 1), true)
  | .cpj _ f | .coll _ f => ([((c.s f.a.toNat).toNat, 128)], false)
  | .cpc _ f => ([((c.s f.a.toNat).toNat, 128 * (f.imm.extractLsb' 0 7).toNat)], false)
  | _ => ([], false)

/-- Does a part of the window meet a scoreboard entry, or a queued tile op that it may not pass? -/
def State.windowBusy (s : State) (n : Nat) (u : List (Nat × Nat) × Bool) : Bool :=
  let c := s.ctx n
  u.1.any fun (a, k) =>
    (s.core (coreOf n)).board.any (fun e => e.ctx == n && e.start < a + k && a < e.stop) ||
      c.mat.queue.any fun q => q.addrs.any (fun x => a ≤ x && x < a + k) || (u.2 && q.reads.any fun x => a ≤ x && x < a + k)

/-- Is a tile busy because of a copy job, or of a `vtwr` of either level (R34, R180, R278)? -/
def State.tileTaken (s : State) (n t : Nat) : Bool :=
  (s.ctx n).allDeferred.any (fun d => d.eff.onTile t) || s.jobs.any fun k => k.ctx == n && k.tiles.contains t

/-- Does an op that executes read or write a register that the array is still to write (R285)? -/
def State.meetsPending (s : State) (n : Nat) (o : BundleOp) : Bool :=
  let c := s.ctx n
  let pending := c.mat.queue.flatMap fun q => q.op.arrayDests
  let regs := match o.i with
    | .boundOp opc _ f => (lookup? opc.toNat c.binds).elim [] fun b => boundRegs b f
    | i => i.regs ++ c.expRegs i
  let postsCards := match o.i with
    | .cpj _ _ | .cpc _ _ | .coll _ _ => true
    | _ => false
  o.on c && (regs.any (fun r => pending.contains r) || (postsCards && pending.any fun r => r.1 == 0))

/-- The registers that an interlocked op names as its destinations (R108). -/
def Ctx.interlockedDests (c : Ctx) : Instr → List (Nat × Nat)
  | .boundOp opc _ f => (lookup? opc.toNat c.binds).elim [] fun b => boundDests b f
  | i => i.arrayDests

/-- What one op makes its bundle stall on. A `vtwr` holds its tile till it lands (R180), and it lands by the issue count (R32), which
stands still in a stall: an op on the tile in the very next bundle waits for good. (DEDUCED: log 19, DESIGN CHOICE: log 169) -/
def State.opWait (s : State) (n : Nat) (o : BundleOp) : Wait :=
  let c := s.ctx n
  let inArray := o.cls == .m && match o.i with
    | .boundOp _ _ _ => false
    | _ => true
  let tile := match o.i with
    | .tset _ f | .vtwr _ f => [f.d.toNat]
    | .vtrd _ f => [f.a.toNat]
    | _ => []
  if !o.on c then .none
  else if s.meetsPending n o then .busy
  else if (c.interlockedDests o.i).any fun r => c.timedTargets.contains r then .busy
  else if inArray && (4 ≤ c.mat.queue.length || (opTiles o.i).any (s.tileTaken n)) then .busy
  else if tile.any (s.tileBusy n) then .busy
  else if s.windowBusy n (windowUse c o.i) then .scoreboard
  else
    match o.i with
    | .bar _ f | .barr _ f | .gleave _ f => if s.arrivalOpen n (setOf f) then .barrier else .none
    | .eret _ _ => if c.trap.tl && !c.lv1.deferred.all c.dataArrived then .landing else .none
    | _ => .none

/-- The sum of the thresholds that a bundle's unguarded ops name on a semaphore (R28). -/
def waitSum (c : Ctx) (ops : List BundleOp) (h : Nat) : Nat :=
  sumOf (fun o => (o.hdr.elim 0 fun d => if o.on c && d.wsem.toNat == h then d.wcnt.toNat else 0)) ops

/-- The semaphores that a bundle's wait fields name (R27, R28). -/
def waitSems (c : Ctx) (ops : List BundleOp) : List Nat :=
  (ops.filterMap fun o => o.hdr.bind fun d => if o.on c && d.wcnt != 0 then some d.wsem.toNat else none).eraseDups

/-- The wait test of R28. -/
def State.waitMet (s : State) (n : Nat) (ops : List BundleOp) : Bool :=
  (waitSems (s.ctx n) ops).all fun h => waitSum (s.ctx n) ops h ≤ s.sem n h

/-- The sums subtracted in one step; a wait that consumes a signal acquires (R28, R50). -/
def State.takeWaits (s : State) (n : Nat) (ops : List BundleOp) : State :=
  let c := s.ctx n
  let hs := waitSems c ops
  let s := hs.foldl (fun s h => s.setSem n h (s.sem n h - waitSum c ops h)) s
  if hs.isEmpty && c.life.seq != 0 then s else s.onCtx n Ctx.setAcquired

/-! ## Execution (R77) -/

/-- The working fields at the start of a bundle. -/
def bundleIssue (n : Nat) (c : Ctx) (ops : List BundleOp) : Issue :=
  { cur := n, bb := c.bb, entry := c.pc, next := c.pc + BitVec.ofNat 64 (16 * ops.length) }

/-- The ops of a bundle executed in memory order; results are written at their due bundles, so each op reads what stood
before the bundle. -/
def State.runOps (s : State) (ops : List BundleOp) : State :=
  ops.foldl (fun s o =>
    match exec o.i (s.onIss fun x => { x with slot := o.slot, pos := o.pos, opAddr := o.addr }) with
    | .next s => s
    | _ => s) s

/-! ## What holds a bundle at issue (R101, R200, R235, R437) -/

/-- The ops that R437 counts until they are performed. -/
def PortReq.counted (r : PortReq) : Bool :=
  r.stage != .performed && match r.work with
    | .op i =>
      match i with
      | .ldf _ _ | .stf _ _ | .vldf _ _ | .vstf _ _ | .amo _ _ | .cas _ _ | .red _ _ | .wta _ _ | .emake _ _ | .efill _ _
      | .epeek _ _ | .efail _ _ | .earm _ _ | .estat _ _ | .sst _ _ | .svst _ _ | .swait _ _ | .sstat _ _ | .spost _ _
      | .svoid _ _ | .itake _ _ | .igive _ _ | .istat _ _ | .bbw _ _ => true
      | _ => false
    | .signal _ _ => false

/-- Deferred value slots of 512 bytes that a pending result takes (R437). -/
def Effect.values : Effect → Nat
  | .vector _ _ _ | .latch _ _ | .descriptor _ _ | .tileBytes _ _ | .loadLanes _ _ _ _ _ => 1
  | .store ents _ _ _ => ents / 8
  | _ => 0

/-- Does an entry of the deferred-write list count as a timed write? Damage totals ride on the write of their op. -/
def Effect.isWrite : Effect → Bool
  | .damage _ _ _ => false
  | _ => true

/-- Would the state after a bundle exceed what its context may have in flight (R437)? (DEDUCED: log 18) -/
def State.overfull (t : State) (n : Nat) : Bool :=
  let c := t.ctx n
  160 < (c.allDeferred.filter fun d => d.eff.isWrite).length ||
    12 < sumOf (fun d => d.eff.values) c.lv0.deferred || 4 < sumOf (fun d => d.eff.values) c.lv1.deferred ||
    127 < ((c.trap.list ++ c.port.queue).filter PortReq.counted).length

/-- Does a bundle find an engine's entries wanting: request entries for its far accesses (R200), landing entries for its
operands (R437), queue and scoreboard entries for its cards (R235, R236)? `t` is the state after its ops. -/
def State.isHeldAtIssue (s t : State) (n : Nat) (ops : List BundleOp) : Bool :=
  let c := s.ctx n
  let posts := sumOf (fun (o : BundleOp) => if !o.on c then 0 else match o.i with
    | .cpj _ _ | .coll _ _ => 1
    | .cpc _ f => (f.imm.extractLsb' 0 7).toNat
    | _ => 0) ops
  t.overfull n || s.exceeds t n || (posts != 0 && 64 < s.jobsOf n + posts)

/-! ## The attempt to issue -/

/-- What the attempt to issue a context's next bundle comes to, with the state that results due before it leave. -/
inductive Attempt where
  /-- It stalls (Table 1.3); `late` for a late landing (R109). -/
  | stall (w : Wait) (late : Bool) (s : State)
  | trap (t : Trapped) (s : State)
  /-- Its fetch met a violation that freezes the context (R462). -/
  | freeze (reason va : Nat) (s : State)
  | hold (s : State)
  /-- It issues: its ops, and the state after them. -/
  | issue (ops : List BundleOp) (t : State)
  deriving DecidableEq, Repr

/-- What a late landing whose op is in the port waits on (Table 1.3, R253, R312, R458), and whether it counts in LANDLATE.
(DEDUCED: log 15) -/
def State.lateWait (s : State) (n : Nat) (r : PortReq) : Wait × Bool :=
  if r.isWta then (.wta, false)
  else if s.walks.any fun w => w.waiters.contains (.port n r.id) && w.stage != .walking then (.pageFault, false)
  else if r.stage == .emberWait || r.stage == .refused then (.ember, true)
  else (.landing, true)

/-- What a context with late landings waits on: the first of them that counts in LANDLATE, if one does (R109). -/
def State.lateOn (s : State) (n : Nat) : Wait × Bool :=
  let c := s.ctx n
  let waits := c.dueNow.filterMap fun d => match d.eff with
    | .landing id =>
      if c.dataArrived d then none
      else match c.port.queue.find? fun r => r.id == id with
        | some r => some (s.lateWait n r)
        | none => some (if c.port.landings.any fun l => l.id == id && l.wta then (.wta, false) else (.landing, true))
    | _ => none
  (waits.find? (·.2)).getD (waits.headD (.landing, true))

/-- A launched context's first bundle waits until every binding of the launch is settled (R38). -/
def Ctx.unsettled (c : Ctx) : Bool :=
  c.life.seq == 0 && c.id.kind != .eval && c.binds.any fun p => p.2.launch && !p.2.resident && !p.2.failed

/-- The checks, waits and holds of a bundle whose ops are known. The faults that depend on operands are not looked for
while an operand is still to be written by the array: the op does not issue (R285). -/
def State.tryOps (s : State) (n : Nat) (ops : List BundleOp) : Attempt :=
  let c := s.ctx n
  let t := ({ s.takeWaits n ops with iss := bundleIssue n c ops }).runOps ops
  if ops.any (s.meetsPending n) then .stall .busy false s
  else match t.iss.fault with
  | some f => .trap f s
  | none =>
    match (ops.map (s.opWait n)).find? fun w => w ≠ .none with
    | some w => .stall w false s
    | none =>
      if !s.waitMet n ops then .stall .semaphore false s
      else if s.isHeldAtIssue t n ops then .hold s
      else .issue ops t

/-- The attempt to issue the next bundle of a context whose last bundle is over. -/
def State.attempt (s : State) (n : Nat) : Attempt :=
  let c := s.ctx n
  if c.trap.list.any (·.immed) then .hold s
  else if c.life.returning then .stall c.returnWait false s
  else if !c.port.departs.isEmpty then .stall .barrier false s
  else if c.unsettled then .stall .courier false s
  else
    match s.landDue n with
    | .late => let w := s.lateOn n; .stall w.1 w.2 s
    | .busy => .stall .busy false s
    | .broken => .trap ⟨.ecc, 0⟩ s
    | .landed s =>
      match c.life.fetchFault with
      | some t => .trap t (s.onCtx n fun c => { c with life := { c.life with fetchFault := none } })
      | none =>
        match s.fetchLine n with
        | .parked => .stall .pageFault false s
        | .violation r va =>
          if s.freezes c.id.vf r then .freeze r va s else .trap (violationTrap r va) s
        | .line s bs =>
          match (s.ctx n).checkBundle (lineOps c.pc bs) with
          | .error t => .trap t s
          | .ok ops => s.tryOps n ops

/-! ## The end of a bundle (R124, R126, R127) -/

/-- The walk of the loop unit over levels, innermost first: the levels as it leaves them and the back edge (R124). -/
def loopWalk (addrs : List Dword) : List Nat → Ctx → Ctx × Option Dword
  | [], c => (c, none)
  | k :: rest, c =>
    let l := c.loop k
    if l.active && addrs.contains l.stop then
      let lc := l.lc - 1
      if lc = 0 then loopWalk addrs rest (c.setLoop k { l with lc := lc, active := false })
      else (c.setLoop k { l with lc := lc }, some l.start)
    else loopWalk addrs rest c

/-- Where fetch goes after a bundle, what the loop unit leaves, and whether the two transfers collide (R126). -/
structure Resolved where
  ctx    : Ctx
  next   : Dword
  back   : Bool
  taken  : Bool
  clash  : Bool
  deriving DecidableEq, Repr

/-- Branch resolution (R126). -/
def Issue.resolve (x : Issue) (addrs : List Dword) (c : Ctx) : Resolved :=
  let (c, back) := if x.ts.isSome then (c, none) else loopWalk addrs [5, 4, 3, 2, 1, 0] c
  match x.ts.or back, x.tv with
  | some t, tv => ⟨c, t, back.isSome, true, tv.any fun v => v != t⟩
  | none, some v => ⟨c, v, false, true, false⟩
  | none, none => ⟨c, x.next, false, false, false⟩

/-- Is the end of a bundle a test point (R127)? -/
def Resolved.tests (r : Resolved) (x : Issue) : Bool := r.back || (r.taken && r.next ≤ x.entry) || x.yield

/-- What a bundle leaves in its context's counters, a padding bundle too, before its end is settled (R31, R94, R107). -/
def Ctx.countBundle (c : Ctx) (x : Issue) : Ctx :=
  let c := if x.waw then c.orCtxst CtxFlag.waw else c
  let c := c.onLevel fun l => { l with count := l.count + 1, under := [] }
  { c with
    life := { c.life with seq := c.life.seq + 1, state := .ready, wait := .none }
    ctl := { c.ctl with sinceTest := c.ctl.sinceTest + 1 } }

/-- The bound ops of a bundle become routines that read the registers as the bundle found them (R344, R345). -/
def Ctx.startRoutines (c : Ctx) (x : Issue) (regs : Regs) : Ctx :=
  { c with routines := x.bound.map fun r => { r with regs := { regs with mt := [] }, others := x.written } }

/-- The end of a bundle: branch resolution, test points, the causes that strike after it, its routines and the return. A
bundle that brings the count to LIMIT at another test point costs no cycle; a collision beside `eret` is judged at the level of
its bundle. (DESIGN CHOICE: log 148, DESIGN CHOICE: log 149) -/
def State.endBundle (s : State) (n : Nat) (x : Issue) (ops : List BundleOp) : State :=
  let c := s.ctx n
  let r := x.resolve (ops.map (·.addr)) c
  let trapBrc := r.clash && c.ctl.ctxctl.getLsbD 0 && !c.trap.tl
  let post := if trapBrc then [⟨.brcoll, 0⟩] else x.post.toList
  let c := if r.clash then r.ctx.orCtxst CtxFlag.brc else r.ctx
  let c := { c with pc := r.next }.sampleStop
  let limit := (s.part (partOf c.id.vf)).limit ≤ c.ctl.sinceTest
  let s := s.setCtx n { c with life := { c.life with returning := x.eret } }
  let s := if r.tests x then s.testStop n else if limit then (s.testStop n).passCycles (coreOf n) 1 else s
  let causes := x.cfaults.take 1
  let s :=
    if x.bound.isEmpty then s.boundary n (causes ++ post) r.next
    else s.onCtx n fun c => { c with after := causes, afterPost := post }
  (s.tryReturn n).settlePort n

/-- A bundle issued: `t` is the state after its ops. A `halt` takes effect once the bundle's bound ops are over (R140); of
the other causes of that bundle none is delivered. (DEDUCED: log 17, DEDUCED: log 20, DESIGN CHOICE: log 118) -/
def State.commit (t : State) (n : Nat) (ops : List BundleOp) : State :=
  let x := t.iss
  let regs := (t.ctx n).regs
  let t := { t with iss := {} }
  let t := t.onCtx n fun c => ((c.countBundle x).startRoutines x regs).settleBbw
  let t := match x.bind with
    | some (opc, b) => t.applyBind n opc b
    | none => t
  if !x.halt then t.endBundle n x ops
  else if x.bound.isEmpty then t.haltContext n
  else t.onCtx n fun c => { c with life := { c.life with halting := true } }

/-! ## One decision of a core's selector (R78, R97, R99, R101, R103) -/

/-- A context becomes STALLED (R20, R109). -/
def State.stall (s : State) (n : Nat) (w : Wait) (late : Bool) : State :=
  s.onCtx n fun c =>
    { c with life := { c.life with state := .stalled, wait := w, stopping := c.life.stopping || c.life.stop.isSome }
             ctl := { c.ctl with landLate := if late then c.ctl.landLate + 1 else c.ctl.landLate } }

/-- The cycles that a bundle takes on a core (R78). (DESIGN CHOICE: log 24) -/
def bundleCycles (core : Nat) (ops : List BundleOp) : Nat :=
  if isLean core then
    max 1 (max (ops.filter fun o => o.cls == .v).length (ops.filter fun o => o.cls == .c).length)
  else 1

def BundleOp.isBound (o : BundleOp) : Bool :=
  match o.i with
  | .boundOp _ _ _ => true
  | _ => false

/-- May a bundle issue beside the primary's (R103)? -/
def mergeable (core : Nat) (first ops : List BundleOp) : Bool :=
  ops.all (fun o => !o.isBound && first.all fun p => p.slot != o.slot) &&
    bundleCycles core first = 1 && bundleCycles core ops = 1

/-- The intake contexts that may issue beside a primary, in the order they are tried: round-robin among those of the VF
(R102, R103). (DESIGN CHOICE: log 112) -/
def State.intakes (s : State) (core n : Nat) : List Nat :=
  rotate (s.share core (s.ctx n).id.vf).lastMerged ((slotsOf core).filter fun m =>
    let c := s.ctx m
    m != n && c.id.vf == (s.ctx n).id.vf && c.id.kind == .data && s.isReady m && c.routines.isEmpty && !c.life.returning)

/-- A secondary bundle issued beside the primary's, if one may (R103, R104): it must be able to issue on the state at the
end of the last cycle, `old`, with the primary's waits subtracted (R101), and on the state that the primary leaves.
The secondary does not become the slot that issued last in its VF. (DEDUCED: log 22, DESIGN CHOICE: log 147) -/
def State.mergeNext (s old : State) (core : Nat) (first : List BundleOp) : List Nat → State
  | [] => s
  | m :: rest =>
    match old.attempt m, s.attempt m with
    | .issue _ _, .issue ops t =>
      if mergeable core first ops then
        let vf := (s.ctx m).id.vf
        ((t.commit m ops).chargeVf core vf 1).onSel core fun x => x.onShare vf fun h =>
          { h with issuedNow := if h.issuedNow.contains m then h.issuedNow else h.issuedNow ++ [m], lastMerged := some m }
      else s.mergeNext old core first rest
    | _, _ => s.mergeNext old core first rest

/-- A core's cycle counter set back to the cycle of an issue, and what was counted since. -/
def State.atCycle (s : State) (core : Nat) (x : Dword) : State × Nat :=
  (s.onCore core fun k => { k with cycle := x }, ((s.core core).cycle - x).toNat)

/-- A primary bundle issued, with the secondary of the same cycle, its cycles and its charge; a `yield` ends the turn,
after the routines that no turn's end cuts off (R139, R349). -/
def State.issueBundle (s t : State) (core n : Nat) (ops : List BundleOp) : State :=
  let cost := bundleCycles core ops
  let yields := t.iss.yield
  let (t, test) := ((t.takeTurn core n).commit n ops).atCycle core (t.core core).cycle
  let t := t.mergeNext (s.takeWaits n ops) core ops (s.intakes core n)
  let t := (t.passCycles core (test + cost)).noteIssue core n
  let bound := (t.ctx n).routines.any fun r => r.bind.steps ≤ 256
  let t := t.chargeTurn core n cost (!bound)
  if !yields then t
  else if bound then t.onSel core fun x => { x with left := 0 }
  else t.endTurn core n

/-- The issue step of a context whose turn it is, after the switch cycle of R101; a stalled attempt passes no cycle. That a
context counts as ready until its turn finds it stalled is the model's choice. (DEDUCED: log 21, DESIGN CHOICE: log 113) -/
def State.issueContext (s : State) (core n : Nat) : State :=
  let now := (s.core core).cycle
  let took := fun (s : State) => (s.takeTurn core n).onSel core fun x => { x with lastCtx := some n }
  let s := if (s.core core).sel.lastCtx.any fun m => m != n then s.passCycles core 1 else s
  let s := s.replayImmed n
  match s.attempt n with
  | .stall w late s => ((s.atCycle core now).1.stall n w late).endTurn core n
  | .trap t s => ((took s).takeTrap n t (s.ctx n).pc).passCycles core 1
  | .freeze r va s => s.freezeCtx n r va 0
  | .hold s => ((took s).passCycles core 1).chargeTurn core n 1 true
  | .issue ops t => s.issueBundle t core n ops

/-- A routine of the context whose turn it is: what it waits for stalls the context; otherwise it starts, or executes a
step (R344, R349, R354). -/
def State.runRoutine (s : State) (core n : Nat) (r : Routine) : State :=
  let next := fun (o : Host.Outcome State Fault Refusal) => match o with
    | .next t => t
    | _ => s
  match s.routineWait n with
  | .none => if r.started then next (execMicroStep n s) else next (execBoundRoutineStart n s)
  | w =>
    let s := if w = .courier && s.mustAsk n r then s.wantPage n r else s
    (s.stall n w false).endTurn core n

/-- A core's selector decides one cycle; a round that may start does (R98 to R101). -/
def State.issueCore (s : State) (core : Nat) : State :=
  let s := if s.mayStartRound core then s.startRound core else s
  match s.turnOf core with
  | none => (s.settleRound core).passCycles core 1
  | some n =>
    match (s.ctx n).routines with
    | r :: _ => s.runRoutine core n r
    | [] => s.issueContext core n

/-! ## Waking (R20) -/

/-- Has the condition that a STALLED context waits on cleared? -/
def State.mayWake (s : State) (n : Nat) : Bool :=
  let c := s.ctx n
  if c.life.state != .stalled then false
  else match c.routines with
    | r :: _ => (!c.life.stopping || c.mustRun) && (s.routineWait n = .none || (s.routineWait n = .courier && s.mustAsk n r))
    | [] =>
      if c.life.returning then c.returnWait = .none || c.trap.list.any (·.immed)
      else !c.life.stopping && match s.attempt n with
        | .stall _ _ _ => false
        | _ => true

/-- A STALLED context goes on. -/
def State.wake (s : State) (n : Nat) : State :=
  ((s.beforeReady n).onCtx n fun c => { c with life := { c.life with state := .ready, wait := .none } }).tryReturn n

end Sys2Proof.Machine
end

