-- ==== Sys2Proof/Machine/Engine.lean ====
section
/-!
DEFINITION. The device as one machine: the work that its engines have to do, in the order in which `step` takes it, and
what a step does when no engine has any. The manual fixes no order among engines (R10); an agenda can ask for any other.
-/
namespace Sys2Proof.Machine
open Sys2Proof

/-! ## The work of the engines -/

/-- A piece of work. -/
abbrev Work := State → Host.Outcome State Fault Refusal

/-- A load that a full ember table refused is sent again, once it is no longer refused (R308). -/
def resendLoad (n id : Nat) : Work := fun s =>
  match execEmberLoadResend n id s with
  | .next t =>
    match execFarLoadPerform n id (List.range 64) t with
    | .next u => if (u.entry n id).any fun r => r.stage == .refused || r.stage == .pending then .next s else .next t
    | _ => .next s
  | _ => .next s


/-- The step that an entry of a context's port may be ready for. -/
def PortReq.moves (n : Nat) (r : PortReq) : List Work :=
  let all := (List.range 64)
  (match r.stage with
    | .performed => [execFarStoreAck n r.id]
    | .refused => [resendLoad n r.id]
    | .waiting => [execWtaTimeout n r.id]
    | .faulted => if r.isRed then [execRedlogAppend n r.id] else [execFarFaultArrival n r.id]
    | .pending =>
      match r.work with
      | .signal _ _ => [execSemaphoreSignal n r.id]
      | .op i =>
        match i with
        | .ldf _ _ | .vldf _ _ | .pref _ _ => [execFarLoadPerform n r.id all]
        | .stf _ _ | .vstf _ _ | .cflush _ _ => [execFarStorePerform n r.id all]
        | .amo _ _ => [execAmoPerform n r.id]
        | .cas _ _ => [execCasPerform n r.id]
        | .red _ _ => [execRedPerform n r.id]
        | .wta _ _ => [execWtaArrival n r.id]
        | .bar _ _ | .barr _ _ => [execBarrierArrival n r.id]
        | .gleave _ _ => [execGleavePerform n r.id]
        | .hsigr _ _ => [execHsigrDeliver n r.id]
        | .emake _ _ => [execEmakePerform n r.id]
        | .efill _ _ => [execEfillPerform n r.id]
        | .efail _ _ => [execEfailPerform n r.id]
        | .earm _ _ => [execEarmPerform n r.id]
        | .epeek _ _ => [execEpeekPerform n r.id]
        | .estat _ _ => [execEstatPerform n r.id]
        | .itake _ _ => [execItakePerform n r.id]
        | .igive _ _ => [execIgivePerform n r.id]
        | .istat _ _ => [execIstatPerform n r.id]
        | .spost _ _ => [execEnvelopePrepareSend r.eid]
        | _ => []
    | _ => []) ++ if r.cls.isSome && !r.isHint && r.stage == .pending then [execTlbMiss (.port n r.id)] else []

/-- What a context gives the engines to do. -/
def Ctx.moves (n : Nat) (c : Ctx) : List Work :=
  (if c.mat.queue.isEmpty then [] else [execArrayOpPerform n]) ++
  (c.port.landings.filter fun l => !l.arrived).map (fun l => execLandingDataArrival n l.id) ++
  c.port.queue.flatMap (PortReq.moves n) ++
  (if c.life.state == .stalled && c.life.wait == .pageFault then [execTlbMiss (.fetch n)] else []) ++
  (if c.life.state == .draining then [execSlotDrainComplete n] else []) ++
  if c.life.stop.isSome then [execSaveComplete n] else []

/-- What the Courier of a core has to do. -/
def Core.moves (core : Nat) (k : Core) : List Work :=
  ((k.fetches.map (·.vf)).eraseDups).flatMap fun v =>
    [execCourierFetch core v, execCourierFetchComplete core v, execTlbMiss (.courier core v)]

/-- What the copy engines have to do for a job. -/
def Job.moves (j : Job) : List Work :=
  if j.step.isSome then [execCollectiveMicroStep j.id, execTlbMiss (.beat j.id 0), execTlbMiss (.beat j.id 1)]
  else
    let next := (j.nextBeat).getD j.beatList.length
    j.beats.flatMap (fun b => [execBeatComplete j.id b.num [], execTlbMiss (.beat j.id b.num)]) ++
      [execBeatStart j.id next, execTlbMiss (.beat j.id next)]

/-- What a packet on the device waits for: its processing here, or a port. -/
def packetMoves (self id : Nat) (k : Packet) : List Work :=
  if k.dst ≠ self then (List.range 14).map fun p => execPacketForward id p none
  else
    match k.msg with
    | .remote _ => [execRemoteRequestReceive id]
    | .seal _ => [execSeal id]
    | .sealack _ => [execSealack id]
    | .fail _ _ _ => [execFail id]
    | .prepare _ _ => [execPrepare id]
    | .ready _ _ => [execReady id]
    | .publish _ => [execPublish id]
    | .discard _ _ => [execDiscard id]
    | .done _ _ => [execDone id]
    | .query _ _ => [execQuery id]
    | _ => []

/-- What a frame that a port has delivered waits for. -/
def frameMoves (f : Nat × Nat × Nat × EthBody) : List Work :=
  match f.2.2.2 with
  | .write _ => [execRdmaWrite f.1]
  | .read _ => [execRdmaRead f.1]
  | .uet _ => [execUetPacketReceive f.1]
  | _ => []

/-- What the management core has to do for a VF. -/
def Vf.moves (vf : Nat) (v : Vf) : List Work :=
  (if v.armed.isSome then [execLoad vf, execLaunch vf, execUnload vf, execUnloadForce vf] else []) ++
    v.starts.map (fun b => execStartRecordArrival vf (Start.num ⟨b⟩)) ++
    if v.reset.isSome then [execResetDrainComplete vf] else []

/-- Everything an engine may have to do, in the order in which it is taken. -/
def State.moves (s : State) : List Work :=
  s.ctxs.flatMap (fun p => p.2.moves p.1) ++
  s.sets.flatMap (fun p => p.2.released.map fun n => execBarrierRelease n p.1) ++
  s.walks.flatMap (fun w => match w.stage with
    | .walking => [execWalkComplete w.id]
    | .faulted => [execFaultRecordPost w.id]
    | .posted => []) ++
  s.cores.flatMap (fun p => p.2.moves p.1) ++
  s.jobs.flatMap Job.moves ++
  s.packets.flatMap (fun p => packetMoves s.fabxy p.1 p.2) ++
  s.frames.flatMap frameMoves ++
  s.outsideMisses.map (fun p => execTlbMiss (.outside p.1 p.2)) ++
  s.invals.map (fun x => execInvalidateComplete x.1 x.2.1 x.2.2) ++
  s.vfs.flatMap fun p => p.2.moves p.1

/-- The state without the recency of its translations and L2 lines, which a held access may touch without coming further. -/
def State.work (s : State) : State :=
  { s with tlbs := [], l2 := {}, cores := s.cores.map fun p => (p.1, { p.2 with tlb := [] }) }

/-- The first piece of work of a list that comes further, done. -/
def State.firstMove (s : State) : List Work → Option State
  | [] => none
  | w :: rest =>
    match w s with
    | .next t => if s.work = t.work then s.firstMove rest else some t
    | _ => s.firstMove rest

/-- What the engines do next. -/
def State.engineMove (s : State) : Option State := s.firstMove s.moves

/-! ## Cores -/

/-- A context whose wait is over. -/
def State.nextWake (s : State) : Option Nat := (s.ctxs.map (·.1)).find? s.mayWake

/-- The core that issues next: in rotation, among those with something to issue. -/
def State.nextCore (s : State) : Option Nat :=
  let ready := (((s.ctxs.map (·.1)).filter s.isReady).map coreOf).eraseDups
  let busy := (List.range 256).filter fun k => ready.contains k && ((s.turnOf k).isSome || s.mayStartRound k)
  ((busy.filter fun k => s.turn ≤ k).head?).or busy.head?

/-- A cycle passes on every core that has a context, where nothing else happens. -/
def State.idleCycle (s : State) : State :=
  ((s.ctxs.map fun p => coreOf p.1).eraseDups).foldl (fun s k => s.passCycles k 1) s

/-- A line of an L1 written back and dropped for want of room (R196). -/
def State.evictLine (s : State) (core line : Nat) : State :=
  let ls := (s.core core).l1.filter fun l => l.line == line && (l.dirty.isEmpty || !s.isHeld (64 * line) 64)
  let s := ls.foldl (fun s l => s.writeBack core l) s
  s.onCore core fun k => { k with l1 := k.l1.filter fun l => !ls.any fun x => x.vf == l.vf && x.line == l.line }

/-! ## One step -/

/-- An uncorrectable error arises in the data of a place. -/
def State.corruptAt (s : State) : Place → State
  | .memory pa => { s with bad := pa :: s.bad }
  | .scratch core a => s.onCore core fun k => { k with bad := a :: k.bad }
  | .tile n t o => s.onCtx n fun c => { c with mat := { c.mat with bad := (8192 * t + o) :: c.mat.bad } }
  | .cell n a r k => s.onCtx n fun c => { c with mat := { c.mat with bad := (98304 + (4096 * a + 64 * r + k)) :: c.mat.bad } }
  | .staging eid => { s with dests := s.dests.map fun d => if d.eid = eid then { d with bad := true } else d }

/-- The head of the agenda carried out; `s` is the state with the rest of the agenda. (DESIGN CHOICE: log 7) -/
def State.carryOut (s : State) : Move → Host.Outcome State Fault Refusal
  | .event i => if i.op?.isSome then .fault .opOutsideBundle else exec i s
  | .issue core => .next (s.issueCore core)
  | .idle core n => .next (s.passCycles core n)
  | .evict core line => .next (s.evictLine core line)
  | .corrupt place => .next (s.corruptAt place)

/-- What the device does of itself: an engine's work, a context that goes on, a bundle, or the passing of a cycle. -/
def State.run (s : State) : State :=
  match s.engineMove with
  | some t => t
  | none =>
    match s.nextWake with
    | some n => s.wake n
    | none =>
      match s.nextCore with
      | some k => { s.issueCore k with turn := (k + 1) % 256 }
      | none => s.idleCycle

/-! ## Placing one instruction -/

/-- A context slot that may issue at once. -/
def Ctx.fresh (c : Ctx) : Ctx :=
  { c with
    life := { state := .ready, seq := c.life.seq }
    id := { c.id with kind := .ord }
    port := { c.port with departs := [] }
    lv0 := { c.lv0 with deferred := [] }
    lv1 := { c.lv1 with deferred := [] }
    binds := []
    routines := [] }

/-- The bytes of the first 16 of a line from its address on stored in memory, and their page made executable in the
micro-TLB of core 0. -/
def State.placeWord (s : State) (bs : List Byte) : State :=
  let c := s.ctx 0
  let base := c.pc.toNat / 2 ^ 16 * 2 ^ 16
  let page : TlbEntry := { vf := c.id.vf, va := base, size := 2 ^ 16, pa := 0, bits := 0b010111#6 }
  { (s.onCore 0 fun k =>
      { k with l1 := [], tlb := page :: k.tlb.filter fun e => !e.covers c.id.vf base, sel := { k.sel with turns := [0], holder := none, lastCtx := none } }) with
    mem := sparseSetList 0 (c.pc.toNat % 2 ^ 16) bs s.mem }

/-- A state in which context slot 0 of core 0 is about to issue a bundle of the one op given. -/
def State.withOp (s : State) (w : Op) : State :=
  { (s.setCtx 0 (s.ctx 0).fresh).placeWord (bytesLE 16 (w ||| 0x100#128)) with agenda := [.issue 0] }

end Sys2Proof.Machine
end

