-- ==== Sys2Proof/Machine/Step.lean ====
section
/-!
DEFINITION. One step of the device, and the placing of one instruction where the next step fetches.
-/
namespace Sys2Proof.Machine
open Sys2Proof

/-- One step: the agenda's next move if it holds one, otherwise what the device does of itself. (DESIGN CHOICE: log 4) -/
def step (s : State) : Host.Outcome State Fault Refusal :=
  match s.agenda with
  | m :: rest => { s with agenda := rest }.carryOut m
  | [] => .next s.run

/-- The state with an instruction as the only op of the next bundle to issue: context slot 0 of core 0 is READY, has the
turn, and can fetch the word from memory, in which its STOP bit is set; the next step is an issue on core 0.
(DESIGN CHOICE: log 8) -/
def State.withFetchWord (s : State) (nbits w : Nat) : State := s.withOp (BitVec.ofNat 128 (w % 2 ^ nbits))

end Sys2Proof.Machine
end

