-- ==== Sys2Proof/Safety.lean ====
section
/-!
DEFINITION. What counts as a sound state and a safe run, in the terms that statements use.
-/
namespace Sys2Proof.Machine
open Sys2Proof

/-! ## Sound states and frames -/

/-- HBM is held in canonical form: addresses strictly rising, no byte that an unlisted address reads as. -/
def State.MemOk (s : State) : Prop := Memory.wf s.mem

/-- Every byte of HBM reads in `t` as in `s`. -/
def State.sameMemory (s t : State) : Prop := ∀ x, t.byte x = s.byte x

/-- Every byte of HBM but the `n` from `a` on reads in `t` as in `s`. -/
def State.sameOutside (s t : State) (a n : Nat) : Prop := ∀ x, x < a ∨ a + n ≤ x → t.byte x = s.byte x

/-- The register files of every context are in `t` as in `s`. -/
def State.sameRegs (s t : State) : Prop := ∀ n, (t.ctx n).regs = (s.ctx n).regs

/-- `t` is `s` but for what the issue of one op may leave behind: results owed at due bundles, signals owed, and the
working fields of the bundle. -/
def State.onlyOwes (s t : State) : Prop :=
  t = { s with ctxs := t.ctxs, iss := t.iss } ∧ (∀ m, m ≠ s.iss.cur → t.ctx m = s.ctx m) ∧
    (let c := s.cur
     let d := t.ctx s.iss.cur
     d = { c with
       lv0 := { c.lv0 with deferred := d.lv0.deferred }
       lv1 := { c.lv1 with deferred := d.lv1.deferred }
       port := { c.port with queue := d.port.queue, nextId := d.port.nextId } })

/-! ## Ops -/

/-- The op is the last of the context's port, as it was issued, with at most its signal behind it. -/
def State.queued (s t : State) (i : Instr) (a : Dword) : Prop :=
  ∃ r rest, (t.ctx s.iss.cur).port.queue = s.cur.port.queue ++ r :: rest ∧ r.work = .op i ∧ r.addr = a ∧
    r.stage = .pending ∧ r.seq = s.cur.life.seq ∧ r.slot = s.iss.slot ∧
    ∀ x ∈ rest, ∃ h n, x.work = .signal h n

/-- The op is in the port, and its result is pending at `due` bundles from its own. -/
def State.queuedLanding (s t : State) (i : Instr) (a : Dword) (due : Nat) : Prop :=
  s.queued t i a ∧
    ∃ r ∈ (t.ctx s.iss.cur).port.queue, r.work = .op i ∧
      ∃ e ∈ (t.ctx s.iss.cur).level.deferred, e.eff = .landing r.id ∧ e.due = s.cur.level.count + due

/-- A landing result that has its value as the op issues: due at `due` bundles, to be written to s(d), and arrived already where
the landing buffer has an entry for it (R200). -/
def State.landsAt (s t : State) (d : Nat) (v : Dword) (due : Nat) : Prop :=
  ∃ l ∈ (t.ctx s.iss.cur).port.landings, l.words = [(d, v)] ∧ (s.cur.landingRoom 1 = true → l.arrived = true) ∧
    ∃ e ∈ (t.ctx s.iss.cur).level.deferred, e.eff = .landing l.id ∧ e.due = s.cur.level.count + due

/-- The elements of field A, B and C of a V op. -/
def elemsA (s : State) (h : Hdr) (f : Tri) : List Nat := elemSource s.cur h.typ f.a
def elemsB (s : State) (h : Hdr) (f : Tri) : List Nat := elemSource s.cur h.typ f.b
def elemsC (s : State) (h : Hdr) (f : Tri) : List Nat := elemSource s.cur h.typ f.c

/-- The lanes of v(D) that an element-wise result writes, and its flags, owed at a due bundle. -/
def elemEffect (s : State) (h : Hdr) (f : Tri) (rs : List Elem) : Effect :=
  .vector f.d.toNat (elementWise h.typ (laneMask s.cur h) rs).1 (elementWise h.typ (laneMask s.cur h) rs).2

/-- Lanes of v(D) written whole under the lane guard. -/
def wholeLanes (s : State) (h : Hdr) (f : Tri) (ls : List Word) : Effect :=
  .vector f.d.toNat (laneWrites (laneMask s.cur h) ls) 0

/-- Operands a and b of R115. -/
def operandA (s : State) (h : Hdr) (f : Tri) : Int := typedOperand h.typ (s.cur.s f.a.toNat).toNat
def operandB (s : State) (h : Hdr) (f : Tri) : Int := typedOperand h.typ (scalarB s.cur f 1).toNat

/-- The write of R115: Fit of an exact result, SAT where it clamped, and DZ. (DEDUCED: log 26) -/
def fitEffect (h : Hdr) (f : Tri) (sat : Bool) (x : Int) (dz : Bool) : Effect :=
  .scalar f.d.toNat (fit h.typ sat x).1
    ((if (fit h.typ sat x).2 then CtxFlag.sat else 0) ||| (if dz then CtxFlag.dz else 0))

/-! ## Events at a quiet port -/

/-- The entry `r` is the only work of the port of context `n`, which is READY, and nothing else stands in its way: no walk,
no hold, no line in its core's L1, no landing. -/
def State.quiet (s : State) (n : Nat) (r : PortReq) : Prop :=
  (s.ctx n).port.queue = [r] ∧ (s.ctx n).trap.list = [] ∧ (s.ctx n).life.state = .ready ∧ (s.ctx n).life.mute = false ∧
    (s.ctx n).port.landings = [] ∧ (s.ctx n).lv0.deferred = [] ∧ (s.ctx n).lv1.deferred = [] ∧
    r.stage = .pending ∧ r.landing = false ∧ r.done = [] ∧ r.fails = [] ∧
    s.walks = [] ∧ s.dests = [] ∧ s.waiters = [] ∧ (s.core (coreOf n)).l1 = []

/-- One TLB entry translates every byte of the access and permits it: to consecutive physical addresses from `pa` on, in an
ember region or outside. -/
def State.mapsTo (s : State) (n : Nat) (r : PortReq) (pa : Nat) (emb : Bool) : Prop :=
  0 < r.size ∧ ∃ e : TlbEntry,
    r.need.refused e.bits = none ∧ pa = e.pa + (r.addr.toNat - e.va) ∧
      ∀ off, off < r.size →
        s.tlbHit (corePath (coreOf n)) (s.ctx n).id.vf (r.addr.toNat + off) = some e ∧
          (e.bits.getLsbD 5 && (s.region (s.ctx n).id.vf (r.addr.toNat + off)).isSome) = emb

/-- The result of an access is on its way to the landing buffer. -/
def State.answered (s t : State) (n : Nat) (r : PortReq) (ws : List (Nat × Dword)) : Prop :=
  (t.ctx n).port.queue = [] ∧ (t.ctx n).port.landings = [{ id := r.id, words := ws, wta := r.isWta }] ∧
    (t.ctx n).regs = (s.ctx n).regs

/-- A later fault of the access is on its way to the port. -/
def State.faults (t : State) (n : Nat) (r : PortReq) (f : Trapped) : Prop :=
  (t.ctx n).port.faults.getLast? = some ⟨r.id, f⟩ ∧ (t.entry n r.id).any (fun q => q.stage == .faulted) = true

end Sys2Proof.Machine
end

