-- ==== Sys2Proof/WellFormed.lean ====
section
/-!
DEFINITION. Which instructions are well-formed: an op that passes every check R90 makes of one op by itself. An event
is no encoding, and every event is well-formed; whether it can happen is a matter of the state.
-/
namespace Sys2Proof

/-- The form bits that split one major opcode into two constructors stand as the constructor says. -/
def Instr.formOk : Instr → Bool
  | .call _ f => !f.fn.getLsbD 0
  | .callIndirect _ f => f.fn.getLsbD 0
  | .ext _ f => !f.imm.getLsbD 13
  | .exts _ f => f.imm.getLsbD 13
  | .vmovsExtract _ f => !f.fn.getLsbD 3
  | .vmovsInsert _ f => f.fn.getLsbD 3
  | .mrdTile _ f => !f.fn.getLsbD 3
  | .mrdVector _ f => f.fn.getLsbD 3
  | .boundOp opc _ _ => 0xC0 ≤ opc.toNat
  | _ => true

/-- No check of R90's step 3 fails, and the constructor is the one its own bits select. -/
def Instr.wellFormed (i : Instr) : Bool := i.formOk && (checkOp i.freeClass i).isNone

end Sys2Proof
end

