-- ==== Sys2Proof/Certificates/Slice0/Obligations.lean ====
section
/-!
DEFINITION. The statements for the provers, from the numbered rules of the manual.
-/

open Sys2Proof Sys2Proof.Machine

/-! ## Reset, decoding, the step -/

/-- R14, R16, R478: after reset no context exists, HBM reads zero, and the device is not READY. That no VF and no job exists
is the model's choice (log 1), and that unwritten HBM reads zero its reading of the scrub (log 2). -/
def Obligations.ResetState : Prop :=
  (∀ n, (State.reset.ctx n).life.state = .free) ∧ (∀ a, State.reset.byte a = 0) ∧ State.reset.ready = false ∧
    State.reset.jobs = [] ∧ (∀ v, (State.reset.vf v).state = .free)

/-- The memory of the reset state is in canonical form. -/
def Obligations.ResetMemoryForm : Prop := State.reset.MemOk

/-- Every step keeps the memory in canonical form, from every state that has it. -/
def Obligations.StepKeepsMemoryForm : Prop := ∀ s t : State, s.MemOk → step s = .next t → t.MemOk

/-- Decoding an encoded well-formed op gives the op back, whatever its operands. -/
def Obligations.EncodingRoundTrip : Prop :=
  ∀ i : Instr, i.op?.isSome = true → i.wellFormed = true → parseOp (encode i) = some i

/-- The two words of the worked encoding (Table 3.12), and three written out from Tables 3.1, 3.3, 3.4 and 3.6, decode to
the ops they stand for: a lane-guarded `vadd`, an acquiring `ldf`, `li s3, 0x401`, a `br` two ops back, and an `mma`. -/
def Obligations.DecodesWords : Prop :=
  parseOp 0x000000000000000182848000020C4430#128 = some (.vadd
    { ty := 8, sinc := 0, ssem := 0, wcnt := 2, wsem := 12, gneg := 0, grd := 0b100010, stop := 0 }
    { imm := 0, fn := 0, c := 0, b := 6, a := 5, d := 4 }) ∧
  parseOp 0x0800000000CA20000A09312800000186#128 = some (.ldf
    { ty := 3, sinc := 1, ssem := 40, wcnt := 0, wsem := 0, gneg := 0, grd := 0, stop := 1 }
    { z1 := 0, order := 1, scale := 0, disp := 0, due := 12, fn := 0xA2, z2 := 0, b := 0, a := 20, d := 9 }) ∧
  parseOp 0x00000000000000020083000000000110#128 = some (.li
    { ty := 0, sinc := 0, ssem := 0, wcnt := 0, wsem := 0, gneg := 0, grd := 0, stop := 1 } { z := 0, imm := 0x401, d := 3 }) ∧
  parseOp 0x000fffffffe000000000000000000119#128 = some (.br
    { ty := 0, sinc := 0, ssem := 0, wcnt := 0, wsem := 0, gneg := 0, grd := 0, stop := 1 }
    { z1 := 0, off := -2, fn := 0, z2 := 0, a := 0, z3 := 0 }) ∧
  parseOp 0x0000000201500280c101400000000160#128 = some (.mma
    { ty := 4, sinc := 0, ssem := 0, wcnt := 0, wsem := 0, gneg := 0, grd := 0, stop := 1 }
    { z1 := 0, k := 64, eb := 21, fn := 0, ea := 20, b := 3, a := 2, d := 1 })

/-- A step that the agenda gives an event carries out that instruction; a step in which a core issues runs, through `exec` and
in memory order, the ops that the entry line of the context whose turn it is decodes to, once the checks and waits of its
bundle pass, the ops of its list that go before the bundle having been sent again (R436); what follows is the end of the bundle
(R72, R73, R77, R90). A line whose first op has STOP set decodes to that
op alone. That the head of the agenda is carried out first (log 4), that the ops of a bundle run in memory order over the bundle's
working fields (log 5), and that the list is sent again before the bundle and may wait (log 136), are the model's choices. -/
def Obligations.StepRunsDecodedOps : Prop :=
  (∀ (s : State) (i : Instr) (rest : List Move), s.agenda = .event i :: rest → i.op?.isSome = false →
    step s = exec i { s with agenda := rest }) ∧
  (∀ (s : State) (rest : List Move) (core n : Nat) (s1 s2 : State) (bs : List Byte) (ops : List BundleOp),
    s.agenda = .issue core :: rest →
    let a : State := { s with agenda := rest }
    let b := a.replayImmed n
    let c := b.ctx n
    let t := ({ s2.takeWaits n ops with iss := bundleIssue n (s2.ctx n) ops }).runOps ops
    a.mayStartRound core = false → a.turnOf core = some n → (a.ctx n).routines = [] → (a.core core).sel.lastCtx = some n →
    c.life.returning = false → (∀ r ∈ c.trap.list, r.immed = false) → c.port.departs = [] → c.unsettled = false →
    c.life.fetchFault = none →
    b.landDue n = .landed s1 → s1.fetchLine n = .line s2 bs → (s2.ctx n).checkBundle (lineOps c.pc bs) = .ok ops →
    (∀ o ∈ ops, s2.meetsPending n o = false) → t.iss.fault = none → (∀ o ∈ ops, s2.opWait n o = .none) →
    s2.waitMet n ops = true →
    s2.isHeldAtIssue t n ops = false → step s = .next (b.issueBundle t core n ops)) ∧
  (∀ (s t : State) (o : BundleOp) (ops : List BundleOp),
    exec o.i (s.onIss fun x => { x with slot := o.slot, pos := o.pos, opAddr := o.addr }) = .next t →
    s.runOps (o :: ops) = t.runOps ops) ∧
  ∀ (c : Ctx) (w : Op) (more : List Op) (i : Instr) (cls : SlotClass), w.getLsbD 8 = true → parseOp w = some i →
    c.checkWord 0 0 w = .ok (i, cls) →
    let o : BundleOp := { i := i, cls := cls, slot := cls.base, pos := 0, addr := c.pc }
    semFault c o = none → c.checkBundle (w :: more) = .ok [o]

/-- R124, R126: where fetch goes after a bundle: the S-slot transfer first, then the innermost active level whose END is an
address of the bundle, then the V-slot branch, then the next bundle; a last iteration leaves its level inactive, and fetch goes
on as the next level outward whose END it is says, or the V-slot branch, or to the next bundle. A V-slot branch clashes with a
transfer or a back edge to another address. -/
def Obligations.BranchResolution : Prop :=
  ∀ (x : Issue) (addrs : List Dword) (c : Ctx) (u v : Dword) (k : Nat), c.level.loops.length = 6 →
    let r := x.resolve addrs c
    let ends := fun (j : Nat) => (c.loop j).active = true ∧ (c.loop j).stop ∈ addrs
    let innermost := k < 6 ∧ ends k ∧ ∀ j, k < j → j < 6 → ¬ ends j
    (x.ts = some u → r.next = u ∧ r.taken = true ∧ r.ctx = c ∧ (r.clash = true ↔ ∃ y, x.tv = some y ∧ y ≠ u)) ∧
    (x.ts = none → innermost → (c.loop k).lc ≠ 1 →
      r.next = (c.loop k).start ∧ r.back = true ∧ (r.ctx.loop k).lc = (c.loop k).lc - 1 ∧
        (r.clash = true ↔ ∃ y, x.tv = some y ∧ y ≠ (c.loop k).start)) ∧
    (x.ts = none → innermost → (c.loop k).lc = 1 → (r.ctx.loop k).active = false ∧
      ((∀ j, j < k → ¬ ends j) → r.next = x.tv.getD x.next ∧ r.back = false ∧ r.clash = false) ∧
      ∀ i, i < k → ends i → (∀ j, i < j → j < k → ¬ ends j) → (c.loop i).lc ≠ 1 → r.next = (c.loop i).start ∧ r.back = true) ∧
    (x.ts = none → x.tv = some v → (∀ j, j < 6 → ¬ ends j) → r.next = v ∧ r.taken = true ∧ r.clash = false) ∧
    (x.ts = none → x.tv = none → (∀ j, j < 6 → ¬ ends j) → r.next = x.next ∧ r.taken = false)

/-- R80, R81: an op whose whole-op guard is false leaves the state as it was, its signal included. -/
def Obligations.GuardFalseDoesNothing : Prop :=
  ∀ (i : Instr) (opc : BitVec 8) (h : Hdr) (p : Payload) (s : State),
    i.op? = some (opc, h, p) → guardTrue s.cur h = false → exec i s = .next s

/-- R43, R77: no op writes a register of any context or a byte of HBM as it issues; its results land at their due bundles, and
its far accesses are performed later. -/
def Obligations.OpsLeaveRegistersAndMemory : Prop :=
  (∀ (i : Instr) (s t : State), i.op?.isSome = true → exec i s = .next t → t.iss.fault = none → s.sameRegs t) ∧
  (∀ (i : Instr) (s t : State), i.op?.isSome = true → exec i s = .next t → t.iss.fault = none → s.sameMemory t)

/-- What an op with timed results leaves behind: results owed, a signal owed, the bundle's working fields, and nothing
else, in this or any other context. -/
def Obligations.TimedFrame : Prop :=
  ∀ (s : State) (h : Hdr) (d : Nat) (e : Effect), s.onlyOwes (s.timed h d e)

/-! ## S-slot ops -/

/-- Table 4.5: the typed ops owe Fit(x) of their exact result x at their due bundle. That the sticky bits SAT and DZ are owed with
the result, and set as it lands, is the model's reading of R113 (log 26). -/
def Obligations.ScalarTypedResults : Prop :=
  ∀ (h : Hdr) (f : Tri) (s : State), guardTrue s.cur h = true →
    let a := operandA s h f
    let b := operandB s h f
    let w := Ty.width h.typ
    let n := (b % 2 ^ w).toNat % w
    let pa := (a % 2 ^ w).toNat
    let pb := (b % 2 ^ w).toNat
    exec (.add h f) s = .next (s.timed h 1 (fitEffect h f f.sat (a + b) false)) ∧
    exec (.sub h f) s = .next (s.timed h 1 (fitEffect h f f.sat (a - b) false)) ∧
    exec (.mul h f) s = .next (s.timed h 2 (fitEffect h f f.sat (a * b) false)) ∧
    exec (.mulh h f) s = .next (s.timed h 2 (fitEffect h f false (a * b / 2 ^ w) false)) ∧
    exec (.div h f) s = .next (s.timed h 8
      (if b = 0 then fitEffect h f f.sat (if Ty.signed h.typ then -1 else 2 ^ w - 1) true
       else fitEffect h f f.sat (a.tdiv b) false)) ∧
    exec (.rem h f) s = .next (s.timed h 8
      (if b = 0 then fitEffect h f false a true else fitEffect h f false (a - b * a.tdiv b) false)) ∧
    exec (.and h f) s = .next (s.timed h 1 (fitEffect h f false (pa &&& pb : Nat) false)) ∧
    exec (.or h f) s = .next (s.timed h 1 (fitEffect h f false (pa ||| pb : Nat) false)) ∧
    exec (.xor h f) s = .next (s.timed h 1 (fitEffect h f false (pa ^^^ pb : Nat) false)) ∧
    exec (.shl h f) s = .next (s.timed h 1 (fitEffect h f f.sat (a * 2 ^ n) false)) ∧
    exec (.shr h f) s = .next (s.timed h 1 (fitEffect h f false (pa / 2 ^ n : Nat) false)) ∧
    exec (.sar h f) s = .next (s.timed h 1
      (fitEffect h f false ((if 2 ^ (w - 1) ≤ pa then (pa : Int) - 2 ^ w else pa) / 2 ^ n) false)) ∧
    exec (.min h f) s = .next (s.timed h 1 (fitEffect h f false (min a b) false)) ∧
    exec (.max h f) s = .next (s.timed h 1 (fitEffect h f false (max a b) false))

/-- R117: the untyped ops owe their 64-bit result at the next bundle, and set no flag; a bit field of no width, or one that
ends above bit 63, is refused with FIELD, and so is an `ins` with SGN set. -/
def Obligations.ScalarUntypedResults : Prop :=
  (∀ (h : Hdr) (f : Tri), h.grd.getLsbD 5 = false → h.ty = 0 →
    (f.wid = 0 ∨ 64 < f.pos + f.wid →
      checkOp .s (.ext h f) = some .field ∧ checkOp .s (.exts h f) = some .field ∧ checkOp .s (.ins h f) = some .field) ∧
    (f.imm.getLsbD 13 = true → checkOp .s (.ins h f) = some .field)) ∧
  ∀ (h : Hdr) (f : Tri) (g : Wide) (s : State), guardTrue s.cur h = true →
    let a := s.cur.s f.a.toNat
    let b := s.cur.s f.b.toNat
    let owes := fun (v : Dword) => s.timed h 1 (.scalar f.d.toNat v 0)
    let field := a.toNat / 2 ^ f.pos % 2 ^ f.wid
    let w := Ty.width h.typ
    exec (.addi h f) s = .next (owes (a + f.imm.signExtend 64)) ∧
    exec (.li h g) s = .next (s.timed h 1 (.scalar g.d.toNat g.imm 0)) ∧
    exec (.lea h f) s = .next (owes (a + (b <<< (f.fn.extractLsb' 0 3).toNat) + f.imm.signExtend 64)) ∧
    exec (.ext h f) s = .next (owes (BitVec.ofNat 64 field)) ∧
    exec (.exts h f) s = .next (owes (BitVec.ofInt 64 (if 2 ^ (f.wid - 1) ≤ field then (field : Int) - 2 ^ f.wid else field))) ∧
    exec (.ins h f) s = .next (owes
      (let m : Dword := BitVec.ofNat 64 ((2 ^ f.wid - 1) * 2 ^ f.pos)
       (a &&& ~~~m) ||| ((b <<< f.pos) &&& m))) ∧
    exec (.clz h f) s = .next (owes (BitVec.ofNat 64
      (if a.toNat % 2 ^ w = 0 then w else w - 1 - Nat.log2 (a.toNat % 2 ^ w)))) ∧
    exec (.popc h f) s = .next (owes (BitVec.ofNat 64 (popCount w a.toNat))) ∧
    exec (.sel h f) s = .next (owes
      (if s.cur.p (f.fn.extractLsb' 0 5).toNat ≠ f.fn.getLsbD 5 then a else b))

/-- R118, R119: `cmp` owes its outcome, on values of the type or single bits, to p(D) and the complement to p(C); `plog` owes
its truth-table bit, and is refused with FIELD where FN[7:4] is not zero. -/
def Obligations.PredicateResults : Prop :=
  (∀ (h : Hdr) (f : Tri) (s : State), guardTrue s.cur h = true →
    let c := compareTyped h.typ (f.fn.extractLsb' 0 4).toNat (s.cur.s f.a.toNat) (scalarB s.cur f 4)
    exec (.cmp h f) s = .next ((s.defer 1 (.pred f.d.toNat c) none).timed h 1 (.pred f.c.toNat !c)) ∧
    exec (.plog h f) s = .next (s.timed h 1 (.pred f.d.toNat
      (f.fn.getLsbD ((if s.cur.p f.a.toNat then 2 else 0) + (if s.cur.p f.b.toNat then 1 else 0)))))) ∧
  (∀ (t : Nat) (a b : Dword),
    let x := typedOperand t a.toNat
    let y := typedOperand t b.toNat
    (compareTyped t 0 a b = true ↔ x = y) ∧ (compareTyped t 1 a b = true ↔ x ≠ y) ∧
    (compareTyped t 2 a b = true ↔ x < y) ∧ (compareTyped t 3 a b = true ↔ x ≤ y) ∧
    (compareTyped t 4 a b = true ↔ y < x) ∧ (compareTyped t 5 a b = true ↔ y ≤ x) ∧
    (compareTyped t 6 a b = true ↔ (x % 2 ^ Ty.width t).toNat &&& (y % 2 ^ Ty.width t).toNat ≠ 0) ∧
    compareTyped t 7 a b = !compareTyped t 6 a b) ∧
  ∀ (h : Hdr) (f : Tri), h.grd.getLsbD 5 = false → h.ty = 0 → f.fn.extractLsb' 4 4 ≠ 0 →
    checkOp .s (.plog h f) = some .field

/-- R120, R121, R125: where a taken transfer leads, and what the return stack becomes; an indirect transfer to an address that
is no multiple of 16 raises MISALIGN, a 65th call CALLDEPTH, a `ret` with an empty return stack its reason. Of an indirect call to which
both MISALIGN and CALLDEPTH apply the model raises the first (log 116). -/
def Obligations.Transfers : Prop :=
  (∀ (h : Hdr) (f : Branch) (s : State), guardTrue s.cur h = true → s.iss.fault = none →
    let target := s.iss.opAddr + 16 * f.off.signExtend 64
    let reg := s.cur.s f.a.toNat
    (∃ t, exec (.br h f) s = .next t ∧ t.iss.ts = some target) ∧
    (reg.toNat % 16 = 0 → ∃ t, exec (.bri h f) s = .next t ∧ t.iss.ts = some reg ∧ t.iss.fault = none) ∧
    (s.cur.ctl.ret.length < 64 →
      (∃ t, exec (.call h f) s = .next t ∧ t.iss.ts = some target ∧ t.cur.ctl.ret = s.iss.next :: s.cur.ctl.ret) ∧
      (reg.toNat % 16 = 0 →
        ∃ t, exec (.callIndirect h f) s = .next t ∧ t.iss.ts = some reg ∧ t.cur.ctl.ret = s.iss.next :: s.cur.ctl.ret)) ∧
    (∀ top rest, s.cur.ctl.ret = top :: rest →
      ∃ t, exec (.ret h f) s = .next t ∧ t.iss.ts = some top ∧ t.cur.ctl.ret = rest) ∧
    (f.a.toNat < 6 → s.cur.level.loops.length = 6 →
      ∃ t, exec (.lbrk h f) s = .next t ∧ t.iss.ts = some target ∧
        ∀ k, f.a.toNat ≤ k → k < 6 → (t.cur.loop k).active = false)) ∧
  (∀ (h : Hdr) (f : Branch) (s : State), guardTrue s.cur h = true → s.iss.fault = none →
    let reg := s.cur.s f.a.toNat
    (reg.toNat % 16 ≠ 0 →
      (∃ t, exec (.bri h f) s = .next t ∧ t.iss.fault = some ⟨.misalign, reg⟩) ∧
      (∃ t, exec (.callIndirect h f) s = .next t ∧ t.iss.fault = some ⟨.misalign, reg⟩)) ∧
    (64 ≤ s.cur.ctl.ret.length →
      (∃ t, exec (.call h f) s = .next t ∧ t.iss.fault = some ⟨.perm, 1⟩) ∧
      (reg.toNat % 16 = 0 → ∃ t, exec (.callIndirect h f) s = .next t ∧ t.iss.fault = some ⟨.perm, 1⟩)) ∧
    (s.cur.ctl.ret = [] → ∃ t, exec (.ret h f) s = .next t ∧ t.iss.fault = some ⟨.perm, 2⟩))

/-- R123: `loop` with a count other than zero makes its level active with that count, START after its bundle and END at its
target; with a count of zero it goes past END, and the level is inactive; an END that is not after the `loop`'s bundle is refused
with FIELD. -/
def Obligations.LoopOp : Prop :=
  (∀ (h : Hdr) (f : Branch) (c : Ctx) (w : Op) (pos after : Nat), parseOp w = some (.loop h f) → h.grd.getLsbD 5 = false →
    h.ty = 0 → f.off.toInt ≤ after → c.checkWord pos after w = .error (illop .field pos)) ∧
  ∀ (h : Hdr) (f : Branch) (s : State), guardTrue s.cur h = true → f.a.toNat < 6 → s.cur.level.loops.length = 6 →
    let count := if f.fn.getLsbD 6 then (f.fn.extractLsb' 0 6).zeroExtend 64 else s.cur.s (f.fn.extractLsb' 0 6).toNat
    let last := s.iss.opAddr + 16 * f.off.signExtend 64
    ∃ t, exec (.loop h f) s = .next t ∧
      (count ≠ 0 → t.iss.ts = s.iss.ts ∧
        t.cur.loop f.a.toNat = { lc := count, start := s.iss.next, stop := last, active := true }) ∧
      (count = 0 → t.iss.ts = some (last + 16) ∧ (t.cur.loop f.a.toNat).active = false) ∧
      (∀ k, f.a.toNat < k → k < 6 → (t.cur.loop k).active = false) ∧
      (∀ k, k < f.a.toNat → t.cur.loop k = s.cur.loop k)

/-- R112 to R114, R128, R129, R132 to R135: the ops on control registers, tile control, descriptors, semaphores and bindings; a shape
that `tset` refuses raises TILESHAPE with reason 4 and the tile, and a semaphore outside the window SEMRANGE with its number, the
op's place in its bundle and source 2. -/
def Obligations.ControlStateOps : Prop :=
  ∀ (h : Hdr) (f : Tri) (s : State), guardTrue s.cur h = true → s.iss.fault = none →
    let sem := (f.imm.extractLsb' 0 8).toNat
    let rows := f.imm.extractLsb' 0 7
    let cols := f.imm.extractLsb' 7 9
    let image := laneBytes ((s.cur.lanes f.b.toNat).take 32)
    let record := laneBytes ((s.cur.lanes f.b.toNat).take 16)
    let owes := fun (s : State) (v : Nat) => s.timed h 1 (.scalar f.d.toNat (BitVec.ofNat 64 v) 0)
    exec (.mfk h f) s = .next (s.timed h 1 (.scalar f.d.toNat (s.readControl s.iss.cur f.imm.toNat) 0)) ∧
    (controlWritable s.cur.trap.tl f.imm.toNat = true →
      exec (.mtk h f) s = .next (s.timed h 1 (.control f.imm.toNat (s.cur.s f.a.toNat)))) ∧
    (controlWritable s.cur.trap.tl f.imm.toNat = false →
      ∃ t, exec (.mtk h f) s = .next t ∧ t.iss.fault = some ⟨.perm, 3⟩) ∧
    (tsetShapeOk h.typ rows.toNat cols.toNat = true →
      exec (.tset h f) s = .next (s.timed h 1 (.tctl f.d.toNat (f.imm.extractLsb' 16 6 ++ cols ++ rows ++ 1#1 ++ h.ty)))) ∧
    (tsetShapeOk h.typ rows.toNat cols.toNat = false →
      ∃ t, exec (.tset h f) s = .next t ∧ t.iss.fault = some ⟨.tileshape, BitVec.ofNat 64 (4 + 256 * f.d.toNat)⟩) ∧
    (s.cur.id.semCount ≤ sem →
      let out : Trapped := ⟨.semrange, BitVec.ofNat 64 (sem + 256 * s.iss.pos + 2 * 2 ^ 11)⟩
      (∃ t, exec (.hsig h f) s = .next t ∧ t.iss.fault = some out) ∧
      ∃ t, exec (.hget h f) s = .next t ∧ t.iss.fault = some out) ∧
    (descriptorFault image = none →
      exec (.tdset h f) s = .next (s.timed h 1 (.descriptor f.imm.toNat (descriptorOf image)))) ∧
    (∀ off, descriptorFault image = some off →
      ∃ t, exec (.tdset h f) s = .next t ∧ t.iss.fault = some ⟨.tdinvalid, BitVec.ofNat 64 off⟩) ∧
    (sem < s.cur.id.semCount →
      exec (.hget h f) s = .next (owes s (s.sem s.iss.cur sem)) ∧
      ∃ t r, exec (.hsig h f) s = .next t ∧ r ∈ t.cur.port.queue ∧ r.stage = .pending ∧
        r.work = .signal sem (if f.fn.getLsbD 0 then (f.imm.extractLsb' 8 16).toNat
          else min (s.cur.s f.a.toNat).toNat 0xFFFF)) ∧
    (bindStatus s.cur.id.spSize record = 0 →
      exec (.wbind h f) s = .next (owes
        (s.onIss fun x => { x with bind := some (f.imm.toNat, some (bindingOf record)) }) 0)) ∧
    (bindStatus s.cur.id.spSize record ≠ 0 →
      exec (.wbind h f) s = .next (owes s (bindStatus s.cur.id.spSize record))) ∧
    exec (.wunb h f) s = .next (owes (s.onIss fun x => { x with bind := some (f.imm.toNat, none) })
      (if (lookup? f.imm.toNat s.cur.binds).isSome then 0 else 1)) ∧
    exec (.wstat h f) s = .next (owes s (bindingWord (lookup? f.imm.toNat s.cur.binds) f.fn.toNat))

/-- R136 to R141: `nop` only signals; `yield` and `halt` end the turn and the context after the bundle; `trap` delivers
SWTRAP after the bundle; `dbg` is a `nop` unless CTXCTL.DBG is set at level 0, and then delivers BREAK; `eret` transfers to
TRAPPC at level 1 and raises PERM at level 0. That `trap`, and a `dbg` that breaks, signal nothing is the model's reading of R30 of
01_engines and Table 1.5 (log 25). -/
def Obligations.BundleEndOps : Prop :=
  ∀ (h : Hdr) (f : Tri) (s : State), guardTrue s.cur h = true → s.iss.fault = none →
    exec (.nop h f) s = .next (s.signalNow h) ∧
    exec (.yield h f) s = .next { s.signalNow h with iss := { (s.signalNow h).iss with yield := true } } ∧
    exec (.halt h f) s = .next { s.signalNow h with iss := { (s.signalNow h).iss with halt := true } } ∧
    exec (.trap h f) s = .next { s with iss := { s.iss with post := some ⟨.swtrap, f.imm.zeroExtend 64⟩ } } ∧
    exec (.dbg h f) s = .next (if s.cur.ctl.ctxctl.getLsbD 1 ∧ s.cur.trap.tl = false then
        { s with iss := { s.iss with post := some ⟨.break_, f.imm.zeroExtend 64⟩ } } else s.signalNow h) ∧
    (s.cur.trap.tl = true →
      ∃ t, exec (.eret h f) s = .next t ∧ t.iss.ts = some s.cur.trap.pc ∧ t.iss.eret = true) ∧
    (s.cur.trap.tl = false → ∃ t, exec (.eret h f) s = .next t ∧ t.iss.fault = some ⟨.perm, 4⟩)

/-! ## V-slot ops -/

/-- R152, R159 to R164: element by element, under the lane guard, the arithmetic and bitwise V ops owe their results at their
due bundles; an integer `vadd`, `vsub` or `vmul` element is VFit of the exact result. -/
def Obligations.VectorArithmetic : Prop :=
  (∀ (h : Hdr) (f : Tri) (s : State), guardTrue s.cur h = true →
    let t := h.typ
    let m := Mode.of f.fn
    let a := elemsA s h f
    let b := elemsB s h f
    let c := elemsC s h f
    let owes := fun (d : Nat) (rs : List Elem) => s.timed h d (elemEffect s h f rs)
    exec (.vadd h f) s = .next (owes 2 (List.zipWith (addElem t m false) a b)) ∧
    exec (.vsub h f) s = .next (owes 2 (List.zipWith (addElem t m true) a b)) ∧
    exec (.vmul h f) s = .next (owes 4 (List.zipWith (mulElem t m (f.fn.getLsbD 3)) a b)) ∧
    exec (.vfma h f) s = .next (owes 4 (List.zipWith (fun k x => k x)
      (List.zipWith (fusedElem t m (f.fn.extractLsb' 3 2).toNat) a b) c)) ∧
    exec (.vmin h f) s = .next (owes 2 (List.zipWith (minMaxElem t false) a b)) ∧
    exec (.vmax h f) s = .next (owes 2 (List.zipWith (minMaxElem t true) a b)) ∧
    exec (.vabs h f) s = .next (owes 2 (a.map fun x =>
      if Ty.isFloat t = true ∧ isNan t x = false then (magnitude t x, 0)
      else signElem t (!Ty.isFloat t && f.fn.getLsbD 2) false x)) ∧
    exec (.vneg h f) s = .next (owes 2 (a.map (signElem t (f.fn.getLsbD 2) true))) ∧
    exec (.vrcp h f) s = .next (owes 6 (a.map (functionElem recip t m))) ∧
    exec (.vrsq h f) s = .next (owes 6 (a.map (functionElem recipSqrt t m))) ∧
    exec (.vexp2 h f) s = .next (owes 6 (a.map (functionElem exp2 t m))) ∧
    exec (.vlog2 h f) s = .next (owes 6 (a.map (functionElem log2Exact t m))) ∧
    exec (.vand h f) s = .next (owes 2 (List.zipWith (fun x y => (x &&& y, 0)) a b)) ∧
    exec (.vor h f) s = .next (owes 2 (List.zipWith (fun x y => (x ||| y, 0)) a b)) ∧
    exec (.vxor h f) s = .next (owes 2 (List.zipWith (fun x y => (x ^^^ y, 0)) a b)) ∧
    exec (.vshl h f) s = .next (owes 2 (List.zipWith (shlElem t (f.fn.getLsbD 2)) a b)) ∧
    exec (.vshr h f) s = .next (owes 2 (List.zipWith (shrElem t) a b)) ∧
    exec (.vsar h f) s = .next (owes 2 (List.zipWith (sarElem t) a b)) ∧
    exec (.vpopc h f) s = .next (owes 2 (a.map fun x => (popCount (Ty.width t) x, 0))) ∧
    exec (.vclip h f) s = .next (owes 2 (List.zipWith (fun k x => k x) (List.zipWith (clipElem t) a b) c))) ∧
  (∀ (t : Nat) (fn : BitVec 8) (a b : Nat), Ty.isFloat t = false →
    let x := typedOperand t a
    let y := typedOperand t b
    let sat := (Mode.of fn).sat
    addElem t (Mode.of fn) false a b = vfit t sat (x + y) ∧
    addElem t (Mode.of fn) true a b = vfit t sat (x - y) ∧
    mulElem t (Mode.of fn) false a b = vfit t sat (x * y))

/-- R165 to R177: compares, selects, moves, conversions, dot products, rearrangements, reductions, quantisation and parsing
owe their lanes or predicate bits at their due bundles. -/
def Obligations.VectorOtherOps : Prop :=
  ∀ (h : Hdr) (f : Tri) (s : State), guardTrue s.cur h = true →
    let t := h.typ
    let a := elemsA s h f
    let b := elemsB s h f
    let c := elemsC s h f
    let mask := laneMask s.cur h
    let plain := fun (l : List Nat) => l.map fun x => ((x, 0) : Elem)
    let owes := fun (d : Nat) (rs : List Elem) => s.timed h d (elemEffect s h f rs)
    (f.fn.getLsbD 6 = true → exec (.vcmp h f) s = .next (owes 2 ((compareElems s.cur h f).map fun (b, fl) =>
      (if b then 2 ^ Ty.width t - 1 else 0, fl)))) ∧
    (f.fn.getLsbD 6 = false → ∃ fl, exec (.vcmp h f) s = .next (s.timed h 2 (.lanePred f.d.toNat mask
      (predOfLanes ((groups (32 / Ty.width t) 128 ((compareElems s.cur h f).map (·.1))).map fun g =>
        if f.fn.getLsbD 7 then g.all id else g.any id)) fl))) ∧
    exec (.vsel h f) s = .next (owes 2 (plain (List.zipWith (fun q (x, y) => if q then x else y)
      (activeElems (Ty.width t) (s.cur.q f.c.toNat)) (a.zip b)))) ∧
    (∃ v, exec (.vplog h f) s = .next (s.timed h 2 (.lanePred f.d.toNat mask v 0)) ∧
      ∀ i, i < 128 → v.getLsbD i = f.fn.getLsbD (3 + (if (s.cur.q f.a.toNat).getLsbD i then 2 else 0) +
        (if (s.cur.q f.b.toNat).getLsbD i then 1 else 0))) ∧
    (f.fn.extractLsb' 3 2 = 0 → exec (.vmov h f) s = .next (s.timed h 2 (wholeLanes s h f (vecSource s.cur 32 f.a)))) ∧
    (f.fn.extractLsb' 3 2 = 1 → exec (.vmov h f) s = .next (s.timed h 2 (wholeLanes s h f
      ((activeLanes (s.cur.q f.a.toNat)).map fun b => if b then 0xFFFFFFFF else 0)))) ∧
    (f.fn.extractLsb' 3 2 = 2 → exec (.vmov h f) s = .next (s.timed h 2 (.lanePred f.d.toNat mask
      (predOfLanes ((s.cur.lanes f.a.toNat).map fun x => x != 0)) 0))) ∧
    (f.fn.extractLsb' 3 2 = 3 → exec (.vmov h f) s = .next (s.timed h 2 (.lanePred f.d.toNat mask (s.cur.q f.a.toNat) 0))) ∧
    (let src := (f.fn.extractLsb' 3 4).toNat
     let r := convert src t f.imm.toNat (Mode.of f.fn) mask (vecSource s.cur (Ty.width src) f.a)
     exec (.vcvt h f) s = .next (s.timed h 3 (.vector f.d.toNat r.1 r.2))) ∧
    (let k := 32 / Ty.width t
     let r := List.zipWith (fun (x, y) (z : Word) => dotLane t (Mode.of f.fn) x y z.toNat)
       ((groups k 128 a).zip (groups k 128 b)) (vecSource s.cur 32 f.c)
     exec (.vdot h f) s = .next (s.timed h 4 (.vector f.d.toNat (laneWrites mask (r.map fun e => BitVec.ofNat 32 e.1))
       (activeFlags (activeLanes mask) r)))) ∧
    exec (.vbcast h f) s = .next (owes 2 (plain (List.replicate a.length (a.getD f.imm.toNat 0)))) ∧
    exec (.vmovsExtract h f) s =
      .next (s.timed h 3 (.scalar f.d.toNat (extendTyped t (a.getD f.imm.toNat 0)) 0)) ∧
    exec (.vmovsInsert h f) s = .next (s.timed h 3 (.vector f.d.toNat
      [elemWrite (Ty.width t) f.imm.toNat ((s.cur.s (f.b.toNat - 64)).toNat % 2 ^ Ty.width t)] 0)) ∧
    exec (.vperm h f) s = .next (owes 3 (plain (permute (Ty.count t) (f.fn.getLsbD 3) a b c))) ∧
    exec (.vshuf h f) s = .next (owes 3 (plain (shuffle (Ty.count t) (f.fn.extractLsb' 3 4).toNat f.imm.toNat a b))) ∧
    exec (.vred h f) s =
      .next (owes 6 (reduceOrScan t (f.fn.extractLsb' 3 3).toNat (Mode.of f.fn) false mask a)) ∧
    exec (.vscan h f) s =
      .next (owes 6 (reduceOrScan t (f.fn.extractLsb' 3 3).toNat (Mode.of f.fn) true mask a)) ∧
    (let r := quantise t (f.fn.extractLsb' 4 3).toNat (f.fn.getLsbD 3) (baseExp (s.cur.s (f.b.toNat - 64)))
       (s.cur.lanes f.a.toNat)
     exec (.vq4x h f) s = .next (((s.defer 5 (.vector f.d.toNat r.1 r.2.2.2) none).defer 5
       (.vector f.c.toNat r.2.1 0) none).timed h 5 (.damage r.2.2.1.1 r.2.2.1.2.1 r.2.2.1.2.2))) ∧
    (let r := elementWise t (BitVec.allOnes 128) (dequantise t (f.fn.extractLsb' 4 3).toNat (Mode.of f.fn)
       (baseExp (s.cur.s (f.b.toNat - 64))) (s.cur.lanes f.a.toNat) (s.cur.lanes f.c.toNat))
     exec (.vdq4x h f) s = .next (s.timed h 2 (.vector f.d.toNat r.1 r.2))) ∧
    exec (.vhash h f) s = .next (s.timed h 2 (wholeLanes s h f
      (List.zipWith (crcLane ((f.fn.extractLsb' 3 2).toNat + 1)) (vecSource s.cur 32 f.c) (vecSource s.cur 32 f.a)))) ∧
    (f.fn.getLsbD 5 = true → exec (.vfind h f) s = .next (s.timed h 2 (wholeLanes s h f
      (packElems 8 128 ((findHits s.cur f).map fun b => if b then 0xFF else 0))))) ∧
    (f.fn.getLsbD 5 = false → exec (.vfind h f) s = .next (s.timed h 2 (.lanePred f.d.toNat mask
      (predOfLanes ((groups 4 128 (findHits s.cur f)).map fun g => g.any id)) 0)))

/-- R178 to R181: `vbany` is taken when some active lane's bit is set, `vball` when every active lane's bit is set, and otherwise
neither is; `vtrd` owes the active lanes of v(D) a row segment of tile A, zero past the row's end, at due 3; `vtwr` owes the row
segment of tile D the bytes of the active lanes of v(A) up to the row's end, at due 2; an invalid tile, a row that it does not
have or a second segment that it does not have is TILESHAPE. -/
def Obligations.VectorBranchesAndTileRows : Prop :=
  (∀ (h : Hdr) (f : Tri) (s : State), guardTrue s.cur h = true → s.iss.tv = none →
    let active := fun (i : Nat) => i < 128 ∧ (laneMask s.cur h).getLsbD i = true
    let bit := fun (i : Nat) => (s.cur.q f.a.toNat).getLsbD i = true
    let target := s.iss.opAddr + 16 * f.imm.signExtend 64
    (∃ t, exec (.vbany h f) s = .next t ∧ ((∃ i, active i ∧ bit i) → t.iss.tv = some target) ∧
      ((∀ i, active i → ¬ bit i) → t.iss.tv = none)) ∧
    (∃ t, exec (.vball h f) s = .next t ∧ ((∀ i, active i → bit i) → t.iss.tv = some target) ∧
      ((∃ i, active i ∧ ¬ bit i) → t.iss.tv = none))) ∧
  (∀ (h : Hdr) (f : Tri) (s : State), guardTrue s.cur h = true → s.iss.fault = none →
    let row := (f.imm.extractLsb' 0 6).toNat
    let first := if f.imm.getLsbD 6 then 512 else 0
    let active := fun (i : Nat) => (laneMask s.cur h).getLsbD (i / 4) = true
    let xa := s.cur.tctl f.a.toNat
    let xd := s.cur.tctl f.d.toNat
    let inside := fun (x : BitVec 27) => row < tctlRows x ∧ (f.imm.getLsbD 6 = true → 512 < tctlRowBytes x)
    (tctlValid xa = true → inside xa →
      exec (.vtrd h f) s = .next (s.timed h 3 (wholeLanes s h f (bytesLanes 128 ((List.range 512).map fun i =>
        if first + i < tctlRowBytes xa then s.cur.tileByte f.a.toNat (row * tctlRowBytes xa + (first + i)) else 0))))) ∧
    (tctlValid xd = true → inside xd →
      ∃ ws, exec (.vtwr h f) s = .next (s.timed h 2 (.tileBytes f.d.toNat ws)) ∧
        ∀ o b, (o, b) ∈ ws ↔ ∃ i, i < 512 ∧ active i ∧ first + i < tctlRowBytes xd ∧
          o = row * tctlRowBytes xd + (first + i) ∧ b = (laneBytes (s.cur.lanes f.a.toNat)).getD i 0) ∧
    (tctlValid xa = false → ∃ t, exec (.vtrd h f) s = .next t ∧ t.iss.fault = some (tileShape 1 f.a.toNat)) ∧
    (tctlValid xd = false → ∃ t, exec (.vtwr h f) s = .next t ∧ t.iss.fault = some (tileShape 1 f.d.toNat)) ∧
    (tctlValid xa = true → ¬ inside xa →
      ∃ t, exec (.vtrd h f) s = .next t ∧ t.iss.fault = some (tileShape 6 f.a.toNat)) ∧
    (tctlValid xd = true → ¬ inside xd →
      ∃ t, exec (.vtwr h f) s = .next t ∧ t.iss.fault = some (tileShape 6 f.d.toNat)))

/-! ## M-slot and X-slot ops -/


/-- R273, R275, R287 to R292: the multiply and accumulator ops that pass their checks enter the array queue as its last entry, and
the accumulator status takes its value at issue; a tag that does not fit raises ACCMODE, a window that differs ACCWIN. -/
def Obligations.AccumulatorOps : Prop :=
  (∀ (h : Hdr) (f : Tri) (g : Mat) (s : State), guardTrue s.cur h = true → s.iss.fault = none →
    let queued := fun (t : State) (i : Instr) => (t.cur.mat.queue.getLast?).any (fun q => decide (q.op = i)) = true ∧
      t.cur.mat.queue.length = s.cur.mat.queue.length + 1
    let xa := s.cur.tctl g.a.toNat
    let xb := s.cur.tctl g.b.toNat
    let shaped := tctlValid xa = true ∧ tctlValid xb = true ∧ tctlType xa = h.typ ∧ tctlType xb = h.typ ∧
      g.k.toNat ≤ tctlCols xa ∧ g.k.toNat ≤ tctlCols xb
    let w := baseExp (s.cur.s g.ea.toNat) + baseExp (s.cur.s g.eb.toNat)
    let d := g.d.toNat
    let st := s.cur.mat.stat d
    let exact := isExactClass h.typ
    let clear := { s.cur.mat.stat f.d.toNat with tag := 0, win := 0 }
    (shaped → (∀ x, checkTag exact d w st = .ok x →
      ∃ t, exec (.mma h g) s = .next t ∧ queued t (.mma h g) ∧ t.cur.mat.stat d = x)) ∧
    (shaped → (∀ e, checkTag exact d w st = .error e → ∃ t, exec (.mma h g) s = .next t ∧ t.iss.fault = some e)) ∧
    (shaped → ∃ t, exec (.mmz h g) s = .next t ∧ queued t (.mmz h g) ∧
      (t.cur.mat.stat d).tag = (if exact then 1 else 2) ∧ (t.cur.mat.stat d).win = (if exact then w else 0) ∧
      (s.cur.mat.queue = [] → t.cur.mat.stat d = { tag := if exact then 1 else 2, win := if exact then w else 0 })) ∧
    (∃ t, exec (.mclr h f) s = .next t ∧ queued t (.mclr h f) ∧ t.cur.mat.stat f.d.toNat = clear) ∧
    (∀ x, combineTags f.d.toNat (s.cur.mat.stat f.a.toNat) (s.cur.mat.stat f.d.toNat) = .ok x →
      ∃ t, exec (.macc h f) s = .next t ∧ queued t (.macc h f) ∧ t.cur.mat.stat f.d.toNat = x) ∧
    (∀ e, combineTags f.d.toNat (s.cur.mat.stat f.a.toNat) (s.cur.mat.stat f.d.toNat) = .error e →
      ∃ t, exec (.macc h f) s = .next t ∧ t.iss.fault = some e) ∧
    (∃ t, exec (.mstat h f) s = .next t ∧ queued t (.mstat h f) ∧ t.cur.mat.stat f.a.toNat = s.cur.mat.stat f.a.toNat) ∧
    (∃ t, exec (.mrdVector h f) s = .next t ∧ queued t (.mrdVector h f)) ∧
    (tctlValid (s.cur.tctl f.d.toNat) = true → tctlType (s.cur.tctl f.d.toNat) = h.typ →
      tctlCols (s.cur.tctl f.d.toNat) ≤ 64 →
      (h.typ = Ty.q4x → tctlCols (s.cur.tctl f.d.toNat) = 32 ∨ tctlCols (s.cur.tctl f.d.toNat) = 64) →
      ∃ t, exec (.mrdTile h f) s = .next t ∧ queued t (.mrdTile h f))) ∧
  (∀ (d : Nat) (a x : AccStatus), a.tag ≤ 2 → x.tag ≤ 2 →
    (a.tag = 0 → combineTags d a x = .ok x) ∧
    (a.tag ≠ 0 → x.tag = 0 → combineTags d a x = .ok { x with tag := a.tag, win := a.win }) ∧
    (a.tag ≠ 0 → x.tag ≠ 0 → a.tag ≠ x.tag → combineTags d a x = .error (accMode d)) ∧
    (a.tag = 1 → x.tag = 1 → a.win ≠ x.win → combineTags d a x = .error (accWin d a.win)) ∧
    (a.tag ≠ 0 → a.tag = x.tag → (a.tag = 1 → a.win = x.win) → combineTags d a x = .ok x)) ∧
  (∀ (acc : Nat) (w : Int) (x : AccStatus),
    (x.tag = 0 → checkTag true acc w x = .ok { x with tag := 1, win := w } ∧
      checkTag false acc w x = .ok { x with tag := 2, win := 0 }) ∧
    (x.tag = 1 → x.win = w → checkTag true acc w x = .ok x) ∧
    (x.tag = 1 → x.win ≠ w → checkTag true acc w x = .error (accWin acc w)) ∧
    (x.tag = 1 → checkTag false acc w x = .error (accMode acc)) ∧
    (x.tag = 2 → checkTag true acc w x = .error (accMode acc)))

/-- R293 to R298: the tile ops that pass their checks enter the array queue as its last entry; a tile that is invalid, of a type
that the op does not take or of a shape that does not match raises TILESHAPE with its reason and the tile, an access outside the
window ILLADDR, and an address or a pitch that is no multiple of 16 MISALIGN. -/
def Obligations.TileOps : Prop :=
  ∀ (h : Hdr) (f : Tri) (s : State), guardTrue s.cur h = true → s.iss.fault = none →
    let queued := fun (t : State) (i : Instr) => (t.cur.mat.queue.getLast?).any (fun q => decide (q.op = i)) = true ∧
      t.cur.mat.queue.length = s.cur.mat.queue.length + 1
    let xd := s.cur.tctl f.d.toNat
    let xa := s.cur.tctl f.a.toNat
    let valid := tctlValid xd = true ∧ tctlValid xa = true
    let alike := tctlRows xd = tctlRows xa ∧ tctlCols xd = tctlCols xa
    let wide := fun (t : Nat) => t = Ty.f32 ∨ t = Ty.bf16
    let turned := tctlRows xd = tctlCols xa ∧ tctlCols xd = tctlRows xa
    let movable := tctlType xd = tctlType xa ∨ (tctlType xd ∈ movTypes ∧ tctlType xa ∈ movTypes)
    let narrow := f.fn.getLsbD 4
    let dTakes := if narrow then wide (tctlType xd) else tctlType xd = Ty.q4x
    let aTakes := if narrow then tctlType xa = Ty.q4x else wide (tctlType xa)
    let addrs := tileAddrs xd (tileEa s.cur f).toNat (s.cur.s f.b.toNat).toNat
    let aligned := (tileEa s.cur f).toNat % 16 = 0 ∧ (s.cur.s f.b.toNat).toNat % 16 = 0
    let raises := fun (i : Instr) (x : Trapped) => ∃ t, exec i s = .next t ∧ t.iss.fault = some x
    (tctlValid xd = true → (∀ a ∈ addrs, a < s.cur.id.spSize) → aligned →
      (∃ t, exec (.tlds h f) s = .next t ∧ queued t (.tlds h f)) ∧
      (∃ t, exec (.tsts h f) s = .next t ∧ queued t (.tsts h f))) ∧
    (tctlValid xd = true → (∃ a ∈ addrs, s.cur.id.spSize ≤ a) →
      raises (.tlds h f) ⟨.illaddr, tileEa s.cur f⟩ ∧ raises (.tsts h f) ⟨.illaddr, tileEa s.cur f⟩) ∧
    (tctlValid xd = true → (∀ a ∈ addrs, a < s.cur.id.spSize) → ¬ aligned →
      raises (.tlds h f) ⟨.misalign, tileEa s.cur f⟩ ∧ raises (.tsts h f) ⟨.misalign, tileEa s.cur f⟩) ∧
    (valid → tctlType xd = tctlType xa → turned →
      ∃ t, exec (.ttr h f) s = .next t ∧ queued t (.ttr h f)) ∧
    (valid → tctlType xd ≠ tctlType xa → raises (.ttr h f) (tileShape 2 f.d.toNat)) ∧
    (valid → tctlType xd = tctlType xa → ¬ turned → raises (.ttr h f) (tileShape 4 f.d.toNat)) ∧
    (valid → alike → movable →
      ∃ t, exec (.tmov h f) s = .next t ∧ queued t (.tmov h f)) ∧
    (tctlValid xd = true → ∃ t, exec (.tfill h f) s = .next t ∧ queued t (.tfill h f)) ∧
    (valid → tctlType xd ≠ tctlType xa →
      (tctlType xd ∉ movTypes → raises (.tmov h f) (tileShape 2 f.d.toNat)) ∧
      (tctlType xd ∈ movTypes → tctlType xa ∉ movTypes → raises (.tmov h f) (tileShape 2 f.a.toNat))) ∧
    (valid → movable → ¬ alike → raises (.tmov h f) (tileShape 4 f.d.toNat)) ∧
    (valid → alike → dTakes → aTakes → ∃ t, exec (.tq4x h f) s = .next t ∧ queued t (.tq4x h f)) ∧
    (valid → ¬ dTakes → raises (.tq4x h f) (tileShape 2 f.d.toNat)) ∧
    (valid → dTakes → ¬ aTakes → raises (.tq4x h f) (tileShape 2 f.a.toNat)) ∧
    (valid → dTakes → aTakes → ¬ alike → raises (.tq4x h f) (tileShape 4 f.d.toNat)) ∧
    (tctlValid xd = false → ∀ i, i ∈ [Instr.tlds h f, .tsts h f, .ttr h f, .tmov h f, .tfill h f, .tq4x h f] →
      raises i (tileShape 1 f.d.toNat)) ∧
    (tctlValid xd = true → tctlValid xa = false → ∀ i, i ∈ [Instr.ttr h f, .tmov h f, .tq4x h f] →
      raises i (tileShape 1 f.a.toNat))

/-- R299 to R302: the edge latches take 256 bytes of v(A), or of one delta, at due 2; `xrd` reads a latch, as it stands at
bundle start, into lanes 0 to 63 alone; when a latch write lands, every delta of its latch is replaced. -/
def Obligations.EdgeLatchOps : Prop :=
  (∀ (s : State) (n : Nat) (e : Deferred) (b : Bool) (bs : List Byte), (s.ctx n).level.deferred = [e] →
    e.due ≤ (s.ctx n).level.count → e.slot < 7 → e.eff = .latch b bs →
    ∃ t, s.landDue n = .landed t ∧
      (∀ i, i < 64 → lookupD 0 i (if b then (t.ctx n).mat.latchB else (t.ctx n).mat.latchA) = (bytesLanes 64 bs).getD i 0) ∧
      (if b then (t.ctx n).mat.latchA = (s.ctx n).mat.latchA else (t.ctx n).mat.latchB = (s.ctx n).mat.latchB)) ∧
  ∀ (h : Hdr) (f : Tri) (s : State), guardTrue s.cur h = true →
    let image := laneBytes ((s.cur.lanes f.a.toNat).take 64)
    let d := f.imm.extractLsb' 0 4
    let delta : List Byte := List.replicate 256 (d ++ d)
    exec (.xseta h f) s = .next (s.timed h 2 (.latch false image)) ∧
    exec (.xsetb h f) s = .next (s.timed h 2 (.latch true image)) ∧
    (f.fn.getLsbD 0 = true → f.fn.getLsbD 1 = true →
      exec (.xfill h f) s = .next ((s.defer 2 (.latch false delta) none).timed h 2 (.latch true delta))) ∧
    (f.fn.getLsbD 0 = true → f.fn.getLsbD 1 = false →
      exec (.xfill h f) s = .next (s.timed h 2 (.latch false delta))) ∧
    (f.fn.getLsbD 0 = false → f.fn.getLsbD 1 = true →
      exec (.xfill h f) s = .next (s.timed h 2 (.latch true delta))) ∧
    exec (.xrd h f) s = .next (s.timed h 2 (.vector f.d.toNat ((List.range 64).map fun i =>
      (i, 0xFFFFFFFF, lookupD 0 i (if f.fn.getLsbD 0 then s.cur.mat.latchB else s.cur.mat.latchA))) 0))

/-! ## Scratchpad ops -/

/-- R188 to R190: a scratchpad op whose addresses pass owes its load or store at due 3, a gather or scatter at due 5; one with a
byte outside the window faults with ILLADDR, and otherwise one with a misaligned address with MISALIGN, after its bundle, the op in
the replay list and nothing owed. Which of a gather's lanes TRAPINFO names is the model's reading (log 29). -/
def Obligations.ScratchpadOps : Prop :=
  (∀ (h : Hdr) (f : MemF) (s : State), guardTrue s.cur h = true →
    let c := s.cur
    let ea := c.s f.a.toNat + (c.s f.b.toNat <<< f.scale.toNat) + f.disp.signExtend 64
    let size := c.id.spSize
    let bytes := Ty.width h.typ / 8
    (scratchFault size (scalarUse c h f) none = none →
      exec (.lds h f) s = .next (s.timed h 3 (.loadScalar f.d.toNat h.typ ea.toNat)) ∧
      exec (.sts h f) s = .next (s.timed h 3 (.store 0 bytes 0 [(0, ea.toNat, (c.s f.d.toNat).toNat)]))) ∧
    (scratchFault size (vectorUse c f) (some ea.toNat) = none →
      exec (.vlds h f) s = .next (s.timed h 3 (.loadLanes 0 ea.toNat f.d.toNat Ty.n32
        ((maskLanes c f).map fun i => (i, ea.toNat + 4 * i)))) ∧
      exec (.vsts h f) s = .next (s.timed h 3 (.store 8 4 ea.toNat
        ((maskLanes c f).map fun i => (i, ea.toNat + 4 * i, (c.lane f.d.toNat i).toNat))))) ∧
    (scratchFault size (gatherUse c h f) none = none →
      exec (.vgat h f) s = .next (s.timed h 5 (.loadLanes 8 0 f.d.toNat h.typ (gatherUse c h f).addrs)) ∧
      exec (.vsca h f) s = .next (s.timed h 5 (.store 16 bytes 0 (laneStores c f (gatherUse c h f)))))) ∧
  (∀ (h : Hdr) (f : MemF) (s : State), guardTrue s.cur h = true →
    let ea := farAddr f s.cur
    let size := s.cur.id.spSize
    let bytes := Ty.width h.typ / 8
    let lanes := maskLanes s.cur f
    let ps := (gatherUse s.cur h f).addrs
    let raises := fun (i : Instr) (x : Trapped) => ∃ t, exec i s = .next t ∧ t.iss.cfaults = s.iss.cfaults ++ [x] ∧
      t.cur.trap.list.length = s.cur.trap.list.length + 1 ∧ t.cur.level.deferred = s.cur.level.deferred
    let first := fun (c : Cause) (i : Instr) => ∃ p ∈ ps, (size < p.2 + bytes ∨ p.2 % bytes ≠ 0) ∧
      raises i ⟨c, BitVec.ofNat 64 p.2⟩
    (∀ i, i ∈ [Instr.lds h f, .sts h f] →
      (size < ea.toNat + bytes → raises i ⟨.illaddr, ea⟩) ∧
      (ea.toNat + bytes ≤ size → ea.toNat % bytes ≠ 0 → raises i ⟨.misalign, ea⟩)) ∧
    (∀ i, i ∈ [Instr.vlds h f, .vsts h f] →
      ((∃ k ∈ lanes, size < ea.toNat + 4 * k + 4) → raises i ⟨.illaddr, ea⟩) ∧
      (lanes ≠ [] → (∀ k ∈ lanes, ea.toNat + 4 * k + 4 ≤ size) → ea.toNat % 64 ≠ 0 → raises i ⟨.misalign, ea⟩)) ∧
    ∀ i, i ∈ [Instr.vgat h f, .vsca h f] →
      ((∃ p ∈ ps, size < p.2 + bytes) → first .illaddr i) ∧
      ((∀ p ∈ ps, p.2 + bytes ≤ size) → (∃ p ∈ ps, p.2 % bytes ≠ 0) → first .misalign i))

/-! ## Far accesses at issue -/


/-- R195, R199, R246, R247, R250, R253, R322: a far op at an aligned address of 52 bits enters its context's port with its
address, and what it loads lands DUE bundles after its own; for the loads, stores, atomics, `wta` and the ember ops an address
of 2^52 or more is ILLADDR, one that is no multiple of the access's size MISALIGN, and the fault strikes after the bundle. That
`pref` and `cflush` enter the port at every address is the model's reading (log 36). -/
def Obligations.FarOpsEnterPort : Prop :=
  (∀ (h : Hdr) (f : MemF) (s : State), guardTrue s.cur h = true →
    let far := farAddr f s.cur
    let home := homeAddr f s.cur
    let due := f.due.toNat
    let bytes := Ty.width h.typ / 8
    (farFault far bytes = none →
      (∃ t, exec (.ldf h f) s = .next t ∧ s.queuedLanding t (.ldf h f) far due) ∧
      (∃ t, exec (.stf h f) s = .next t ∧ s.queued t (.stf h f) far)) ∧
    (farFault far 64 = none →
      (∃ t, exec (.vldf h f) s = .next t ∧ s.queuedLanding t (.vldf h f) far due) ∧
      (∃ t, exec (.vstf h f) s = .next t ∧ s.queued t (.vstf h f) far)) ∧
    (∃ t, exec (.pref h f) s = .next t ∧ s.queued t (.pref h f) far) ∧
    (∃ t, exec (.cflush h f) s = .next t ∧ s.queued t (.cflush h f) far) ∧
    (farFault home bytes = none →
      (∃ t, exec (.amo h f) s = .next t ∧ s.queuedLanding t (.amo h f) home due) ∧
      (∃ t, exec (.cas h f) s = .next t ∧ s.queuedLanding t (.cas h f) home due) ∧
      (∃ t, exec (.red h f) s = .next t ∧ s.queued t (.red h f) home)) ∧
    (farFault home 8 = none → ∃ t, exec (.wta h f) s = .next t ∧ s.queuedLanding t (.wta h f) home due) ∧
    (farFault far 16 = none →
      (∃ t, exec (.emake h f) s = .next t ∧ s.queued t (.emake h f) far) ∧
      (∃ t, exec (.efill h f) s = .next t ∧ s.queued t (.efill h f) far) ∧
      (∃ t, exec (.efail h f) s = .next t ∧ s.queued t (.efail h f) far) ∧
      (∃ t, exec (.earm h f) s = .next t ∧ s.queued t (.earm h f) far) ∧
      (∃ t, exec (.estat h f) s = .next t ∧ s.queuedLanding t (.estat h f) far due)) ∧
    (farFault far 8 = none → ∃ t, exec (.epeek h f) s = .next t ∧ s.queuedLanding t (.epeek h f) far due)) ∧
  (∀ (h : Hdr) (f : MemF) (s : State), guardTrue s.cur h = true →
    let far := farAddr f s.cur
    let home := homeAddr f s.cur
    let bytes := Ty.width h.typ / 8
    let raises := fun (i : Instr) (e : Trapped) =>
      ∃ t, exec i s = .next t ∧ t.iss.cfaults = s.iss.cfaults ++ [e] ∧ t.cur.port = s.cur.port
    (∀ i, i ∈ [Instr.ldf h f, .stf h f] → ∀ e, farFault far bytes = some e → raises i e) ∧
    (∀ i, i ∈ [Instr.vldf h f, .vstf h f] → ∀ e, farFault far 64 = some e → raises i e) ∧
    (∀ i, i ∈ [Instr.amo h f, .cas h f, .red h f] → ∀ e, farFault home bytes = some e → raises i e) ∧
    (∀ e, farFault home 8 = some e → raises (.wta h f) e) ∧
    (∀ i, i ∈ [Instr.emake h f, .efill h f, .efail h f, .earm h f, .estat h f] → ∀ e, farFault far 16 = some e →
      raises i e) ∧
    (∀ e, farFault far 8 = some e → raises (.epeek h f) e)) ∧
  ∀ (a : Dword) (align : Nat),
    (2 ^ 52 ≤ a.toNat → farFault a align = some ⟨.illaddr, a⟩) ∧
    (a.toNat < 2 ^ 52 → a.toNat % align ≠ 0 → farFault a align = some ⟨.misalign, a⟩) ∧
    (a.toNat < 2 ^ 52 → a.toNat % align = 0 → farFault a align = none)

/-- R203, R207, R209, R256 to R260: fences, set ops and remote signals enter the port; `barw` awaits the release of an
open arrival and otherwise departs at once; `resv` sets its
range register, which in HINT mode has no effect on the L2, and a register that it disables keeps no line there, at once in every
slice (DESIGN CHOICE: log 107); a `bar`, `barr` or `barw` on a set that the context is no member of is refused with NOTMEMBER. -/
def Obligations.PortOps : Prop :=
  ∀ (h : Hdr) (f : Tri) (s : State), guardTrue s.cur h = true →
    let a := s.cur.s f.a.toNat
    let n := s.iss.cur
    let k := (f.imm.extractLsb' 0 8).toNat
    let idx := (f.imm.extractLsb' 0 3).toNat
    let member := n ∈ (s.set k).members
    (∃ t, exec (.fence h f) s = .next t ∧ s.queued t (.fence h f) a) ∧
    (∃ t, exec (.gleave h f) s = .next t ∧ s.queued t (.gleave h f) a) ∧
    (∃ t, exec (.hsigr h f) s = .next t ∧ s.queued t (.hsigr h f) a) ∧
    (member → ∃ t, exec (.bar h f) s = .next t ∧ s.queued t (.bar h f) a ∧
      (t.cur.port.departs.getLast?).any (fun d => d.set == k) = true) ∧
    (member → ∃ t, exec (.barr h f) s = .next t ∧ s.queued t (.barr h f) a ∧ t.cur.port.departs = s.cur.port.departs) ∧
    (member → s.arrivalOpen n k = true →
      ∃ t, exec (.barw h f) s = .next t ∧ (t.cur.port.departs.getLast?).any (fun d => d.set == k) = true) ∧
    (member → s.arrivalOpen n k = false →
      ∃ t, exec (.barw h f) s = .next t ∧ t.cur.port.departs = s.cur.port.departs ∧ t.cur.port.acquired = true) ∧
    (¬ member → ∀ i, i ∈ [Instr.bar h f, .barr h f, .barw h f] →
      ∃ t, exec i s = .next t ∧ t.iss.cfaults = s.iss.cfaults ++ [⟨.perm, 0x21⟩] ∧ t.cur.port = s.cur.port) ∧
    (∃ t, exec (.resv h f) s = .next t ∧
      ∃ r, lookup? idx (t.vf s.cur.id.vf).ranges = some r ∧ r.base = a.toNat / 65536 * 65536 ∧
        r.ways = (f.imm.extractLsb' 12 4).toNat ∧ r.granted ≤ r.ways ∧
        ((s.part (partOf s.cur.id.vf)).hint = true → t.l2 = s.l2) ∧
        ((s.part (partOf s.cur.id.vf)).hint = false → r.ways = 0 →
          ∀ x ∈ t.l2.lines, x.kept ≠ some (8 * s.cur.id.vf + idx)))

/-! ## Copy, envelope, intake and bound ops at issue -/

/-- R235 to R239, R408, R414: a card that passes its checks becomes a job of the context, a sealed one a job of the envelope that its
slot holds open, counted in SENT of its peer; with no room for the envelope's record the slot is voided with cause 9 and none of its
jobs stays (when the record is taken is log 65); `cpq` and `bbrd` land their samples at due 16,
`bbrd` that of the counter as its bundle found it, and that `cpq` counts what its own bundle posts is the model's reading (log
151); `bbw` waits on its counter, and once its bundle has issued it has its value where the counter is zero, and acquires. -/
def Obligations.CopyOps : Prop :=
  (∀ (c : Ctx) (q : PortReq) (k : Nat), c.port.queue = [q] → c.port.landings = [] → q.bbwOn = some k → q.landing = true →
    c.life.mute = false → c.life.state = .ready →
    (lookupD 0 k c.bb ≠ 0 → c.settleBbw = c) ∧
    (lookupD 0 k c.bb = 0 → c.settleBbw.port.queue = [] ∧ c.settleBbw.port.acquired = true ∧
      c.settleBbw.port.landings = [{ id := q.id, words := [(q.dest, 0)] }])) ∧
  ∀ (h : Hdr) (f : JobF) (g : Tri) (s : State), guardTrue s.cur h = true →
    let n := s.iss.cur
    let a := (s.cur.s f.a.toNat).toNat
    let k := (f.imm.extractLsb' 0 7).toNat
    let mine := s.jobs.filter fun j => j.ctx == n
    let slotOf := fun (p : Plan) => s.cur.slot p.card.env
    let recorded := fun (p : Plan) => ∃ c ∈ s.coords, c.eid = (slotOf p).eid
    let room := s.recordFree s.cur.id.vf = true
    let eidOf := fun (p : Plan) => if p.card.seal then (slotOf p).eid else 0
    let voids := fun (t : State) (p : Plan) => (t.cur.slot p.card.env).state = 4 ∧ (t.cur.slot p.card.env).cause = 9 ∧
      ∀ j ∈ t.jobs, j.eid ≠ (slotOf p).eid
    (∀ p, cardAddrFault s.cur.id.spSize a 128 = none → s.checkCard n (s.readCard n a) f.bb false 0 = .ok p →
      ((p.card.seal = true → recorded p ∨ room) →
        ∃ t j, exec (.cpj h f) s = .next t ∧ t.jobs = s.jobs ++ [j] ∧ j.ctx = n ∧ j.addr = a ∧ j.bytes = p.bytes ∧
          j.card = p.card.bytes ∧ j.eid = eidOf p ∧
          (p.card.seal = true → (t.cur.slot p.card.env).sent = assocSet p.card.peer
              ((lookupD 0 p.card.peer (slotOf p).sent + p.bytes) % 2 ^ 48) (slotOf p).sent ∧
            ∃ c ∈ t.coords, c.eid = (slotOf p).eid)) ∧
      (p.card.seal = true → ¬ recorded p → ¬ room → s.cur.life.state = .ready →
        ∃ t, exec (.cpj h f) s = .next t ∧ voids t p)) ∧
    (∀ ps, cardAddrFault s.cur.id.spSize a (128 * k) = none → s.checkCards n a f.bb k 0 0 = .ok ps →
      ((∀ p ∈ ps, p.card.seal = true → recorded p) →
        ∃ t js, exec (.cpc h f) s = .next t ∧ t.jobs = s.jobs ++ js ∧ js.map (·.bytes) = ps.map (·.bytes) ∧
          js.map (·.eid) = ps.map eidOf) ∧
      (∀ p ∈ ps, p.card.seal = true → ¬ recorded p → ¬ room → s.cur.life.state = .ready →
        ∃ t, exec (.cpc h f) s = .next t ∧ voids t p)) ∧
    (∀ p, cardAddrFault s.cur.id.spSize a 128 = none →
      (f.imm.extractLsb' 0 11).toNat < (s.part (partOf s.cur.id.vf)).coll.2 →
      s.checkCard n (s.readCard n a) f.bb true 0 = .ok p →
      ∃ t j, exec (.coll h f) s = .next t ∧ t.jobs = s.jobs ++ [j] ∧ j.ctx = n ∧
        j.step.any (fun x => x.entry == (f.imm.extractLsb' 0 11).toNat) = true) ∧
    (s.cur.life.mute = false → s.cur.life.state = .ready →
      (∃ t, exec (.cpq h g) s = .next t ∧ s.landsAt t g.d.toNat (BitVec.ofNat 64
        (match (g.imm.extractLsb' 0 2).toNat with
         | 0 => (mine.filter fun j => !j.started).length
         | 1 => (mine.filter fun j => j.started).length
         | _ => 64 - mine.length)) 16) ∧
      (∃ t, exec (.bbrd h g) s = .next t ∧ s.landsAt t g.d.toNat ((lookupD 0 g.a.toNat s.iss.bb).zeroExtend 64) 16)) ∧
    (∃ t, exec (.bbw h g) s = .next t ∧
      (t.cur.port.queue.any fun r => r.bbwOn == some g.a.toNat && r.dest == g.d.toNat) = true)

/-- R408, R410, R411, R413 to R415: `sopen` opens a slot that is not OPEN or POSTED under the EID of its next generation, and
refuses a mask of no device, of more than 16 or of one without a peer; `spost` posts an OPEN slot, does nothing on a VOID one and
is refused on others; `svoid` voids an OPEN or POSTED slot and does nothing on others; `sstat` and `swait` return the status
word, `swait` on a POSTED slot only once it is decided. A sealed store on an OPEN slot counts its bytes in SENT of its peer and
sends them there in a SEAL; on a VOID slot it does nothing; on others, and to a device outside the mask, it is refused; a peer out
of reach, or no room for the envelope's record, voids the slot. When the coordinator record is taken is the model's reading
(log 65), and that the state of the slot is tested before the mask is its choice (log 177). -/
def Obligations.EnvelopeOps : Prop :=
  (∀ (h : Hdr) (f : Tri) (s : State), guardTrue s.cur h = true → s.cur.life.mute = false → s.cur.life.state = .ready →
    let k := (f.imm.extractLsb' 0 4).toNat
    let e := s.cur.slot k
    let vf := s.cur.id.vf
    let mask := s.cur.s f.a.toNat
    let devs := maskDevices mask
    let eid := eidOf s.fabxy s.iss.cur k
    let peers := devs ≠ [] ∧ devs.length ≤ 16 ∧ ∀ d ∈ devs, (s.peerVf vf d).isSome = true
    let live := e.state = 1 ∨ e.state = 2
    let room := s.recordFree vf = true ∨ ∃ c ∈ s.coords, c.eid = e.eid
    let undecided := ∀ c ∈ s.coords, c.eid = e.eid → c.decision = none
    let refused := fun (t : State) (x : Dword) =>
      t.iss.cfaults = s.iss.cfaults ++ [⟨.perm, x⟩] ∧ t.cur.env = s.cur.env ∧ t.packets = s.packets
    let idle := fun (t : State) => t.iss.cfaults = s.iss.cfaults ∧ t.cur.env = s.cur.env ∧ t.packets = s.packets
    let voided := fun (t : State) (cause : Nat) => (t.cur.slot k).state = 4 ∧ (t.cur.slot k).cause = cause
    let returns := fun (t : State) => s.landsAt t f.d.toNat (BitVec.ofNat 64 (e.gen * 2 ^ 16 + e.cause * 2 ^ 4 + e.state)) 16
    (¬ live → peers → ∃ t, exec (.sopen h f) s = .next t ∧
      t.cur.slot k = { state := 1, gen := (t.cur.slot k).gen, eid := eid (t.cur.slot k).gen, mask := mask } ∧
      (e.gen + 1 < 2 ^ 44 → (∀ c ∈ s.coords, c.eid ≠ eid (e.gen + 1)) → (t.cur.slot k).gen = e.gen + 1)) ∧
    (live → ∃ t, exec (.sopen h f) s = .next t ∧ refused t 0x50) ∧
    (¬ live → ¬ peers → ∃ t, exec (.sopen h f) s = .next t ∧ refused t 0x51) ∧
    (e.state = 1 → room → ∃ t, exec (.spost h f) s = .next t ∧ t.cur.slot k = { e with state := 2 } ∧
      (t.cur.port.queue.any fun r => r.eid == e.eid && decide (r.work = .op (.spost h f))) = true) ∧
    (e.state = 1 → ¬ room → ∃ t, exec (.spost h f) s = .next t ∧ voided t 9) ∧
    (e.state = 4 → ∃ t, exec (.spost h f) s = .next t ∧ idle t) ∧
    (e.state ≠ 1 → e.state ≠ 4 → ∃ t, exec (.spost h f) s = .next t ∧ refused t 0x50) ∧
    (live → undecided → ∃ t, exec (.svoid h f) s = .next t ∧ voided t 1) ∧
    (¬ live → ∃ t, exec (.svoid h f) s = .next t ∧ idle t) ∧
    (∃ t, exec (.sstat h f) s = .next t ∧ returns t) ∧
    (e.state ≠ 2 → ∃ t, exec (.swait h f) s = .next t ∧ returns t) ∧
    (e.state = 2 → ∃ t, exec (.swait h f) s = .next t ∧ (t.cur.port.queue.any fun r => r.isSwait e.eid) = true)) ∧
  (∀ (h : Hdr) (f : MemF) (s : State), guardTrue s.cur h = true → s.cur.life.mute = false → s.cur.life.state = .ready →
    let e := s.cur.slot (sealEnv f)
    let vf := s.cur.id.vf
    let peer := sealPeer f
    let a := sealedAddr f s.cur
    let room := s.recordFree vf = true ∨ ∃ c ∈ s.coords, c.eid = e.eid
    let reached := s.reachable peer = true ∧ (s.peerVf vf peer).isSome = true
    let undecided := ∀ c ∈ s.coords, c.eid = e.eid → c.decision = none
    let both := fun (P : State → List Byte → Prop) =>
      (farFault a 8 = none → ∃ t, exec (.sst h f) s = .next t ∧ P t (natBytes 8 (s.cur.s f.d.toNat).toNat)) ∧
      (farFault a 64 = none → ∃ t, exec (.svst h f) s = .next t ∧ P t (laneBytes (s.cur.lanes f.d.toNat)))
    let refused := fun (x : Dword) => both fun t _ =>
      t.iss.cfaults = s.iss.cfaults ++ [⟨.perm, x⟩] ∧ t.cur.env = s.cur.env ∧ t.packets = s.packets
    let voided := fun (cause : Nat) => both fun t _ =>
      (t.cur.slot (sealEnv f)).state = 4 ∧ (t.cur.slot (sealEnv f)).cause = cause
    (e.state = 1 → e.mask.getLsbD peer = true → reached → room → both fun t data =>
      (t.cur.slot (sealEnv f)).sent = assocSet peer ((lookupD 0 peer e.sent + data.length) % 2 ^ 48) e.sent ∧
      ∃ m, (t.packets.getLast?).map (fun p => (p.2.dst, p.2.msg)) = some (peer, .seal m) ∧ m.eid = e.eid ∧
        m.writes = wholeWrites a.toNat data ∧ m.bytes = data.length ∧ m.mask = e.mask) ∧
    (e.state = 4 → both fun t _ => t.iss.cfaults = s.iss.cfaults ∧ t.cur.env = s.cur.env ∧ t.packets = s.packets) ∧
    (e.state ≠ 1 → e.state ≠ 4 → refused 0x50) ∧
    (e.state = 1 → e.mask.getLsbD peer = false → refused 0x52) ∧
    (e.state = 1 → e.mask.getLsbD peer = true → ¬ reached → undecided → voided 10) ∧
    (e.state = 1 → e.mask.getLsbD peer = true → reached → ¬ room → voided 9))

/-- R384: the intake ops on a ring that the VF has enter the port; R333, R344: a bound op becomes a routine of its bundle,
and without a binding it raises UNBOUND. -/
def Obligations.IntakeAndBoundOps : Prop :=
  ∀ (opc : BitVec 8) (h : Hdr) (f : Tri) (s : State), guardTrue s.cur h = true → s.iss.fault = none →
    let a := s.cur.s f.a.toNat
    ((s.ring? s.cur.id.vf (ringOf f)).isSome = true →
      (∃ t, exec (.itake h f) s = .next t ∧ s.queuedLanding t (.itake h f) a 16) ∧
      (∃ t, exec (.igive h f) s = .next t ∧ s.queued t (.igive h f) a) ∧
      (∃ t, exec (.istat h f) s = .next t ∧ s.queuedLanding t (.istat h f) a 16)) ∧
    (∀ b, lookup? opc.toNat s.cur.binds = some b →
      ∃ t r, exec (.boundOp opc h f) s = .next t ∧ t.iss.bound = s.iss.bound ++ [r] ∧ r.bind = b ∧
        r.micro.mpc = b.entry ∧ r.started = false) ∧
    (lookup? opc.toNat s.cur.binds = none →
      ∃ t, exec (.boundOp opc h f) s = .next t ∧
        t.iss.fault = some ⟨.unbound, BitVec.ofNat 64 (opc.toNat + 256 * s.iss.pos)⟩)

/-! ## Landing, traps, barriers -/

/-- R32, R82, R110, R113, R114, R128, R129, R174, R180, R278: a result due before the next bundle is written to its register,
with its sticky bits, and no other register of its file changes; `s0` stays zero, `p0` true and `q0` all ones; so are a control
register, the tile control, the descriptor and the tile bytes that an op owes, and its damage totals are added, not past 2^64 − 1;
one that an op of the array is still to write, or read, waits for it. That such a result waits for queued array ops that read or
write its tile, and that SAT and DZ appear with the landing, are the model's readings (log 121, log 26). -/
def Obligations.RegisterResultsLand : Prop :=
  (∀ (s : State) (n : Nat) (e : Deferred) (d : Nat) (v : Dword) (fl : BitVec 5),
    (s.ctx n).level.deferred = [e] → e.due ≤ (s.ctx n).level.count → e.eff = .scalar d v fl → e.slot < 7 →
    (s.ctx n).awaitsResult e = false →
    ∃ t, s.landDue n = .landed t ∧ (t.ctx n).s d = (if d = 0 then 0 else v) ∧
      (∀ k, k ≠ d → (t.ctx n).s k = (s.ctx n).s k) ∧ (t.ctx n).ctl.ctxst = (s.ctx n).ctl.ctxst ||| fl ∧
      (t.ctx n).level.deferred = [] ∧ s.sameMemory t) ∧
  (∀ (s : State) (n : Nat) (e : Deferred), (s.ctx n).level.deferred = [e] → e.due ≤ (s.ctx n).level.count → e.slot < 7 →
    (s.ctx n).dataArrived e = true → (s.ctx n).awaitsResult e = true ∨ (s.ctx n).awaitsArray e = true →
    s.landDue n = .busy) ∧
  (∀ (s : State) (n : Nat) (e : Deferred), (s.ctx n).level.deferred = [e] → e.due ≤ (s.ctx n).level.count → e.slot < 7 →
    (s.ctx n).awaitsResult e = false → (s.ctx n).awaitsArray e = false →
    (∀ num v, e.eff = .control num v →
      ∃ t, s.landDue n = .landed t ∧ s.sameRegs t ∧ s.sameMemory t ∧
        (num = 0x010 → (t.ctx n).ctl.ctxst = v.extractLsb' 0 5) ∧ (num = 0x011 → (t.ctx n).ctl.ctxctl = v.extractLsb' 0 2) ∧
        (num = 0x018 → (t.ctx n).trap.replay = v.getLsbD 8) ∧ (num = 0x019 → (t.ctx n).trap.pc = (v &&& ~~~0xF#64)) ∧
        (num = 0x01A → (t.ctx n).trap.info = v) ∧ (num = 0x01B → (t.ctx n).trap.handler = (v &&& ~~~0xF#64)) ∧
        (num = 0x020 → (t.ctx n).ctl.fpstat = v.extractLsb' 0 7) ∧ (num = 0x021 → (t.ctx n).ctl.dmgSat = v) ∧
        (num = 0x022 → (t.ctx n).ctl.dmgZero = v) ∧ (num = 0x023 → (t.ctx n).ctl.dmgSac = v) ∧
        (num = 0x024 → (t.ctx n).ctl.landLate = v) ∧
        (∀ k, k < 6 → (s.ctx n).level.loops.length = 6 → num = 0x040 + k → (t.ctx n).loop k = { (s.ctx n).loop k with lc := v })) ∧
    (∀ i x, e.eff = .tctl i x →
      ∃ t, s.landDue n = .landed t ∧ (t.ctx n).tctl i = x ∧ (∀ k, k ≠ i → (t.ctx n).tctl k = (s.ctx n).tctl k) ∧ s.sameRegs t) ∧
    (∀ i x, e.eff = .descriptor i x →
      ∃ t, s.landDue n = .landed t ∧ lookup? i (t.ctx n).ctl.desc = some x ∧
        (∀ k, k ≠ i → lookup? k (t.ctx n).ctl.desc = lookup? k (s.ctx n).ctl.desc) ∧ s.sameRegs t) ∧
    (∀ i ws, e.eff = .tileBytes i ws → (∀ w ∈ ws, w.1 < 8192) → (ws.map (·.1)).Nodup →
      ∃ t, s.landDue n = .landed t ∧ (∀ w ∈ ws, (t.ctx n).tileByte i w.1 = w.2) ∧
        (∀ k o, o < 8192 → (k ≠ i ∨ ∀ w ∈ ws, w.1 ≠ o) → (t.ctx n).tileByte k o = (s.ctx n).tileByte k o) ∧ s.sameRegs t) ∧
    (∀ sat zeroed sac, e.eff = .damage sat zeroed sac →
      ∃ t, s.landDue n = .landed t ∧ s.sameRegs t ∧
        (t.ctx n).ctl.dmgSat.toNat = min ((s.ctx n).ctl.dmgSat.toNat + sat) (2 ^ 64 - 1) ∧
        (t.ctx n).ctl.dmgZero.toNat = min ((s.ctx n).ctl.dmgZero.toNat + zeroed) (2 ^ 64 - 1) ∧
        (t.ctx n).ctl.dmgSac.toNat = min ((s.ctx n).ctl.dmgSac.toNat + sac) (2 ^ 64 - 1))) ∧
  (∀ (s : State) (n : Nat) (e : Deferred), (s.ctx n).level.deferred = [e] → e.due ≤ (s.ctx n).level.count → e.slot < 7 →
    (s.ctx n).awaitsResult e = false →
    (∀ d b, d < 32 → e.eff = .pred d b →
      ∃ t, s.landDue n = .landed t ∧ (t.ctx n).p d = (d == 0 || b) ∧
        ∀ k, k < 32 → k ≠ d → (t.ctx n).p k = (s.ctx n).p k) ∧
    (∀ d m v fl, e.eff = .lanePred d m v fl →
      ∃ t, s.landDue n = .landed t ∧
        (t.ctx n).q d = (if d = 0 then BitVec.allOnes 128 else ((s.ctx n).q d &&& ~~~m) ||| (v &&& m)) ∧
        ∀ k, k ≠ d → (t.ctx n).q k = (s.ctx n).q k) ∧
    (∀ d ws fl, e.eff = .vector d ws fl → (∀ w ∈ ws, w.1 < 128) → (ws.map (·.1)).Nodup →
      ∃ t, s.landDue n = .landed t ∧
        (∀ w ∈ ws, (t.ctx n).lane d w.1 = ((s.ctx n).lane d w.1 &&& ~~~w.2.1) ||| (w.2.2 &&& w.2.1)) ∧
        (∀ k i, i < 128 → (k ≠ d ∨ ∀ w ∈ ws, w.1 ≠ i) → (t.ctx n).lane k i = (s.ctx n).lane k i) ∧
        (t.ctx n).ctl.fpstat = (s.ctx n).ctl.fpstat ||| fl))

/-- R190, R201: a scratchpad store due before the next bundle is made in the context's window, low byte first, lane by lane, a later
lane over an earlier one; a load writes its
register, or each of its lanes, from the window as it stands; landed data are written to their register, and before they have arrived the context
waits. -/
def Obligations.DueAccessesLand : Prop :=
  ((∀ (s : State) (n : Nat) (e : Deferred) (ents size ea : Nat) (ws : List (Nat × Nat × Nat)),
    (s.ctx n).level.deferred = [e] → e.due ≤ (s.ctx n).level.count → e.slot < 7 →
    e.eff = .store ents size ea ws →
    let within := fun (w : Nat × Nat × Nat) (x : Nat) => w.2.1 ≤ x ∧ x < w.2.1 + size
    ∃ t, s.landDue n = .landed t ∧ s.sameRegs t ∧
      (∀ x, (∀ w ∈ ws, ¬ within w x) → t.spByte n x = s.spByte n x) ∧
      ∀ old w new i, ws = old ++ w :: new → i < size → (∀ y ∈ new, ¬ within y (w.2.1 + i)) →
        t.spByte n (w.2.1 + i) = (natBytes size w.2.2).getD i 0) ∧
  (∀ (s : State) (n : Nat) (e : Deferred) (d ty a : Nat),
    (s.ctx n).level.deferred = [e] → e.due ≤ (s.ctx n).level.count → e.slot < 7 → (s.ctx n).mat.queue = [] →
    e.eff = .loadScalar d ty a → (∀ i, i < Ty.width ty / 8 → s.spBad n (a + i) = false) →
    ∃ t, s.landDue n = .landed t ∧
      (t.ctx n).s d = (if d = 0 then 0 else extendTyped ty (natOfBytes (s.spBytes n a (Ty.width ty / 8)))) ∧
      ∀ k, k ≠ d → (t.ctx n).s k = (s.ctx n).s k)) ∧
  (∀ (s : State) (n : Nat) (e : Deferred) (ents ea d ty : Nat) (as : List (Nat × Nat)),
    (s.ctx n).level.deferred = [e] → e.due ≤ (s.ctx n).level.count → e.slot < 7 → (s.ctx n).mat.queue = [] →
    e.eff = .loadLanes ents ea d ty as → (∀ p ∈ as, p.1 < 128) → (as.map (·.1)).Nodup →
    (∀ p ∈ as, ∀ i, i < Ty.width ty / 8 → s.spBad n (p.2 + i) = false) →
    ∃ t, s.landDue n = .landed t ∧
      (∀ p ∈ as, (t.ctx n).lane d p.1 = (extendTyped ty (natOfBytes (s.spBytes n p.2 (Ty.width ty / 8)))).extractLsb' 0 32) ∧
      ∀ k i, i < 128 → (k ≠ d ∨ ∀ p ∈ as, p.1 ≠ i) → (t.ctx n).lane k i = (s.ctx n).lane k i) ∧
  (∀ (s : State) (n : Nat) (e : Deferred) (l : Landing) (d : Nat) (v : Dword),
    (s.ctx n).level.deferred = [e] → e.due ≤ (s.ctx n).level.count → e.slot < 7 → e.eff = .landing l.id →
    (s.ctx n).port.landings = [l] → l.words = [(d, v)] → l.vector = none → (s.ctx n).awaitsResult e = false →
    (l.arrived = false → s.landDue n = .late) ∧
    (l.arrived = true → ∃ t, s.landDue n = .landed t ∧ (t.ctx n).s d = (if d = 0 then 0 else v) ∧
      (t.ctx n).port.landings = []))

/-- R429, R430, R433, R434: a class-H cause at trap level 0 with a handler enters it: TL, TRAPCAUSE with REPLAY, TRAPINFO and
TRAPPC are set, level 1 starts empty with its loop counters read as zero, fetch goes to HANDLER, and registers, tiles,
accumulators, latches, the return stack and HBM stand; what level 0 is owed does not land at level 1; a class-F cause, a cause
at trap level 1 and a cause with a zero HANDLER end the context. -/
def Obligations.TrapDelivery : Prop :=
  (∀ (s : State) (n : Nat) (x : Trapped) (pc : Dword),
    x.cause.isFatal = false → (s.ctx n).trap.tl = false → (s.ctx n).trap.handler ≠ 0 →
    let t := s.takeTrap n x pc
    (t.ctx n).trap.tl = true ∧ (t.ctx n).trap.cause = BitVec.ofNat 8 x.cause.code ∧ (t.ctx n).trap.info = x.info ∧
      (t.ctx n).trap.replay = !(s.ctx n).trap.list.isEmpty ∧
      (t.ctx n).trap.pc = (pc &&& ~~~0xF#64) ∧ (t.ctx n).pc = (s.ctx n).trap.handler ∧ (t.ctx n).lv1 = {} ∧
      (t.ctx n).lv0 = (s.ctx n).lv0 ∧ (∀ k, k < 6 → t.readControl n (0x40 + k) = 0) ∧ (t.ctx n).mat = (s.ctx n).mat ∧
      (t.ctx n).ctl.ret = (s.ctx n).ctl.ret ∧ s.sameRegs t ∧ s.sameMemory t ∧ ∀ m, m ≠ n → t.ctx m = s.ctx m) ∧
  (∀ (s : State) (n : Nat) (x : Trapped) (pc : Dword),
    x.cause.isFatal = true ∨ (s.ctx n).trap.tl = true ∨ (s.ctx n).trap.handler = 0 →
    ((s.takeTrap n x pc).ctx n).life.state = .draining ∧ ((s.takeTrap n x pc).ctx n).life.mute = true) ∧
  (∀ (s t : State) (n : Nat), (s.ctx n).trap.tl = true → s.landDue n = .landed t →
    (t.ctx n).trap.tl = true ∧ (t.ctx n).lv0 = (s.ctx n).lv0)

/-- R138, R436: the return from the handler, with nothing held and nothing pending at level 1, resumes level 0 at TRAPPC. -/
def Obligations.ReturnResumes : Prop :=
  ∀ (s : State) (n : Nat), (s.ctx n).trap.tl = true → (s.ctx n).lv1.deferred = [] → (s.ctx n).trap.held = [] →
    (s.ctx n).trap.list = [] →
    let t := s.finishReturn n
    (t.ctx n).trap.tl = false ∧ (t.ctx n).pc = (s.ctx n).trap.pc ∧ (t.ctx n).lv0.count = (s.ctx n).lv0.count ∧
      (t.ctx n).regs = (s.ctx n).regs

/-- R256: the arrival of the last member releases a generation: every arrival is owed its release, the generation counts
up, and the arrivals start again; an earlier arrival only counts. -/
def Obligations.BarrierReleases : Prop :=
  ∀ (e : SetEntry) (n : Nat),
    ((∀ m ∈ e.members, m ∈ e.arrivals ++ [n]) →
      (e.arrive n).arrivals = [] ∧ (e.arrive n).gen = e.gen + 1 ∧ (e.arrive n).released = e.released ++ (e.arrivals ++ [n])) ∧
    (∀ m ∈ e.members, m ∉ e.arrivals ++ [n] →
      (e.arrive n).arrivals = e.arrivals ++ [n] ∧ (e.arrive n).gen = e.gen ∧ (e.arrive n).released = e.released)

/-! ## Uncorrectable errors -/

/-- R191, R202, R249, R281: a scratchpad load due now whose data hold an uncorrectable error does not land, and the cause ECC
ends its context; a store over such data clears the error; a far load of such data, and an atomic or a reduction on them,
fault with ECC and write nothing; an array op that reads such data ends the context, its cells as they were, and its tiles but for
what a `vtwr` still owes them. -/
def Obligations.UncorrectableErrors : Prop :=
  (∀ (s : State) (n : Nat) (e : Deferred) (x : Trapped), (s.ctx n).level.deferred = [e] →
    e.due ≤ (s.ctx n).level.count → e.slot < 7 →
    (∀ d ty a, e.eff = .loadScalar d ty a → (s.ctx n).mat.queue = [] → (∃ i, i < Ty.width ty / 8 ∧ s.spBad n (a + i) = true) →
      s.landDue n = .broken) ∧
    (∀ size lane a v, e.eff = .store 0 size 0 [(lane, a, v)] →
      ∃ t, s.landDue n = .landed t ∧ ∀ i, i < size → t.spBad n (a + i) = false) ∧
    (x.cause = .ecc → ((s.takeTrap n x (s.ctx n).pc).ctx n).life.state = .draining)) ∧
  (∀ (s : State) (n pa : Nat) (r : PortReq) (h : Hdr) (f : MemF), s.quiet n r → s.mapsTo n r pa false → 2 ≤ f.scope →
    s.isBad pa r.size = true →
    (r.work = .op (.ldf h f) → r.size ≤ 8 → ∃ t x, exec (.farLoadPerform n r.id (List.range 64)) s = .next t ∧
      x.cause = .ecc ∧ t.faults n r x ∧ s.sameMemory t) ∧
    (r.work = .op (.amo h f) → ∃ t x, exec (.amoPerform n r.id) s = .next t ∧ x.cause = .ecc ∧ t.faults n r x ∧
      s.sameMemory t) ∧
    (r.work = .op (.red h f) → ∃ t x, exec (.redPerform n r.id) s = .next t ∧ x.cause = .ecc ∧ t.faults n r x ∧
      s.sameMemory t)) ∧
  (∀ (s : State) (n : Nat) (q : ArrayOp) (rest : List ArrayOp) (k : Nat), (s.ctx n).mat.queue = q :: rest →
    s.isServed n q = true → (s.ctx n).life.state = .ready → k ∈ (s.ctx n).mat.bad → q.isRead k = true →
    ∃ t, exec (.arrayOpPerform n) s = .next t ∧ (t.ctx n).life.state = .draining ∧ (t.ctx n).mat.acc = (s.ctx n).mat.acc ∧
      ((∀ d ∈ (s.ctx n).allDeferred, ∀ i ws, d.eff ≠ .tileBytes i ws) → (t.ctx n).mat.tiles = (s.ctx n).mat.tiles))

/-! ## Far accesses performed -/

/-- R246, R247, R250, R253, R255: an atomic whose port is otherwise quiet replaces the location's bytes by the new value and answers
with the old one, a failed `cas` writes nothing, a `red` answers nothing and leaves the port; a `wta` returns the word at once when it differs or
its timeout is zero, and otherwise waits at the home agent until its cycles have run out and no envelope holds its line. -/
def Obligations.AtomicsAndWaitsPerform : Prop :=
  (∀ (s : State) (n pa : Nat) (r : PortReq) (h : Hdr) (f : MemF), s.quiet n r → s.mapsTo n r pa false →
    s.isBad pa r.size = false →
    let k := 2 ^ (8 * r.size)
    let m := natOfBytes (s.bytes pa r.size)
    let new := natBytes r.size (atomicNew h.typ f.aop m (r.w1.toNat % k))
    (r.work = .op (.amo h f) → ∃ t, exec (.amoPerform n r.id) s = .next t ∧ t.bytes pa r.size = new ∧
      s.sameOutside t pa r.size ∧ s.answered t n r [(f.d.toNat, extendTyped h.typ m)]) ∧
    (r.work = .op (.cas h f) → ∃ t, exec (.casPerform n r.id) s = .next t ∧
      t.bytes pa r.size = (if m = r.w1.toNat % k then natBytes r.size (r.w2.toNat % k) else s.bytes pa r.size) ∧
      s.sameOutside t pa r.size ∧ s.answered t n r [(f.d.toNat, extendTyped h.typ m)]) ∧
    (r.work = .op (.red h f) → ∃ t, exec (.redPerform n r.id) s = .next t ∧ t.bytes pa r.size = new ∧
      s.sameOutside t pa r.size ∧ (t.ctx n).port.queue = [])) ∧
  (∀ (s : State) (n pa : Nat) (r : PortReq) (h : Hdr) (f : MemF), r.work = .op (.wta h f) →
    (s.quiet n r → s.mapsTo n r pa false → s.isBad pa 8 = false → (s.dword pa ≠ r.w1 ∨ r.w2 = 0) →
      ∃ t, exec (.wtaArrival n r.id) s = .next t ∧ s.answered t n r [(f.d.toNat, s.dword pa)] ∧ s.sameMemory t) ∧
    (s.quiet n r → s.mapsTo n r pa false → s.isBad pa 8 = false → s.dword pa = r.w1 → r.w2 ≠ 0 → (∀ k, s.waitsAt k < 1024) →
      ∃ t, exec (.wtaArrival n r.id) s = .next t ∧
        (t.ctx n).port.queue = [{ r with stage := .waiting, landing := true, pa := pa }] ∧ s.sameMemory t) ∧
    ((s.ctx n).port.queue = [r] → r.stage = .waiting → r.landing = true → (s.ctx n).port.landings = [] →
      (s.ctx n).life.mute = false → (s.ctx n).life.state = .stalled → s.isHeld r.pa 8 = false →
      r.deadline ≤ (s.core (coreOf n)).cycle.toNat →
      ∃ t, exec (.wtaTimeout n r.id) s = .next t ∧ s.answered t n r [(f.d.toNat, s.dword r.pa)]))

/-- R41, R198, R199, R209: a far load at device scope answers with the bytes of HBM, and in HINT mode with the hint `none` it
leaves the L2 without its line; a far store at device scope writes its bytes, is performed, and leaves every other byte. -/
def Obligations.FarAccessesPerform : Prop :=
  ∀ (s : State) (n pa : Nat) (r : PortReq) (h : Hdr) (f : MemF), s.quiet n r → s.mapsTo n r pa false → 2 ≤ f.scope →
    let all := List.range 64
    (r.work = .op (.ldf h f) → r.size ≤ 8 → s.isBad pa r.size = false →
      ∃ t, exec (.farLoadPerform n r.id all) s = .next t ∧
        s.answered t n r [(f.d.toNat, loadedValue h.typ (s.bytes pa r.size))] ∧ s.sameMemory t ∧
        ((s.part (partOf (s.ctx n).id.vf)).hint = true → f.fn.extractLsb' 6 2 = 3 → (∀ x ∈ s.l2.lines, x.line ≠ pa / 64) →
          t.l2 = s.l2)) ∧
    (r.work = .op (.vldf h f) → s.isBad pa 512 = false →
      ∃ t, exec (.farLoadPerform n r.id all) s = .next t ∧ (t.ctx n).port.queue = [] ∧
        (t.ctx n).port.landings = [{ id := r.id, vector := some (f.d.toNat, s.bytes pa 512) }] ∧ s.sameMemory t) ∧
    (r.work = .op (.stf h f) → r.size ≤ 8 →
      ∃ t, exec (.farStorePerform n r.id all) s = .next t ∧ t.bytes pa r.size = natBytes r.size r.w1.toNat ∧
        s.sameOutside t pa r.size ∧ (t.entry n r.id).any (fun q => q.stage == .performed) = true) ∧
    (r.work = .op (.vstf h f) → r.vec.length = 512 →
      ∃ t, exec (.farStorePerform n r.id all) s = .next t ∧ t.bytes pa 512 = r.vec ∧ s.sameOutside t pa 512 ∧
        (t.entry n r.id).any (fun q => q.stage == .performed) = true)

/-- R30, R53, R200, R201, R205, R206: a prefetch leaves the port; an acknowledged access leaves it and its signal is complete;
data reach the landing buffer, once it has an entry for them; a refused ember load may be sent again; a complete signal adds its amount to the semaphore,
which saturates. -/
def Obligations.PortAnswers : Prop :=
  (∀ (s : State) (n id : Nat) (r g : PortReq) (h : Hdr) (f : MemF),
    (r.work = .op (.pref h f) → s.quiet n r → s.prefMiss n r = none →
      ∃ t, exec (.farLoadPerform n r.id []) s = .next t ∧ (t.ctx n).port.queue = []) ∧
    (r.work = .op (.cflush h f) → s.quiet n r →
      ∃ t, exec (.farStorePerform n r.id []) s = .next t ∧ (t.ctx n).port.queue = [{ r with stage := .performed }] ∧
        s.sameMemory t) ∧
    (∀ k v, (s.ctx n).port.queue = [r, g] → r.stage = .performed → r.sig = some g.id → g.id ≠ r.id → g.work = .signal k v →
      ∃ t, exec (.farStoreAck n r.id) s = .next t ∧ (t.ctx n).port.queue = [{ g with stage := .pending }]) ∧
    (∃ t, exec (.landingDataArrival n id) s = .next t ∧ (t.ctx n).port.landings =
      (s.ctx n).port.landings.map fun l =>
        if l.id = id ∧ (l.queued = false ∨ (s.ctx n).landingRoom l.slots = true) then { l with arrived := true, queued := false }
        else l) ∧
    ((s.ctx n).port.queue = [r] → r.stage = .refused →
      ∃ t, exec (.emberLoadResend n r.id) s = .next t ∧ (t.ctx n).port.queue = [{ r with stage := .pending }])) ∧
  (∀ (s : State) (n k v : Nat) (r : PortReq), s.quiet n r → r.work = .signal k v →
    ∃ t, exec (.semaphoreSignal n r.id) s = .next t ∧ t.sem n k = min 0xFFFF (s.sem n k + v) ∧
      (t.ctx n).port.queue = [] ∧ s.sameMemory t)

/-- R202, R251, R434, R435: a later fault that reaches the port puts its access in the replay list and enters the handler; while
the handler runs one of level-0 work is held, and one of level-1 work after the return is NESTED and ends the context; a
reduction's fault becomes a REDLOG entry instead. -/
def Obligations.LaterFaults : Prop :=
  ∀ (s : State) (n : Nat) (r : PortReq) (x : Trapped), (s.ctx n).port.queue = [r] →
    (s.ctx n).port.faults = [⟨r.id, x⟩] → (s.ctx n).life.state = .ready →
    (r.isRed = false → (s.ctx n).routines = [] → x.cause.isFatal = false →
      ((s.ctx n).trap.tl = true → r.level = false → (s.ctx n).trap.held = [] →
        ∃ t, exec (.farFaultArrival n r.id) s = .next t ∧ (t.ctx n).trap.held = [x] ∧ (t.ctx n).trap.tl = true ∧
          (t.ctx n).pc = (s.ctx n).pc ∧ (t.ctx n).port.queue = []) ∧
      ((s.ctx n).trap.tl = false → r.level = true →
        ∃ t, exec (.farFaultArrival n r.id) s = .next t ∧ (t.ctx n).life.state = .draining)) ∧
    (r.isRed = false → (s.ctx n).routines = [] → (s.ctx n).trap.tl = false → (s.ctx n).trap.handler ≠ 0 → r.level = false →
      (s.ctx n).trap.list = [] → x.cause.isFatal = false →
      ∃ t, exec (.farFaultArrival n r.id) s = .next t ∧
        (t.ctx n).trap.list = [{ r with stage := .pending, landing := false, immed := false }] ∧
        (t.ctx n).trap.tl = true ∧ (t.ctx n).trap.cause = BitVec.ofNat 8 x.cause.code ∧
        (t.ctx n).pc = (s.ctx n).trap.handler ∧ (t.ctx n).port.queue = [] ∧ (t.ctx n).port.faults = []) ∧
    (r.isRed = true → (s.ctx n).ctl.redlog.length < 32 →
      ∃ t e, exec (.redlogAppend n r.id) s = .next t ∧ (t.ctx n).ctl.redlog = (s.ctx n).ctl.redlog ++ [e] ∧
        e.addr = r.addr ∧ (t.ctx n).port.queue = [] ∧ (t.ctx n).trap.tl = (s.ctx n).trap.tl)

/-- R256 to R260: an arrival, a release, a leaving and a remote signal at the set's home agent; an arrival of a context that is no
member any more is NOTMEMBER. -/
def Obligations.SetEvents : Prop :=
  ∀ (s : State) (n m : Nat) (r : PortReq) (h : Hdr) (f : Tri),
    let k := (f.imm.extractLsb' 0 8).toNat
    let sem := (f.imm.extractLsb' 8 8).toNat
    let v := if f.fn.getLsbD 0 then (f.imm.extractLsb' 16 16).toNat else min r.addr.toNat 0xFFFF
    (s.quiet n r → r.work = .op (.barr h f) → n ∈ (s.set k).members → (s.ctx n).ctl.redlog = [] →
      ∃ t, exec (.barrierArrival n r.id) s = .next t ∧ t.set k = (s.set k).arrive n ∧ (t.ctx n).port.queue = []) ∧
    (s.quiet n r → r.work = .op (.barr h f) → n ∉ (s.set k).members →
      ∃ t, exec (.barrierArrival n r.id) s = .next t ∧ t.faults n r ⟨.perm, 0x21⟩ ∧ t.sets = s.sets) ∧
    (n ∈ (s.set k).released → (s.ctx n).life.state ≠ .saved →
      ∃ t, exec (.barrierRelease n k) s = .next t ∧ n ∉ (t.set k).released ∧
        (∀ d ∈ (t.ctx n).port.departs, d.set ≠ k) ∧ (t.ctx n).port.acquired = true) ∧
    (s.quiet n r → r.work = .op (.gleave h f) → n ∈ (s.set k).members →
      ∃ t, exec (.gleavePerform n r.id) s = .next t ∧ t.set k = (s.set k).leave n ∧ n ∉ (t.set k).members ∧
        (t.ctx n).port.queue = []) ∧
    (s.quiet n r → r.work = .op (.hsigr h f) → (s.set k).members = [m] → (s.ctx m).id.vf = (s.ctx n).id.vf →
      sem < (s.ctx m).id.semCount → (s.ctx m).life.state = .ready →
      ∃ t, exec (.hsigrDeliver n r.id) s = .next t ∧ t.sem m sem = min 0xFFFF (s.sem m sem + v))

/-! ## Ember cells -/

/-- R307, R311, R319, R320, R324 to R328: what each ember op does to its cell once its port is otherwise quiet: `efail` leaves its
code in CAUSE with bit 3 set and `earm` clears CAUSE; a load that waits at the cell gets its bytes when it is filled, and EMBFAULT
when it fails; the expiry of EMBLIMIT makes a queued KINDLED cell FAULTED and frees its record. That `epeek` of data with an
uncorrectable error is ECC rests on R202 of 06_memory_ports, and its TRAPINFO of zero is the model's reading (log 10). -/
def Obligations.EmberOpsPerform : Prop :=
  (∀ (s : State) (n pa : Nat) (r : PortReq) (h : Hdr) (f : MemF), s.quiet n r → s.mapsTo n r pa true →
    let words := bytesLE 8 r.w1 ++ bytesLE 8 r.w2
    (r.work = .op (.emake h f) → recipeOk r.w2 = true →
      ctrlSet r.w2 = (s.region (s.ctx n).id.vf r.addr.toNat).elim 0 (·.set) → s.tag pa ≠ 2 →
      ∃ t, exec (.emakePerform n r.id) s = .next t ∧ t.tag pa = 1 ∧ t.bytes pa 16 = words ∧ s.sameOutside t pa 16 ∧
        (t.ctx n).port.queue = []) ∧
    (r.work = .op (.emake h f) → recipeOk r.w2 = true →
      ctrlSet r.w2 = (s.region (s.ctx n).id.vf r.addr.toNat).elim 0 (·.set) → s.tag pa = 2 →
      ∃ t, exec (.emakePerform n r.id) s = .next t ∧ t.faults n r ⟨.embstore, r.addr⟩ ∧ s.sameMemory t) ∧
    (r.work = .op (.efill h f) → (s.ctx n).ctl.redlog = [] → s.ownsCell n pa = true →
      ∃ t, exec (.efillPerform n r.id) s = .next t ∧ t.tag pa = 0 ∧ t.bytes pa 16 = words ∧ s.sameOutside t pa 16 ∧
        (t.ctx n).port.queue = [] ∧ ∀ x ∈ t.hearths, x.cell ≠ pa) ∧
    (r.work = .op (.efail h f) → s.ownsCell n pa = true →
      ∃ t, exec (.efailPerform n r.id) s = .next t ∧ t.tag pa = 3 ∧ ctrlCause (t.cellCtrl pa) = 8 + r.w1.toNat % 8 ∧
        s.sameOutside t (pa + 8) 8 ∧ (t.ctx n).port.queue = []) ∧
    (r.work = .op (.earm h f) → s.tag pa = 3 →
      ∃ t, exec (.earmPerform n r.id) s = .next t ∧ t.tag pa = 1 ∧ ctrlCause (t.cellCtrl pa) = 0 ∧
        s.sameOutside t (pa + 8) 8 ∧ (t.ctx n).port.queue = []) ∧
    (r.work = .op (.earm h f) → s.tag pa ≠ 3 →
      ∃ t, exec (.earmPerform n r.id) s = .next t ∧ t.tag pa = s.tag pa ∧ s.sameMemory t ∧ (t.ctx n).port.queue = []) ∧
    (r.work = .op (.epeek h f) → s.isBad pa 8 = true →
      ∃ t, exec (.epeekPerform n r.id) s = .next t ∧ t.faults n r ⟨.ecc, 0⟩ ∧ s.sameMemory t) ∧
    (r.work = .op (.epeek h f) → s.isBad pa 8 = false →
      ∃ t, exec (.epeekPerform n r.id) s = .next t ∧ s.sameMemory t ∧ t.tag pa = s.tag pa ∧
        s.answered t n r [(f.d.toNat, s.emberStatus (s.ctx n).id.vf r.addr.toNat pa true), (f.d.toNat + 1, s.dword pa)]) ∧
    (r.work = .op (.estat h f) →
      ∃ t, exec (.estatPerform n r.id) s = .next t ∧ s.sameMemory t ∧
        s.answered t n r [(f.d.toNat, s.emberStatus (s.ctx n).id.vf r.addr.toNat pa true),
          (f.d.toNat + 1, s.hearthWord (cellOf pa))])) ∧
  (∀ (s : State) (cell cause n : Nat) (bs : List Byte) (w : EmbWaiter) (r : PortReq) (h : Hdr) (f : MemF),
    s.waiters = [w] → w.cell = cell → w.loader = .port n r.id → (s.ctx n).port.queue = [r] → r.work = .op (.ldf h f) →
    r.done = [] → r.fails = [] → r.landing = true → bs.length = 16 → w.va ≤ r.addr.toNat →
    r.addr.toNat + r.size ≤ w.va + 16 → (s.ctx n).life.mute = false → (s.ctx n).life.state ≠ .draining →
    (s.ctx n).port.landings = [] →
    let filled := s.fillCell cell bs
    let failed := s.failCell cell cause
    filled.waiters = [] ∧ (filled.ctx n).port.queue = [] ∧ (filled.ctx n).port.landings =
      [{ id := r.id, words := [(f.d.toNat, loadedValue h.typ ((bs.drop (r.addr.toNat - w.va)).take r.size))] }] ∧
    failed.waiters = [] ∧ (failed.ctx n).port.faults.getLast? = some ⟨r.id, embFault cause w.va⟩) ∧
  (∀ (s : State) (h : Hearth), s.hearths = [h] → h.eval = none → s.waiters = [] →
    (s.region h.vf h.va).any (fun r => r.limit != 0) = true →
    ∃ t, exec (.emblimitExpiry h.cell) s = .next t ∧ t.tag h.cell = 3 ∧ t.hearths = [])

/-! ## Translation -/


/-- R455, R457, R458: a walk that has a slot and finds a leaf fills its part of the shared TLBs and ends; one that finds no entry ends in a
page fault, unless only hints wait for it (R196), and the record of the fault is then posted; MAP ends the parked walk so that its masters ask again; REFUSE ends it with a
violation. -/
def Obligations.WalkEvents : Prop :=
  ∀ (s : State) (w : Walk), s.walks = [w] →
    (w.stage = .walking → s.hasSlot w = true → ∀ va size pa bits, s.walk w.vf (w.page * 2 ^ 16) = .leaf va size pa bits →
      ∃ t, exec (.walkComplete w.id) s = .next t ∧ t.walks = [] ∧ s.sameMemory t ∧
        ((lookupD [] w.pool t.tlbs).head? = some { vf := w.vf, va := va, size := size, pa := pa, bits := bits } ∨
          s.sharedShare w.pool (partOf w.vf) = 0)) ∧
    (w.stage = .walking → s.hasSlot w = true → s.walk w.vf (w.page * 2 ^ 16) = .fault →
      let rest := w.waiters.filter fun m => !s.isHintMaster m
      ∃ t, exec (.walkComplete w.id) s = .next t ∧ s.sameMemory t ∧
        (w.waiters = [] ∨ rest ≠ [] → t.walks = [{ w with stage := .faulted, waiters := rest }]) ∧
        (w.waiters ≠ [] → rest = [] → t.walks = [])) ∧
    (w.stage = .faulted →
      ∃ t, exec (.faultRecordPost w.id) s = .next t ∧ t.walks = [{ w with stage := .posted }] ∧
        ∃ x, t.outbox = s.outbox ++ [.faultRecord (partOf w.vf) w.id w.vf (w.page * 2 ^ 16) x]) ∧
    (w.stage = .posted →
      (∃ t, exec (.map (partOf w.vf) w.id) s = .next t ∧ t.walks = [] ∧ t.ctxs = s.ctxs) ∧
      (w.waiters = [] → ∃ t, exec (.refuse (partOf w.vf) w.id) s = .next t ∧ t.walks = []) ∧
      (∀ n id, w.waiters = [.port n id] →
        (∃ r, s.entry n id = some r ∧ (s.ctx n).port.queue = [r] ∧ r.fence? = none ∧ r.isHint = false) →
        (s.ctx n).life.mute = false → (s.vf (s.ctx n).id.vf).freeze = false →
        ∃ t, exec (.refuse (partOf w.vf) w.id) s = .next t ∧ t.walks = [] ∧
          ∃ va, (t.ctx n).port.faults = (s.ctx n).port.faults ++ [⟨id, ⟨.illaddr, BitVec.ofNat 64 va⟩⟩]))

/-- R451, R454 to R456: a miss starts a walk of the page, with its master as the first waiter; an INVALIDATE that completes leaves
no TLB an entry of the VF that meets the range; a table-window write stores its eight bytes and no other byte changes. -/
def Obligations.TranslationEvents : Prop :=
  (∀ (s : State) (m : Master) (vf va len : Nat),
    (∀ pool v a, s.missOf m = some (pool, v, a) → s.walks = [] →
      ∃ t w, exec (.tlbMiss m) s = .next t ∧ t.walks = [w] ∧ w.vf = v ∧ w.page = a / 2 ^ 16 ∧ w.waiters = [m] ∧
        w.stage = .walking) ∧
    (s.ready = true → ∃ t, exec (.invalidate vf va len) s = .next t ∧ (vf, va, len) ∈ t.invals) ∧
    (s.ready = false → exec (.invalidate vf va len) s = .next s) ∧
    ((vf, va, len) ∈ s.invals → ∃ t, exec (.invalidateComplete vf va len) s = .next t ∧
      (∀ p ∈ t.tlbs, ∀ e ∈ p.2, e.meets vf va len = false) ∧
      (∀ p ∈ t.cores, ∀ e ∈ p.2.tlb, e.meets vf va len = false))) ∧
  (∀ (s : State) (w : TableWrite), w.addr % 8 = 0 → s.ownsRange w.part w.addr 8 = true →
    s.isHeld w.addr 8 = false → s.entriesAt w.part w.addr = [] →
    ∃ t, exec (.tableWindowWrite w) s = .next t ∧ t.bytes w.addr 8 = natBytes 8 w.value.toNat ∧ s.sameOutside t w.addr 8)

/-! ## Supervisor and management core -/


/-- R96, R127, R240, R332, R367, R368, R371, R373, R375 to R377, R391, R392, R401, R405, R406, R423, R453, R459, R460, R470, R481:
the supervisor's commands, and its writes of every register, take effect with operands in range as their rules say; a value of
LIMIT out of range, and what belongs to a partition or VF in use, change nothing but the answer. The statuses of refused commands
and the ranges of the registers are the model's reading (log 83, log 84); so are that a PARTITION_CREATE which would take the unit of a
line that an envelope has staged answers BUSY (log 135), and what a ROOT is refused for (log 81, log 166). -/
def Obligations.SupervisorCommands : Prop :=
  (∀ (s : State) (p : PartitionCmd) (k : KeySlotCmd) (vf root core wt part idx base : Nat) (freeze : Bool)
    (rw : ReductionWindow) (words : List (BitVec 256)) (lists : List (Nat × List Nat)) (members : List Nat), s.ready = true →
    (s.partInUse p.part = false → s.losesStaged p = false → s.partitionOk p = true →
      ∃ t, exec (.partitionCreate p) s = .next t ∧ (t.part p.part).created = true ∧ (t.part p.part).cores = p.cores ∧
        (t.part p.part).units = p.units ∧ (t.part p.part).sets = p.sets ∧ (t.part p.part).keys = p.keys ∧
        (t.part p.part).rings = p.rings ∧ (t.part p.part).coll = p.coll) ∧
    (s.partInUse p.part = true ∨ s.losesStaged p = true → ∃ t, exec (.partitionCreate p) s = .next t ∧ t.parts = s.parts ∧
      t.outbox = s.outbox ++ [.refused 0x0E]) ∧
    (vf < 192 → s.partExists (partOf vf) = true → (s.vf vf).state = .free → (s.rootWrite vf root).isSome = true →
      ∃ t, exec (.vfCreate vf root freeze) s = .next t ∧ (t.vf vf).state = .active ∧ (t.vf vf).root = root ∧
        (t.vf vf).freeze = freeze ∧ (t.vf vf).records = []) ∧
    (core < 256 → wt < 256 → s.vfExists vf = true → core ∈ (s.part (partOf vf)).cores →
      ∃ t, exec (.vfWeightWrite core vf wt) s = .next t ∧ (lookupD {} vf (t.core core).sel.shares).weight = wt ∧
        (lookupD {} vf (t.core core).sel.shares).quantum = (lookupD {} vf (s.core core).sel.shares).quantum) ∧
    ((s.part k.part).keys.1 ≤ k.slot → k.slot < (s.part k.part).keys.1 + (s.part k.part).keys.2 → k.state < 3 →
      (∀ v, k.owner = some v → partOf v = k.part) →
      ∃ t x, exec (.keySlotWrite k) s = .next t ∧ lookup? k.slot t.keys = some x ∧ x.owner = k.owner ∧ x.state = k.state ∧
        x.epoch = k.epoch ∧ x.key0 = k.key0 ∧ x.key1 = k.key1 ∧ x.tss = k.tss) ∧
    (s.partExists part = true → s.partInUse part = false → idx < 16 → rw.redop ∈ [1, 2, 5, 6] →
      ∃ t, exec (.reductionWindowRegister part idx rw) s = .next t ∧ lookup? idx (t.part part).windows = some rw) ∧
    (s.partExists part = true → base + words.length ≤ (s.part part).coll.2 →
      (∀ l ∈ lists, l.1 < 16 ∧ l.2.length ≤ 64 ∧ ∀ d ∈ l.2, d < 64) → (lists.map (·.1)).Nodup →
      ∃ t, exec (.collectiveRoutineLoad part base words lists) s = .next t ∧
        lookupList 0 ((s.part part).coll.1 + base) words.length t.coll = words ∧
        ∀ l ∈ lists, lookup? l.1 (t.part part).lists = some l.2) ∧
    (s.setLive idx = false → idx ∈ (s.part part).sets → (∀ n ∈ members, n < 1024 ∧ coreOf n ∈ (s.part part).cores) →
      ∃ t, exec (.setEntryRewrite part idx members) s = .next t ∧ (t.set idx).members = members.eraseDups ∧
        (t.set idx).arrivals = []) ∧
    (s.setLive idx = true → ∃ t, exec (.setEntryRewrite part idx members) s = .next t ∧ t.sets = s.sets ∧
      t.outbox = s.outbox ++ [.refused 0x0E])) ∧
  (∀ (s : State) (part v a b : Nat) (on : Bool) (keys : List (List Byte)), s.ready = true → s.partExists part = true →
    let writes := fun (r : SupReg) (P : Partition → Prop) =>
      ∃ t, exec (.supervisorRegisterWrite r) s = .next t ∧ P (t.part part)
    let others := s.otherParts part
    (s.partInUse part = false →
      (64 ≤ v → v ≤ 4096 → writes (.limit part v) fun p => p.limit = v) ∧
      (1 ≤ v → v ≤ 10000 → writes (.preptime part v) fun p => p.preptime = v) ∧
      (100 ≤ v → v ≤ 10000000 → writes (.indoubt part v) fun p => p.indoubt = v) ∧
      (v + sumOf Partition.records (others.filter (·.created)) ≤ 4096 → writes (.records part v) fun p => p.records = v) ∧
      (v + sumOf Partition.ways others ≤ 12 → (s.onPart part fun p => { p with ways := v }).waysGiven part ≤ v →
        writes (.wayQuota part v) fun p => p.ways = v) ∧
      writes (.residency part on) (fun p => p.hint = on) ∧
      (v < 4 → (s.tlbOfOthers part v).1 + a ≤ 65536 - 24 * 512 → (s.tlbOfOthers part v).2 + b ≤ 1024 - 24 * 8 →
        writes (.tlbShare part v a b) fun p => lookup? v p.tlb = some (a, b))) ∧
    (keys.length ≤ 8 → writes (.signature part on keys) fun p => p.required = on ∧ p.trusted = keys) ∧
    (v < 64 ∨ 4096 < v →
      ∃ t, exec (.supervisorRegisterWrite (.limit part v)) s = .next t ∧ t.parts = s.parts) ∧
    (s.partInUse part = true → ∀ r, r ∈ [SupReg.limit part v, .preptime part v, .indoubt part v, .records part v,
        .wayQuota part v, .residency part on, .tlbShare part v a b] →
      ∃ t, exec (.supervisorRegisterWrite r) s = .next t ∧ t.parts = s.parts ∧ t.outbox = s.outbox ++ [.refused 0x0E])) ∧
  (∀ (s : State) (vf v a b c d : Nat) (on : Bool) (note : Option (Nat × Nat)), s.ready = true → s.vfExists vf = true →
    let writes := fun (r : SupReg) (P : Vf → Prop) =>
      ∃ t, exec (.supervisorRegisterWrite r) s = .next t ∧ P (t.vf vf)
    (s.partInUse (partOf vf) = false →
      (s.onVf vf fun x => { x with staging := some v }).stagingGiven (partOf vf) ≤ 2 ^ 24 →
      writes (.staging vf v) fun x => x.staging = some v) ∧
    ((∀ r ∈ (s.vf vf).ranges, r.2.ways = 0) →
      (s.onVf vf fun x => { x with ways := some v }).waysGiven (partOf vf) ≤ (s.part (partOf vf)).ways →
      writes (.vfWays vf v) fun x => x.ways = some v) ∧
    ((s.rootWrite vf v).isSome = true → writes (.root vf v) fun x => x.root = v) ∧
    (s.rootWrite vf v = none → ∃ t, exec (.supervisorRegisterWrite (.root vf v)) s = .next t ∧ t.vfs = s.vfs) ∧
    (s.vfInUse vf = false → writes (.policy vf on) fun x => x.freeze = on) ∧
    (s.vfInUse vf = true → ∃ t, exec (.supervisorRegisterWrite (.policy vf on)) s = .next t ∧ t.vfs = s.vfs ∧
      t.outbox = s.outbox ++ [.refused 0x0E]) ∧
    (a < 64 → (writes (.peer vf a (some v)) fun x => lookup? a x.peers = some v) ∧
      writes (.peer vf a none) fun x => lookup? a x.peers = none) ∧
    (a < 4096 → (b < 16 → writes (.hostEntry vf a (some (b, c, d, v))) fun x =>
        lookup? a x.hostWins = some { qp := b, addr := c, rkey := d, len := v }) ∧
      writes (.hostEntry vf a none) fun x => lookup? a x.hostWins = none) ∧
    (a < 8 → (2 ^ 16 ≤ c → c ≤ 2 ^ 52 → writes (.window vf a (some (b, c, d, on, !on))) fun x =>
        lookup? a x.windows = some { base := b, len := c, rkey := d, read := on, write := !on }) ∧
      writes (.window vf a none) fun x => lookup? a x.windows = none) ∧
    (a < 16 → v ∈ [1024, 2048, 4096] → ∃ t, exec (.supervisorRegisterWrite (.queuePair vf a v)) s = .next t ∧
      (t.queuePair vf a).mtu = v) ∧
    (s.ringsOk vf [(a, { base := b, size := c, policy := d, notify := note })] = true → ∃ t r,
      exec (.supervisorRegisterWrite (.ring vf a b c d note)) s = .next t ∧ t.ring? vf a = some r ∧ r.base = b ∧ r.size = c ∧
        r.policy = d ∧ r.notify = note) ∧
    (writes (.windowKeys vf a b) fun x => x.launchKey = a ∧ x.statusKey = b) ∧
    (a < 10 → writes (.mac a vf v) fun x => lookup? a x.macs = some v) ∧
    (a < 256 → 1 ≤ v → v + s.framesOfOthers a vf ≤ 8 → ∃ t, exec (.supervisorRegisterWrite (.frames a vf v)) s = .next t ∧
      lookup? vf (t.core a).quotas = some v)) ∧
  ∀ (s : State) (port xy cols rows : Nat) (split : Bool) (broken : List (Nat × Nat)), s.ready = true →
    (port < 10 → ∃ t, exec (.supervisorRegisterWrite (.portMode port split)) s = .next t ∧ lookup? port t.split = some split) ∧
    (xy < 64 → 1 ≤ cols → cols ≤ 8 → 1 ≤ rows → rows ≤ 8 → fabCol xy < cols → fabRow xy < rows → s.packets = [] →
      (∀ p ∈ s.livePorts, (lookup? p (joinPorts xy cols rows s.links)).isSome = true) →
      ∃ t, exec (.supervisorRegisterWrite (.fabric xy cols rows broken)) s = .next t ∧ t.fabxy = xy ∧ t.fabCols = cols ∧
        t.fabRows = rows ∧ t.broken = broken ∧ t.links = joinPorts xy cols rows s.links)

/-- R478 to R480, R483: what the management core does; a boot with no failing step leaves the device READY with memory,
contexts and VFs as at reset, and a step that fails leaves READY clear and is reported. That SPDM requests need a negotiation
before, what the responses hold, and what a failed boot has measured are the model's reading (log 102, log 103). -/
def Obligations.ManagementEvents : Prop :=
  (∀ (s : State) (reg watts : Nat) (value nonce : List Byte), s.ready = true →
    let answers := fun (t : State) (d : List Byte) => t = { s with outbox := s.outbox ++ [.spdm (some d)] }
    let chain := Config.certificateChain
    (4 ≤ reg → reg < 16 → value.length = 48 →
      ∃ t, exec (.extend reg value) s = .next t ∧ t.meas = s.meas.set reg (sha384 (s.meas.getD reg [] ++ value)) ∧
        t.measLog = s.measLog ++ [(reg, value)]) ∧
    (1200 ≤ watts → watts ≤ 2000 → exec (.powerCapSet watts) s = .next { s with cap := watts }) ∧
    (watts < 1200 ∨ 2000 < watts → exec (.powerCapSet watts) s = .next s) ∧
    exec (.powerSample watts) s = .next { s with power := min watts 2000 } ∧
    exec (.coolantTemperatureChange watts) s =
      .next { s with thermal := if 45 < watts then true else if watts < 40 then false else s.thermal } ∧
    (∃ t, exec .getVersion s = .next t ∧ answers t [0x12]) ∧
    (∃ t, exec .getCapabilities s = .next t ∧ answers t Config.capabilities) ∧
    (∃ t, exec (.negotiateAlgorithms false false) s = .next t ∧ t.spdm = false ∧ t.outbox = s.outbox ++ [.spdm none]) ∧
    (∃ t, exec (.negotiateAlgorithms true true) s = .next t ∧ t.spdm = true ∧ t.outbox = s.outbox ++ [.spdm (some [1, 1])]) ∧
    (s.spdm = true →
      (∃ t, exec .getDigests s = .next t ∧ answers t (sha384 chain)) ∧
      (∃ t, exec .getCertificate s = .next t ∧ answers t chain) ∧
      (∃ t, exec (.challenge nonce) s = .next t ∧ answers t (sha384 chain ++ ecdsaSign (sha384 (sha384 chain ++ nonce)))) ∧
      (reg < 16 →
        (∃ t, exec (.getMeasurements reg none) s = .next t ∧ answers t (s.measureBlock reg)) ∧
        ∃ t, exec (.getMeasurements reg (some nonce)) s = .next t ∧
          answers t (s.measureBlock reg ++ ecdsaSign (sha384 (s.measureBlock reg ++ nonce))))) ∧
    (s.spdm = false → ∃ t, exec .getCertificate s = .next t ∧ t.outbox = s.outbox ++ [.spdm none])) ∧
  (∀ (s : State),
    (∃ t, exec (.powerOn none) s = .next t ∧ t.ready = (bootFailure none).isNone ∧ t.mem = [] ∧ t.ctxs = [] ∧ t.vfs = [] ∧
      t.meas = measuredTo (1 + imagesVerified)) ∧
    (∃ t, exec (.powerOn (some 1)) s = .next t ∧ t.ready = false ∧ t.outbox = s.outbox ++ [.bootFailed 1] ∧
      t.meas = measuredTo 1))

/-! ## Reset and the host -/


/-- R464, R465: a function-level reset makes an ACTIVE VF RESETTING, with no start record on its way and no walk; once its
requests have drained, its contexts are FREE, its jobs, rings and hearth records gone, and it is ACTIVE again. What a reset
drops beyond Table 16.9 is the model's reading (log 85). -/
def Obligations.ResetEvents : Prop :=
  ∀ (s : State) (vf : Nat),
    ((s.vf vf).state = .active →
      ∃ t, exec (.functionLevelReset vf) s = .next t ∧ (t.vf vf).state = .resetting ∧ (t.vf vf).starts = [] ∧
        ∀ w ∈ t.walks, w.vf ≠ vf) ∧
    (∀ a b, (s.vf vf).reset = some (a, b) → (s.vf vf).state = .resetting → s.vfDrained vf = true →
      ∃ t, exec (.resetDrainComplete vf) s = .next t ∧ (t.vf vf).state = .active ∧ (t.vf vf).rings = [] ∧
        (t.vf vf).ranges = [] ∧ (∀ n, (s.ctx n).id.vf = vf → (t.ctx n).life.state = .free) ∧
        (∀ h ∈ t.hearths, h.vf ≠ vf) ∧ ∀ j ∈ t.jobs, j.vf ≠ vf)

/-- R37, R369 to R372, R475, R477: an RDMA read with its window's key answers with the bytes of the status window or of device
memory; an RDMA write stores its bytes in device memory, or in the launch window, whose arming word arms the command, once no
earlier write of the VF waits. An answer
leaves under the VF's MACsec key alone, and no frame of it is longer than the queue pair's path MTU. The corner cases of the
launch window are the model's reading (log 86). -/
def Obligations.HostAccesses : Prop :=
  ∀ (s : State) (frame vf port pa : Nat) (r : RdmaReq) (w : Window),
    let v := s.vf vf
    let reads := s.frame frame = some (vf, port, .read r)
    let writes := s.frame frame = some (vf, port, .write r)
    let answers := fun (t : State) (xs : List RoceOut) =>
      t.outbox = s.outbox ++ (s.macsec vf).elim [] fun key => xs.map fun x => .roce vf key x
    let response := fun (xs : List RoceOut) (d : List Byte) => 1 ≤ (s.queuePair vf r.qp).mtu →
      ∃ ds : List (List Byte), xs = ds.map RoceOut.rdma ∧ ds.flatten = d ∧ ∀ x ∈ ds, x.length ≤ (s.queuePair vf r.qp).mtu
    let opened := sparseSetList 0 r.off r.data v.window
    (reads → r.window = 9 → v.state ≠ .free → r.rkey = v.statusKey → r.off + r.len ≤ 4096 →
      ∃ t xs, exec (.rdmaRead frame) s = .next t ∧ answers t xs ∧
        response xs (((s.statusWindow vf).drop r.off).take r.len) ∧ s.sameMemory t) ∧
    (reads → v.state = .active → s.memoryWindow vf r false = some w → s.checkHost vf (windowAddrs r w) false = .ready →
      (∀ i, i < r.len → s.xlate (ioPath vf) vf (w.base + r.off + i) .read = .ok (pa + i) false) →
      ∃ t xs, exec (.rdmaRead frame) s = .next t ∧ answers t xs ∧ response xs (s.bytes pa r.len) ∧ s.sameMemory t) ∧
    (writes → v.state = .active → s.memoryWindow vf r true = some w → s.checkHost vf (windowAddrs r w) true = .ready →
      r.data.length = r.len → (∀ i, i < r.len → s.xlate (ioPath vf) vf (w.base + r.off + i) .write = .ok (pa + i) false) →
      ∃ t, exec (.rdmaWrite frame) s = .next t ∧ answers t [.rdma []] ∧ t.bytes pa r.len = r.data ∧ s.sameOutside t pa r.len) ∧
    (writes → r.window = 8 → v.state ≠ .free → r.rkey = v.launchKey → r.off + r.len ≤ 4096 → s.earlierWrite vf frame = true →
      exec (.rdmaWrite frame) s = .next s) ∧
    (writes → r.window = 8 → v.state = .active → r.rkey = v.launchKey → r.off + r.len ≤ 4096 → r.data.length = r.len →
      s.earlierWrite vf frame = false →
      (r.off + r.len ≤ 4088 → ∃ t, exec (.rdmaWrite frame) s = .next t ∧ answers t [.rdma []] ∧ (t.vf vf).window = opened ∧
        (t.vf vf).armed = v.armed) ∧
      (r.off ≤ 4088 → 4088 < r.off + r.len → windowDword opened 4088 % 2 = 1 → v.armed = none → v.starts = [] →
        windowDword opened 0 % 256 ∈ [1, 2, 3] →
        ∃ t, exec (.rdmaWrite frame) s = .next t ∧ answers t [.rdma []] ∧ (t.vf vf).armed = some opened)) ∧
    (writes → r.window = 8 → r.rkey ≠ v.launchKey →
      ∃ t, exec (.rdmaWrite frame) s = .next t ∧ answers t [.nakAccess] ∧ t.vfs = s.vfs)

/-- R36, R446, R447, R470, R473, R475, R476: an armed command ends with the status of its first failing check, or with OK and
its effect: LOAD gives a handle, LAUNCH sets out the start records, UNLOAD removes the code object unless a context uses it,
and FORCE removes it even so. Statuses that Table 17.8 does not tie to a case are the model's reading (log 87); that a LAUNCH writes the
lines of a core back before its split changes (log 123), and changes nothing while it cannot (log 178), are the model's choices. -/
def Obligations.LaunchCommands : Prop :=
  ∀ (s : State) (vf : Nat) (w : Sparse Byte), s.command vf = some w →
    let v := s.vf vf
    let ends := fun (t : State) (st : Nat) => (t.vf vf).status = st ∧ (t.vf vf).armed = none ∧ (t.vf vf).done = v.done + 1
    (cmdOp w = 1 → s.commandMiss vf = none → s.commandHeld vf = false → ∀ bs, s.imageBytes vf w = some bs →
      (∀ st d, loadFault bs (s.loadPolicy vf) = some (st, d) →
        ∃ t, exec (.load vf) s = .next t ∧ ends t st ∧ (t.vf vf).detail = d ∧ (t.vf vf).images = v.images ∧ s.sameMemory t) ∧
      (loadFault bs (s.loadPolicy vf) = none →
        ∃ t, exec (.load vf) s = .next t ∧ ends t 0 ∧ (t.vf vf).detail = v.newHandle * 2 ^ 48 ∧
          lookup? v.newHandle (t.vf vf).images = some (imageOf bs))) ∧
    (cmdOp w = 2 → lookup? (cmdHandle w) v.images = none →
      ∃ t, exec (.launch vf) s = .next t ∧ ends t 0x06 ∧ (t.vf vf).starts = v.starts ∧ t.ctxs = s.ctxs) ∧
    (cmdOp w = 2 → 1024 < cmdLen w → (lookup? (cmdHandle w) v.images).isSome = true →
      ∃ t, exec (.launch vf) s = .next t ∧ ends t 0x0B ∧ (t.vf vf).starts = v.starts ∧ t.ctxs = s.ctxs) ∧
    (cmdOp w = 2 → s.commandMiss vf = none → s.commandHeld vf = false → cmdLen w ≤ 1024 → ∀ img rs,
      lookup? (cmdHandle w) v.images = some img →
      s.launchRecords vf w = some rs →
      (∀ st, s.launchFault vf img rs = some st →
        ∃ t, exec (.launch vf) s = .next t ∧ ends t st ∧ (t.vf vf).starts = v.starts ∧ t.ctxs = s.ctxs) ∧
      (s.launchFault vf img rs = none → s.launchWaits rs = true → exec (.launch vf) s = .next s) ∧
      (s.launchFault vf img rs = none → s.launchWaits rs = false →
        ∃ t, exec (.launch vf) s = .next t ∧ ends t 0 ∧ (t.vf vf).starts = rs.map (·.bytes) ∧
          (t.vf vf).starting = cmdHandle w)) ∧
    (cmdOp w = 3 → cmdForce w = false → ∀ img, lookup? (cmdHandle w) v.images = some img →
      (s.codeUsers vf img = [] → ∃ t, exec (.unload vf) s = .next t ∧ ends t 0 ∧ lookup? (cmdHandle w) (t.vf vf).images = none) ∧
      (s.codeUsers vf img ≠ [] →
        ∃ t, exec (.unload vf) s = .next t ∧ ends t 0x0E ∧ (t.vf vf).images = v.images ∧ t.ctxs = s.ctxs)) ∧
    (cmdOp w = 3 → cmdForce w = true → ∀ img, lookup? (cmdHandle w) v.images = some img →
      (∀ n ∈ s.codeUsers vf img, (s.ctx n).life.state = .saved ∨ (s.ctx n).routines = []) →
      ∃ t, exec (.unloadForce vf) s = .next t ∧ ends t 0 ∧ lookup? (cmdHandle w) (t.vf vf).images = none)

/-- R37, R474: a start record makes its slot READY, or IDLE for an evaluator, at ENTRY, with its arguments in `s1` to `s4`,
its handler, and its semaphores at zero; Darot code that the cache does not hold is made, kept for the VF, given to it, and made
a code object of its own. Where that code object lies is the model's choice (log 94). -/
def Obligations.StartRecords : Prop :=
  ∀ (s : State) (vf n version : Nat) (b input : List Byte) (img : Image),
    let v := s.vf vf
    let r : Start := ⟨b⟩
    let comes := (v.starts.find? fun x => Start.num ⟨x⟩ == n) = some b ∧ lookup? v.starting v.images = some img
    let code := Config.darotCode input version
    (comes → r.cls ≠ 2 →
      ∃ t, exec (.startRecordArrival vf n) s = .next t ∧ (t.ctx n).life.state = .ready ∧
        (t.ctx n).pc = BitVec.ofNat 64 r.entry ∧ (t.ctx n).trap.handler = (BitVec.ofNat 64 r.handler &&& ~~~0xF#64) ∧
        (∀ k, 1 ≤ k → k ≤ 4 → (t.ctx n).s k = r.arg k) ∧ (t.ctx n).trap.tl = false ∧ ∀ h, h < r.semCount → t.sem n h = 0) ∧
    (comes → r.cls = 2 → s.hearths = [] →
      ∃ t, exec (.startRecordArrival vf n) s = .next t ∧ (t.ctx n).life.state = .idle) ∧
    ((∀ d ∈ s.darot, d.hash ≠ sha384 input ∨ d.version ≠ version) →
      ∃ t, exec (.darotXTranslation vf input version) s = .next t ∧ t.outbox = s.outbox ++ [.darot vf code] ∧
        t.darot = s.darot ++ [{ hash := sha384 input, version := version, vfs := [vf], code := code }] ∧
        ∀ va, s.darotPlace vf code = some va →
          (∃ x, lookup? (s.vf vf).newHandle (t.vf vf).images = some x ∧ x.code = [(va, darotSize code)]) ∧
            ∃ pa, (t.vf vf).darots = (s.vf vf).darots ++ [(va, darotSize code, pa)])

/-! ## Envelopes across devices -/

/-- R413, R421, R424, R426: what the coordinator of an envelope does with the answers of the participants, and by itself. -/
def Obligations.EnvelopeCoordinator : Prop :=
  ∀ (s : State) (eid dev pkt cause n : Nat) (c : Coord) (k : Packet) (r : PortReq), s.coords = [c] → c.eid = eid →
    let arrives := fun (m : Msg) => s.packet pkt = some k ∧ k.dst = s.fabxy ∧ k.msg = m
    let decided := fun (t : State) (d : Option Nat) => t.coords.map (·.decision) = [d]
    let sent := fun (t : State) (d : Nat) (m : Msg) => ∃ p ∈ t.packets, p.2.dst = d ∧ p.2.msg = m
    (s.spostOf eid = some (n, r) → c.prepared = false → c.unacked = 0 → s.jobs = [] → s.mayPerform n r = true →
      s.canFlush n = true → (∀ q ∈ (s.ctx n).port.queue, q.fence? = none) → c.decision = none → c.doubt = false →
      (∀ d ∈ maskDevices c.mask, s.reachable d = true) →
      ∃ t, exec (.envelopePrepareSend eid) s = .next t ∧ t.coords.map (·.prepared) = [true] ∧
        ∀ d ∈ maskDevices c.mask, sent t d (.prepare eid (lookupD 0 d c.sent))) ∧
    (arrives (.ready eid dev) → c.decision = none → (∀ d ∈ maskDevices c.mask, d = dev ∨ d ∈ c.ready) →
      ∃ t, exec (.ready pkt) s = .next t ∧ decided t (some 0) ∧ ∀ d ∈ maskDevices c.mask, sent t d (.publish eid)) ∧
    (arrives (.ready eid dev) → c.decision = none → (∃ d ∈ maskDevices c.mask, d ≠ dev ∧ d ∉ c.ready) →
      ∃ t, exec (.ready pkt) s = .next t ∧ decided t none ∧ ∀ x ∈ t.coords, dev ∈ x.ready) ∧
    (arrives (.fail eid dev cause) → c.decision = none → cause ≠ 0 →
      ∃ t, exec (.fail pkt) s = .next t ∧ decided t (some cause) ∧
        ∀ d ∈ maskDevices c.mask, sent t d (.discard eid cause)) ∧
    (arrives (.done eid dev) → c.decision.isSome = true → c.unacked = 0 → (∀ d ∈ maskDevices c.mask, d = dev ∨ d ∈ c.done) →
      ∃ t, exec (.done pkt) s = .next t ∧ t.coords = []) ∧
    (arrives (.query eid dev) → c.decision = some cause →
      ∃ t, exec (.query pkt) s = .next t ∧ sent t dev (decisionMsg eid cause)) ∧
    (c.decision = some cause → ∃ t, exec (.decisionResend eid) s = .next t ∧
      ∀ d ∈ maskDevices c.mask, d ∉ c.done → sent t d (decisionMsg eid cause)) ∧
    (c.prepared = true → c.decision = none →
      ∃ t, exec (.preptimeExpiry eid) s = .next t ∧ decided t (some 4)) ∧
    (∀ a, arrives (.sealack a) → a.eid = eid → a.port = some (n, r.id) → c.decision = none → (s.ctx n).port.queue = [r] →
      ∃ t, exec (.sealack pkt) s = .next t ∧ t.coords.map (·.out) = [c.out.eraseP fun o => o.1 == a.stream] ∧
        (t.ctx n).port.queue = [])

/-- R417 to R420, R424, R425: what the destination of an envelope does with its record: the bytes of a SEAL are staged and
counted, a PREPARE with the right count holds the lines and a wrong one fails the record, a PUBLISH writes every line at once, a
DISCARD none; a destination that asks in vain posts ENV_INDOUBT and leaves the envelope to the host. DONE after the host's
decision is the model's reading (log 68). -/
def Obligations.EnvelopeDestination : Prop :=
  ∀ (s : State) (eid pkt count cause : Nat) (d : Dest) (k : Packet), s.dests = [d] → d.eid = eid → d.publishing = false →
    (∀ n, ∀ r ∈ (s.ctx n).port.queue, r.fence? = none) →
    let arrives := fun (m : Msg) => s.packet pkt = some k ∧ k.dst = s.fabxy ∧ k.msg = m
    let sends := fun (t : State) (dst : Nat) (m : Msg) =>
      (t.packets.getLast?).map (fun p => (p.2.dst, p.2.msg)) = some (dst, m)
    let lined := (d.lines.map (·.line)).Nodup ∧ ∀ l ∈ d.lines, l.line % 64 = 0
    let published := fun (t : State) => t.dests = [] ∧ (∀ l ∈ d.lines, t.bytes l.line 64 = s.stagedLine l) ∧
      ∀ a, (∀ l ∈ d.lines, a < l.line ∨ l.line + 64 ≤ a) → t.byte a = s.byte a
    let dropped := fun (t : State) => t.dests = [] ∧ s.sameMemory t
    (∀ m ws, arrives (.seal m) → m.eid = eid → s.sealLive m = true → s.ioMissing m.vf (writePages m.writes) = none →
      s.sealWrites m = some ws → d.bad = false → s.stagingUsed m.vf + ws.length ≤ (s.vf m.vf).staging.getD (2 ^ 21) →
      s.stagingTaken (partOf m.vf) + ws.length ≤ 2 ^ 24 →
      ∃ t x, exec (.seal pkt) s = .next t ∧ t.dests = [x] ∧ x.eid = eid ∧ x.rcvd = (d.rcvd + m.bytes) % 2 ^ 48 ∧
        (d.lines = [] → (ws.map (·.1)).Nodup → (∀ w ∈ ws, w.2.1 = 0xFF) → ∀ w ∈ ws, ∃ l ∈ x.lines, l.line = w.1 / 64 * 64 ∧
          (lookup? (w.1 % 64) l.bytes).map (fun b => (b.1, b.2.1)) = some (0xFF, w.2.2)) ∧
        s.sameMemory t ∧
        sends t k.src (.sealack { eid := eid, stream := m.stream, port := m.port, bytes := m.bytes, fault := false })) ∧
    (arrives (.prepare eid count) → d.state = .staging →
      (d.rcvd = count → ∃ t, exec (.prepare pkt) s = .next t ∧ t.dests = [{ d with state := .held }] ∧
        sends t k.src (.ready eid s.fabxy)) ∧
      (d.rcvd ≠ count → ∃ t, exec (.prepare pkt) s = .next t ∧ t.dests = [{ d with state := .failed, cause := 5 }] ∧
        sends t (eidCoord eid) (.fail eid s.fabxy 5))) ∧
    (arrives (.publish eid) → d.state = .held ∨ d.state = .indoubt → lined →
      ∃ t, exec (.publish pkt) s = .next t ∧ published t ∧ sends t (eidCoord eid) (.done eid s.fabxy)) ∧
    (arrives (.discard eid cause) →
      ∃ t, exec (.discard pkt) s = .next t ∧ dropped t ∧ sends t (eidCoord eid) (.done eid s.fabxy)) ∧
    (d.state = .held →
      (∃ t, exec (.queryResend eid) s = .next t ∧ t.dests = s.dests ∧ sends t (eidCoord eid) (.query eid s.fabxy)) ∧
      ∃ t, exec (.indoubtIntervalExpiry eid) s = .next t ∧ t.dests = [{ d with state := .indoubt }] ∧
        ∀ v, d.vf = some v → ∃ x, (t.vf v).records = (s.vf v).records ++ [x] ∧ x.head? = some 1) ∧
    (d.state = .indoubt → lined → ∃ t, exec (.hostPublish eid) s = .next t ∧ published t) ∧
    (d.state = .indoubt → ∃ t, exec (.hostDiscard eid) s = .next t ∧ dropped t)

/-! ## Intake -/

/-- R378, R385 to R387: an intake op whose port is otherwise quiet takes, gives back or reads its ring, and an `igive` that
names no taken record faults with NOTTAKEN. -/
def Obligations.IntakeOpsPerform : Prop :=
  ∀ (s : State) (n : Nat) (r : PortReq) (g : Ring) (h : Hdr) (f : Tri), s.quiet n r →
    let vf := (s.ctx n).id.vf
    s.ring? vf (ringOf f) = some g →
    (r.work = .op (.itake h f) → ∃ t, exec (.itakePerform n r.id) s = .next t ∧ t.ring? vf (ringOf f) = some g.take.1 ∧
      s.answered t n r [(f.d.toNat, BitVec.ofNat 64 g.take.2.1)]) ∧
    (r.work = .op (.igive h f) →
      (∀ g', g.give r.addr = some g' → ∃ t, exec (.igivePerform n r.id) s = .next t ∧
        t.ring? vf (ringOf f) = some g' ∧ (t.ctx n).port.queue = []) ∧
      (g.give r.addr = none → ∃ t, exec (.igivePerform n r.id) s = .next t ∧ t.faults n r ⟨.perm, 0x41⟩ ∧
        t.ring? vf (ringOf f) = some g)) ∧
    (r.work = .op (.istat h f) → ∃ t, exec (.istatPerform n r.id) s = .next t ∧ t.ring? vf (ringOf f) = some g ∧
      s.answered t n r [(f.d.toNat, BitVec.ofNat 64 (g.stat (f.imm.extractLsb' 8 5).toNat))])

/-- R3, R367 to R370, R380 to R382: frames that a port takes and no VF owns are counted, others kept for their unit, packets
with the port's counter; a RoCEv2 frame that fails MACsec is dropped, a marked one is answered with a congestion notification,
and one of these slows its queue pair (log 143); a packet joins its message; a
whole message that its ring accepts advances P by its units and is removed, one that is not whole in time is dropped. When
epochs and MACsec keys are checked, and which frames reach no port, is the model's reading (log 73, log 128). -/
def Obligations.FramesAndMessages : Prop :=
  ∀ (s : State) (e : EthFrame) (frame vf port : Nat) (p : UetPacket) (x : Message) (g : Ring) (units k : Nat),
    let m := s.messageWith vf port p
    let comes := s.frame frame = some (vf, port, .uet p) ∧ s.messages = []
    (s.portTakes e = false → exec (.ethernetFrameReceive e) s = .next s) ∧
    (s.portTakes e = true → s.macOwner e.port e.dest = none →
      ∃ t, exec (.ethernetFrameReceive e) s = .next t ∧ t.frames = s.frames ∧
        lookupD 0 e.port t.unknown = lookupD 0 e.port s.unknown + 1) ∧
    (s.portTakes e = true → s.macOwner e.port e.dest = some vf → e.body = .uet p →
      ∃ t, exec (.ethernetFrameReceive e) s = .next t ∧
        t.frames = s.frames ++ [(s.nextId, vf, e.port, .uet { p with ts := s.portClock e })] ∧
        lookupD 0 e.port t.portClocks = s.portClock e) ∧
    (∀ key, s.portTakes e = true → s.macOwner e.port e.dest = some vf → e.body = .invalid → e.secure = true → e.ecn = false →
      s.macsec vf = some key →
      ∃ t, exec (.ethernetFrameReceive e) s = .next t ∧ t.outbox = s.outbox ++ [.roce vf key .nakInvalid]) ∧
    (∀ rdma, s.portTakes e = true → s.macOwner e.port e.dest = some vf → e.body = .write rdma →
      (e.secure = false →
        ∃ t, exec (.ethernetFrameReceive e) s = .next t ∧ t.frames = s.frames ∧ t.outbox = s.outbox) ∧
      ∀ key, e.secure = true → s.macsec vf = some key → s.requestOk vf (.write rdma) = true →
        ∃ t, exec (.ethernetFrameReceive e) s = .next t ∧ t.frames = s.frames ++ [(s.nextId, vf, e.port, .write rdma)] ∧
          t.outbox = s.outbox ++ if e.ecn then [.roce vf key (.cnp rdma.qp)] else []) ∧
    (∀ key qp, s.portTakes e = true → s.macOwner e.port e.dest = some vf → e.body = .cnp qp → e.secure = true →
      s.macsec vf = some key →
      ∃ t, exec (.ethernetFrameReceive e) s = .next t ∧ t.frames = s.frames ∧ (t.queuePair vf qp).slow = true) ∧
    (comes → p.rud = true → (vf, p.slot, p.flow, p.msg) ∈ s.counted →
      ∃ t, exec (.uetPacketReceive frame) s = .next t ∧ t.messages = [] ∧
        t.outbox = s.outbox ++ [.uetAck vf p.flow p.msg p.ecn (s.grants vf p.ring)]) ∧
    (comes → p.rud = false → m.whole = false →
      ∃ t, exec (.uetPacketReceive frame) s = .next t ∧ t.messages = [m]) ∧
    (comes → p.rud = false → m.whole = true → s.classify m true = .accept g units →
      s.checkWrite vf (g.unitAddrs g.p units) = .ready →
      ∃ t, exec (.uetPacketReceive frame) s = .next t ∧ t.messages = [] ∧
        (t.ring? vf p.ring).map (fun y => (y.next, y.p, y.used)) = some (g.next + 1, (g.p + units) % g.size, g.used + units)) ∧
    (s.messages = [x] → s.classify x false = .drop g k →
      ∃ t, exec (.reassemblyTimeout x.id) s = .next t ∧ t.messages = [] ∧
        t.ring? x.vf x.head.ring = some (g.outcome k x.head.total))

/-! ## The fabric -/

/-- R393 to R397, R482: a flit in SEQ order under a key that is held is accepted, and a packet with its last part; any other
flit is discarded and a replay asked for; a replay sends again, unchanged, what the replay buffer holds from its place on, and the link fails in place of a seventeenth; a
packet leaves by a live route on the channel of its hop; a link is failed, established, and rekeyed in two phases, each agreement
with a signed value sent out. That a request waits for the replay buffer, that one is sent for each flit that fails its tag but
once for those only out of order, and the ACK of a discarded flit, are the model's reading (log 60); so are what a link that
comes up again starts from (log 62), the channels' numbers (log 131), and the data flits of a packet (log 142). -/
def Obligations.FabricEvents : Prop :=
  ∀ (s : State) (port id seq : Nat) (x : Flit) (k : Packet) (peer : List Byte) (key : BitVec 256) (b : Sent)
    (old rest : List Sent),
    let l := s.link port
    let authentic := x.valid = true ∧ (lookup? x.epoch l.rxKeys).isSome = true
    let good := authentic ∧ x.seq = l.rx
    let asks := fun (t : State) => (t.link port).nack = true ∧ ∃ y, y.kind = 2 ∧ y.seq = l.tx % 2 ^ 32 ∧ y.epoch = l.epoch ∧
      (t.link port).buffer.getLast? = some y ∧ t.outbox.length = s.outbox.length + 1
    let value := linkPublic (Config.linkScalar s.draws)
    let shared := linkSecret (Config.linkScalar s.draws) peer
    let tells := fun (t : State) => t.outbox = s.outbox ++ [.linkValue port value (ecdsaSign (sha384 value))]
    let again := fun (y : Sent) => { y with replays := y.replays + 1 }
    let flit := fun (y : Sent) => Outward.flit port
      { seq := y.seq, ack := y.ack, epoch := y.epoch, kind := y.kind, vc := y.vc, valid := true, pkt := y.pkt, part := y.part
        parts := y.parts } (flitIv s.fabxy port y)
    (l.up = true → good → x.kind = 0 → x.pkt = some k → x.part = l.got → x.part + 1 = x.parts →
      ∃ t, exec (.flitReceive port x) s = .next t ∧ t.packets = s.packets ++ [(s.nextId, { k with hops := x.vc % 8 })] ∧
        (t.link port).rx = (l.rx + 1) % 2 ^ 32 ∧ (t.link port).got = 0) ∧
    (l.up = true → good → x.kind = 0 → x.pkt = some k → x.part = l.got → x.part + 1 < x.parts →
      ∃ t, exec (.flitReceive port x) s = .next t ∧ t.packets = s.packets ∧ (t.link port).rx = (l.rx + 1) % 2 ^ 32 ∧
        (t.link port).got = l.got + 1) ∧
    (l.up = true → good → x.kind = 2 → l.buffer = [b] → (x.ack + 1) % 2 ^ 32 = b.seq → 16 ≤ b.replays →
      ∃ t, exec (.flitReceive port x) s = .next t ∧ (t.link port).up = false) ∧
    (l.up = true → good → x.kind = 2 → l.buffer = [b] → (x.ack + 1) % 2 ^ 32 = b.seq → b.replays < 16 →
      (lookup? b.epoch l.keys).isSome = true →
      ∃ t, exec (.flitReceive port x) s = .next t ∧ (t.link port).buffer = [again b] ∧ t.packets = s.packets ∧
        t.outbox.length = s.outbox.length + 1) ∧
    (l.up = true → ¬ good → ∃ t, exec (.flitReceive port x) s = .next t ∧ t.packets = s.packets ∧ (t.link port).rx = l.rx) ∧
    (l.up = true → ¬ authentic → l.hasRoom 1 = false →
      ∃ t, exec (.flitReceive port x) s = .next t ∧ (t.link port).asks = true ∧ (t.link port).buffer = l.buffer ∧
        t.outbox = s.outbox) ∧
    (l.up = true → ¬ authentic → l.hasRoom 1 = true → ∃ t, exec (.flitReceive port x) s = .next t ∧ asks t) ∧
    (l.up = true → authentic → ¬ good → l.nack = true → l.asks = true → (l.acked x.ack).hasRoom 1 = true →
      ∃ t, exec (.flitReceive port x) s = .next t ∧ asks t) ∧
    (l.up = true → authentic → ¬ good → l.nack = true → l.asks = false →
      ∃ t, exec (.flitReceive port x) s = .next t ∧ t.outbox = s.outbox ∧ (t.link port).nack = true) ∧
    (l.up = true → authentic → ¬ good → l.nack = false → (l.acked x.ack).hasRoom 1 = true →
      ∃ t, exec (.flitReceive port x) s = .next t ∧ asks t) ∧
    (l.up = true → l.buffer = old ++ b :: rest → b.seq = seq → (∀ y ∈ old, y.seq ≠ seq) → (∃ y ∈ b :: rest, 16 ≤ y.replays) →
      ∃ t, exec (.replayRequest port seq) s = .next t ∧ (t.link port).up = false) ∧
    (l.up = true → l.buffer = old ++ b :: rest → b.seq = seq → (∀ y ∈ old, y.seq ≠ seq) →
      (∀ y ∈ b :: rest, y.replays < 16 ∧ (lookup? y.epoch l.keys).isSome = true) →
      ∃ t, exec (.replayRequest port seq) s = .next t ∧ (t.link port).buffer = old ++ (b :: rest).map again ∧
        t.outbox = s.outbox ++ (b :: rest).map flit) ∧
    (l.up = true → b ∈ l.buffer → 16 ≤ b.replays → ∃ t, exec (.linkRetrain port) s = .next t ∧ (t.link port).up = false) ∧
    (l.up = true → ∃ t, exec (.linkFailure port) s = .next t ∧ (t.link port).up = false ∧ (t.link port).buffer = []) ∧
    (l.up = false → (lookup? port s.links).isSome = true →
      ∃ t, exec (.linkKeyEstablish port peer true) s = .next t ∧ (t.link port).up = true ∧ (t.link port).tx = 0 ∧
        (t.link port).epoch = 0 ∧ lookup? 0 (t.link port).keys = some shared ∧ (t.link port).rxKeys = (t.link port).keys ∧ tells t) ∧
    (l.up = false → exec (.linkKeyEstablish port peer false) s = .next s) ∧
    (l.up = true → l.next = none →
      exec (.linkKeyRotation { port := port, peer := peer, signed := false }) s = .next s ∧
      ∃ t, exec (.linkKeyRotation { port := port, peer := peer, signed := true }) s = .next t ∧
        (t.link port).epoch = l.epoch ∧ (t.link port).next = some shared ∧ tells t ∧
        lookup? ((l.epoch + 1) % 256) (t.link port).rxKeys = some shared) ∧
    (l.up = true → l.next = some key →
      ∃ t, exec (.linkKeyRotation { port := port, peer := peer, signed := true }) s = .next t ∧
      (t.link port).epoch = (l.epoch + 1) % 256 ∧ lookup? (t.link port).epoch (t.link port).keys = some key ∧
      (t.link port).rxKeys = l.rxKeys) ∧
    (s.packet id = some k → s.mayRoute k port = true → l.hasRoom (flitsOf k.msg) = true →
      let sent : Packet := { k with hops := k.hops + 1 }
      ∃ t, exec (.packetForward id port none) s = .next t ∧ t.packet id = none ∧ (t.link port).buffer = l.buffer ++
        (List.range (flitsOf k.msg)).map fun i =>
          { seq := (l.tx + i) % 2 ^ 32, ack := (l.rx + (2 ^ 32 - 1)) % 2 ^ 32, epoch := l.epoch, kind := 0
            vc := channelOf sent, pkt := some sent, part := i, parts := flitsOf k.msg })

/-- R62, R398, R400, R461, R462: a remote request is performed and answered; a duplicate is answered again as it was and
performed no more; a refused one is answered with RTRANS, and its number does not count as performed; an error reply ends the
posting context, and one for a frozen job is discarded. Which numbers count as performed after a refusal is the model's reading
(log 64). -/
def Obligations.RemoteRequests : Prop :=
  ∀ (s : State) (pkt job beat pa a : Nat) (k : Packet) (r : RemoteReq) (x : Stream) (bs : List Byte),
    let p := ioPath r.vf
    let comes := s.packet pkt = some k ∧ k.dst = s.fabxy ∧ k.msg = .remote r ∧ r.streams = [x] ∧ r.kindle = false
    let fresh := s.bad = [] ∧ s.seen x = false ∧ k.src ∉ (s.vf r.vf).streams ∧ s.gathered = [] ∧ s.ioMissing r.vf r.pages = none ∧
      s.ioViolation r.vf r.need r.pages = none ∧ s.dests = []
    let answers := fun (t : State) (d : List Byte) (e v : Nat) =>
      (t.packets.getLast?).map (fun y => (y.2.dst, y.2.msg)) =
        some (x.dev, .answer { stream := x, data := d, error := e, addr := v })
    (comes → s.seen x = true →
      ∃ t, exec (.remoteRequestReceive pkt) s = .next t ∧
        answers t (s.answerGiven x).data (s.answerGiven x).error (s.answerGiven x).addr ∧ s.sameMemory t) ∧
    (comes → s.seen x = false → k.src ∈ (s.vf r.vf).streams →
      ∃ t, exec (.remoteRequestReceive pkt) s = .next t ∧ answers t [] 1 0 ∧ s.sameMemory t) ∧
    (comes → s.seen x = false → k.src ∉ (s.vf r.vf).streams → s.ioMissing r.vf r.pages = none →
      ∀ c va, s.ioViolation r.vf r.need r.pages = some (c, va) →
      ∃ t, exec (.remoteRequestReceive pkt) s = .next t ∧
        answers t [] 1 (firstOn (if r.kind = 0 then r.readAddrs else r.writeAddrs) va) ∧ s.sameMemory t ∧ t.seen x = false) ∧
    (comes → fresh → r.kind = 0 → r.reads = [(a, bs.length)] →
      (∀ i, i < bs.length → s.xlate p r.vf (a + i) .read = .ok (pa + i) false) →
      ∃ t, exec (.remoteRequestReceive pkt) s = .next t ∧ answers t (s.bytes pa bs.length) 0 0 ∧ s.sameMemory t) ∧
    (comes → fresh → r.kind = 1 → r.writes = wholeWrites a bs → r.terms = [] →
      (∀ i, i < bs.length → s.xlate p r.vf (a + i) .read = .ok (pa + i) false ∧
        s.xlate p r.vf (a + i) .write = .ok (pa + i) false) →
      ∃ t, exec (.remoteRequestReceive pkt) s = .next t ∧ answers t [] 0 0 ∧ t.bytes pa bs.length = bs ∧
        s.sameOutside t pa bs.length) ∧
    (∀ j i y, s.job? job = some j → s.answerFor job beat = some (i, y) → j.frozen = true →
      ∃ t, exec (.remoteError job beat) s = .next t ∧ t.ctxs = s.ctxs ∧
        ∀ z, t.job? job = some z → ∀ b ∈ z.beats, b.num ≠ beat) ∧
    (∀ j i y, s.job? job = some j → s.answerFor job beat = some (i, y) → y.error ≠ 0 → j.frozen = false →
      ∃ t, exec (.remoteError job beat) s = .next t ∧ t.job? job = none ∧
        (j.orphan = false → (s.ctx j.ctx).life.state = .ready → (t.ctx j.ctx).life.state = .draining))

/-! ## Selector, array, control store, engines, context unit -/

/-- R97, R98: a round that may start gives every VF with a ready context its quantum and its deficit, at most two quanta, and
its turn list holds only runnable contexts. -/
def Obligations.RoundStarts : Prop :=
  ∀ (s : State) (core v : Nat), s.mayStartRound core = true →
    ∃ t, exec (.roundStart core) s = .next t ∧ (∀ n ∈ (t.core core).sel.turns, n ∈ s.runnable core) ∧
      (v < 192 → (∃ n ∈ slotsOf core, s.isReady n = true ∧ (s.ctx n).id.vf = v) →
        (t.share core v).quantum = 32 * (s.share core v).weight ∧
        (t.share core v).deficit = min ((s.share core v).deficit + 32 * (s.share core v).weight)
          (2 * (32 * (s.share core v).weight)))

/-- R277, R289, R290, R297: the array performs the oldest op of a context's queue once no context of the core holds one that
issued before it, those of contexts whose next load waits for the exit of a bound op (R347, log 140) standing aside: `mclr` zeroes the accumulator's cells, `mstat` returns the status word, `tfill` fills the shape of a tile of
8-bit elements; the op's signal completes. That `mstat` returns TAG and WIN as they stood at its issue is the model's reading
(log 31). -/
def Obligations.ArrayPerforms : Prop :=
  ∀ (s : State) (n : Nat) (q : ArrayOp) (rest : List ArrayOp) (h : Hdr) (f : Tri), (s.ctx n).mat.queue = q :: rest →
    ((s.ctx n).holdsLoad = true ∨
        (∃ m ∈ slotsOf (coreOf n), (s.ctx m).holdsLoad = false ∧ ∃ x ∈ (s.ctx m).mat.queue, x.order < q.order) →
      exec (.arrayOpPerform n) s = .next s) ∧
    ((s.ctx n).holdsLoad = false →
      (∀ m ∈ slotsOf (coreOf n), (s.ctx m).holdsLoad = true ∨ ∀ x ∈ (s.ctx m).mat.queue, q.order ≤ x.order) →
      q.bad = false → (∀ k ∈ (s.ctx n).mat.bad, q.isRead k = false) →
      (∃ t, exec (.arrayOpPerform n) s = .next t ∧ (t.ctx n).mat.queue = rest ∧ s.sameMemory t ∧
        ∀ g, (s.ctx n).port.queue = [g] → q.sig = some g.id → (t.ctx n).port.queue = [{ g with stage := .pending }]) ∧
      (q.op = .mclr h f → ∃ t, exec (.arrayOpPerform n) s = .next t ∧
        ∀ r k, r < 64 → k < 64 → (t.ctx n).cell f.d.toNat r k = 0) ∧
      (q.op = .tfill h f → Ty.width (tctlType q.tctlD) = 8 → (s.ctx n).life.state ≠ .draining → ∃ t, exec (.arrayOpPerform n) s = .next t ∧
        ∀ o, o < tctlRows q.tctlD * tctlCols q.tctlD → (t.ctx n).tileByte f.d.toNat o = BitVec.ofNat 8 q.fill) ∧
      (q.op = .mstat h f → f.d.toNat ≠ 0 → ∃ t, exec (.arrayOpPerform n) s = .next t ∧ (t.ctx n).s f.d.toNat =
        BitVec.ofNat 64 (statusWord { (s.ctx n).mat.stat f.a.toNat with tag := q.statA.tag, win := q.statA.win })))

/-- R337, R341, R344, R346, R350, R351, R358 to R360: a routine starts once its waits are over; a step that passes its checks executes one
word, an EXIT word the routine's last; one that does not, one past WORDS and one step too many end the bundle's routines with REFUSED or
STEPOVER, and with what TRAPINFO holds; the Courier fetches a VF's oldest need into a frame, once one is to be had. -/
def Obligations.RoutinesRun : Prop :=
  ∀ (s : State) (n core vf : Nat) (r : Routine) (rest : List Routine) (f : Fetch) (b : Binding),
    ((s.ctx n).routines = r :: rest → r.started = false → (s.ctx n).life.state = .ready → s.startWait n r = .none →
      r.refuse = none → r.bind.failed = false →
      ∃ t, exec (.boundRoutineStart n) s = .next t ∧ (t.ctx n).routines = { r with started := true } :: rest) ∧
    ((s.ctx n).routines = r :: rest → r.started = true → s.hasTurn n = true → s.routineWait n = .none → r.refuse = none →
      (r.micro.steps < r.bind.steps → r.micro.mpc < r.bind.words → s.stepBad n r (s.word n r) = none →
        (s.word n r).seq ≠ 9 →
        ∃ t, exec (.microStep n) s = .next t ∧
          ((t.ctx n).routines.head?).map (fun x => x.micro.steps) = some (r.micro.steps + 1)) ∧
      (r.micro.steps < r.bind.steps → r.micro.mpc < r.bind.words → s.stepBad n r (s.word n r) = none → (s.word n r).seq = 9 →
        ∃ t, exec (.microStep n) s = .next t ∧ (t.ctx n).routines.length = rest.length) ∧
      (∀ e : Trapped, (r.bind.steps ≤ r.micro.steps ∧ e = ⟨.stepover, r.info 0⟩) ∨
          (r.micro.steps < r.bind.steps ∧ r.bind.words ≤ r.micro.mpc ∧ e = ⟨.refused, r.info 2⟩) ∨
          (∃ reason, r.micro.steps < r.bind.steps ∧ r.micro.mpc < r.bind.words ∧ s.stepBad n r (s.word n r) = some reason ∧
            e = ⟨.refused, r.info reason⟩) →
        ∃ t, exec (.microStep n) s = .next t ∧ (t.ctx n).routines = [] ∧
          ((s.ctx n).after = [] → (s.ctx n).afterPost = [] → (s.ctx n).life.halting = false → (s.ctx n).trap.tl = false →
            (s.ctx n).trap.handler ≠ 0 →
            (t.ctx n).trap.tl = true ∧ (t.ctx n).trap.cause = BitVec.ofNat 8 e.cause.code ∧ (t.ctx n).trap.info = e.info ∧
              (t.ctx n).pc = (s.ctx n).trap.handler))) ∧
    (s.nextFetch core vf = some f → f.started = false → vf ∉ (s.core core).frozen → f.forHash = false →
      (s.ctx f.ctx).bindingOf f.key = some b → (s.ctx f.ctx).needs f = true → (s.core core).frame f.key f.page = none →
      (s.trimFrames core).frameRoom core f = true →
      ∃ t, exec (.courierFetch core vf) s = .next t ∧ t.nextFetch core vf = some { f with started := true }) ∧
    (s.fetching core vf = some (f, b) → vf ∉ (s.core core).frozen → s.courierMissing core vf (fetchPages f b) = none →
      s.courierViolation core vf (fetchPages f b) = none → s.frameRoom core f = true → s.dests = [] → s.bad = [] → lookup? f.page b.tags = none →
      ∃ t, exec (.courierFetchComplete core vf) s = .next t ∧
        ((t.core core).frame f.key f.page).map (·.bytes) =
          some (s.courierBytes core vf (b.pageAddr f.page) (b.pageBytes f.page)))

/-- R211, R221, R224 to R226, R233, R239, R364: an engine starts the beat whose turn it is and reads its source, in the scratchpad, a
tile or device memory; a beat whose bytes are there makes every write of the copy, over its mask, in the window, the tile or device
memory, leaves every other byte of it, and is done; a collective step executes one word, with the units that it receives and the
unit that it sends, and one that fails its checks ends the posting context. That a beat reads and lands in one
step is the model's choice (log 165), and collective words are refused as the model reads R239 (log 50). -/
def Obligations.EngineBeats : Prop :=
  ∀ (s : State) (j : Job) (beat : Nat) (b : Nat × Nat) (x : Beat) (order : List Nat) (st : Step) (w : MicroWord)
    (phys : Nat → Nat), s.job? j.id = some j →
    let made := fun (ws : List (Nat × Byte × Byte)) (hit : Nat → Bool) (old : Byte) =>
      ws.foldl (fun v w => if hit w.1 then maskedByte v w else v) old
    let mapped := fun (need : Need) (as : List Nat) => ∀ a ∈ as, s.xlate j.path j.vf a need = .ok (phys a) false
    let open' := s.dests = [] ∧ s.bad = [] ∧ s.waiters = []
    (j.beatList[beat]? = some b → s.nextJob (coreOf j.ctx / 4) = some j → j.nextBeat = some beat →
      (j.dst.space = 3 → s.hostEntry j ≠ none) →
      let src := j.sourceBytes b
      let reads := fun (g : Nat → Byte) => ∃ t i y, exec (.beatStart j.id beat) s = .next t ∧ t.job? j.id = some i ∧
        i.started = true ∧ y ∈ i.beats ∧ y.num = beat ∧ ∀ a ∈ src, lookup? a y.bytes = some (g a)
      (j.src.space = 1 → (∀ a ∈ src, s.spBad j.ctx a = false) → reads (s.spByte j.ctx)) ∧
      (j.src.space = 4 → (∀ a ∈ src, 8192 * j.src.tile + a ∉ (s.ctx j.ctx).mat.bad) →
        reads ((s.ctx j.ctx).tileByte j.src.tile)) ∧
      (j.src.space = 0 → (s.core (coreOf j.ctx)).l1 = [] → open' → mapped .read src → reads fun a => s.byte (phys a))) ∧
    (j.beatList[beat]? = some b → j.beats.find? (fun y => y.num == beat) = some x → j.frozen = false → x.fault = none →
      x.parked = false → (∀ a ∈ j.sourceBytes b, (lookup? a x.bytes).isSome = true) → s.packets = [] → s.frames = [] →
      let c := j.carry b x.bytes
      let ws := j.copyWrites b c order s.free
      let ends := fun (P : State → Prop) => ∃ t, exec (.beatComplete j.id beat order) s = .next t ∧
        (t.job? j.id).all (fun i => i.done.contains beat) = true ∧ P t
      (j.dst.space = 1 → s.startsFor j.ctx = true → ends fun t => s.sameMemory t ∧
        (∀ a, t.spByte j.ctx a = made ws (· == a) (s.spByte j.ctx a)) ∧
        (∀ a, (∀ w ∈ ws, w.1 ≠ a) → t.spByte j.ctx a = s.spByte j.ctx a) ∧
        ((ws.map (·.1)).Nodup → ∀ w ∈ ws, w.2.1 = 0xFF → t.spByte j.ctx w.1 = w.2.2)) ∧
      (j.dst.space = 4 → s.startsFor j.ctx = true → ends fun t => s.sameMemory t ∧
        ∀ a, (t.ctx j.ctx).tileByte j.dst.tile a = made ws (· == a) ((s.ctx j.ctx).tileByte j.dst.tile a)) ∧
      (j.dst.space = 0 → j.k.redop = 0 → open' → s.engineMissing j (j.landAddrs b c order) = none →
        mapped .write (ws.map (·.1) ++ j.landAddrs b c order) →
        ends fun t => ∀ pa, t.byte pa = made ws (fun a => phys a == pa) (s.byte pa))) ∧
    (j.step = some st → j.frozen = false → s.stepReady j = true →
      (j.started = true ∨ (s.core (coreOf j.ctx)).l1 = []) → st.micro.steps < st.bound →
      s.collWord j st.micro.mpc = some w → s.collBad j st w = none →
      let units := s.unitsFor (partOf j.vf) st.list
      let ins := j.stepReads st w
      let outs := j.stepWrites st w
      w.receives.length ≤ units.length →
      (w.sends = true → ∃ d v, s.collDevice j st.list w.sendTo = some (d, v) ∧ s.reachable d = true) →
      open' → s.mayLand j outs = true → s.engineMissing j (ins ++ outs) = none → mapped .read ins → mapped .write outs →
      (∀ a ∈ j.stepWindow st w, s.spBad j.ctx a = false) → (∀ y ∈ j.beats, y.num ≠ st.micro.steps) →
      let mt := fun (k : Nat) => lookupList (0 : Word) (128 * k) 128 st.mt
      let port := fun (i : Nat) =>
        let a := j.src.portAddr st.micro.ag0.addr + i
        if j.src.space ≠ 0 then s.spByte j.ctx a else if ins = [] then 0 else s.byte (phys a)
      let source := fun (k : Nat) => match (w.src k).1 with
        | 3 => mt (w.src k).2
        | 5 => bytesLanes 128 ((List.range 512).map port)
        | 6 => List.replicate 128 (BitVec.ofNat 32 w.imm)
        | 7 => bytesLanes 128 ((units.take w.receives.length).getD (w.receives.findIdx (· == k)) (0, [])).2
        | _ => List.replicate 128 0
      let ws := (laneResult w.alu w.aty w.mode w.imm (BitVec.allOnes 128) (source 0) (source 1) (source 2)).1
      let result := applyLanes (if w.dst.1 = 3 then mt w.dst.2 else List.replicate 128 0) ws
      let stores := (laneByteWrites ws).map fun y => (j.dst.portAddr st.micro.ag1.addr + y.1, y.2)
      ∃ t, exec (.collectiveMicroStep j.id) s = .next t ∧
        (w.seq = 9 → t.job? j.id = none) ∧
        (w.seq ≠ 9 → ∃ i y, t.job? j.id = some i ∧ i.step = some y ∧ y.micro.steps = st.micro.steps + 1 ∧
          (w.dst.1 = 3 → lookupList 0 (128 * w.dst.2) 128 y.mt = result)) ∧
        (∀ a, t.spByte j.ctx a =
          if w.dst.1 = 5 ∧ j.dst.space ≠ 0 then made stores (· == a) (s.spByte j.ctx a) else s.spByte j.ctx a) ∧
        (∀ pa, t.byte pa =
          if w.dst.1 = 5 ∧ j.dst.space = 0 then made stores (fun a => phys a == pa) (s.byte pa) else s.byte pa) ∧
        (w.sends = true → ∃ d v, ∃ p ∈ t.packets, s.collDevice j st.list w.sendTo = some (d, v) ∧ p.2.dst = d ∧
          p.2.msg = .unit (partOf v) st.list (laneBytes result))) ∧
    (j.step = some st → j.frozen = false → s.stepReady j = true →
      (st.bound ≤ st.micro.steps ∨ s.collWord j st.micro.mpc = none ∨
        ∃ r, s.collWord j st.micro.mpc = some w ∧ s.collBad j st w = some r) →
      ∃ t, exec (.collectiveMicroStep j.id) s = .next t ∧ t.job? j.id = none ∧
        (j.orphan = false → (s.ctx j.ctx).life.state = .ready → (t.ctx j.ctx).life.state = .draining))

/-- R15, R16, R439, R440, R444: a drained slot becomes FREE, or IDLE for an evaluator; a stop flag is kept until the next test
point; a context that has stopped and drained is SAVED; a restore that passes its checks makes it READY again, with the registers
that its area holds, one whose area fails its tag ends it, and one that must wait changes nothing (log 139). The cases of stop, save and restore that R439 to R444 leave open are the model's reading (log 96,
log 97, log 100, log 101). -/
def Obligations.ContextUnitEvents : Prop :=
  ∀ (s : State) (n : Nat) (area : Dword) (r : RestoreCmd) (sv : Saved),
    let c := s.ctx n
    (c.life.state = .draining → c.life.reset = false → c.quar = [] → s.slotDrained n = true → s.hearths = [] →
      ∃ t, exec (.slotDrainComplete n) s = .next t ∧
        (t.ctx n).life.state = (if c.id.kind = .eval then .idle else .free)) ∧
    (c.life.state = .ready → c.life.stop = none → area.toNat % 4096 = 0 →
      ∃ t, exec (.stopFlagSet n area) s = .next t ∧ (t.ctx n).life.stop = some area ∧ (t.ctx n).life.state = .ready ∧
        (t.ctx n).regs = c.regs) ∧
    (s.hasStopped n = true → c.life.stop = some area → s.areaMapped c.id.vf area.toNat = true → c.port.queue = [] →
      c.port.landings = [] → c.port.faults = [] → c.mat.queue = [] → s.jobs = [] → (s.core (coreOf n)).l1 = [] →
      ∃ t, exec (.saveComplete n) s = .next t ∧ (t.ctx n).life.state = .saved ∧ (t.ctx n).regs = c.regs ∧
        (lookup? n t.saved).map (·.area) = some area) ∧
    (c.life.state = .saved → r.old = n → partOf c.id.vf = r.part → lookup? n s.saved = some sv → s.restoreOk r = true →
      s.bad = [] →
      let u := if s.splitFixed (coreOf r.ctx) then s else s.setBlocks (coreOf r.ctx) r.spBlk
      let area := fun (off k : Nat) => natOfBytes ((u.vfBytes c.id.vf (r.area + off) k).getD [])
      (s.restoreWaits r = true → exec (.restore r) s = .next s) ∧
      (s.restoreWaits r = false → s.badBlock n sv r.area = none → sv.pend = [] → c.quar = [] → c.trap.list = [] → c.port.queue = [] →
        ∃ t, exec (.restore r) s = .next t ∧ (t.ctx r.ctx).life.state = .ready ∧
          (t.ctx r.ctx).pc = BitVec.ofNat 64 (area 0x10 8) ∧ (t.ctx r.ctx).regs = regsOfArea area) ∧
      (∀ k, s.restoreWaits r = false → s.badBlock n sv r.area = some k →
        ∃ t, exec (.restore r) s = .next t ∧ (t.ctx n).life.state = .draining ∧ (t.ctx n).life.lost = true))
end

