-- ==== Sys2Proof/Laws/Store.lean ====
section
/-!
SUPPORT. Laws of the keyed containers: what a look-up finds after each operation, and that the canonical form is kept.
-/
namespace Sys2Proof.Machine
open Sys2Proof

variable {α : Type}

/-! ## Look-ups -/

@[simp] theorem lookup?_nil (k : Nat) : lookup? k ([] : List (Nat × α)) = none := rfl

theorem lookup?_dropKey (k j : Nat) (l : List (Nat × α)) :
    lookup? j (dropKey k l) = if j = k then none else lookup? j l := by
  induction l with
  | nil => simp [dropKey]
  | cons p t ih =>
    unfold dropKey at *
    by_cases h : p.1 = k
    · by_cases e : j = k
      · simp_all
      · have : p.1 ≠ j := fun x => e (x ▸ h)
        simp_all [lookup?]
    · by_cases e : p.1 = j
      · subst e; simp [h, lookup?]
      · simp_all [lookup?]

theorem lookup?_putPair (k j : Nat) (v : α) (l : List (Nat × α)) (h : lookup? k l = none) :
    lookup? j (putPair k v l) = if j = k then some v else lookup? j l := by
  induction l with
  | nil => by_cases e : j = k <;> simp [putPair, lookup?, e, Ne.symm]
  | cons p t ih =>
    obtain ⟨a, w⟩ := p
    have ne : a ≠ k := by
      intro e
      simp [lookup?, e] at h
    have h' : lookup? k t = none := by simpa [lookup?, ne] using h
    by_cases lt : k < a
    · by_cases e : j = k
      · simp [putPair, lt, lookup?, e]
      · simp [putPair, lt, lookup?, e, Ne.symm e]
    · by_cases e : a = j
      · subst e; simp [putPair, lt, lookup?, ne]
      · simp [putPair, lt, lookup?, e, ih h']

/-- A look-up after a record is stored. -/
@[simp] theorem lookup?_assocSet (k j : Nat) (v : α) (l : List (Nat × α)) :
    lookup? j (assocSet k v l) = if j = k then some v else lookup? j l := by
  by_cases e : j = k <;> simp [assocSet, lookup?_putPair, lookup?_dropKey, e]

@[simp] theorem lookupD_assocSet (d : α) (k j : Nat) (v : α) (l : List (Nat × α)) :
    lookupD d j (assocSet k v l) = if j = k then v else lookupD d j l := by
  by_cases e : j = k <;> simp [lookupD, e]

@[simp] theorem lookupD_sparseSet [DecidableEq α] (d : α) (k j : Nat) (v : α) (l : List (Nat × α)) :
    lookupD d j (sparseSet d k v l) = if j = k then v else lookupD d j l := by
  unfold sparseSet lookupD
  by_cases e : j = k <;> by_cases z : v = d <;> simp [lookup?_putPair, lookup?_dropKey, e, z]

/-- A look-up after values are stored under consecutive keys. -/
theorem lookupD_sparseSetList [DecidableEq α] (d : α) (vs : List α) : ∀ (k : Nat) (l : List (Nat × α)) (j : Nat),
    lookupD d j (sparseSetList d k vs l) = if k ≤ j ∧ j < k + vs.length then vs.getD (j - k) d else lookupD d j l := by
  induction vs with
  | nil => intro k l j; rw [if_neg (by simp)]; rfl
  | cons v t ih =>
    intro k l j
    simp only [sparseSetList, ih, List.length_cons]
    by_cases e : j = k
    · subst e; simp
    · rw [lookupD_sparseSet, if_neg e]
      by_cases c : k + 1 ≤ j ∧ j < k + 1 + t.length
      · rw [if_pos c, if_pos (by omega)]
        obtain ⟨m, rfl⟩ : ∃ m, j = k + 1 + m := ⟨j - (k + 1), by omega⟩
        rw [show k + 1 + m - (k + 1) = m by omega, show k + 1 + m - k = m + 1 by omega]
        rfl
      · rw [if_neg c, if_neg (by omega)]

/-! ## Canonical form -/

/-- Every key of a list is at least a bound, and the keys rise: a form of `keysRising` for inductions. -/
theorem keysRising_cons (p : Nat × α) (t : List (Nat × α)) :
    keysRising (p :: t) = true ↔ (∀ q ∈ t, p.1 < q.1) ∧ keysRising t = true := by
  induction t generalizing p with
  | nil => simp [keysRising]
  | cons q t ih =>
    obtain ⟨a, x⟩ := p
    obtain ⟨b, y⟩ := q
    simp only [keysRising, Bool.and_eq_true, decide_eq_true_eq, List.mem_cons, forall_eq_or_imp]
    constructor
    · rintro ⟨lt, r⟩
      exact ⟨⟨lt, fun z hz => lt.trans (((ih (b, y)).1 r).1 z hz)⟩, r⟩
    · rintro ⟨⟨lt, _⟩, r⟩
      exact ⟨lt, r⟩

theorem keysRising_dropKey (k : Nat) (l : List (Nat × α)) (h : keysRising l = true) : keysRising (dropKey k l) = true := by
  induction l with
  | nil => rfl
  | cons p t ih =>
    obtain ⟨lo, hi⟩ := (keysRising_cons p t).1 h
    unfold dropKey at *
    by_cases e : p.1 = k
    · simpa [e] using ih hi
    · simp only [bne_iff_ne, ne_eq, e, not_false_eq_true, List.filter_cons_of_pos]
      exact (keysRising_cons _ _).2 ⟨fun q hq => lo q (List.mem_of_mem_filter hq), ih hi⟩

theorem mem_putPair (k : Nat) (v : α) (l : List (Nat × α)) (q : Nat × α) :
    q ∈ putPair k v l ↔ q = (k, v) ∨ q ∈ l := by
  induction l with
  | nil => simp [putPair]
  | cons p t ih =>
    obtain ⟨a, w⟩ := p
    by_cases lt : k < a
    · simp [putPair, lt]
    · simp only [putPair, lt, if_false, List.mem_cons, ih]
      constructor
      · rintro (h | h | h) <;> simp [h]
      · rintro (h | h | h) <;> simp [h]

theorem keysRising_putPair (k : Nat) (v : α) (l : List (Nat × α)) (h : keysRising l = true) (n : ∀ q ∈ l, q.1 ≠ k) :
    keysRising (putPair k v l) = true := by
  induction l with
  | nil => rfl
  | cons p t ih =>
    obtain ⟨a, w⟩ := p
    obtain ⟨lo, hi⟩ := (keysRising_cons _ t).1 h
    by_cases lt : k < a
    · simp only [putPair, lt, if_true]
      refine (keysRising_cons _ _).2 ⟨?_, h⟩
      intro q hq
      rcases List.mem_cons.1 hq with rfl | hq
      · exact lt
      · exact lt.trans (lo q hq)
    · simp only [putPair, lt, if_false]
      have ne := n (a, w) (List.mem_cons_self ..)
      refine (keysRising_cons _ _).2 ⟨?_, ih hi fun q hq => n q (List.mem_cons_of_mem _ hq)⟩
      intro q hq
      rcases (mem_putPair k v t q).1 hq with rfl | hq
      · simp at *; omega
      · exact lo q hq

theorem sparseWf_sparseSet [DecidableEq α] (d : α) (k : Nat) (v : α) (l : List (Nat × α)) (h : sparseWf d l = true) :
    sparseWf d (sparseSet d k v l) = true := by
  simp only [sparseWf, Bool.and_eq_true, List.all_eq_true, decide_eq_true_eq] at *
  unfold sparseSet
  have drop : ∀ q ∈ dropKey k l, q.2 ≠ d := fun q hq => h.2 q (List.mem_of_mem_filter hq)
  split
  · exact ⟨keysRising_dropKey k l h.1, drop⟩
  · rename_i z
    refine ⟨keysRising_putPair k v _ (keysRising_dropKey k l h.1) ?_, ?_⟩
    · intro q hq
      simpa using (List.mem_filter.1 hq).2
    · intro q hq
      rcases (mem_putPair k v _ q).1 hq with rfl | hq
      · exact z
      · exact drop q hq

theorem sparseWf_sparseSetList [DecidableEq α] (d : α) (vs : List α) : ∀ (k : Nat) (l : List (Nat × α)),
    sparseWf d l = true → sparseWf d (sparseSetList d k vs l) = true := by
  induction vs with
  | nil => intro k l h; exact h
  | cons v t ih => intro k l h; exact ih _ _ (sparseWf_sparseSet d k v l h)

theorem keysRising_filter (q : Nat × α → Bool) (l : List (Nat × α)) (h : keysRising l = true) :
    keysRising (l.filter q) = true := by
  induction l with
  | nil => rfl
  | cons p t ih =>
    obtain ⟨lo, hi⟩ := (keysRising_cons p t).1 h
    by_cases e : q p
    · rw [List.filter_cons_of_pos e]
      exact (keysRising_cons _ _).2 ⟨fun x hx => lo x (List.mem_of_mem_filter hx), ih hi⟩
    · rw [List.filter_cons_of_neg e]
      exact ih hi

theorem sparseWf_filter [DecidableEq α] (d : α) (q : Nat × α → Bool) (l : List (Nat × α)) (h : sparseWf d l = true) :
    sparseWf d (l.filter q) = true := by
  simp only [sparseWf, Bool.and_eq_true, List.all_eq_true, decide_eq_true_eq] at *
  exact ⟨keysRising_filter q l h.1, fun x hx => h.2 x (List.mem_of_mem_filter hx)⟩

end Sys2Proof.Machine
end

