-- ==== Sys2Proof/Laws/State.lean ====
section
/-!
SUPPORT. What each update of the state leaves and what a read finds after it: one law per field per update, so that no
proof unfolds a record update.
-/
namespace Sys2Proof.Machine
open Sys2Proof

variable (s : State)

/-! ## Updates by a function are updates -/

theorem State.onCtx_eq (n : Nat) (f : Ctx → Ctx) : s.onCtx n f = s.setCtx n (f (s.ctx n)) := rfl
theorem State.onCore_eq (n : Nat) (f : Core → Core) : s.onCore n f = s.setCore n (f (s.core n)) := rfl
theorem State.onVf_eq (n : Nat) (f : Vf → Vf) : s.onVf n f = s.setVf n (f (s.vf n)) := rfl
theorem State.onPart_eq (n : Nat) (f : Partition → Partition) : s.onPart n f = s.setPart n (f (s.part n)) := rfl
theorem State.onCur_eq (f : Ctx → Ctx) : s.onCur f = s.setCtx s.iss.cur (f s.cur) := rfl

/-! ## Records read after they are written -/

@[simp] theorem State.ctx_setCtx (n m : Nat) (c : Ctx) : (s.setCtx n c).ctx m = if m = n then c else s.ctx m := by
  simp [State.ctx, State.setCtx]
@[simp] theorem State.core_setCore (n m : Nat) (c : Core) : (s.setCore n c).core m = if m = n then c else s.core m := by
  simp [State.core, State.setCore]
@[simp] theorem State.vf_setVf (n m : Nat) (c : Vf) : (s.setVf n c).vf m = if m = n then c else s.vf m := by
  simp [State.vf, State.setVf]
@[simp] theorem State.part_setPart (n m : Nat) (c : Partition) :
    (s.setPart n c).part m = if m = n then c else s.part m := by
  simp [State.part, State.setPart]
@[simp] theorem State.set_onSet (n m : Nat) (f : SetEntry → SetEntry) :
    (s.onSet n f).set m = if m = n then f (s.set n) else s.set m := by
  simp [State.set, State.onSet]
@[simp] theorem State.byte_setBytes (pa a : Nat) (bs : List Byte) :
    (s.setBytes pa bs).byte a = if pa ≤ a ∧ a < pa + bs.length then bs.getD (a - pa) 0 else s.byte a := by
  simp [State.byte, State.setBytes, lookupD_sparseSetList]

/-! ## Records that an update does not touch -/

@[simp] theorem State.core_setCtx (n : Nat) (c : Ctx) (m : Nat) : (s.setCtx n c).core m = s.core m := rfl
@[simp] theorem State.vf_setCtx (n : Nat) (c : Ctx) (m : Nat) : (s.setCtx n c).vf m = s.vf m := rfl
@[simp] theorem State.part_setCtx (n : Nat) (c : Ctx) (m : Nat) : (s.setCtx n c).part m = s.part m := rfl
@[simp] theorem State.set_setCtx (n : Nat) (c : Ctx) (m : Nat) : (s.setCtx n c).set m = s.set m := rfl
@[simp] theorem State.byte_setCtx (n : Nat) (c : Ctx) (m : Nat) : (s.setCtx n c).byte m = s.byte m := rfl
@[simp] theorem State.ctx_setCore (n : Nat) (c : Core) (m : Nat) : (s.setCore n c).ctx m = s.ctx m := rfl
@[simp] theorem State.vf_setCore (n : Nat) (c : Core) (m : Nat) : (s.setCore n c).vf m = s.vf m := rfl
@[simp] theorem State.part_setCore (n : Nat) (c : Core) (m : Nat) : (s.setCore n c).part m = s.part m := rfl
@[simp] theorem State.set_setCore (n : Nat) (c : Core) (m : Nat) : (s.setCore n c).set m = s.set m := rfl
@[simp] theorem State.byte_setCore (n : Nat) (c : Core) (m : Nat) : (s.setCore n c).byte m = s.byte m := rfl
@[simp] theorem State.ctx_setVf (n : Nat) (c : Vf) (m : Nat) : (s.setVf n c).ctx m = s.ctx m := rfl
@[simp] theorem State.core_setVf (n : Nat) (c : Vf) (m : Nat) : (s.setVf n c).core m = s.core m := rfl
@[simp] theorem State.part_setVf (n : Nat) (c : Vf) (m : Nat) : (s.setVf n c).part m = s.part m := rfl
@[simp] theorem State.set_setVf (n : Nat) (c : Vf) (m : Nat) : (s.setVf n c).set m = s.set m := rfl
@[simp] theorem State.byte_setVf (n : Nat) (c : Vf) (m : Nat) : (s.setVf n c).byte m = s.byte m := rfl
@[simp] theorem State.ctx_setPart (n : Nat) (c : Partition) (m : Nat) : (s.setPart n c).ctx m = s.ctx m := rfl
@[simp] theorem State.core_setPart (n : Nat) (c : Partition) (m : Nat) : (s.setPart n c).core m = s.core m := rfl
@[simp] theorem State.vf_setPart (n : Nat) (c : Partition) (m : Nat) : (s.setPart n c).vf m = s.vf m := rfl
@[simp] theorem State.set_setPart (n : Nat) (c : Partition) (m : Nat) : (s.setPart n c).set m = s.set m := rfl
@[simp] theorem State.byte_setPart (n : Nat) (c : Partition) (m : Nat) : (s.setPart n c).byte m = s.byte m := rfl
@[simp] theorem State.ctx_onSet (n : Nat) (f : SetEntry → SetEntry) (m : Nat) : (s.onSet n f).ctx m = s.ctx m := rfl
@[simp] theorem State.core_onSet (n : Nat) (f : SetEntry → SetEntry) (m : Nat) : (s.onSet n f).core m = s.core m := rfl
@[simp] theorem State.vf_onSet (n : Nat) (f : SetEntry → SetEntry) (m : Nat) : (s.onSet n f).vf m = s.vf m := rfl
@[simp] theorem State.part_onSet (n : Nat) (f : SetEntry → SetEntry) (m : Nat) : (s.onSet n f).part m = s.part m := rfl
@[simp] theorem State.byte_onSet (n : Nat) (f : SetEntry → SetEntry) (m : Nat) : (s.onSet n f).byte m = s.byte m := rfl
@[simp] theorem State.ctx_setBytes (pa : Nat) (bs : List Byte) (m : Nat) : (s.setBytes pa bs).ctx m = s.ctx m := rfl
@[simp] theorem State.core_setBytes (pa : Nat) (bs : List Byte) (m : Nat) : (s.setBytes pa bs).core m = s.core m := rfl
@[simp] theorem State.vf_setBytes (pa : Nat) (bs : List Byte) (m : Nat) : (s.setBytes pa bs).vf m = s.vf m := rfl
@[simp] theorem State.part_setBytes (pa : Nat) (bs : List Byte) (m : Nat) : (s.setBytes pa bs).part m = s.part m := rfl
@[simp] theorem State.set_setBytes (pa : Nat) (bs : List Byte) (m : Nat) : (s.setBytes pa bs).set m = s.set m := rfl
@[simp] theorem State.ctx_onIss (f : Issue → Issue) (m : Nat) : (s.onIss f).ctx m = s.ctx m := rfl
@[simp] theorem State.core_onIss (f : Issue → Issue) (m : Nat) : (s.onIss f).core m = s.core m := rfl
@[simp] theorem State.vf_onIss (f : Issue → Issue) (m : Nat) : (s.onIss f).vf m = s.vf m := rfl
@[simp] theorem State.part_onIss (f : Issue → Issue) (m : Nat) : (s.onIss f).part m = s.part m := rfl
@[simp] theorem State.set_onIss (f : Issue → Issue) (m : Nat) : (s.onIss f).set m = s.set m := rfl
@[simp] theorem State.byte_onIss (f : Issue → Issue) (m : Nat) : (s.onIss f).byte m = s.byte m := rfl
@[simp] theorem State.cur_setCore (n : Nat) (c : Core) : (s.setCore n c).cur = s.cur := rfl
@[simp] theorem State.cur_setVf (n : Nat) (c : Vf) : (s.setVf n c).cur = s.cur := rfl
@[simp] theorem State.cur_onSet (n : Nat) (f : SetEntry → SetEntry) : (s.onSet n f).cur = s.cur := rfl
@[simp] theorem State.cur_setBytes (pa : Nat) (bs : List Byte) : (s.setBytes pa bs).cur = s.cur := rfl

/-! ## Fields after `setCtx` -/

@[simp] theorem State.setCtx_mem (n : Nat) (c : Ctx) : (s.setCtx n c).mem = s.mem := rfl
@[simp] theorem State.setCtx_bad (n : Nat) (c : Ctx) : (s.setCtx n c).bad = s.bad := rfl
@[simp] theorem State.setCtx_l2 (n : Nat) (c : Ctx) : (s.setCtx n c).l2 = s.l2 := rfl
@[simp] theorem State.setCtx_cores (n : Nat) (c : Ctx) : (s.setCtx n c).cores = s.cores := rfl
@[simp] theorem State.setCtx_vfs (n : Nat) (c : Ctx) : (s.setCtx n c).vfs = s.vfs := rfl
@[simp] theorem State.setCtx_parts (n : Nat) (c : Ctx) : (s.setCtx n c).parts = s.parts := rfl
@[simp] theorem State.setCtx_tlbs (n : Nat) (c : Ctx) : (s.setCtx n c).tlbs = s.tlbs := rfl
@[simp] theorem State.setCtx_walks (n : Nat) (c : Ctx) : (s.setCtx n c).walks = s.walks := rfl
@[simp] theorem State.setCtx_invals (n : Nat) (c : Ctx) : (s.setCtx n c).invals = s.invals := rfl
@[simp] theorem State.setCtx_sets (n : Nat) (c : Ctx) : (s.setCtx n c).sets = s.sets := rfl
@[simp] theorem State.setCtx_tags (n : Nat) (c : Ctx) : (s.setCtx n c).tags = s.tags := rfl
@[simp] theorem State.setCtx_embFrames (n : Nat) (c : Ctx) : (s.setCtx n c).embFrames = s.embFrames := rfl
@[simp] theorem State.setCtx_hearths (n : Nat) (c : Ctx) : (s.setCtx n c).hearths = s.hearths := rfl
@[simp] theorem State.setCtx_waiters (n : Nat) (c : Ctx) : (s.setCtx n c).waiters = s.waiters := rfl
@[simp] theorem State.setCtx_served (n : Nat) (c : Ctx) : (s.setCtx n c).served = s.served := rfl
@[simp] theorem State.setCtx_coords (n : Nat) (c : Ctx) : (s.setCtx n c).coords = s.coords := rfl
@[simp] theorem State.setCtx_dests (n : Nat) (c : Ctx) : (s.setCtx n c).dests = s.dests := rfl
@[simp] theorem State.setCtx_jobs (n : Nat) (c : Ctx) : (s.setCtx n c).jobs = s.jobs := rfl
@[simp] theorem State.setCtx_rots (n : Nat) (c : Ctx) : (s.setCtx n c).rots = s.rots := rfl
@[simp] theorem State.setCtx_saved (n : Nat) (c : Ctx) : (s.setCtx n c).saved = s.saved := rfl
@[simp] theorem State.setCtx_seqs (n : Nat) (c : Ctx) : (s.setCtx n c).seqs = s.seqs := rfl
@[simp] theorem State.setCtx_freed (n : Nat) (c : Ctx) : (s.setCtx n c).freed = s.freed := rfl
@[simp] theorem State.setCtx_packets (n : Nat) (c : Ctx) : (s.setCtx n c).packets = s.packets := rfl
@[simp] theorem State.setCtx_nextId (n : Nat) (c : Ctx) : (s.setCtx n c).nextId = s.nextId := rfl
@[simp] theorem State.setCtx_gathered (n : Nat) (c : Ctx) : (s.setCtx n c).gathered = s.gathered := rfl
@[simp] theorem State.setCtx_fabxy (n : Nat) (c : Ctx) : (s.setCtx n c).fabxy = s.fabxy := rfl
@[simp] theorem State.setCtx_fabCols (n : Nat) (c : Ctx) : (s.setCtx n c).fabCols = s.fabCols := rfl
@[simp] theorem State.setCtx_fabRows (n : Nat) (c : Ctx) : (s.setCtx n c).fabRows = s.fabRows := rfl
@[simp] theorem State.setCtx_broken (n : Nat) (c : Ctx) : (s.setCtx n c).broken = s.broken := rfl
@[simp] theorem State.setCtx_links (n : Nat) (c : Ctx) : (s.setCtx n c).links = s.links := rfl
@[simp] theorem State.setCtx_seqOut (n : Nat) (c : Ctx) : (s.setCtx n c).seqOut = s.seqOut := rfl
@[simp] theorem State.setCtx_seqIn (n : Nat) (c : Ctx) : (s.setCtx n c).seqIn = s.seqIn := rfl
@[simp] theorem State.setCtx_coll (n : Nat) (c : Ctx) : (s.setCtx n c).coll = s.coll := rfl
@[simp] theorem State.setCtx_keys (n : Nat) (c : Ctx) : (s.setCtx n c).keys = s.keys := rfl
@[simp] theorem State.setCtx_messages (n : Nat) (c : Ctx) : (s.setCtx n c).messages = s.messages := rfl
@[simp] theorem State.setCtx_counted (n : Nat) (c : Ctx) : (s.setCtx n c).counted = s.counted := rfl
@[simp] theorem State.setCtx_frames (n : Nat) (c : Ctx) : (s.setCtx n c).frames = s.frames := rfl
@[simp] theorem State.setCtx_unknown (n : Nat) (c : Ctx) : (s.setCtx n c).unknown = s.unknown := rfl
@[simp] theorem State.setCtx_split (n : Nat) (c : Ctx) : (s.setCtx n c).split = s.split := rfl
@[simp] theorem State.setCtx_portClocks (n : Nat) (c : Ctx) : (s.setCtx n c).portClocks = s.portClocks := rfl
@[simp] theorem State.setCtx_outbox (n : Nat) (c : Ctx) : (s.setCtx n c).outbox = s.outbox := rfl
@[simp] theorem State.setCtx_ready (n : Nat) (c : Ctx) : (s.setCtx n c).ready = s.ready := rfl
@[simp] theorem State.setCtx_meas (n : Nat) (c : Ctx) : (s.setCtx n c).meas = s.meas := rfl
@[simp] theorem State.setCtx_measLog (n : Nat) (c : Ctx) : (s.setCtx n c).measLog = s.measLog := rfl
@[simp] theorem State.setCtx_spdm (n : Nat) (c : Ctx) : (s.setCtx n c).spdm = s.spdm := rfl
@[simp] theorem State.setCtx_cap (n : Nat) (c : Ctx) : (s.setCtx n c).cap = s.cap := rfl
@[simp] theorem State.setCtx_power (n : Nat) (c : Ctx) : (s.setCtx n c).power = s.power := rfl
@[simp] theorem State.setCtx_thermal (n : Nat) (c : Ctx) : (s.setCtx n c).thermal = s.thermal := rfl
@[simp] theorem State.setCtx_darot (n : Nat) (c : Ctx) : (s.setCtx n c).darot = s.darot := rfl
@[simp] theorem State.setCtx_draws (n : Nat) (c : Ctx) : (s.setCtx n c).draws = s.draws := rfl
@[simp] theorem State.setCtx_iss (n : Nat) (c : Ctx) : (s.setCtx n c).iss = s.iss := rfl
@[simp] theorem State.setCtx_agenda (n : Nat) (c : Ctx) : (s.setCtx n c).agenda = s.agenda := rfl
@[simp] theorem State.setCtx_turn (n : Nat) (c : Ctx) : (s.setCtx n c).turn = s.turn := rfl
@[simp] theorem State.setCtx_free (n : Nat) (c : Ctx) : (s.setCtx n c).free = s.free := rfl

/-! ## Fields after `setCore` -/

@[simp] theorem State.setCore_mem (n : Nat) (c : Core) : (s.setCore n c).mem = s.mem := rfl
@[simp] theorem State.setCore_bad (n : Nat) (c : Core) : (s.setCore n c).bad = s.bad := rfl
@[simp] theorem State.setCore_l2 (n : Nat) (c : Core) : (s.setCore n c).l2 = s.l2 := rfl
@[simp] theorem State.setCore_ctxs (n : Nat) (c : Core) : (s.setCore n c).ctxs = s.ctxs := rfl
@[simp] theorem State.setCore_vfs (n : Nat) (c : Core) : (s.setCore n c).vfs = s.vfs := rfl
@[simp] theorem State.setCore_parts (n : Nat) (c : Core) : (s.setCore n c).parts = s.parts := rfl
@[simp] theorem State.setCore_tlbs (n : Nat) (c : Core) : (s.setCore n c).tlbs = s.tlbs := rfl
@[simp] theorem State.setCore_walks (n : Nat) (c : Core) : (s.setCore n c).walks = s.walks := rfl
@[simp] theorem State.setCore_invals (n : Nat) (c : Core) : (s.setCore n c).invals = s.invals := rfl
@[simp] theorem State.setCore_sets (n : Nat) (c : Core) : (s.setCore n c).sets = s.sets := rfl
@[simp] theorem State.setCore_tags (n : Nat) (c : Core) : (s.setCore n c).tags = s.tags := rfl
@[simp] theorem State.setCore_embFrames (n : Nat) (c : Core) : (s.setCore n c).embFrames = s.embFrames := rfl
@[simp] theorem State.setCore_hearths (n : Nat) (c : Core) : (s.setCore n c).hearths = s.hearths := rfl
@[simp] theorem State.setCore_waiters (n : Nat) (c : Core) : (s.setCore n c).waiters = s.waiters := rfl
@[simp] theorem State.setCore_served (n : Nat) (c : Core) : (s.setCore n c).served = s.served := rfl
@[simp] theorem State.setCore_coords (n : Nat) (c : Core) : (s.setCore n c).coords = s.coords := rfl
@[simp] theorem State.setCore_dests (n : Nat) (c : Core) : (s.setCore n c).dests = s.dests := rfl
@[simp] theorem State.setCore_jobs (n : Nat) (c : Core) : (s.setCore n c).jobs = s.jobs := rfl
@[simp] theorem State.setCore_rots (n : Nat) (c : Core) : (s.setCore n c).rots = s.rots := rfl
@[simp] theorem State.setCore_saved (n : Nat) (c : Core) : (s.setCore n c).saved = s.saved := rfl
@[simp] theorem State.setCore_seqs (n : Nat) (c : Core) : (s.setCore n c).seqs = s.seqs := rfl
@[simp] theorem State.setCore_freed (n : Nat) (c : Core) : (s.setCore n c).freed = s.freed := rfl
@[simp] theorem State.setCore_packets (n : Nat) (c : Core) : (s.setCore n c).packets = s.packets := rfl
@[simp] theorem State.setCore_nextId (n : Nat) (c : Core) : (s.setCore n c).nextId = s.nextId := rfl
@[simp] theorem State.setCore_gathered (n : Nat) (c : Core) : (s.setCore n c).gathered = s.gathered := rfl
@[simp] theorem State.setCore_fabxy (n : Nat) (c : Core) : (s.setCore n c).fabxy = s.fabxy := rfl
@[simp] theorem State.setCore_fabCols (n : Nat) (c : Core) : (s.setCore n c).fabCols = s.fabCols := rfl
@[simp] theorem State.setCore_fabRows (n : Nat) (c : Core) : (s.setCore n c).fabRows = s.fabRows := rfl
@[simp] theorem State.setCore_broken (n : Nat) (c : Core) : (s.setCore n c).broken = s.broken := rfl
@[simp] theorem State.setCore_links (n : Nat) (c : Core) : (s.setCore n c).links = s.links := rfl
@[simp] theorem State.setCore_seqOut (n : Nat) (c : Core) : (s.setCore n c).seqOut = s.seqOut := rfl
@[simp] theorem State.setCore_seqIn (n : Nat) (c : Core) : (s.setCore n c).seqIn = s.seqIn := rfl
@[simp] theorem State.setCore_coll (n : Nat) (c : Core) : (s.setCore n c).coll = s.coll := rfl
@[simp] theorem State.setCore_keys (n : Nat) (c : Core) : (s.setCore n c).keys = s.keys := rfl
@[simp] theorem State.setCore_messages (n : Nat) (c : Core) : (s.setCore n c).messages = s.messages := rfl
@[simp] theorem State.setCore_counted (n : Nat) (c : Core) : (s.setCore n c).counted = s.counted := rfl
@[simp] theorem State.setCore_frames (n : Nat) (c : Core) : (s.setCore n c).frames = s.frames := rfl
@[simp] theorem State.setCore_unknown (n : Nat) (c : Core) : (s.setCore n c).unknown = s.unknown := rfl
@[simp] theorem State.setCore_split (n : Nat) (c : Core) : (s.setCore n c).split = s.split := rfl
@[simp] theorem State.setCore_portClocks (n : Nat) (c : Core) : (s.setCore n c).portClocks = s.portClocks := rfl
@[simp] theorem State.setCore_outbox (n : Nat) (c : Core) : (s.setCore n c).outbox = s.outbox := rfl
@[simp] theorem State.setCore_ready (n : Nat) (c : Core) : (s.setCore n c).ready = s.ready := rfl
@[simp] theorem State.setCore_meas (n : Nat) (c : Core) : (s.setCore n c).meas = s.meas := rfl
@[simp] theorem State.setCore_measLog (n : Nat) (c : Core) : (s.setCore n c).measLog = s.measLog := rfl
@[simp] theorem State.setCore_spdm (n : Nat) (c : Core) : (s.setCore n c).spdm = s.spdm := rfl
@[simp] theorem State.setCore_cap (n : Nat) (c : Core) : (s.setCore n c).cap = s.cap := rfl
@[simp] theorem State.setCore_power (n : Nat) (c : Core) : (s.setCore n c).power = s.power := rfl
@[simp] theorem State.setCore_thermal (n : Nat) (c : Core) : (s.setCore n c).thermal = s.thermal := rfl
@[simp] theorem State.setCore_darot (n : Nat) (c : Core) : (s.setCore n c).darot = s.darot := rfl
@[simp] theorem State.setCore_draws (n : Nat) (c : Core) : (s.setCore n c).draws = s.draws := rfl
@[simp] theorem State.setCore_iss (n : Nat) (c : Core) : (s.setCore n c).iss = s.iss := rfl
@[simp] theorem State.setCore_agenda (n : Nat) (c : Core) : (s.setCore n c).agenda = s.agenda := rfl
@[simp] theorem State.setCore_turn (n : Nat) (c : Core) : (s.setCore n c).turn = s.turn := rfl
@[simp] theorem State.setCore_free (n : Nat) (c : Core) : (s.setCore n c).free = s.free := rfl

/-! ## Fields after `setVf` -/

@[simp] theorem State.setVf_mem (n : Nat) (c : Vf) : (s.setVf n c).mem = s.mem := rfl
@[simp] theorem State.setVf_bad (n : Nat) (c : Vf) : (s.setVf n c).bad = s.bad := rfl
@[simp] theorem State.setVf_l2 (n : Nat) (c : Vf) : (s.setVf n c).l2 = s.l2 := rfl
@[simp] theorem State.setVf_ctxs (n : Nat) (c : Vf) : (s.setVf n c).ctxs = s.ctxs := rfl
@[simp] theorem State.setVf_cores (n : Nat) (c : Vf) : (s.setVf n c).cores = s.cores := rfl
@[simp] theorem State.setVf_parts (n : Nat) (c : Vf) : (s.setVf n c).parts = s.parts := rfl
@[simp] theorem State.setVf_tlbs (n : Nat) (c : Vf) : (s.setVf n c).tlbs = s.tlbs := rfl
@[simp] theorem State.setVf_walks (n : Nat) (c : Vf) : (s.setVf n c).walks = s.walks := rfl
@[simp] theorem State.setVf_invals (n : Nat) (c : Vf) : (s.setVf n c).invals = s.invals := rfl
@[simp] theorem State.setVf_sets (n : Nat) (c : Vf) : (s.setVf n c).sets = s.sets := rfl
@[simp] theorem State.setVf_tags (n : Nat) (c : Vf) : (s.setVf n c).tags = s.tags := rfl
@[simp] theorem State.setVf_embFrames (n : Nat) (c : Vf) : (s.setVf n c).embFrames = s.embFrames := rfl
@[simp] theorem State.setVf_hearths (n : Nat) (c : Vf) : (s.setVf n c).hearths = s.hearths := rfl
@[simp] theorem State.setVf_waiters (n : Nat) (c : Vf) : (s.setVf n c).waiters = s.waiters := rfl
@[simp] theorem State.setVf_served (n : Nat) (c : Vf) : (s.setVf n c).served = s.served := rfl
@[simp] theorem State.setVf_coords (n : Nat) (c : Vf) : (s.setVf n c).coords = s.coords := rfl
@[simp] theorem State.setVf_dests (n : Nat) (c : Vf) : (s.setVf n c).dests = s.dests := rfl
@[simp] theorem State.setVf_jobs (n : Nat) (c : Vf) : (s.setVf n c).jobs = s.jobs := rfl
@[simp] theorem State.setVf_rots (n : Nat) (c : Vf) : (s.setVf n c).rots = s.rots := rfl
@[simp] theorem State.setVf_saved (n : Nat) (c : Vf) : (s.setVf n c).saved = s.saved := rfl
@[simp] theorem State.setVf_seqs (n : Nat) (c : Vf) : (s.setVf n c).seqs = s.seqs := rfl
@[simp] theorem State.setVf_freed (n : Nat) (c : Vf) : (s.setVf n c).freed = s.freed := rfl
@[simp] theorem State.setVf_packets (n : Nat) (c : Vf) : (s.setVf n c).packets = s.packets := rfl
@[simp] theorem State.setVf_nextId (n : Nat) (c : Vf) : (s.setVf n c).nextId = s.nextId := rfl
@[simp] theorem State.setVf_gathered (n : Nat) (c : Vf) : (s.setVf n c).gathered = s.gathered := rfl
@[simp] theorem State.setVf_fabxy (n : Nat) (c : Vf) : (s.setVf n c).fabxy = s.fabxy := rfl
@[simp] theorem State.setVf_fabCols (n : Nat) (c : Vf) : (s.setVf n c).fabCols = s.fabCols := rfl
@[simp] theorem State.setVf_fabRows (n : Nat) (c : Vf) : (s.setVf n c).fabRows = s.fabRows := rfl
@[simp] theorem State.setVf_broken (n : Nat) (c : Vf) : (s.setVf n c).broken = s.broken := rfl
@[simp] theorem State.setVf_links (n : Nat) (c : Vf) : (s.setVf n c).links = s.links := rfl
@[simp] theorem State.setVf_seqOut (n : Nat) (c : Vf) : (s.setVf n c).seqOut = s.seqOut := rfl
@[simp] theorem State.setVf_seqIn (n : Nat) (c : Vf) : (s.setVf n c).seqIn = s.seqIn := rfl
@[simp] theorem State.setVf_coll (n : Nat) (c : Vf) : (s.setVf n c).coll = s.coll := rfl
@[simp] theorem State.setVf_keys (n : Nat) (c : Vf) : (s.setVf n c).keys = s.keys := rfl
@[simp] theorem State.setVf_messages (n : Nat) (c : Vf) : (s.setVf n c).messages = s.messages := rfl
@[simp] theorem State.setVf_counted (n : Nat) (c : Vf) : (s.setVf n c).counted = s.counted := rfl
@[simp] theorem State.setVf_frames (n : Nat) (c : Vf) : (s.setVf n c).frames = s.frames := rfl
@[simp] theorem State.setVf_unknown (n : Nat) (c : Vf) : (s.setVf n c).unknown = s.unknown := rfl
@[simp] theorem State.setVf_split (n : Nat) (c : Vf) : (s.setVf n c).split = s.split := rfl
@[simp] theorem State.setVf_portClocks (n : Nat) (c : Vf) : (s.setVf n c).portClocks = s.portClocks := rfl
@[simp] theorem State.setVf_outbox (n : Nat) (c : Vf) : (s.setVf n c).outbox = s.outbox := rfl
@[simp] theorem State.setVf_ready (n : Nat) (c : Vf) : (s.setVf n c).ready = s.ready := rfl
@[simp] theorem State.setVf_meas (n : Nat) (c : Vf) : (s.setVf n c).meas = s.meas := rfl
@[simp] theorem State.setVf_measLog (n : Nat) (c : Vf) : (s.setVf n c).measLog = s.measLog := rfl
@[simp] theorem State.setVf_spdm (n : Nat) (c : Vf) : (s.setVf n c).spdm = s.spdm := rfl
@[simp] theorem State.setVf_cap (n : Nat) (c : Vf) : (s.setVf n c).cap = s.cap := rfl
@[simp] theorem State.setVf_power (n : Nat) (c : Vf) : (s.setVf n c).power = s.power := rfl
@[simp] theorem State.setVf_thermal (n : Nat) (c : Vf) : (s.setVf n c).thermal = s.thermal := rfl
@[simp] theorem State.setVf_darot (n : Nat) (c : Vf) : (s.setVf n c).darot = s.darot := rfl
@[simp] theorem State.setVf_draws (n : Nat) (c : Vf) : (s.setVf n c).draws = s.draws := rfl
@[simp] theorem State.setVf_iss (n : Nat) (c : Vf) : (s.setVf n c).iss = s.iss := rfl
@[simp] theorem State.setVf_agenda (n : Nat) (c : Vf) : (s.setVf n c).agenda = s.agenda := rfl
@[simp] theorem State.setVf_turn (n : Nat) (c : Vf) : (s.setVf n c).turn = s.turn := rfl
@[simp] theorem State.setVf_free (n : Nat) (c : Vf) : (s.setVf n c).free = s.free := rfl

/-! ## Fields after `setPart` -/

@[simp] theorem State.setPart_mem (n : Nat) (c : Partition) : (s.setPart n c).mem = s.mem := rfl
@[simp] theorem State.setPart_bad (n : Nat) (c : Partition) : (s.setPart n c).bad = s.bad := rfl
@[simp] theorem State.setPart_l2 (n : Nat) (c : Partition) : (s.setPart n c).l2 = s.l2 := rfl
@[simp] theorem State.setPart_ctxs (n : Nat) (c : Partition) : (s.setPart n c).ctxs = s.ctxs := rfl
@[simp] theorem State.setPart_cores (n : Nat) (c : Partition) : (s.setPart n c).cores = s.cores := rfl
@[simp] theorem State.setPart_vfs (n : Nat) (c : Partition) : (s.setPart n c).vfs = s.vfs := rfl
@[simp] theorem State.setPart_tlbs (n : Nat) (c : Partition) : (s.setPart n c).tlbs = s.tlbs := rfl
@[simp] theorem State.setPart_walks (n : Nat) (c : Partition) : (s.setPart n c).walks = s.walks := rfl
@[simp] theorem State.setPart_invals (n : Nat) (c : Partition) : (s.setPart n c).invals = s.invals := rfl
@[simp] theorem State.setPart_sets (n : Nat) (c : Partition) : (s.setPart n c).sets = s.sets := rfl
@[simp] theorem State.setPart_tags (n : Nat) (c : Partition) : (s.setPart n c).tags = s.tags := rfl
@[simp] theorem State.setPart_embFrames (n : Nat) (c : Partition) : (s.setPart n c).embFrames = s.embFrames := rfl
@[simp] theorem State.setPart_hearths (n : Nat) (c : Partition) : (s.setPart n c).hearths = s.hearths := rfl
@[simp] theorem State.setPart_waiters (n : Nat) (c : Partition) : (s.setPart n c).waiters = s.waiters := rfl
@[simp] theorem State.setPart_served (n : Nat) (c : Partition) : (s.setPart n c).served = s.served := rfl
@[simp] theorem State.setPart_coords (n : Nat) (c : Partition) : (s.setPart n c).coords = s.coords := rfl
@[simp] theorem State.setPart_dests (n : Nat) (c : Partition) : (s.setPart n c).dests = s.dests := rfl
@[simp] theorem State.setPart_jobs (n : Nat) (c : Partition) : (s.setPart n c).jobs = s.jobs := rfl
@[simp] theorem State.setPart_rots (n : Nat) (c : Partition) : (s.setPart n c).rots = s.rots := rfl
@[simp] theorem State.setPart_saved (n : Nat) (c : Partition) : (s.setPart n c).saved = s.saved := rfl
@[simp] theorem State.setPart_seqs (n : Nat) (c : Partition) : (s.setPart n c).seqs = s.seqs := rfl
@[simp] theorem State.setPart_freed (n : Nat) (c : Partition) : (s.setPart n c).freed = s.freed := rfl
@[simp] theorem State.setPart_packets (n : Nat) (c : Partition) : (s.setPart n c).packets = s.packets := rfl
@[simp] theorem State.setPart_nextId (n : Nat) (c : Partition) : (s.setPart n c).nextId = s.nextId := rfl
@[simp] theorem State.setPart_gathered (n : Nat) (c : Partition) : (s.setPart n c).gathered = s.gathered := rfl
@[simp] theorem State.setPart_fabxy (n : Nat) (c : Partition) : (s.setPart n c).fabxy = s.fabxy := rfl
@[simp] theorem State.setPart_fabCols (n : Nat) (c : Partition) : (s.setPart n c).fabCols = s.fabCols := rfl
@[simp] theorem State.setPart_fabRows (n : Nat) (c : Partition) : (s.setPart n c).fabRows = s.fabRows := rfl
@[simp] theorem State.setPart_broken (n : Nat) (c : Partition) : (s.setPart n c).broken = s.broken := rfl
@[simp] theorem State.setPart_links (n : Nat) (c : Partition) : (s.setPart n c).links = s.links := rfl
@[simp] theorem State.setPart_seqOut (n : Nat) (c : Partition) : (s.setPart n c).seqOut = s.seqOut := rfl
@[simp] theorem State.setPart_seqIn (n : Nat) (c : Partition) : (s.setPart n c).seqIn = s.seqIn := rfl
@[simp] theorem State.setPart_coll (n : Nat) (c : Partition) : (s.setPart n c).coll = s.coll := rfl
@[simp] theorem State.setPart_keys (n : Nat) (c : Partition) : (s.setPart n c).keys = s.keys := rfl
@[simp] theorem State.setPart_messages (n : Nat) (c : Partition) : (s.setPart n c).messages = s.messages := rfl
@[simp] theorem State.setPart_counted (n : Nat) (c : Partition) : (s.setPart n c).counted = s.counted := rfl
@[simp] theorem State.setPart_frames (n : Nat) (c : Partition) : (s.setPart n c).frames = s.frames := rfl
@[simp] theorem State.setPart_unknown (n : Nat) (c : Partition) : (s.setPart n c).unknown = s.unknown := rfl
@[simp] theorem State.setPart_split (n : Nat) (c : Partition) : (s.setPart n c).split = s.split := rfl
@[simp] theorem State.setPart_portClocks (n : Nat) (c : Partition) : (s.setPart n c).portClocks = s.portClocks := rfl
@[simp] theorem State.setPart_outbox (n : Nat) (c : Partition) : (s.setPart n c).outbox = s.outbox := rfl
@[simp] theorem State.setPart_ready (n : Nat) (c : Partition) : (s.setPart n c).ready = s.ready := rfl
@[simp] theorem State.setPart_meas (n : Nat) (c : Partition) : (s.setPart n c).meas = s.meas := rfl
@[simp] theorem State.setPart_measLog (n : Nat) (c : Partition) : (s.setPart n c).measLog = s.measLog := rfl
@[simp] theorem State.setPart_spdm (n : Nat) (c : Partition) : (s.setPart n c).spdm = s.spdm := rfl
@[simp] theorem State.setPart_cap (n : Nat) (c : Partition) : (s.setPart n c).cap = s.cap := rfl
@[simp] theorem State.setPart_power (n : Nat) (c : Partition) : (s.setPart n c).power = s.power := rfl
@[simp] theorem State.setPart_thermal (n : Nat) (c : Partition) : (s.setPart n c).thermal = s.thermal := rfl
@[simp] theorem State.setPart_darot (n : Nat) (c : Partition) : (s.setPart n c).darot = s.darot := rfl
@[simp] theorem State.setPart_draws (n : Nat) (c : Partition) : (s.setPart n c).draws = s.draws := rfl
@[simp] theorem State.setPart_iss (n : Nat) (c : Partition) : (s.setPart n c).iss = s.iss := rfl
@[simp] theorem State.setPart_agenda (n : Nat) (c : Partition) : (s.setPart n c).agenda = s.agenda := rfl
@[simp] theorem State.setPart_turn (n : Nat) (c : Partition) : (s.setPart n c).turn = s.turn := rfl
@[simp] theorem State.setPart_free (n : Nat) (c : Partition) : (s.setPart n c).free = s.free := rfl

/-! ## Fields after `onSet` -/

@[simp] theorem State.onSet_mem (n : Nat) (f : SetEntry → SetEntry) : (s.onSet n f).mem = s.mem := rfl
@[simp] theorem State.onSet_bad (n : Nat) (f : SetEntry → SetEntry) : (s.onSet n f).bad = s.bad := rfl
@[simp] theorem State.onSet_l2 (n : Nat) (f : SetEntry → SetEntry) : (s.onSet n f).l2 = s.l2 := rfl
@[simp] theorem State.onSet_ctxs (n : Nat) (f : SetEntry → SetEntry) : (s.onSet n f).ctxs = s.ctxs := rfl
@[simp] theorem State.onSet_cores (n : Nat) (f : SetEntry → SetEntry) : (s.onSet n f).cores = s.cores := rfl
@[simp] theorem State.onSet_vfs (n : Nat) (f : SetEntry → SetEntry) : (s.onSet n f).vfs = s.vfs := rfl
@[simp] theorem State.onSet_parts (n : Nat) (f : SetEntry → SetEntry) : (s.onSet n f).parts = s.parts := rfl
@[simp] theorem State.onSet_tlbs (n : Nat) (f : SetEntry → SetEntry) : (s.onSet n f).tlbs = s.tlbs := rfl
@[simp] theorem State.onSet_walks (n : Nat) (f : SetEntry → SetEntry) : (s.onSet n f).walks = s.walks := rfl
@[simp] theorem State.onSet_invals (n : Nat) (f : SetEntry → SetEntry) : (s.onSet n f).invals = s.invals := rfl
@[simp] theorem State.onSet_tags (n : Nat) (f : SetEntry → SetEntry) : (s.onSet n f).tags = s.tags := rfl
@[simp] theorem State.onSet_embFrames (n : Nat) (f : SetEntry → SetEntry) : (s.onSet n f).embFrames = s.embFrames := rfl
@[simp] theorem State.onSet_hearths (n : Nat) (f : SetEntry → SetEntry) : (s.onSet n f).hearths = s.hearths := rfl
@[simp] theorem State.onSet_waiters (n : Nat) (f : SetEntry → SetEntry) : (s.onSet n f).waiters = s.waiters := rfl
@[simp] theorem State.onSet_served (n : Nat) (f : SetEntry → SetEntry) : (s.onSet n f).served = s.served := rfl
@[simp] theorem State.onSet_coords (n : Nat) (f : SetEntry → SetEntry) : (s.onSet n f).coords = s.coords := rfl
@[simp] theorem State.onSet_dests (n : Nat) (f : SetEntry → SetEntry) : (s.onSet n f).dests = s.dests := rfl
@[simp] theorem State.onSet_jobs (n : Nat) (f : SetEntry → SetEntry) : (s.onSet n f).jobs = s.jobs := rfl
@[simp] theorem State.onSet_rots (n : Nat) (f : SetEntry → SetEntry) : (s.onSet n f).rots = s.rots := rfl
@[simp] theorem State.onSet_saved (n : Nat) (f : SetEntry → SetEntry) : (s.onSet n f).saved = s.saved := rfl
@[simp] theorem State.onSet_seqs (n : Nat) (f : SetEntry → SetEntry) : (s.onSet n f).seqs = s.seqs := rfl
@[simp] theorem State.onSet_freed (n : Nat) (f : SetEntry → SetEntry) : (s.onSet n f).freed = s.freed := rfl
@[simp] theorem State.onSet_packets (n : Nat) (f : SetEntry → SetEntry) : (s.onSet n f).packets = s.packets := rfl
@[simp] theorem State.onSet_nextId (n : Nat) (f : SetEntry → SetEntry) : (s.onSet n f).nextId = s.nextId := rfl
@[simp] theorem State.onSet_gathered (n : Nat) (f : SetEntry → SetEntry) : (s.onSet n f).gathered = s.gathered := rfl
@[simp] theorem State.onSet_fabxy (n : Nat) (f : SetEntry → SetEntry) : (s.onSet n f).fabxy = s.fabxy := rfl
@[simp] theorem State.onSet_fabCols (n : Nat) (f : SetEntry → SetEntry) : (s.onSet n f).fabCols = s.fabCols := rfl
@[simp] theorem State.onSet_fabRows (n : Nat) (f : SetEntry → SetEntry) : (s.onSet n f).fabRows = s.fabRows := rfl
@[simp] theorem State.onSet_broken (n : Nat) (f : SetEntry → SetEntry) : (s.onSet n f).broken = s.broken := rfl
@[simp] theorem State.onSet_links (n : Nat) (f : SetEntry → SetEntry) : (s.onSet n f).links = s.links := rfl
@[simp] theorem State.onSet_seqOut (n : Nat) (f : SetEntry → SetEntry) : (s.onSet n f).seqOut = s.seqOut := rfl
@[simp] theorem State.onSet_seqIn (n : Nat) (f : SetEntry → SetEntry) : (s.onSet n f).seqIn = s.seqIn := rfl
@[simp] theorem State.onSet_coll (n : Nat) (f : SetEntry → SetEntry) : (s.onSet n f).coll = s.coll := rfl
@[simp] theorem State.onSet_keys (n : Nat) (f : SetEntry → SetEntry) : (s.onSet n f).keys = s.keys := rfl
@[simp] theorem State.onSet_messages (n : Nat) (f : SetEntry → SetEntry) : (s.onSet n f).messages = s.messages := rfl
@[simp] theorem State.onSet_counted (n : Nat) (f : SetEntry → SetEntry) : (s.onSet n f).counted = s.counted := rfl
@[simp] theorem State.onSet_frames (n : Nat) (f : SetEntry → SetEntry) : (s.onSet n f).frames = s.frames := rfl
@[simp] theorem State.onSet_unknown (n : Nat) (f : SetEntry → SetEntry) : (s.onSet n f).unknown = s.unknown := rfl
@[simp] theorem State.onSet_split (n : Nat) (f : SetEntry → SetEntry) : (s.onSet n f).split = s.split := rfl
@[simp] theorem State.onSet_portClocks (n : Nat) (f : SetEntry → SetEntry) : (s.onSet n f).portClocks = s.portClocks := rfl
@[simp] theorem State.onSet_outbox (n : Nat) (f : SetEntry → SetEntry) : (s.onSet n f).outbox = s.outbox := rfl
@[simp] theorem State.onSet_ready (n : Nat) (f : SetEntry → SetEntry) : (s.onSet n f).ready = s.ready := rfl
@[simp] theorem State.onSet_meas (n : Nat) (f : SetEntry → SetEntry) : (s.onSet n f).meas = s.meas := rfl
@[simp] theorem State.onSet_measLog (n : Nat) (f : SetEntry → SetEntry) : (s.onSet n f).measLog = s.measLog := rfl
@[simp] theorem State.onSet_spdm (n : Nat) (f : SetEntry → SetEntry) : (s.onSet n f).spdm = s.spdm := rfl
@[simp] theorem State.onSet_cap (n : Nat) (f : SetEntry → SetEntry) : (s.onSet n f).cap = s.cap := rfl
@[simp] theorem State.onSet_power (n : Nat) (f : SetEntry → SetEntry) : (s.onSet n f).power = s.power := rfl
@[simp] theorem State.onSet_thermal (n : Nat) (f : SetEntry → SetEntry) : (s.onSet n f).thermal = s.thermal := rfl
@[simp] theorem State.onSet_darot (n : Nat) (f : SetEntry → SetEntry) : (s.onSet n f).darot = s.darot := rfl
@[simp] theorem State.onSet_draws (n : Nat) (f : SetEntry → SetEntry) : (s.onSet n f).draws = s.draws := rfl
@[simp] theorem State.onSet_iss (n : Nat) (f : SetEntry → SetEntry) : (s.onSet n f).iss = s.iss := rfl
@[simp] theorem State.onSet_agenda (n : Nat) (f : SetEntry → SetEntry) : (s.onSet n f).agenda = s.agenda := rfl
@[simp] theorem State.onSet_turn (n : Nat) (f : SetEntry → SetEntry) : (s.onSet n f).turn = s.turn := rfl
@[simp] theorem State.onSet_free (n : Nat) (f : SetEntry → SetEntry) : (s.onSet n f).free = s.free := rfl

/-! ## Fields after `setBytes` -/

@[simp] theorem State.setBytes_l2 (pa : Nat) (bs : List Byte) : (s.setBytes pa bs).l2 = s.l2 := rfl
@[simp] theorem State.setBytes_ctxs (pa : Nat) (bs : List Byte) : (s.setBytes pa bs).ctxs = s.ctxs := rfl
@[simp] theorem State.setBytes_cores (pa : Nat) (bs : List Byte) : (s.setBytes pa bs).cores = s.cores := rfl
@[simp] theorem State.setBytes_vfs (pa : Nat) (bs : List Byte) : (s.setBytes pa bs).vfs = s.vfs := rfl
@[simp] theorem State.setBytes_parts (pa : Nat) (bs : List Byte) : (s.setBytes pa bs).parts = s.parts := rfl
@[simp] theorem State.setBytes_tlbs (pa : Nat) (bs : List Byte) : (s.setBytes pa bs).tlbs = s.tlbs := rfl
@[simp] theorem State.setBytes_walks (pa : Nat) (bs : List Byte) : (s.setBytes pa bs).walks = s.walks := rfl
@[simp] theorem State.setBytes_invals (pa : Nat) (bs : List Byte) : (s.setBytes pa bs).invals = s.invals := rfl
@[simp] theorem State.setBytes_sets (pa : Nat) (bs : List Byte) : (s.setBytes pa bs).sets = s.sets := rfl
@[simp] theorem State.setBytes_tags (pa : Nat) (bs : List Byte) : (s.setBytes pa bs).tags = s.tags := rfl
@[simp] theorem State.setBytes_embFrames (pa : Nat) (bs : List Byte) : (s.setBytes pa bs).embFrames = s.embFrames := rfl
@[simp] theorem State.setBytes_hearths (pa : Nat) (bs : List Byte) : (s.setBytes pa bs).hearths = s.hearths := rfl
@[simp] theorem State.setBytes_waiters (pa : Nat) (bs : List Byte) : (s.setBytes pa bs).waiters = s.waiters := rfl
@[simp] theorem State.setBytes_served (pa : Nat) (bs : List Byte) : (s.setBytes pa bs).served = s.served := rfl
@[simp] theorem State.setBytes_coords (pa : Nat) (bs : List Byte) : (s.setBytes pa bs).coords = s.coords := rfl
@[simp] theorem State.setBytes_dests (pa : Nat) (bs : List Byte) : (s.setBytes pa bs).dests = s.dests := rfl
@[simp] theorem State.setBytes_jobs (pa : Nat) (bs : List Byte) : (s.setBytes pa bs).jobs = s.jobs := rfl
@[simp] theorem State.setBytes_rots (pa : Nat) (bs : List Byte) : (s.setBytes pa bs).rots = s.rots := rfl
@[simp] theorem State.setBytes_saved (pa : Nat) (bs : List Byte) : (s.setBytes pa bs).saved = s.saved := rfl
@[simp] theorem State.setBytes_seqs (pa : Nat) (bs : List Byte) : (s.setBytes pa bs).seqs = s.seqs := rfl
@[simp] theorem State.setBytes_freed (pa : Nat) (bs : List Byte) : (s.setBytes pa bs).freed = s.freed := rfl
@[simp] theorem State.setBytes_packets (pa : Nat) (bs : List Byte) : (s.setBytes pa bs).packets = s.packets := rfl
@[simp] theorem State.setBytes_nextId (pa : Nat) (bs : List Byte) : (s.setBytes pa bs).nextId = s.nextId := rfl
@[simp] theorem State.setBytes_gathered (pa : Nat) (bs : List Byte) : (s.setBytes pa bs).gathered = s.gathered := rfl
@[simp] theorem State.setBytes_fabxy (pa : Nat) (bs : List Byte) : (s.setBytes pa bs).fabxy = s.fabxy := rfl
@[simp] theorem State.setBytes_fabCols (pa : Nat) (bs : List Byte) : (s.setBytes pa bs).fabCols = s.fabCols := rfl
@[simp] theorem State.setBytes_fabRows (pa : Nat) (bs : List Byte) : (s.setBytes pa bs).fabRows = s.fabRows := rfl
@[simp] theorem State.setBytes_broken (pa : Nat) (bs : List Byte) : (s.setBytes pa bs).broken = s.broken := rfl
@[simp] theorem State.setBytes_links (pa : Nat) (bs : List Byte) : (s.setBytes pa bs).links = s.links := rfl
@[simp] theorem State.setBytes_seqOut (pa : Nat) (bs : List Byte) : (s.setBytes pa bs).seqOut = s.seqOut := rfl
@[simp] theorem State.setBytes_seqIn (pa : Nat) (bs : List Byte) : (s.setBytes pa bs).seqIn = s.seqIn := rfl
@[simp] theorem State.setBytes_coll (pa : Nat) (bs : List Byte) : (s.setBytes pa bs).coll = s.coll := rfl
@[simp] theorem State.setBytes_keys (pa : Nat) (bs : List Byte) : (s.setBytes pa bs).keys = s.keys := rfl
@[simp] theorem State.setBytes_messages (pa : Nat) (bs : List Byte) : (s.setBytes pa bs).messages = s.messages := rfl
@[simp] theorem State.setBytes_counted (pa : Nat) (bs : List Byte) : (s.setBytes pa bs).counted = s.counted := rfl
@[simp] theorem State.setBytes_frames (pa : Nat) (bs : List Byte) : (s.setBytes pa bs).frames = s.frames := rfl
@[simp] theorem State.setBytes_unknown (pa : Nat) (bs : List Byte) : (s.setBytes pa bs).unknown = s.unknown := rfl
@[simp] theorem State.setBytes_split (pa : Nat) (bs : List Byte) : (s.setBytes pa bs).split = s.split := rfl
@[simp] theorem State.setBytes_portClocks (pa : Nat) (bs : List Byte) : (s.setBytes pa bs).portClocks = s.portClocks := rfl
@[simp] theorem State.setBytes_outbox (pa : Nat) (bs : List Byte) : (s.setBytes pa bs).outbox = s.outbox := rfl
@[simp] theorem State.setBytes_ready (pa : Nat) (bs : List Byte) : (s.setBytes pa bs).ready = s.ready := rfl
@[simp] theorem State.setBytes_meas (pa : Nat) (bs : List Byte) : (s.setBytes pa bs).meas = s.meas := rfl
@[simp] theorem State.setBytes_measLog (pa : Nat) (bs : List Byte) : (s.setBytes pa bs).measLog = s.measLog := rfl
@[simp] theorem State.setBytes_spdm (pa : Nat) (bs : List Byte) : (s.setBytes pa bs).spdm = s.spdm := rfl
@[simp] theorem State.setBytes_cap (pa : Nat) (bs : List Byte) : (s.setBytes pa bs).cap = s.cap := rfl
@[simp] theorem State.setBytes_power (pa : Nat) (bs : List Byte) : (s.setBytes pa bs).power = s.power := rfl
@[simp] theorem State.setBytes_thermal (pa : Nat) (bs : List Byte) : (s.setBytes pa bs).thermal = s.thermal := rfl
@[simp] theorem State.setBytes_darot (pa : Nat) (bs : List Byte) : (s.setBytes pa bs).darot = s.darot := rfl
@[simp] theorem State.setBytes_draws (pa : Nat) (bs : List Byte) : (s.setBytes pa bs).draws = s.draws := rfl
@[simp] theorem State.setBytes_iss (pa : Nat) (bs : List Byte) : (s.setBytes pa bs).iss = s.iss := rfl
@[simp] theorem State.setBytes_agenda (pa : Nat) (bs : List Byte) : (s.setBytes pa bs).agenda = s.agenda := rfl
@[simp] theorem State.setBytes_turn (pa : Nat) (bs : List Byte) : (s.setBytes pa bs).turn = s.turn := rfl
@[simp] theorem State.setBytes_free (pa : Nat) (bs : List Byte) : (s.setBytes pa bs).free = s.free := rfl

/-! ## Fields after `onIss` -/

@[simp] theorem State.onIss_mem (f : Issue → Issue) : (s.onIss f).mem = s.mem := rfl
@[simp] theorem State.onIss_bad (f : Issue → Issue) : (s.onIss f).bad = s.bad := rfl
@[simp] theorem State.onIss_l2 (f : Issue → Issue) : (s.onIss f).l2 = s.l2 := rfl
@[simp] theorem State.onIss_ctxs (f : Issue → Issue) : (s.onIss f).ctxs = s.ctxs := rfl
@[simp] theorem State.onIss_cores (f : Issue → Issue) : (s.onIss f).cores = s.cores := rfl
@[simp] theorem State.onIss_vfs (f : Issue → Issue) : (s.onIss f).vfs = s.vfs := rfl
@[simp] theorem State.onIss_parts (f : Issue → Issue) : (s.onIss f).parts = s.parts := rfl
@[simp] theorem State.onIss_tlbs (f : Issue → Issue) : (s.onIss f).tlbs = s.tlbs := rfl
@[simp] theorem State.onIss_walks (f : Issue → Issue) : (s.onIss f).walks = s.walks := rfl
@[simp] theorem State.onIss_invals (f : Issue → Issue) : (s.onIss f).invals = s.invals := rfl
@[simp] theorem State.onIss_sets (f : Issue → Issue) : (s.onIss f).sets = s.sets := rfl
@[simp] theorem State.onIss_tags (f : Issue → Issue) : (s.onIss f).tags = s.tags := rfl
@[simp] theorem State.onIss_embFrames (f : Issue → Issue) : (s.onIss f).embFrames = s.embFrames := rfl
@[simp] theorem State.onIss_hearths (f : Issue → Issue) : (s.onIss f).hearths = s.hearths := rfl
@[simp] theorem State.onIss_waiters (f : Issue → Issue) : (s.onIss f).waiters = s.waiters := rfl
@[simp] theorem State.onIss_served (f : Issue → Issue) : (s.onIss f).served = s.served := rfl
@[simp] theorem State.onIss_coords (f : Issue → Issue) : (s.onIss f).coords = s.coords := rfl
@[simp] theorem State.onIss_dests (f : Issue → Issue) : (s.onIss f).dests = s.dests := rfl
@[simp] theorem State.onIss_jobs (f : Issue → Issue) : (s.onIss f).jobs = s.jobs := rfl
@[simp] theorem State.onIss_rots (f : Issue → Issue) : (s.onIss f).rots = s.rots := rfl
@[simp] theorem State.onIss_saved (f : Issue → Issue) : (s.onIss f).saved = s.saved := rfl
@[simp] theorem State.onIss_seqs (f : Issue → Issue) : (s.onIss f).seqs = s.seqs := rfl
@[simp] theorem State.onIss_freed (f : Issue → Issue) : (s.onIss f).freed = s.freed := rfl
@[simp] theorem State.onIss_packets (f : Issue → Issue) : (s.onIss f).packets = s.packets := rfl
@[simp] theorem State.onIss_nextId (f : Issue → Issue) : (s.onIss f).nextId = s.nextId := rfl
@[simp] theorem State.onIss_gathered (f : Issue → Issue) : (s.onIss f).gathered = s.gathered := rfl
@[simp] theorem State.onIss_fabxy (f : Issue → Issue) : (s.onIss f).fabxy = s.fabxy := rfl
@[simp] theorem State.onIss_fabCols (f : Issue → Issue) : (s.onIss f).fabCols = s.fabCols := rfl
@[simp] theorem State.onIss_fabRows (f : Issue → Issue) : (s.onIss f).fabRows = s.fabRows := rfl
@[simp] theorem State.onIss_broken (f : Issue → Issue) : (s.onIss f).broken = s.broken := rfl
@[simp] theorem State.onIss_links (f : Issue → Issue) : (s.onIss f).links = s.links := rfl
@[simp] theorem State.onIss_seqOut (f : Issue → Issue) : (s.onIss f).seqOut = s.seqOut := rfl
@[simp] theorem State.onIss_seqIn (f : Issue → Issue) : (s.onIss f).seqIn = s.seqIn := rfl
@[simp] theorem State.onIss_coll (f : Issue → Issue) : (s.onIss f).coll = s.coll := rfl
@[simp] theorem State.onIss_keys (f : Issue → Issue) : (s.onIss f).keys = s.keys := rfl
@[simp] theorem State.onIss_messages (f : Issue → Issue) : (s.onIss f).messages = s.messages := rfl
@[simp] theorem State.onIss_counted (f : Issue → Issue) : (s.onIss f).counted = s.counted := rfl
@[simp] theorem State.onIss_frames (f : Issue → Issue) : (s.onIss f).frames = s.frames := rfl
@[simp] theorem State.onIss_unknown (f : Issue → Issue) : (s.onIss f).unknown = s.unknown := rfl
@[simp] theorem State.onIss_split (f : Issue → Issue) : (s.onIss f).split = s.split := rfl
@[simp] theorem State.onIss_portClocks (f : Issue → Issue) : (s.onIss f).portClocks = s.portClocks := rfl
@[simp] theorem State.onIss_outbox (f : Issue → Issue) : (s.onIss f).outbox = s.outbox := rfl
@[simp] theorem State.onIss_ready (f : Issue → Issue) : (s.onIss f).ready = s.ready := rfl
@[simp] theorem State.onIss_meas (f : Issue → Issue) : (s.onIss f).meas = s.meas := rfl
@[simp] theorem State.onIss_measLog (f : Issue → Issue) : (s.onIss f).measLog = s.measLog := rfl
@[simp] theorem State.onIss_spdm (f : Issue → Issue) : (s.onIss f).spdm = s.spdm := rfl
@[simp] theorem State.onIss_cap (f : Issue → Issue) : (s.onIss f).cap = s.cap := rfl
@[simp] theorem State.onIss_power (f : Issue → Issue) : (s.onIss f).power = s.power := rfl
@[simp] theorem State.onIss_thermal (f : Issue → Issue) : (s.onIss f).thermal = s.thermal := rfl
@[simp] theorem State.onIss_darot (f : Issue → Issue) : (s.onIss f).darot = s.darot := rfl
@[simp] theorem State.onIss_draws (f : Issue → Issue) : (s.onIss f).draws = s.draws := rfl
@[simp] theorem State.onIss_agenda (f : Issue → Issue) : (s.onIss f).agenda = s.agenda := rfl
@[simp] theorem State.onIss_turn (f : Issue → Issue) : (s.onIss f).turn = s.turn := rfl
@[simp] theorem State.onIss_free (f : Issue → Issue) : (s.onIss f).free = s.free := rfl

@[simp] theorem State.onIss_iss (f : Issue → Issue) : (s.onIss f).iss = f s.iss := rfl

end Sys2Proof.Machine
end

