-- ==== Sys2Proof/Laws/Issue.lean ====
section
/-!
SUPPORT. What the shared operations of issue can do: guards, signals, results owed, entering the port, faults.
-/
namespace Sys2Proof.Machine
open Sys2Proof

/-! ## Guards (R80, R81) -/

theorem State.guarded_on {s : State} {h : Hdr} (g : guardTrue s.cur h = true) (f : State → State) : s.guarded h f = f s := by
  simp [State.guarded, g]

theorem State.guarded_off {s : State} {h : Hdr} (g : guardTrue s.cur h = false) (f : State → State) : s.guarded h f = s := by
  simp [State.guarded, g]

/-! ## Signals and results owed (R30, R32) -/

/-- An entry put into the port changes the port of the issuing context alone. -/
theorem State.addPort_eq (s : State) (r : PortReq) :
    (s.addPort r).1 = s.setCtx s.iss.cur { s.cur with port := { s.cur.port with
      queue := s.cur.port.queue ++ [{ r with id := s.cur.port.nextId, seq := s.cur.life.seq, slot := s.iss.slot,
                                             level := s.cur.trap.tl }]
      nextId := s.cur.port.nextId + 1 } } := rfl

/-- A signal changes nothing but the port of the issuing context. -/
theorem State.addSignal_fst (s : State) (h : Hdr) (b : Bool) :
    (s.addSignal h b).1 = s ∨ ∃ p, (s.addSignal h b).1 = s.setCtx s.iss.cur { s.cur with port := p } := by
  unfold State.addSignal
  split
  · exact .inl rfl
  · exact .inr ⟨_, rfl⟩

@[simp] theorem State.addSignal_iss (s : State) (h : Hdr) (b : Bool) : (s.addSignal h b).1.iss = s.iss := by
  rcases s.addSignal_fst h b with e | ⟨p, e⟩ <;> simp [e]

@[simp] theorem State.addSignal_mem (s : State) (h : Hdr) (b : Bool) : (s.addSignal h b).1.mem = s.mem := by
  rcases s.addSignal_fst h b with e | ⟨p, e⟩ <;> simp [e]

/-- Every part of the issuing context but its port stands after a signal. -/
theorem State.addSignal_cur (s : State) (h : Hdr) (b : Bool) :
    (s.addSignal h b).1.cur = { s.cur with port := (s.addSignal h b).1.cur.port } := by
  rcases s.addSignal_fst h b with e | ⟨p, e⟩ <;> rw [e]
  simp [State.cur]

theorem State.addSignal_ctx (s : State) (h : Hdr) (b : Bool) (m : Nat) (n : m ≠ s.iss.cur) :
    (s.addSignal h b).1.ctx m = s.ctx m := by
  rcases s.addSignal_fst h b with e | ⟨p, e⟩ <;> simp [e, n]

@[simp] theorem State.signalNow_iss (s : State) (h : Hdr) : (s.signalNow h).iss = s.iss := s.addSignal_iss h true
@[simp] theorem State.signalNow_mem (s : State) (h : Hdr) : (s.signalNow h).mem = s.mem := s.addSignal_mem h true
theorem State.signalNow_cur (s : State) (h : Hdr) : (s.signalNow h).cur = { s.cur with port := (s.signalNow h).cur.port } :=
  s.addSignal_cur h true
@[simp] theorem State.signalNow_regs (s : State) (h : Hdr) : (s.signalNow h).cur.regs = s.cur.regs := by
  rw [s.signalNow_cur h]
@[simp] theorem State.signalNow_ctl (s : State) (h : Hdr) : (s.signalNow h).cur.ctl = s.cur.ctl := by
  rw [s.signalNow_cur h]
@[simp] theorem State.signalNow_trap (s : State) (h : Hdr) : (s.signalNow h).cur.trap = s.cur.trap := by
  rw [s.signalNow_cur h]
@[simp] theorem State.signalNow_level (s : State) (h : Hdr) : (s.signalNow h).cur.level = s.cur.level := by
  rw [s.signalNow_cur h]; rfl
@[simp] theorem State.signalNow_s (s : State) (h : Hdr) (k : Nat) : (s.signalNow h).cur.s k = s.cur.s k := by
  rw [s.signalNow_cur h]; rfl

/-! ## The issuing context -/

@[simp] theorem State.cur_onCur (s : State) (f : Ctx → Ctx) : (s.onCur f).cur = f s.cur := by
  simp [State.onCur, State.onCtx, State.cur]
@[simp] theorem State.iss_onCur (s : State) (f : Ctx → Ctx) : (s.onCur f).iss = s.iss := rfl
@[simp] theorem State.cur_onIss (s : State) (f : Issue → Issue) (h : (f s.iss).cur = s.iss.cur) :
    (s.onIss f).cur = s.cur := by
  simp [State.cur, State.onIss, State.ctx, h]

/-- Noting registers leaves the issuing context and the bundle's fault. -/
@[simp] theorem Issue.note_cur (x : Issue) (k : Option (Nat × Nat)) : (x.note k).cur = x.cur := by
  cases k with
  | none => rfl
  | some k => simp only [Issue.note]; split <;> rfl
@[simp] theorem Issue.noteAll_cur (x : Issue) (ks : List (Nat × Nat)) : (x.noteAll ks).cur = x.cur := by
  induction ks generalizing x with
  | nil => rfl
  | cons k ks ih => simpa [Issue.noteAll] using ih (x.note (some k))

/-! ## Faults at issue (R432) -/

/-- The first fault of a bundle is kept, and taken at the bundle's entry. -/
theorem State.raise_first {s : State} (h : s.iss.fault = none) (t : Trapped) :
    s.raise t = (s.takeTrap s.iss.cur t s.iss.entry).onIss fun x => { x with fault := some t } := by
  simp [State.raise, h]

@[simp] theorem State.raise_fault {s : State} (h : s.iss.fault = none) (t : Trapped) : (s.raise t).iss.fault = some t := by
  simp [State.raise_first h]

/-! ## Addresses -/

/-- The low four bits of an address are zero where it is a multiple of 16. -/
theorem extract4_eq_zero (x : Dword) : x.extractLsb' 0 4 = 0#4 ↔ x.toNat % 16 = 0 := by
  have h : (BitVec.extractLsb' 0 4 x).toNat = x.toNat % 16 := by simp [BitVec.extractLsb'_toNat]
  rw [← BitVec.toNat_inj, h]
  rfl

end Sys2Proof.Machine
end

