-- ==== Sys2Proof/Laws/Matrix.lean ====
section
/-!
SUPPORT. What entering the array queue does, and the accumulator status at issue.
-/
namespace Sys2Proof.Machine
open Sys2Proof

/-- An op that enters the array queue is its last entry; nothing else of the issuing context's array state changes but the
counter of operations. -/
theorem State.enqueue_mat (s : State) (h : Hdr) (i : Instr) (f : ArrayOp → ArrayOp) :
    ∃ sig, (s.enqueue h i f).cur.mat = { s.cur.mat with
      queue := s.cur.mat.queue ++ [f { id := s.cur.mat.nextId, seq := s.cur.life.seq, level := s.cur.trap.tl, op := i,
                                       sig := sig, order := s.arrayOrder (coreOf s.iss.cur) }]
      nextId := s.cur.mat.nextId + 1 } := by
  refine ⟨(s.addSignal h false).2, ?_⟩
  have e := s.addSignal_cur h false
  simp only [State.enqueue, State.cur_onCur]
  rw [State.cur_onIss _ _ (Issue.noteAll_cur _ _), e]

theorem State.enqueue_queue (s : State) (h : Hdr) (i : Instr) (f : ArrayOp → ArrayOp) :
    ∃ q : ArrayOp, q.op = i ∧ (s.enqueue h i f).cur.mat.queue = s.cur.mat.queue ++ [f q] := by
  obtain ⟨sig, e⟩ := s.enqueue_mat h i f
  exact ⟨_, rfl, by rw [e]⟩

@[simp] theorem State.enqueue_stat (s : State) (h : Hdr) (i : Instr) (f : ArrayOp → ArrayOp) (n : Nat) :
    (s.enqueue h i f).cur.mat.stat n = s.cur.mat.stat n := by
  obtain ⟨sig, e⟩ := s.enqueue_mat h i f
  rw [e]; rfl

@[simp] theorem Ctx.stat_setStat (c : Ctx) (n : Nat) (x : AccStatus) : (c.setStat n x).mat.stat n = x := by
  simp only [Ctx.setStat, MatSt.setStat, MatSt.stat]
  split <;> rfl

@[simp] theorem Ctx.queue_setStat (c : Ctx) (n : Nat) (x : AccStatus) : (c.setStat n x).mat.queue = c.mat.queue := by
  simp only [Ctx.setStat, MatSt.setStat]
  split <;> rfl

@[simp] theorem Ctx.queue_clearIf (c : Ctx) (fn : BitVec 8) (n : Nat) : (c.clearIf fn n).mat.queue = c.mat.queue := by
  simp only [Ctx.clearIf, Ctx.clearTag]
  split <;> simp

/-- After an op has entered the queue, the queue's last entry is that op, and the queue is longer by one. -/
theorem State.enqueue_last (s : State) (h : Hdr) (i : Instr) (f : ArrayOp → ArrayOp) (keep : ∀ q, (f q).op = q.op) :
    ((s.enqueue h i f).cur.mat.queue.getLast?).any (fun q => decide (q.op = i)) = true ∧
      (s.enqueue h i f).cur.mat.queue.length = s.cur.mat.queue.length + 1 := by
  obtain ⟨q, o, e⟩ := s.enqueue_queue h i f
  rw [e]
  simp [keep, o]

end Sys2Proof.Machine
end

