-- ==== Sys2Proof/Laws/Memory.lean ====
section
/-!
SUPPORT. HBM: what a write leaves to read, and that every memory operation keeps the canonical form.
-/
namespace Sys2Proof.Machine
open Sys2Proof

/-! ## Reading after writing -/

/-- A byte after bytes have been written. -/
theorem State.byte_setBytes' (s : State) (pa : Nat) (bs : List Byte) (x : Nat) :
    (s.setBytes pa bs).byte x = if pa ≤ x ∧ x < pa + bs.length then bs.getD (x - pa) 0 else s.byte x := by
  simp only [State.byte, State.setBytes]
  exact lookupD_sparseSetList 0 bs pa s.mem x

/-- A state whose memory is that of another after a write. -/
theorem State.sameOutside_of_mem {s t : State} {pa n : Nat} {bs : List Byte} (h : t.mem = (s.setBytes pa bs).mem)
    (l : bs.length = n) : s.sameOutside t pa n := by
  intro x hx
  have e : t.byte x = (s.setBytes pa bs).byte x := by simp only [State.byte, h]
  rw [e, State.byte_setBytes', if_neg (by omega)]

theorem State.bytes_of_mem {s t : State} {pa n : Nat} {bs : List Byte} (h : t.mem = (s.setBytes pa bs).mem)
    (l : bs.length = n) : t.bytes pa n = bs := by
  subst l
  apply List.ext_getElem (by simp [State.bytes, lookupList])
  intro i h1 h2
  have e : (t.bytes pa bs.length)[i] = t.byte (pa + i) := by simp [State.bytes, lookupList, State.byte]
  have f : t.byte (pa + i) = (s.setBytes pa bs).byte (pa + i) := by simp only [State.byte, h]
  rw [e, f, State.byte_setBytes', if_pos (by omega)]
  simp [h2]

theorem State.sameMemory_of_mem {s t : State} (h : t.mem = s.mem) : s.sameMemory t := by
  intro x
  simp only [State.byte, h]

@[simp] theorem natBytes_length (n v : Nat) : (natBytes n v).length = n := by simp [natBytes]

/-! ## Canonical form -/

theorem State.memOk_setBytes {s : State} (h : s.MemOk) (pa : Nat) (bs : List Byte) : (s.setBytes pa bs).MemOk :=
  sparseWf_sparseSetList 0 bs pa s.mem h

/-- The bytes of a write performed at the home agents. -/
theorem State.homeWrite_mem (s : State) (pa : Nat) (bs : List Byte) : (s.homeWrite pa bs).mem = (s.setBytes pa bs).mem := by
  cases bs <;> rfl

theorem State.memOk_homeWrite {s : State} (h : s.MemOk) (pa : Nat) (bs : List Byte) : (s.homeWrite pa bs).MemOk := by
  simp only [State.MemOk, s.homeWrite_mem]
  exact State.memOk_setBytes h pa bs

end Sys2Proof.Machine
end

