-- ==== Sys2Proof/Laws/PerInstr.lean ====
section
/-!
SUPPORT. The fields of an encoded op: reading each field of an op's encoding gives the field back, and the opcode byte is
the op's opcode. One lemma per constructor; an event has no encoding, and its lemma says nothing.
-/
namespace Sys2Proof.Laws
open Sys2Proof

/-- A slice that lies in the lower part of two joined bit vectors. -/
theorem slice_low {m n : Nat} (a : BitVec m) (b : BitVec n) (k w : Nat) (h : k + w ≤ n) :
    (a ++ b).extractLsb' k w = b.extractLsb' k w := by
  apply BitVec.eq_of_getLsbD_eq
  intro i hi
  simp [BitVec.getLsbD_append, hi, show k + i < n by omega]

/-- A slice that lies in the upper part of two joined bit vectors. -/
theorem slice_high {m n : Nat} (a : BitVec m) (b : BitVec n) (k w : Nat) (h : n ≤ k) :
    (a ++ b).extractLsb' k w = a.extractLsb' (k - n) w := by
  apply BitVec.eq_of_getLsbD_eq
  intro i hi
  have : ¬ k + i < n := by omega
  simp [BitVec.getLsbD_append, hi, this, show k + i - n = k - n + i by omega]

/-- The opcode byte of an encoded op is its opcode. -/
theorem opcode_of_pack (p : BitVec 80) (h : Hdr) (opc : BitVec 8) : (p ++ h.pack opc).extractLsb' 0 8 = opc := by
  rw [slice_low _ _ _ _ (by omega), Hdr.pack]
  erw [slice_low _ _ _ _ (by omega)]
  simp

/-- The header fields of an encoded op are its header. -/
theorem header_of_pack (p : BitVec 80) (h : Hdr) (opc : BitVec 8) : Hdr.unpack (p ++ h.pack opc) = h := by
  rcases h with ⟨ty, sinc, ssem, wcnt, wsem, gneg, grd, stop⟩
  simp only [Hdr.unpack, Hdr.pack, Hdr.mk.injEq]
  refine ⟨?_, ?_, ?_, ?_, ?_, ?_, ?_, ?_⟩ <;>
  · repeat first | erw [slice_low _ _ _ _ (by omega)] | erw [slice_high _ _ _ _ (by omega)]
    simp

/-- The TRI fields of an encoded op are its payload. -/
theorem tri_of_pack (f : Tri) (b : BitVec 48) : Tri.unpack (f.pack ++ b) = f := by
  rcases f with ⟨f0, f1, f2, f3, f4, f5⟩
  simp only [Tri.unpack, Tri.pack, Tri.mk.injEq]
  refine ⟨?_, ?_, ?_, ?_, ?_, ?_⟩ <;>
  · repeat first | erw [slice_low _ _ _ _ (by omega)] | erw [slice_high _ _ _ _ (by omega)]
    simp

/-- The WIDE fields of an encoded op are its payload. -/
theorem wide_of_pack (f : Wide) (b : BitVec 48) : Wide.unpack (f.pack ++ b) = f := by
  rcases f with ⟨f0, f1, f2⟩
  simp only [Wide.unpack, Wide.pack, Wide.mk.injEq]
  refine ⟨?_, ?_, ?_⟩ <;>
  · repeat first | erw [slice_low _ _ _ _ (by omega)] | erw [slice_high _ _ _ _ (by omega)]
    simp

/-- The BRANCH fields of an encoded op are its payload. -/
theorem branch_of_pack (f : Branch) (b : BitVec 48) : Branch.unpack (f.pack ++ b) = f := by
  rcases f with ⟨f0, f1, f2, f3, f4, f5⟩
  simp only [Branch.unpack, Branch.pack, Branch.mk.injEq]
  refine ⟨?_, ?_, ?_, ?_, ?_, ?_⟩ <;>
  · repeat first | erw [slice_low _ _ _ _ (by omega)] | erw [slice_high _ _ _ _ (by omega)]
    simp

/-- The MEM fields of an encoded op are its payload. -/
theorem mem_of_pack (f : MemF) (b : BitVec 48) : MemF.unpack (f.pack ++ b) = f := by
  rcases f with ⟨f0, f1, f2, f3, f4, f5, f6, f7, f8, f9⟩
  simp only [MemF.unpack, MemF.pack, MemF.mk.injEq]
  refine ⟨?_, ?_, ?_, ?_, ?_, ?_, ?_, ?_, ?_, ?_⟩ <;>
  · repeat first | erw [slice_low _ _ _ _ (by omega)] | erw [slice_high _ _ _ _ (by omega)]
    simp

/-- The MAT fields of an encoded op are its payload. -/
theorem mat_of_pack (f : Mat) (b : BitVec 48) : Mat.unpack (f.pack ++ b) = f := by
  rcases f with ⟨f0, f1, f2, f3, f4, f5, f6, f7⟩
  simp only [Mat.unpack, Mat.pack, Mat.mk.injEq]
  refine ⟨?_, ?_, ?_, ?_, ?_, ?_, ?_, ?_⟩ <;>
  · repeat first | erw [slice_low _ _ _ _ (by omega)] | erw [slice_high _ _ _ _ (by omega)]
    simp

/-- The JOB fields of an encoded op are its payload. -/
theorem job_of_pack (f : JobF) (b : BitVec 48) : JobF.unpack (f.pack ++ b) = f := by
  rcases f with ⟨f0, f1, f2, f3, f4⟩
  simp only [JobF.unpack, JobF.pack, JobF.mk.injEq]
  refine ⟨?_, ?_, ?_, ?_, ?_⟩ <;>
  · repeat first | erw [slice_low _ _ _ _ (by omega)] | erw [slice_high _ _ _ _ (by omega)]
    simp

/-- The payload of an op in the layout of `p`. -/
def Fields.reread (w : Op) : Payload → Payload
  | .tri _ => .tri (Tri.unpack w)
  | .wide _ => .wide (Wide.unpack w)
  | .branch _ => .branch (Branch.unpack w)
  | .mem _ => .mem (MemF.unpack w)
  | .mat _ => .mat (Mat.unpack w)
  | .job _ => .job (JobF.unpack w)

/-- Every field of the encoded instruction reads back, and its opcode byte is its opcode. -/
def Fields.Statement (i : Instr) : Prop :=
  ∀ opc h p, i.op? = some (opc, h, p) →
    (encode i).extractLsb' 0 8 = opc ∧ Hdr.unpack (encode i) = h ∧ Fields.reread (encode i) p = p

/-- The fields of every encoded op read back. -/
theorem fields (i : Instr) : Fields.Statement i := by
  intro opc h p e
  have w : encode i = p.pack ++ h.pack opc := by simp [encode, e]
  refine ⟨?_, ?_, ?_⟩ <;> rw [w]
  · exact opcode_of_pack _ _ _
  · exact header_of_pack _ _ _
  · cases p with
    | tri f => exact congrArg Payload.tri (tri_of_pack f _)
    | wide f => exact congrArg Payload.wide (wide_of_pack f _)
    | branch f => exact congrArg Payload.branch (branch_of_pack f _)
    | mem f => exact congrArg Payload.mem (mem_of_pack f _)
    | mat f => exact congrArg Payload.mat (mat_of_pack f _)
    | job f => exact congrArg Payload.job (job_of_pack f _)

/-! ## One lemma per constructor -/

theorem Fields.nop (h : Hdr) (f : Tri) : Fields.Statement (.nop h f) := fields _
theorem Fields.add (h : Hdr) (f : Tri) : Fields.Statement (.add h f) := fields _
theorem Fields.sub (h : Hdr) (f : Tri) : Fields.Statement (.sub h f) := fields _
theorem Fields.mul (h : Hdr) (f : Tri) : Fields.Statement (.mul h f) := fields _
theorem Fields.mulh (h : Hdr) (f : Tri) : Fields.Statement (.mulh h f) := fields _
theorem Fields.div (h : Hdr) (f : Tri) : Fields.Statement (.div h f) := fields _
theorem Fields.rem (h : Hdr) (f : Tri) : Fields.Statement (.rem h f) := fields _
theorem Fields.and (h : Hdr) (f : Tri) : Fields.Statement (.and h f) := fields _
theorem Fields.or (h : Hdr) (f : Tri) : Fields.Statement (.or h f) := fields _
theorem Fields.xor (h : Hdr) (f : Tri) : Fields.Statement (.xor h f) := fields _
theorem Fields.shl (h : Hdr) (f : Tri) : Fields.Statement (.shl h f) := fields _
theorem Fields.shr (h : Hdr) (f : Tri) : Fields.Statement (.shr h f) := fields _
theorem Fields.sar (h : Hdr) (f : Tri) : Fields.Statement (.sar h f) := fields _
theorem Fields.min (h : Hdr) (f : Tri) : Fields.Statement (.min h f) := fields _
theorem Fields.max (h : Hdr) (f : Tri) : Fields.Statement (.max h f) := fields _
theorem Fields.addi (h : Hdr) (f : Tri) : Fields.Statement (.addi h f) := fields _
theorem Fields.li (h : Hdr) (f : Wide) : Fields.Statement (.li h f) := fields _
theorem Fields.lea (h : Hdr) (f : Tri) : Fields.Statement (.lea h f) := fields _
theorem Fields.ext (h : Hdr) (f : Tri) : Fields.Statement (.ext h f) := fields _
theorem Fields.exts (h : Hdr) (f : Tri) : Fields.Statement (.exts h f) := fields _
theorem Fields.ins (h : Hdr) (f : Tri) : Fields.Statement (.ins h f) := fields _
theorem Fields.clz (h : Hdr) (f : Tri) : Fields.Statement (.clz h f) := fields _
theorem Fields.popc (h : Hdr) (f : Tri) : Fields.Statement (.popc h f) := fields _
theorem Fields.sel (h : Hdr) (f : Tri) : Fields.Statement (.sel h f) := fields _
theorem Fields.cmp (h : Hdr) (f : Tri) : Fields.Statement (.cmp h f) := fields _
theorem Fields.plog (h : Hdr) (f : Tri) : Fields.Statement (.plog h f) := fields _
theorem Fields.br (h : Hdr) (f : Branch) : Fields.Statement (.br h f) := fields _
theorem Fields.bri (h : Hdr) (f : Branch) : Fields.Statement (.bri h f) := fields _
theorem Fields.call (h : Hdr) (f : Branch) : Fields.Statement (.call h f) := fields _
theorem Fields.callIndirect (h : Hdr) (f : Branch) : Fields.Statement (.callIndirect h f) := fields _
theorem Fields.ret (h : Hdr) (f : Branch) : Fields.Statement (.ret h f) := fields _
theorem Fields.loop (h : Hdr) (f : Branch) : Fields.Statement (.loop h f) := fields _
theorem Fields.lbrk (h : Hdr) (f : Branch) : Fields.Statement (.lbrk h f) := fields _
theorem Fields.mfk (h : Hdr) (f : Tri) : Fields.Statement (.mfk h f) := fields _
theorem Fields.mtk (h : Hdr) (f : Tri) : Fields.Statement (.mtk h f) := fields _
theorem Fields.tset (h : Hdr) (f : Tri) : Fields.Statement (.tset h f) := fields _
theorem Fields.tdset (h : Hdr) (f : Tri) : Fields.Statement (.tdset h f) := fields _
theorem Fields.trap (h : Hdr) (f : Tri) : Fields.Statement (.trap h f) := fields _
theorem Fields.eret (h : Hdr) (f : Tri) : Fields.Statement (.eret h f) := fields _
theorem Fields.yield (h : Hdr) (f : Tri) : Fields.Statement (.yield h f) := fields _
theorem Fields.halt (h : Hdr) (f : Tri) : Fields.Statement (.halt h f) := fields _
theorem Fields.hsig (h : Hdr) (f : Tri) : Fields.Statement (.hsig h f) := fields _
theorem Fields.hget (h : Hdr) (f : Tri) : Fields.Statement (.hget h f) := fields _
theorem Fields.wbind (h : Hdr) (f : Tri) : Fields.Statement (.wbind h f) := fields _
theorem Fields.wunb (h : Hdr) (f : Tri) : Fields.Statement (.wunb h f) := fields _
theorem Fields.wstat (h : Hdr) (f : Tri) : Fields.Statement (.wstat h f) := fields _
theorem Fields.dbg (h : Hdr) (f : Tri) : Fields.Statement (.dbg h f) := fields _
theorem Fields.vadd (h : Hdr) (f : Tri) : Fields.Statement (.vadd h f) := fields _
theorem Fields.vsub (h : Hdr) (f : Tri) : Fields.Statement (.vsub h f) := fields _
theorem Fields.vmul (h : Hdr) (f : Tri) : Fields.Statement (.vmul h f) := fields _
theorem Fields.vfma (h : Hdr) (f : Tri) : Fields.Statement (.vfma h f) := fields _
theorem Fields.vmin (h : Hdr) (f : Tri) : Fields.Statement (.vmin h f) := fields _
theorem Fields.vmax (h : Hdr) (f : Tri) : Fields.Statement (.vmax h f) := fields _
theorem Fields.vabs (h : Hdr) (f : Tri) : Fields.Statement (.vabs h f) := fields _
theorem Fields.vneg (h : Hdr) (f : Tri) : Fields.Statement (.vneg h f) := fields _
theorem Fields.vrcp (h : Hdr) (f : Tri) : Fields.Statement (.vrcp h f) := fields _
theorem Fields.vrsq (h : Hdr) (f : Tri) : Fields.Statement (.vrsq h f) := fields _
theorem Fields.vexp2 (h : Hdr) (f : Tri) : Fields.Statement (.vexp2 h f) := fields _
theorem Fields.vlog2 (h : Hdr) (f : Tri) : Fields.Statement (.vlog2 h f) := fields _
theorem Fields.vand (h : Hdr) (f : Tri) : Fields.Statement (.vand h f) := fields _
theorem Fields.vor (h : Hdr) (f : Tri) : Fields.Statement (.vor h f) := fields _
theorem Fields.vxor (h : Hdr) (f : Tri) : Fields.Statement (.vxor h f) := fields _
theorem Fields.vshl (h : Hdr) (f : Tri) : Fields.Statement (.vshl h f) := fields _
theorem Fields.vshr (h : Hdr) (f : Tri) : Fields.Statement (.vshr h f) := fields _
theorem Fields.vsar (h : Hdr) (f : Tri) : Fields.Statement (.vsar h f) := fields _
theorem Fields.vcmp (h : Hdr) (f : Tri) : Fields.Statement (.vcmp h f) := fields _
theorem Fields.vsel (h : Hdr) (f : Tri) : Fields.Statement (.vsel h f) := fields _
theorem Fields.vcvt (h : Hdr) (f : Tri) : Fields.Statement (.vcvt h f) := fields _
theorem Fields.vq4x (h : Hdr) (f : Tri) : Fields.Statement (.vq4x h f) := fields _
theorem Fields.vdq4x (h : Hdr) (f : Tri) : Fields.Statement (.vdq4x h f) := fields _
theorem Fields.vbcast (h : Hdr) (f : Tri) : Fields.Statement (.vbcast h f) := fields _
theorem Fields.vmovsExtract (h : Hdr) (f : Tri) : Fields.Statement (.vmovsExtract h f) := fields _
theorem Fields.vmovsInsert (h : Hdr) (f : Tri) : Fields.Statement (.vmovsInsert h f) := fields _
theorem Fields.vperm (h : Hdr) (f : Tri) : Fields.Statement (.vperm h f) := fields _
theorem Fields.vshuf (h : Hdr) (f : Tri) : Fields.Statement (.vshuf h f) := fields _
theorem Fields.vred (h : Hdr) (f : Tri) : Fields.Statement (.vred h f) := fields _
theorem Fields.vscan (h : Hdr) (f : Tri) : Fields.Statement (.vscan h f) := fields _
theorem Fields.vpopc (h : Hdr) (f : Tri) : Fields.Statement (.vpopc h f) := fields _
theorem Fields.vdot (h : Hdr) (f : Tri) : Fields.Statement (.vdot h f) := fields _
theorem Fields.vclip (h : Hdr) (f : Tri) : Fields.Statement (.vclip h f) := fields _
theorem Fields.vmov (h : Hdr) (f : Tri) : Fields.Statement (.vmov h f) := fields _
theorem Fields.vbany (h : Hdr) (f : Tri) : Fields.Statement (.vbany h f) := fields _
theorem Fields.vball (h : Hdr) (f : Tri) : Fields.Statement (.vball h f) := fields _
theorem Fields.vplog (h : Hdr) (f : Tri) : Fields.Statement (.vplog h f) := fields _
theorem Fields.vhash (h : Hdr) (f : Tri) : Fields.Statement (.vhash h f) := fields _
theorem Fields.vfind (h : Hdr) (f : Tri) : Fields.Statement (.vfind h f) := fields _
theorem Fields.vtrd (h : Hdr) (f : Tri) : Fields.Statement (.vtrd h f) := fields _
theorem Fields.vtwr (h : Hdr) (f : Tri) : Fields.Statement (.vtwr h f) := fields _
theorem Fields.mma (h : Hdr) (f : Mat) : Fields.Statement (.mma h f) := fields _
theorem Fields.mmz (h : Hdr) (f : Mat) : Fields.Statement (.mmz h f) := fields _
theorem Fields.mrdTile (h : Hdr) (f : Tri) : Fields.Statement (.mrdTile h f) := fields _
theorem Fields.mrdVector (h : Hdr) (f : Tri) : Fields.Statement (.mrdVector h f) := fields _
theorem Fields.mclr (h : Hdr) (f : Tri) : Fields.Statement (.mclr h f) := fields _
theorem Fields.macc (h : Hdr) (f : Tri) : Fields.Statement (.macc h f) := fields _
theorem Fields.mstat (h : Hdr) (f : Tri) : Fields.Statement (.mstat h f) := fields _
theorem Fields.tlds (h : Hdr) (f : Tri) : Fields.Statement (.tlds h f) := fields _
theorem Fields.tsts (h : Hdr) (f : Tri) : Fields.Statement (.tsts h f) := fields _
theorem Fields.ttr (h : Hdr) (f : Tri) : Fields.Statement (.ttr h f) := fields _
theorem Fields.tmov (h : Hdr) (f : Tri) : Fields.Statement (.tmov h f) := fields _
theorem Fields.tfill (h : Hdr) (f : Tri) : Fields.Statement (.tfill h f) := fields _
theorem Fields.tq4x (h : Hdr) (f : Tri) : Fields.Statement (.tq4x h f) := fields _
theorem Fields.xseta (h : Hdr) (f : Tri) : Fields.Statement (.xseta h f) := fields _
theorem Fields.xsetb (h : Hdr) (f : Tri) : Fields.Statement (.xsetb h f) := fields _
theorem Fields.xfill (h : Hdr) (f : Tri) : Fields.Statement (.xfill h f) := fields _
theorem Fields.xrd (h : Hdr) (f : Tri) : Fields.Statement (.xrd h f) := fields _
theorem Fields.lds (h : Hdr) (f : MemF) : Fields.Statement (.lds h f) := fields _
theorem Fields.sts (h : Hdr) (f : MemF) : Fields.Statement (.sts h f) := fields _
theorem Fields.vlds (h : Hdr) (f : MemF) : Fields.Statement (.vlds h f) := fields _
theorem Fields.vsts (h : Hdr) (f : MemF) : Fields.Statement (.vsts h f) := fields _
theorem Fields.vgat (h : Hdr) (f : MemF) : Fields.Statement (.vgat h f) := fields _
theorem Fields.vsca (h : Hdr) (f : MemF) : Fields.Statement (.vsca h f) := fields _
theorem Fields.ldf (h : Hdr) (f : MemF) : Fields.Statement (.ldf h f) := fields _
theorem Fields.stf (h : Hdr) (f : MemF) : Fields.Statement (.stf h f) := fields _
theorem Fields.vldf (h : Hdr) (f : MemF) : Fields.Statement (.vldf h f) := fields _
theorem Fields.vstf (h : Hdr) (f : MemF) : Fields.Statement (.vstf h f) := fields _
theorem Fields.pref (h : Hdr) (f : MemF) : Fields.Statement (.pref h f) := fields _
theorem Fields.fence (h : Hdr) (f : Tri) : Fields.Statement (.fence h f) := fields _
theorem Fields.cflush (h : Hdr) (f : MemF) : Fields.Statement (.cflush h f) := fields _
theorem Fields.resv (h : Hdr) (f : Tri) : Fields.Statement (.resv h f) := fields _
theorem Fields.amo (h : Hdr) (f : MemF) : Fields.Statement (.amo h f) := fields _
theorem Fields.cas (h : Hdr) (f : MemF) : Fields.Statement (.cas h f) := fields _
theorem Fields.red (h : Hdr) (f : MemF) : Fields.Statement (.red h f) := fields _
theorem Fields.wta (h : Hdr) (f : MemF) : Fields.Statement (.wta h f) := fields _
theorem Fields.bar (h : Hdr) (f : Tri) : Fields.Statement (.bar h f) := fields _
theorem Fields.barr (h : Hdr) (f : Tri) : Fields.Statement (.barr h f) := fields _
theorem Fields.barw (h : Hdr) (f : Tri) : Fields.Statement (.barw h f) := fields _
theorem Fields.gleave (h : Hdr) (f : Tri) : Fields.Statement (.gleave h f) := fields _
theorem Fields.hsigr (h : Hdr) (f : Tri) : Fields.Statement (.hsigr h f) := fields _
theorem Fields.cpj (h : Hdr) (f : JobF) : Fields.Statement (.cpj h f) := fields _
theorem Fields.cpq (h : Hdr) (f : Tri) : Fields.Statement (.cpq h f) := fields _
theorem Fields.cpc (h : Hdr) (f : JobF) : Fields.Statement (.cpc h f) := fields _
theorem Fields.bbw (h : Hdr) (f : Tri) : Fields.Statement (.bbw h f) := fields _
theorem Fields.bbrd (h : Hdr) (f : Tri) : Fields.Statement (.bbrd h f) := fields _
theorem Fields.coll (h : Hdr) (f : JobF) : Fields.Statement (.coll h f) := fields _
theorem Fields.emake (h : Hdr) (f : MemF) : Fields.Statement (.emake h f) := fields _
theorem Fields.efill (h : Hdr) (f : MemF) : Fields.Statement (.efill h f) := fields _
theorem Fields.epeek (h : Hdr) (f : MemF) : Fields.Statement (.epeek h f) := fields _
theorem Fields.efail (h : Hdr) (f : MemF) : Fields.Statement (.efail h f) := fields _
theorem Fields.earm (h : Hdr) (f : MemF) : Fields.Statement (.earm h f) := fields _
theorem Fields.estat (h : Hdr) (f : MemF) : Fields.Statement (.estat h f) := fields _
theorem Fields.sopen (h : Hdr) (f : Tri) : Fields.Statement (.sopen h f) := fields _
theorem Fields.sst (h : Hdr) (f : MemF) : Fields.Statement (.sst h f) := fields _
theorem Fields.svst (h : Hdr) (f : MemF) : Fields.Statement (.svst h f) := fields _
theorem Fields.spost (h : Hdr) (f : Tri) : Fields.Statement (.spost h f) := fields _
theorem Fields.svoid (h : Hdr) (f : Tri) : Fields.Statement (.svoid h f) := fields _
theorem Fields.swait (h : Hdr) (f : Tri) : Fields.Statement (.swait h f) := fields _
theorem Fields.sstat (h : Hdr) (f : Tri) : Fields.Statement (.sstat h f) := fields _
theorem Fields.itake (h : Hdr) (f : Tri) : Fields.Statement (.itake h f) := fields _
theorem Fields.igive (h : Hdr) (f : Tri) : Fields.Statement (.igive h f) := fields _
theorem Fields.istat (h : Hdr) (f : Tri) : Fields.Statement (.istat h f) := fields _
theorem Fields.boundOp (opc : BitVec 8) (h : Hdr) (f : Tri) : Fields.Statement (.boundOp opc h f) := fields _
theorem Fields.roundStart (core : Nat) : Fields.Statement (.roundStart core) := fields _
theorem Fields.landingDataArrival (ctx : Nat) (id : Nat) : Fields.Statement (.landingDataArrival ctx id) := fields _
theorem Fields.farFaultArrival (ctx : Nat) (id : Nat) : Fields.Statement (.farFaultArrival ctx id) := fields _
theorem Fields.farStoreAck (ctx : Nat) (id : Nat) : Fields.Statement (.farStoreAck ctx id) := fields _
theorem Fields.semaphoreSignal (ctx : Nat) (id : Nat) : Fields.Statement (.semaphoreSignal ctx id) := fields _
theorem Fields.arrayOpPerform (ctx : Nat) : Fields.Statement (.arrayOpPerform ctx) := fields _
theorem Fields.boundRoutineStart (ctx : Nat) : Fields.Statement (.boundRoutineStart ctx) := fields _
theorem Fields.microStep (ctx : Nat) : Fields.Statement (.microStep ctx) := fields _
theorem Fields.courierFetch (core : Nat) (vf : Nat) : Fields.Statement (.courierFetch core vf) := fields _
theorem Fields.courierFetchComplete (core : Nat) (vf : Nat) : Fields.Statement (.courierFetchComplete core vf) := fields _
theorem Fields.beatStart (job : Nat) (beat : Nat) : Fields.Statement (.beatStart job beat) := fields _
theorem Fields.beatComplete (job : Nat) (beat : Nat) (order : List Nat) : Fields.Statement (.beatComplete job beat order) := fields _
theorem Fields.collectiveMicroStep (job : Nat) : Fields.Statement (.collectiveMicroStep job) := fields _
theorem Fields.farLoadPerform (ctx : Nat) (id : Nat) (lines : List Nat) : Fields.Statement (.farLoadPerform ctx id lines) := fields _
theorem Fields.farStorePerform (ctx : Nat) (id : Nat) (lines : List Nat) : Fields.Statement (.farStorePerform ctx id lines) := fields _
theorem Fields.emberLoadResend (ctx : Nat) (id : Nat) : Fields.Statement (.emberLoadResend ctx id) := fields _
theorem Fields.emblimitExpiry (cell : Nat) : Fields.Statement (.emblimitExpiry cell) := fields _
theorem Fields.amoPerform (ctx : Nat) (id : Nat) : Fields.Statement (.amoPerform ctx id) := fields _
theorem Fields.casPerform (ctx : Nat) (id : Nat) : Fields.Statement (.casPerform ctx id) := fields _
theorem Fields.redPerform (ctx : Nat) (id : Nat) : Fields.Statement (.redPerform ctx id) := fields _
theorem Fields.redlogAppend (ctx : Nat) (id : Nat) : Fields.Statement (.redlogAppend ctx id) := fields _
theorem Fields.wtaArrival (ctx : Nat) (id : Nat) : Fields.Statement (.wtaArrival ctx id) := fields _
theorem Fields.wtaTimeout (ctx : Nat) (id : Nat) : Fields.Statement (.wtaTimeout ctx id) := fields _
theorem Fields.barrierArrival (ctx : Nat) (id : Nat) : Fields.Statement (.barrierArrival ctx id) := fields _
theorem Fields.barrierRelease (ctx : Nat) (set : Nat) : Fields.Statement (.barrierRelease ctx set) := fields _
theorem Fields.gleavePerform (ctx : Nat) (id : Nat) : Fields.Statement (.gleavePerform ctx id) := fields _
theorem Fields.hsigrDeliver (ctx : Nat) (id : Nat) : Fields.Statement (.hsigrDeliver ctx id) := fields _
theorem Fields.emakePerform (ctx : Nat) (id : Nat) : Fields.Statement (.emakePerform ctx id) := fields _
theorem Fields.efillPerform (ctx : Nat) (id : Nat) : Fields.Statement (.efillPerform ctx id) := fields _
theorem Fields.efailPerform (ctx : Nat) (id : Nat) : Fields.Statement (.efailPerform ctx id) := fields _
theorem Fields.earmPerform (ctx : Nat) (id : Nat) : Fields.Statement (.earmPerform ctx id) := fields _
theorem Fields.epeekPerform (ctx : Nat) (id : Nat) : Fields.Statement (.epeekPerform ctx id) := fields _
theorem Fields.estatPerform (ctx : Nat) (id : Nat) : Fields.Statement (.estatPerform ctx id) := fields _
theorem Fields.itakePerform (ctx : Nat) (id : Nat) : Fields.Statement (.itakePerform ctx id) := fields _
theorem Fields.igivePerform (ctx : Nat) (id : Nat) : Fields.Statement (.igivePerform ctx id) := fields _
theorem Fields.istatPerform (ctx : Nat) (id : Nat) : Fields.Statement (.istatPerform ctx id) := fields _
theorem Fields.startRecordArrival (vf : Nat) (rec : Nat) : Fields.Statement (.startRecordArrival vf rec) := fields _
theorem Fields.slotDrainComplete (ctx : Nat) : Fields.Statement (.slotDrainComplete ctx) := fields _
theorem Fields.stopFlagSet (ctx : Nat) (area : Dword) : Fields.Statement (.stopFlagSet ctx area) := fields _
theorem Fields.saveComplete (ctx : Nat) : Fields.Statement (.saveComplete ctx) := fields _
theorem Fields.restore (r : RestoreCmd) : Fields.Statement (.restore r) := fields _
theorem Fields.tlbMiss (m : Master) : Fields.Statement (.tlbMiss m) := fields _
theorem Fields.walkComplete (walk : Nat) : Fields.Statement (.walkComplete walk) := fields _
theorem Fields.faultRecordPost (walk : Nat) : Fields.Statement (.faultRecordPost walk) := fields _
theorem Fields.map (part : Nat) (rec : Nat) : Fields.Statement (.map part rec) := fields _
theorem Fields.refuse (part : Nat) (rec : Nat) : Fields.Statement (.refuse part rec) := fields _
theorem Fields.tableWindowWrite (w : TableWrite) : Fields.Statement (.tableWindowWrite w) := fields _
theorem Fields.invalidate (vf : Nat) (va : Nat) (len : Nat) : Fields.Statement (.invalidate vf va len) := fields _
theorem Fields.invalidateComplete (vf : Nat) (va : Nat) (len : Nat) : Fields.Statement (.invalidateComplete vf va len) := fields _
theorem Fields.functionLevelReset (vf : Nat) : Fields.Statement (.functionLevelReset vf) := fields _
theorem Fields.resetDrainComplete (vf : Nat) : Fields.Statement (.resetDrainComplete vf) := fields _
theorem Fields.setEntryRewrite (part : Nat) (set : Nat) (members : List Nat) : Fields.Statement (.setEntryRewrite part set members) := fields _
theorem Fields.vfWeightWrite (core : Nat) (vf : Nat) (w : Nat) : Fields.Statement (.vfWeightWrite core vf w) := fields _
theorem Fields.vfCreate (vf : Nat) (root : Nat) (freeze : Bool) : Fields.Statement (.vfCreate vf root freeze) := fields _
theorem Fields.partitionCreate (p : PartitionCmd) : Fields.Statement (.partitionCreate p) := fields _
theorem Fields.keySlotWrite (k : KeySlotCmd) : Fields.Statement (.keySlotWrite k) := fields _
theorem Fields.reductionWindowRegister (part : Nat) (idx : Nat) (w : ReductionWindow) : Fields.Statement (.reductionWindowRegister part idx w) := fields _
theorem Fields.collectiveRoutineLoad (part : Nat) (base : Nat) (words : List (BitVec 256)) (lists : List (Nat × List Nat)) : Fields.Statement (.collectiveRoutineLoad part base words lists) := fields _
theorem Fields.supervisorRegisterWrite (r : SupReg) : Fields.Statement (.supervisorRegisterWrite r) := fields _
theorem Fields.hostPublish (eid : Nat) : Fields.Statement (.hostPublish eid) := fields _
theorem Fields.hostDiscard (eid : Nat) : Fields.Statement (.hostDiscard eid) := fields _
theorem Fields.extend (reg : Nat) (value : List Byte) : Fields.Statement (.extend reg value) := fields _
theorem Fields.powerCapSet (watts : Nat) : Fields.Statement (.powerCapSet watts) := fields _
theorem Fields.load (vf : Nat) : Fields.Statement (.load vf) := fields _
theorem Fields.launch (vf : Nat) : Fields.Statement (.launch vf) := fields _
theorem Fields.unload (vf : Nat) : Fields.Statement (.unload vf) := fields _
theorem Fields.unloadForce (vf : Nat) : Fields.Statement (.unloadForce vf) := fields _
theorem Fields.getVersion : Fields.Statement .getVersion := fields _
theorem Fields.getCapabilities : Fields.Statement .getCapabilities := fields _
theorem Fields.negotiateAlgorithms (sha384 : Bool) (brainpool : Bool) : Fields.Statement (.negotiateAlgorithms sha384 brainpool) := fields _
theorem Fields.getDigests : Fields.Statement .getDigests := fields _
theorem Fields.getCertificate : Fields.Statement .getCertificate := fields _
theorem Fields.challenge (nonce : List Byte) : Fields.Statement (.challenge nonce) := fields _
theorem Fields.getMeasurements (reg : Nat) (nonce : Option (List Byte)) : Fields.Statement (.getMeasurements reg nonce) := fields _
theorem Fields.powerOn (failing : Option Nat) : Fields.Statement (.powerOn failing) := fields _
theorem Fields.powerSample (watts : Nat) : Fields.Statement (.powerSample watts) := fields _
theorem Fields.coolantTemperatureChange (celsius : Nat) : Fields.Statement (.coolantTemperatureChange celsius) := fields _
theorem Fields.ethernetFrameReceive (f : EthFrame) : Fields.Statement (.ethernetFrameReceive f) := fields _
theorem Fields.rdmaWrite (frame : Nat) : Fields.Statement (.rdmaWrite frame) := fields _
theorem Fields.rdmaRead (frame : Nat) : Fields.Statement (.rdmaRead frame) := fields _
theorem Fields.uetPacketReceive (frame : Nat) : Fields.Statement (.uetPacketReceive frame) := fields _
theorem Fields.reassemblyTimeout (msg : Nat) : Fields.Statement (.reassemblyTimeout msg) := fields _
theorem Fields.flitReceive (port : Nat) (f : Flit) : Fields.Statement (.flitReceive port f) := fields _
theorem Fields.replayRequest (port : Nat) (seq : Nat) : Fields.Statement (.replayRequest port seq) := fields _
theorem Fields.linkRetrain (port : Nat) : Fields.Statement (.linkRetrain port) := fields _
theorem Fields.linkFailure (port : Nat) : Fields.Statement (.linkFailure port) := fields _
theorem Fields.linkKeyEstablish (port : Nat) (peerValue : List Byte) (signed : Bool) : Fields.Statement (.linkKeyEstablish port peerValue signed) := fields _
theorem Fields.linkKeyRotation (port : LinkRotation) : Fields.Statement (.linkKeyRotation port) := fields _
theorem Fields.packetForward (pkt : Nat) (port : Nat) (merged : Option Nat) : Fields.Statement (.packetForward pkt port merged) := fields _
theorem Fields.remoteRequestReceive (pkt : Nat) : Fields.Statement (.remoteRequestReceive pkt) := fields _
theorem Fields.seal (pkt : Nat) : Fields.Statement (.seal pkt) := fields _
theorem Fields.sealack (pkt : Nat) : Fields.Statement (.sealack pkt) := fields _
theorem Fields.fail (pkt : Nat) : Fields.Statement (.fail pkt) := fields _
theorem Fields.envelopePrepareSend (eid : Nat) : Fields.Statement (.envelopePrepareSend eid) := fields _
theorem Fields.prepare (pkt : Nat) : Fields.Statement (.prepare pkt) := fields _
theorem Fields.ready (pkt : Nat) : Fields.Statement (.ready pkt) := fields _
theorem Fields.publish (pkt : Nat) : Fields.Statement (.publish pkt) := fields _
theorem Fields.discard (pkt : Nat) : Fields.Statement (.discard pkt) := fields _
theorem Fields.done (pkt : Nat) : Fields.Statement (.done pkt) := fields _
theorem Fields.query (pkt : Nat) : Fields.Statement (.query pkt) := fields _
theorem Fields.queryResend (eid : Nat) : Fields.Statement (.queryResend eid) := fields _
theorem Fields.decisionResend (eid : Nat) : Fields.Statement (.decisionResend eid) := fields _
theorem Fields.preptimeExpiry (eid : Nat) : Fields.Statement (.preptimeExpiry eid) := fields _
theorem Fields.indoubtIntervalExpiry (eid : Nat) : Fields.Statement (.indoubtIntervalExpiry eid) := fields _
theorem Fields.remoteError (job : Nat) (beat : Nat) : Fields.Statement (.remoteError job beat) := fields _
theorem Fields.darotXTranslation (vf : Nat) (input : List Byte) (version : Nat) : Fields.Statement (.darotXTranslation vf input version) := fields _

end Sys2Proof.Laws
end

