-- ==== Sys2Proof/Laws/Port.lean ====
section
/-!
SUPPORT. What entries of a context's port and their completion do to the state.
-/
namespace Sys2Proof.Machine
open Sys2Proof

/-- A port without fences has nothing to settle. -/
theorem State.settlePort_eq {s : State} {n : Nat} (h : ∀ r ∈ (s.ctx n).port.queue, r.fence? = none) : s.settlePort n = s := by
  have e : (s.ctx n).port.queue.filter (fun r => r.fence?.isSome) = [] := by
    rw [List.filter_eq_nil_iff]
    intro r hr
    simp [h r hr]
  simp [State.settlePort, e]

/-- A port without entries has nothing to settle. -/
theorem State.settlePort_empty {s : State} {n : Nat} (h : (s.ctx n).port.queue = []) : s.settlePort n = s :=
  State.settlePort_eq (by simp [h])

@[simp] theorem PortReq.fence_stage (r : PortReq) (x : PortStage) : ({ r with stage := x } : PortReq).fence? = r.fence? := rfl

end Sys2Proof.Machine
end

