-- ==== Sys2Proof/Laws/Residency.lean ====
section
/-!
SUPPORT. An access to the L2 changes its lines and the translation buffers alone: what reads of the state find after it, and what
one access can do to the lines.
-/
namespace Sys2Proof.Machine
open Sys2Proof

variable (s : State)

/-! ## Reads after an access to the L2 -/

@[simp] theorem State.ctx_visit (vf : Nat) (va : Option Nat) (pa : Nat) (h : BitVec 2) (m : Nat) : (s.visit vf va pa h).ctx m = s.ctx m := rfl
@[simp] theorem State.core_visit (vf : Nat) (va : Option Nat) (pa : Nat) (h : BitVec 2) (m : Nat) : (s.visit vf va pa h).core m = s.core m := rfl
@[simp] theorem State.vf_visit (vf : Nat) (va : Option Nat) (pa : Nat) (h : BitVec 2) (m : Nat) : (s.visit vf va pa h).vf m = s.vf m := rfl
@[simp] theorem State.part_visit (vf : Nat) (va : Option Nat) (pa : Nat) (h : BitVec 2) (m : Nat) : (s.visit vf va pa h).part m = s.part m := rfl
@[simp] theorem State.set_visit (vf : Nat) (va : Option Nat) (pa : Nat) (h : BitVec 2) (m : Nat) : (s.visit vf va pa h).set m = s.set m := rfl
@[simp] theorem State.byte_visit (vf : Nat) (va : Option Nat) (pa : Nat) (h : BitVec 2) (m : Nat) : (s.visit vf va pa h).byte m = s.byte m := rfl
@[simp] theorem State.mem_visit (vf : Nat) (va : Option Nat) (pa : Nat) (h : BitVec 2) : (s.visit vf va pa h).mem = s.mem := rfl

/-- A use of translations changes translation buffers alone. -/
theorem State.touch_eq (p : Path) (vf va : Nat) : ∃ cs ts, s.touch p vf va = { s with cores := cs, tlbs := ts } := by
  have use : ∀ (e : TlbEntry), ∃ cs, s.microUse p e = { s with cores := cs } := fun e => by
    unfold State.microUse
    split
    · exact ⟨_, rfl⟩
    · exact ⟨s.cores, rfl⟩
  unfold State.touch
  split
  · obtain ⟨cs, h⟩ := use _
    exact ⟨cs, s.tlbs, h⟩
  · split
    · obtain ⟨cs, h⟩ := use _
      exact ⟨cs, _, by rw [h]; rfl⟩
    · exact ⟨s.cores, s.tlbs, rfl⟩

/-- A use of translations leaves everything of a core but its translation buffer. -/
theorem State.core_touch (p : Path) (vf va m : Nat) : ∃ l, (s.touch p vf va).core m = { s.core m with tlb := l } := by
  have use : ∀ (e : TlbEntry), ∃ l, (s.microUse p e).core m = { s.core m with tlb := l } := fun e => by
    unfold State.microUse
    split
    · next c _ =>
      by_cases h : m = c
      · exact ⟨_, by rw [State.onCore, State.core_setCore, if_pos h, h]⟩
      · exact ⟨_, by rw [State.onCore, State.core_setCore, if_neg h]⟩
    · exact ⟨_, rfl⟩
  unfold State.touch
  split
  · exact use _
  · split
    · exact use _
    · exact ⟨_, rfl⟩

/-- So does a use of a list of them. -/
theorem State.touchAll_eq (p : Path) (vf : Nat) (as : List Nat) : ∃ cs ts, s.touchAll p vf as = { s with cores := cs, tlbs := ts } := by
  unfold State.touchAll
  generalize (as.map (· / 2 ^ 16)).eraseDups = l
  induction l generalizing s with
  | nil => exact ⟨s.cores, s.tlbs, rfl⟩
  | cons a l ih =>
    obtain ⟨cs, ts, h⟩ := s.touch_eq p vf (a * 2 ^ 16)
    obtain ⟨cs', ts', h'⟩ := ih { s with cores := cs, tlbs := ts }
    exact ⟨cs', ts', by rw [List.foldl_cons, h, h']⟩

/-- An access to the L2 by a list of addresses leaves everything of a core but its translation buffer. -/
theorem State.core_visitAddrs (p : Path) (vf : Nat) (as : List Nat) (h : BitVec 2) (m : Nat) :
    ∃ l, (s.visitAddrs p vf as h).core m = { s.core m with tlb := l } := by
  show ∃ l, (s.touchAll p vf as).core m = _
  unfold State.touchAll
  generalize (as.map (· / 2 ^ 16)).eraseDups = ps
  induction ps generalizing s with
  | nil => exact ⟨_, rfl⟩
  | cons a ps ih =>
    obtain ⟨l, e⟩ := s.core_touch p vf (a * 2 ^ 16) m
    obtain ⟨l', e'⟩ := ih (s.touch p vf (a * 2 ^ 16))
    exact ⟨l', by rw [List.foldl_cons, e', e]⟩

@[simp] theorem State.ctx_visitAddrs (p : Path) (vf : Nat) (as : List Nat) (h : BitVec 2) (m : Nat) : (s.visitAddrs p vf as h).ctx m = s.ctx m := by
  obtain ⟨_, _, e⟩ := s.touchAll_eq p vf as; simp only [State.visitAddrs, e]; rfl
@[simp] theorem State.vf_visitAddrs (p : Path) (vf : Nat) (as : List Nat) (h : BitVec 2) (m : Nat) : (s.visitAddrs p vf as h).vf m = s.vf m := by
  obtain ⟨_, _, e⟩ := s.touchAll_eq p vf as; simp only [State.visitAddrs, e]; rfl
@[simp] theorem State.part_visitAddrs (p : Path) (vf : Nat) (as : List Nat) (h : BitVec 2) (m : Nat) : (s.visitAddrs p vf as h).part m = s.part m := by
  obtain ⟨_, _, e⟩ := s.touchAll_eq p vf as; simp only [State.visitAddrs, e]; rfl
@[simp] theorem State.set_visitAddrs (p : Path) (vf : Nat) (as : List Nat) (h : BitVec 2) (m : Nat) : (s.visitAddrs p vf as h).set m = s.set m := by
  obtain ⟨_, _, e⟩ := s.touchAll_eq p vf as; simp only [State.visitAddrs, e]; rfl
@[simp] theorem State.byte_visitAddrs (p : Path) (vf : Nat) (as : List Nat) (h : BitVec 2) (m : Nat) : (s.visitAddrs p vf as h).byte m = s.byte m := by
  obtain ⟨_, _, e⟩ := s.touchAll_eq p vf as; simp only [State.visitAddrs, e]; rfl
@[simp] theorem State.mem_visitAddrs (p : Path) (vf : Nat) (as : List Nat) (h : BitVec 2) : (s.visitAddrs p vf as h).mem = s.mem := by
  obtain ⟨_, _, e⟩ := s.touchAll_eq p vf as; simp only [State.visitAddrs, e]
@[simp] theorem State.ctx_fillVisit (core vf va pa : Nat) (h : BitVec 2) (m : Nat) : (s.fillVisit core vf va pa h).ctx m = s.ctx m := rfl
@[simp] theorem State.core_fillVisit (core vf va pa : Nat) (h : BitVec 2) (m : Nat) : (s.fillVisit core vf va pa h).core m = s.core m := rfl
@[simp] theorem State.vf_fillVisit (core vf va pa : Nat) (h : BitVec 2) (m : Nat) : (s.fillVisit core vf va pa h).vf m = s.vf m := rfl
@[simp] theorem State.part_fillVisit (core vf va pa : Nat) (h : BitVec 2) (m : Nat) : (s.fillVisit core vf va pa h).part m = s.part m := rfl
@[simp] theorem State.set_fillVisit (core vf va pa : Nat) (h : BitVec 2) (m : Nat) : (s.fillVisit core vf va pa h).set m = s.set m := rfl
@[simp] theorem State.byte_fillVisit (core vf va pa : Nat) (h : BitVec 2) (m : Nat) : (s.fillVisit core vf va pa h).byte m = s.byte m := rfl
@[simp] theorem State.mem_fillVisit (core vf va pa : Nat) (h : BitVec 2) : (s.fillVisit core vf va pa h).mem = s.mem := rfl
@[simp] theorem State.ctx_visitOp (t : State) (n : Nat) (r : PortReq) (pa : Nat) (m : Nat) : (s.visitOp t n r pa).ctx m = t.ctx m := rfl
@[simp] theorem State.core_visitOp (t : State) (n : Nat) (r : PortReq) (pa : Nat) (m : Nat) : (s.visitOp t n r pa).core m = t.core m := rfl
@[simp] theorem State.vf_visitOp (t : State) (n : Nat) (r : PortReq) (pa : Nat) (m : Nat) : (s.visitOp t n r pa).vf m = t.vf m := rfl
@[simp] theorem State.part_visitOp (t : State) (n : Nat) (r : PortReq) (pa : Nat) (m : Nat) : (s.visitOp t n r pa).part m = t.part m := rfl
@[simp] theorem State.set_visitOp (t : State) (n : Nat) (r : PortReq) (pa : Nat) (m : Nat) : (s.visitOp t n r pa).set m = t.set m := rfl
@[simp] theorem State.byte_visitOp (t : State) (n : Nat) (r : PortReq) (pa : Nat) (m : Nat) : (s.visitOp t n r pa).byte m = t.byte m := rfl
@[simp] theorem State.mem_visitOp (t : State) (n : Nat) (r : PortReq) (pa : Nat) : (s.visitOp t n r pa).mem = t.mem := rfl
@[simp] theorem State.ctx_visitUnits (t : State) (n : Nat) (r : PortReq) (os : List Nat) (m : Nat) : (s.visitUnits t n r os).ctx m = t.ctx m := rfl
@[simp] theorem State.core_visitUnits (t : State) (n : Nat) (r : PortReq) (os : List Nat) (m : Nat) : (s.visitUnits t n r os).core m = t.core m := rfl
@[simp] theorem State.vf_visitUnits (t : State) (n : Nat) (r : PortReq) (os : List Nat) (m : Nat) : (s.visitUnits t n r os).vf m = t.vf m := rfl
@[simp] theorem State.part_visitUnits (t : State) (n : Nat) (r : PortReq) (os : List Nat) (m : Nat) : (s.visitUnits t n r os).part m = t.part m := rfl
@[simp] theorem State.set_visitUnits (t : State) (n : Nat) (r : PortReq) (os : List Nat) (m : Nat) : (s.visitUnits t n r os).set m = t.set m := rfl
@[simp] theorem State.byte_visitUnits (t : State) (n : Nat) (r : PortReq) (os : List Nat) (m : Nat) : (s.visitUnits t n r os).byte m = t.byte m := rfl
@[simp] theorem State.mem_visitUnits (t : State) (n : Nat) (r : PortReq) (os : List Nat) : (s.visitUnits t n r os).mem = t.mem := rfl

/-! ## Range registers -/

/-- A disabled register keeps no line and no way. -/
theorem L2.release_kept (l : L2) (reg : Nat) : ∀ x ∈ (l.release reg).lines, x.kept ≠ some reg := by
  intro x h
  simp only [L2.release, List.mem_map] at h
  obtain ⟨y, -, rfl⟩ := h
  split <;> simp_all

end Sys2Proof.Machine
end

