-- ==== Sys2Proof/Laws/Step.lean ====
section
/-!
SUPPORT. A step: what the agenda's moves do, and what issuing a bundle comes to.
-/
namespace Sys2Proof.Machine
open Sys2Proof

/-- An event of the agenda is carried out. -/
theorem step_event {s : State} {i : Instr} {rest : List Move} (h : s.agenda = .event i :: rest) (o : i.op?.isSome = false) :
    step s = exec i { s with agenda := rest } := by
  simp [step, h, State.carryOut, o]

/-- A core's issue is carried out. -/
theorem step_issue {s : State} {core : Nat} {rest : List Move} (h : s.agenda = .issue core :: rest) :
    step s = .next ({ s with agenda := rest }.issueCore core) := by
  simp [step, h, State.carryOut]

/-- The selector of a core with no round to start issues from the context whose turn it is. -/
theorem State.issueCore_turn {a : State} {core n : Nat} (r : a.mayStartRound core = false) (t : a.turnOf core = some n)
    (q : (a.ctx n).routines = []) (l : (a.core core).sel.lastCtx = some n) :
    a.issueCore core = match (a.replayImmed n).attempt n with
      | .stall w late s => ((s.atCycle core (a.core core).cycle).1.stall n w late).endTurn core n
      | .trap t s =>
        (((s.takeTurn core n).onSel core fun x => { x with lastCtx := some n }).takeTrap n t (s.ctx n).pc).passCycles core 1
      | .freeze r va s => s.freezeCtx n r va 0
      | .hold s =>
        (((s.takeTurn core n).onSel core fun x => { x with lastCtx := some n }).passCycles core 1).chargeTurn core n 1 true
      | .issue ops t => (a.replayImmed n).issueBundle t core n ops := by
  simp [State.issueCore, r, t, q, State.issueContext, l] <;> rfl

/-- Nothing is sent again where no entry of the list is to go before the next bundle. -/
@[simp] theorem State.replayImmed_none {s : State} {n : Nat} (h : (s.ctx n).trap.list.any (·.immed) = false) :
    s.replayImmed n = s := by
  simp [State.replayImmed, h]

/-- A bundle whose ops stand in the way of nothing issues. -/
theorem State.tryOps_issue {s t : State} {n : Nat} {ops : List BundleOp}
    (e : t = ({ s.takeWaits n ops with iss := bundleIssue n (s.ctx n) ops }).runOps ops) (f : t.iss.fault = none)
    (w : ∀ o ∈ ops, s.opWait n o = .none) (m : s.waitMet n ops = true) (h : s.isHeldAtIssue t n ops = false) :
    s.tryOps n ops = .issue ops t := by
  subst e
  have none : (ops.map (s.opWait n)).find? (fun x => x ≠ .none) = none := by
    simp only [List.find?_eq_none, List.mem_map]
    rintro x ⟨o, ho, rfl⟩
    simp [w o ho]
  have free : ops.any (s.meetsPending n) = false := by
    simp only [List.any_eq_false]
    intro o ho p
    have q := w o ho
    have on : o.on (s.ctx n) = true := by
      simp only [State.meetsPending, Bool.and_eq_true] at p
      exact p.1
    simp [State.opWait, on, p] at q
  simp only [State.tryOps, f, none, m, h, free]
  rfl

/-- Ops run in memory order. -/
theorem State.runOps_cons {s t : State} {o : BundleOp} (ops : List BundleOp)
    (h : exec o.i (s.onIss fun x => { x with slot := o.slot, pos := o.pos, opAddr := o.addr }) = .next t) :
    s.runOps (o :: ops) = t.runOps ops := by
  simp [State.runOps, h]

end Sys2Proof.Machine
end

