-- ==== Sys2Proof/Laws/Vector.lean ====
section
/-!
SUPPORT. What the moulds of the V-slot ops do when the op's guard lets it execute.
-/
namespace Sys2Proof.Machine
open Sys2Proof

/-- An op of one vector result owes it at its due bundle. -/
theorem laneOp_on {s : State} {h : Hdr} (g : guardTrue s.cur h = true) (rd : BitVec 7) (d : Nat)
    (f : Ctx → BitVec 128 → List LaneWrite × FpFlags) :
    laneOp h rd d f s = .next (s.timed h d (.vector rd.toNat (f s.cur (laneMask s.cur h)).1 (f s.cur (laneMask s.cur h)).2)) := by
  simp only [laneOp, State.guarded_on g]

/-- An op of one lane predicate owes its bits at due 2. -/
theorem predOp_on {s : State} {h : Hdr} (g : guardTrue s.cur h = true) (rd : BitVec 7)
    (f : Ctx → BitVec 128 → BitVec 128 × FpFlags) :
    predOp h rd f s = .next (s.timed h 2 (.lanePred rd.toNat (laneMask s.cur h) (f s.cur (laneMask s.cur h)).1
      (f s.cur (laneMask s.cur h)).2)) := by
  simp only [predOp, State.guarded_on g]

/-- An element-wise op of one source. -/
theorem mapOp_on {s : State} {h : Hdr} (g : guardTrue s.cur h = true) (f : Tri) (d : Nat) (k : Nat → Elem) :
    mapOp h f d k s = .next (s.timed h d (elemEffect s h f ((elemsA s h f).map k))) := laneOp_on g ..

/-- An element-wise op of two sources. -/
theorem zipOp_on {s : State} {h : Hdr} (g : guardTrue s.cur h = true) (f : Tri) (d : Nat) (k : Nat → Nat → Elem) :
    zipOp h f d k s = .next (s.timed h d (elemEffect s h f (List.zipWith k (elemsA s h f) (elemsB s h f)))) := laneOp_on g ..

/-- An element-wise op of three sources. -/
theorem zip3Op_on {s : State} {h : Hdr} (g : guardTrue s.cur h = true) (f : Tri) (d : Nat) (k : Nat → Nat → Nat → Elem) :
    zip3Op h f d k s = .next (s.timed h d (elemEffect s h f (List.zipWith (fun k x => k x)
      (List.zipWith k (elemsA s h f) (elemsB s h f)) (elemsC s h f)))) := laneOp_on g ..

/-- A rearrangement of elements. -/
theorem moveOp_on {s : State} {h : Hdr} (g : guardTrue s.cur h = true) (f : Tri) (d : Nat) (k : Ctx → List Nat) :
    moveOp h f d k s = .next (s.timed h d (elemEffect s h f ((k s.cur).map fun x => (x, 0)))) := laneOp_on g ..

/-- A reduction or a scan. -/
theorem treeOp_on {s : State} {h : Hdr} (g : guardTrue s.cur h = true) (f : Tri) (scan : Bool) :
    treeOp h f scan s = .next (s.timed h 6 (elemEffect s h f
      (reduceOrScan h.typ (f.fn.extractLsb' 3 3).toNat (Mode.of f.fn) scan (laneMask s.cur h) (elemsA s h f)))) :=
  laneOp_on g ..

end Sys2Proof.Machine
end

