-- ==== Sys2Proof/Tests/Slice0.lean ====
section
/-!
SUPPORT. Tests: words written out from the encoding tables, ill-formed terms that the checks refuse, single steps with
values worked out by hand from the rules, and for each statement a state and operands that meet its hypotheses.
-/
namespace Sys2Proof.Tests
open Sys2Proof Sys2Proof.Machine

set_option Elab.async false

/-! ## Operands -/

/-- A header with a type and the STOP bit, and nothing else. -/
def hd (ty : Nat) : Hdr := ⟨BitVec.ofNat 4 ty, 0, 0, 0, 0, 0, 0, 1⟩
/-- TRI fields D, A, B. -/
def tri (d a b : Nat) : Tri := ⟨0, 0, 0, BitVec.ofNat 7 b, BitVec.ofNat 7 a, BitVec.ofNat 7 d⟩
/-- BRANCH fields A, OFF. -/
def brf (a : Nat) (off : Int) : Branch := ⟨0, BitVec.ofInt 32 off, 0, 0, BitVec.ofNat 7 a, 0⟩
/-- MEM fields D, A, with an address in s(A) and DUE 6. -/
def memf (d a : Nat) : MemF := ⟨0, 0, 0, 0, 6, 0, 0, 0, BitVec.ofNat 7 a, BitVec.ofNat 7 d⟩
/-- JOB fields A, IMM44. -/
def jobf (a imm : Nat) : JobF := ⟨BitVec.ofNat 44 imm, 0, 0, BitVec.ofNat 7 a, 0⟩

/-! ## Decoding: one word of each family, bit by bit from Tables 3.1 to 3.8 -/

/-- The fields of Table 3.1 put together. -/
def hword (opc ty grd stop : Nat) : Nat := opc + 2 ^ 8 * stop + 2 ^ 9 * grd + 2 ^ 44 * ty
/-- The fields of Table 3.2. -/
def tword (d a b c fn imm : Nat) : Nat :=
  2 ^ 48 * d + 2 ^ 55 * a + 2 ^ 62 * b + 2 ^ 69 * c + 2 ^ 76 * fn + 2 ^ 84 * imm

/-- `add.n32 s5, s6, s7`: opcode 0x01, type code 2. -/
theorem test_decode_add : decode (BitVec.ofNat 128 (hword 0x01 2 0 1 + tword 5 6 7 0 0 0)) =
    .ok (.add (hd 2) (tri 5 6 7)) := by decide +kernel
/-- `li s3, 0x401` (Table 3.3). -/
theorem test_decode_li : decode (BitVec.ofNat 128 (hword 0x10 0 0 1 + 2 ^ 48 * 3 + 2 ^ 55 * 0x401)) =
    .ok (.li (hd 0) ⟨0, 0x401, 3⟩) := by decide +kernel
/-- `br` three ops on (Table 3.4). -/
theorem test_decode_br : decode (BitVec.ofNat 128 (hword 0x19 0 0 1 + 2 ^ 84 * 3)) =
    .ok (.br (hd 0) (brf 0 3)) := by decide +kernel
/-- `ldf.n64` due 6 (Table 3.5). -/
theorem test_decode_ldf : decode (BitVec.ofNat 128 (hword 0x86 3 0 1 + 2 ^ 48 * 9 + 2 ^ 55 * 20 + 2 ^ 84 * 6)) =
    .ok (.ldf (hd 3) (memf 9 20)) := by decide +kernel
/-- `cpj s4` (Table 3.7). -/
theorem test_decode_cpj : decode (BitVec.ofNat 128 (hword 0x99 0 0 1 + 2 ^ 55 * 4)) =
    .ok (.cpj (hd 0) (jobf 4 0)) := by decide +kernel
/-- `xseta v7`. -/
theorem test_decode_xseta : decode (BitVec.ofNat 128 (hword 0x78 0 0 1 + tword 0 7 0 0 0 0)) =
    .ok (.xseta (hd 0) (tri 0 7 0)) := by decide +kernel
/-- `lds.s8 s1, s2`. -/
theorem test_decode_lds : decode (BitVec.ofNat 128 (hword 0x80 4 0 1 + 2 ^ 48 * 1 + 2 ^ 55 * 2)) =
    .ok (.lds (hd 4) { memf 1 2 with due := 0 }) := by decide +kernel
/-- `bar 9`. -/
theorem test_decode_bar : decode (BitVec.ofNat 128 (hword 0x94 0 0 1 + tword 0 0 0 0 0 9)) =
    .ok (.bar (hd 0) { tri 0 0 0 with imm := 9 }) := by decide +kernel
/-- `sopen e2, s5`. -/
theorem test_decode_sopen : decode (BitVec.ofNat 128 (hword 0xA8 0 0 1 + tword 0 5 0 0 0 2)) =
    .ok (.sopen (hd 0) { tri 0 5 0 with imm := 2 }) := by decide +kernel
/-- A bound opcode keeps its number and its free fields. -/
theorem test_decode_bound : decode (BitVec.ofNat 128 (hword 0xC3 0 0 1 + tword 1 2 3 4 0x5A 6)) =
    .ok (.boundOp 0xC3 (hd 0) ⟨6, 0x5A, 4, 3, 2, 1⟩) := by decide +kernel
/-- An opcode that Table 3.8 reserves is refused by name. -/
theorem test_decode_reserved : decode (BitVec.ofNat 128 (hword 0x2D 0 0 1)) = .error .opcode := by decide +kernel

/-! ## Ill-formed terms, one for each check -/

theorem test_illformed_guard : (Instr.add { hd 2 with grd := 0x20 } (tri 5 6 7)).wellFormed = false := by decide
theorem test_illformed_type : (Instr.add (hd 8) (tri 5 6 7)).wellFormed = false := by decide
theorem test_illformed_field : (Instr.add (hd 2) { tri 5 6 7 with fn := 4 }).wellFormed = false := by decide
theorem test_illformed_regfield : (Instr.add (hd 2) (tri 5 64 7)).wellFormed = false := by decide
theorem test_illformed_semfield : (Instr.nop { hd 0 with wsem := 1 } (tri 0 0 0)).wellFormed = false := by decide
theorem test_illformed_duefield : (Instr.ldf (hd 3) { memf 9 20 with due := 5 }).wellFormed = false := by decide
theorem test_illformed_kfield : (Instr.mma (hd 4) ⟨0, 0, 0, 0, 0, 0, 0, 0⟩).wellFormed = false := by decide
theorem test_illformed_form : (Instr.call (hd 0) { brf 0 1 with fn := 1 }).wellFormed = false := by decide

/-! ## States -/

/-- Context 0 of core 0, READY in VF 0, with a window of 8 KiB and four semaphores. -/
def ctx0 : Ctx := { life := { state := .ready }, id := { semCount := 4, spSize := 8192 } }
/-- The device with that context alone. -/
def s0 : State := State.reset.setCtx 0 ctx0
/-- The same with changes to the context. -/
def at0 (f : Ctx → Ctx) : State := s0.setCtx 0 (f ctx0)
/-! ## Single steps of ops, against the rules -/

/-- The result that the issuing context owes last. -/
def owed (o : Host.Outcome State Fault Refusal) : Option Effect :=
  match o with
  | .next t => (t.ctx 0).level.deferred.getLast?.map (·.eff)
  | _ => none

/-- 0xFFFFFFFF + 1 wraps to 0 in `n32` without `.sat` (R115). -/
theorem test_add_wraps : owed (exec (.add (hd 2) (tri 3 1 2)) (at0 fun c => (c.setS 1 0xFFFFFFFF).setS 2 1)) =
    some (.scalar 3 0 0) := by decide +kernel
/-- The least `s32` divided by −1 is 2^31, which `.sat` clamps to 2^31 − 1, with SAT (R115). -/
theorem test_div_saturates : owed (exec (.div (hd 6) { tri 3 1 2 with fn := 1 })
    (at0 fun c => (c.setS 1 0x80000000).setS 2 (BitVec.allOnes 64))) = some (.scalar 3 0x7FFFFFFF CtxFlag.sat) := by decide +kernel
/-- An arithmetic shift of a negative `s8` keeps its sign. -/
theorem test_sar_sign : owed (exec (.sar (hd 4) (tri 3 1 2)) (at0 fun c => (c.setS 1 0x80).setS 2 1)) =
    some (.scalar 3 0xFFFFFFFFFFFFFFC0 0) := by decide +kernel
/-- The leading zeros of zero in `n16` number 16 (R117). -/
theorem test_clz_zero : owed (exec (.clz (hd 1) (tri 3 1 0)) s0) = some (.scalar 3 16 0) := by decide +kernel
/-- `plog` with truth table 0b0100 is A and not B (R119). -/
theorem test_plog : owed (exec (.plog (hd 0) { tri 3 0 1 with fn := 4 }) s0) = some (.pred 3 true) := by decide +kernel

/-! ## Witnesses: hypotheses that the statements about ops make -/

/-- The state that a step or an op answers with. -/
def got (o : Host.Outcome State Fault Refusal) : State :=
  match o with
  | .next t => t
  | _ => State.reset

/-- Is the answer a next state? -/
def answers (o : Host.Outcome State Fault Refusal) : Bool :=
  match o with
  | .next _ => true
  | _ => false
theorem answers_got {o : Host.Outcome State Fault Refusal} (h : answers o = true) : o = .next (got o) := by
  cases o <;> first | rfl | cases h

theorem witness_stepKeepsMemoryForm : State.reset.MemOk ∧ step State.reset = .next (got (step State.reset)) :=
  ⟨by unfold State.MemOk; decide, answers_got (by decide +kernel)⟩
theorem witness_encodingRoundTrip : (Instr.add (hd 2) (tri 5 6 7)).op?.isSome = true ∧
    (Instr.add (hd 2) (tri 5 6 7)).wellFormed = true := by decide
/-- A greatest register, type, immediate and semaphore. -/
theorem witness_encodingRoundTrip_bounds :
    (Instr.addi ⟨0, 15, 255, 255, 255, 1, 31, 1⟩ ⟨BitVec.allOnes 44, 0, 0, 0, 63, 63⟩).wellFormed = true := by decide

theorem witness_stepEvent : { State.reset with agenda := [.event .getVersion] }.agenda = [.event .getVersion] ∧
    Instr.getVersion.op? = none := by decide

/-- A state about to issue `nop`, as the host places it. -/
def placed : State :=
  { (State.reset.withFetchWord 128 0).onCore 0 fun k => { k with sel := { k.sel with lastCtx := some 0 } } with agenda := [] }
/-- The state after landing, and after the fetch. -/
def landed (r : LandResult) : State :=
  match r with
  | .landed t => t
  | _ => State.reset
def fetched (r : Fetched) : State × List Byte :=
  match r with
  | .line t bs => (t, bs)
  | _ => (State.reset, [])
def placedLine : State × List Byte := fetched ((landed (placed.landDue 0)).fetchLine 0)
def placedOps : List BundleOp := [⟨.nop (hd 0) (tri 0 0 0), .s, 0, 0, 0⟩]
def placedRun : State :=
  ({ placedLine.1.takeWaits 0 placedOps with iss := bundleIssue 0 (placedLine.1.ctx 0) placedOps }).runOps placedOps
theorem witness_stepIssue_ready : placed.mayStartRound 0 = false ∧ placed.turnOf 0 = some 0 ∧ (placed.ctx 0).routines = [] ∧
    (placed.ctx 0).life.returning = false ∧ (placed.ctx 0).port.departs = [] ∧ (placed.ctx 0).unsettled = false ∧
    (placed.ctx 0).life.fetchFault = none ∧ (placed.core 0).sel.lastCtx = some 0 ∧
    (∀ r ∈ (placed.ctx 0).trap.list, r.immed = false) := by decide +kernel
theorem witness_stepIssue_line : placed.landDue 0 = .landed (landed (placed.landDue 0)) ∧
    (landed (placed.landDue 0)).fetchLine 0 = .line placedLine.1 placedLine.2 ∧
    (placedLine.1.ctx 0).checkBundle (lineOps 0 placedLine.2) = .ok placedOps ∧
    (placedOps.all fun o => placedLine.1.opWait 0 o = .none) = true ∧ (placedOps.all fun o => !placedLine.1.meetsPending 0 o) = true ∧ placedLine.1.waitMet 0 placedOps = true ∧
    placedRun.iss.fault = none ∧ placedLine.1.isHeldAtIssue placedRun 0 placedOps = false := by decide +kernel

/-- Two active levels whose END is the bundle at address 0. -/
def looping (lc : Dword) : Ctx := (ctx0.setLoop 1 ⟨5, 0x100, 0, true⟩).setLoop 3 ⟨lc, 0x200, 0, true⟩
theorem witness_branchResolution_back : (looping 2).level.loops.length = 6 ∧ ((looping 2).loop 3).active = true ∧
    ((looping 2).loop 3).stop ∈ [(0 : Dword)] ∧ (∀ j, j < 6 → 3 < j → ((looping 2).loop j).active = false) ∧
    ((looping 2).loop 3).lc ≠ 1 ∧ ((looping 1).loop 3).lc = 1 ∧ ((looping 1).loop 1).active = true ∧
    ((looping 1).loop 1).stop ∈ [(0 : Dword)] ∧ ((looping 1).loop 2).active = false ∧ ((looping 1).loop 1).lc ≠ 1 ∧
    (∀ j, j < 3 → ((ctx0.setLoop 3 ⟨1, 0x200, 0, true⟩).loop j).active = false) := by decide
theorem witness_branchResolution_none : ctx0.level.loops.length = 6 ∧ ∀ j, j < 6 → (ctx0.loop j).active = false := by decide

theorem witness_guardFalse : guardTrue s0.cur { hd 2 with gneg := 1 } = false := by decide
theorem witness_guardTrue : guardTrue s0.cur (hd 2) = true ∧ s0.iss.fault = none ∧ s0.iss.tv = none := by decide
theorem witness_opsLeave : exec (.add (hd 2) (tri 3 1 2)) s0 = .next (got (exec (.add (hd 2) (tri 3 1 2)) s0)) ∧
    (got (exec (.add (hd 2) (tri 3 1 2)) s0)).iss.fault = none := ⟨answers_got (by decide +kernel), by decide +kernel⟩
/-- A field of width 0, and one that ends above bit 63. -/
theorem witness_bitField : ({ tri 3 1 0 with imm := 63 } : Tri).wid = 0 ∧
    64 < ({ tri 3 1 0 with imm := 63 + 64 * 2 } : Tri).pos + ({ tri 3 1 0 with imm := 63 + 64 * 2 } : Tri).wid ∧
    (hd 0).grd.getLsbD 5 = false ∧ (hd 0).ty = 0 ∧ ({ tri 3 1 0 with imm := 0x2000 } : Tri).imm.getLsbD 13 = true ∧
    ({ tri 3 1 0 with fn := 0x10 } : Tri).fn.extractLsb' 4 4 ≠ 0 := by decide

/-- Context 0 with a target in s5, a return stack of n entries. -/
def calling (v : Dword) (n : Nat) : State := at0 fun c => { c.setS 5 v with ctl := { c.ctl with ret := List.replicate n 0x40 } }
theorem witness_transfers : ((calling 0x100 63).cur.s (brf 5 0).a.toNat).toNat % 16 = 0 ∧
    (calling 0x100 63).cur.ctl.ret.length < 64 ∧ (calling 0x100 1).cur.ctl.ret = [0x40] ∧
    s0.cur.level.loops.length = 6 := by decide
theorem witness_transfers_trap : ((calling 0x108 0).cur.s (brf 5 0).a.toNat).toNat % 16 ≠ 0 ∧
    64 ≤ (calling 0x100 64).cur.ctl.ret.length ∧ ((calling 0x100 64).cur.s 5).toNat % 16 = 0 ∧ (calling 0x100 0).cur.ctl.ret = [] := by decide
theorem witness_loop_field : parseOp (encode (.loop (hd 0) (brf 2 1))) = some (.loop (hd 0) (brf 2 1)) ∧
    (brf 2 1).off.toInt ≤ (1 : Nat) := by decide +kernel
theorem witness_loop : loopCount s0.cur { brf 2 5 with fn := 0x43 } ≠ 0 ∧ loopCount s0.cur { brf 2 5 with fn := 0x40 } = 0 ∧
    (brf 5 5).a.toNat < 6 := by decide

/-- The lanes of v(n) hold the little-endian words given. -/
def withLanes (c : Ctx) (n : Nat) (ws : List Word) : Ctx :=
  c.setLanes n ((List.range ws.length).zip ws |>.map fun p => (p.1, 0xFFFFFFFF, p.2))
/-- A natural descriptor image: BASE 0, type `n8`, one dimension of 16. -/
def goodImage : List Word := [0, 0, 0, 0, 0x10, 0, 0, 0, 16]
/-- A binding record with one word and one step. -/
def goodRecord : List Word := [0, 0, 1, 1]
theorem witness_control : controlWritable false 0x011 = true ∧ controlWritable false 0x018 = false ∧
    controlWritable true 0x018 = true ∧ tsetShapeOk Ty.bf16 64 64 = true ∧ tsetShapeOk Ty.bf16 64 65 = false ∧
    (3 : Nat) < s0.cur.id.semCount ∧ s0.cur.id.semCount ≤ (4 : Nat) ∧ s0.iss.fault = none := by decide
theorem witness_tdset :
    descriptorFault (laneBytes (((withLanes ctx0 7 goodImage).lanes 7).take 32)) = none ∧
    (descriptorFault (laneBytes (((withLanes ctx0 7 [1, 0, 0, 0, 0x71]).lanes 7).take 32))).isSome = true := by
  decide +kernel
theorem witness_wbind : bindStatus 8192 (laneBytes (((withLanes ctx0 7 goodRecord).lanes 7).take 16)) = 0 ∧
    bindStatus 8192 (laneBytes ((ctx0.lanes 7).take 16)) ≠ 0 := by decide +kernel
theorem witness_bundleEnd : (at0 fun c => { c with trap := { c.trap with tl := true } }).cur.trap.tl = true ∧
    s0.cur.trap.tl = false ∧ s0.iss.fault = none := by decide

theorem witness_vcmp : ({ tri 1 2 3 with fn := 0x40 } : Tri).fn.getLsbD 6 = true ∧ (tri 1 2 3).fn.getLsbD 6 = false ∧
    ({ tri 1 2 3 with fn := 0x20 } : Tri).fn.getLsbD 5 = true := by decide
/-- KIND of `vmov`. -/
theorem witness_vmov : ∀ k : BitVec 2, ({ tri 1 2 3 with fn := k.zeroExtend 8 <<< 3 } : Tri).fn.extractLsb' 3 2 = k := by decide
theorem witness_vadd_int : Ty.isFloat Ty.s16 = false := by decide

/-- Context 0 with tiles 1 and 2 of 16 rows of 32 `s8`, tile 3 of 32 rows of 16, tiles 4 to 6 of 16 rows of 32 `q4x`,
`f32` and `bf16`. -/
def shape (ty rows cols : Nat) : BitVec 27 := BitVec.ofNat 27 (ty + 16 + 32 * rows + 2 ^ 12 * cols)
def tiled : Ctx := { ctx0 with ctl := { ctx0.ctl with tctl :=
  [(1, shape 4 16 32), (2, shape 4 16 32), (3, shape 4 32 16), (4, shape 13 16 32), (5, shape 8 16 32), (6, shape 9 16 32)] } }
/-- TAG EXACT with window 0 in accumulator 1. -/
def tagged (tag : Nat) (win : Int) : AccStatus := { tag := tag, win := win }
theorem witness_rows : rowFault (tiled.tctl 1) { tri 9 1 0 with imm := 15 } 1 = none ∧
    (rowFault (tiled.tctl 1) { tri 9 1 0 with imm := 16 } 1).isSome = true ∧
    (rowFault (tiled.tctl 7) (tri 9 7 0) 7).isSome = true ∧ tctlValid (tiled.tctl 7) = false ∧
    15 < tctlRows (tiled.tctl 1) ∧ ¬ 16 < tctlRows (tiled.tctl 1) ∧ ¬ 512 < tctlRowBytes (tiled.tctl 1) := by decide
/-- A predicate register with bit 127 alone, one with every bit, and one with none; every lane is active. -/
def ones : BitVec 128 := BitVec.allOnes 128
theorem witness_branches : (laneMask s0.cur (hd 0)).getLsbD 127 = true ∧ s0.iss.tv = none ∧
    ((ctx0.setQ 1 ones (BitVec.twoPow 128 127)).q 1).getLsbD 127 = true ∧ ((ctx0.setQ 1 ones (BitVec.twoPow 128 127)).q 1).getLsbD 0 = false ∧
    ((ctx0.setQ 1 ones (BitVec.allOnes 128)).q 1) = BitVec.allOnes 128 ∧ (ctx0.q 1) = 0 := by decide
theorem witness_mma : tctlValid (tiled.tctl 1) = true ∧ tctlValid (tiled.tctl 2) = true ∧ tctlType (tiled.tctl 1) = Ty.s8 ∧
    tctlType (tiled.tctl 2) = (hd 4).typ ∧ 32 ≤ tctlCols (tiled.tctl 1) ∧
    checkTag true 1 0 (tiled.mat.stat 1) = .ok (tagged 1 0) ∧ checkTag true 1 3 (tagged 1 0) = .error (accWin 1 3) ∧
    combineTags 0 (tagged 1 0) (tagged 1 0) = .ok (tagged 1 0) ∧ combineTags 0 (tagged 1 3) (tagged 1 0) = .error (accWin 0 3) ∧
    combineTags 0 (tagged 2 0) (tagged 1 0) = .error (accMode 0) := by decide
theorem witness_mrd : tctlType (tiled.tctl 4) = Ty.q4x ∧ tctlCols (tiled.tctl 4) = 32 := by decide
/-- The last 512 bytes of the window, the 512 bytes 16 further on, and 512 bytes 8 before. -/
theorem witness_tileMem : (∀ a ∈ tileAddrs (tiled.tctl 1) (8192 - 512) 0, a < 8192) ∧
    (tileAddrs (tiled.tctl 1) (8192 - 496) 0).any (fun a => 8192 ≤ a) = true ∧
    (∀ a ∈ tileAddrs (tiled.tctl 1) (8192 - 520) 0, a < 8192) ∧ (8192 - 512) % 16 = 0 ∧ ¬ (8192 - 520) % 16 = 0 := by
  decide +kernel
/-- Types and shapes that each tile op takes, and those that it does not: tiles 1 and 2 alike, 1 and 3 turned, 4 to 6 of other types. -/
theorem witness_tiles :
    tctlType (tiled.tctl 1) = tctlType (tiled.tctl 3) ∧ tctlRows (tiled.tctl 1) = tctlCols (tiled.tctl 3) ∧
    tctlCols (tiled.tctl 1) = tctlRows (tiled.tctl 3) ∧ tctlRows (tiled.tctl 4) = tctlRows (tiled.tctl 5) ∧
    tctlCols (tiled.tctl 4) = tctlCols (tiled.tctl 6) ∧ tctlType (tiled.tctl 6) ∈ movTypes ∧
    tctlValid (tiled.tctl 7) = false ∧ tctlType (tiled.tctl 4) ∉ movTypes ∧ tctlType (tiled.tctl 4) ≠ tctlType (tiled.tctl 1) ∧
    tctlRows (tiled.tctl 1) ≠ tctlCols (tiled.tctl 2) ∧ tctlRows (tiled.tctl 1) ≠ tctlRows (tiled.tctl 3) ∧
    tctlType (tiled.tctl 4) = Ty.q4x ∧ tctlType (tiled.tctl 5) = Ty.f32 ∧ tctlType (tiled.tctl 1) ≠ Ty.q4x ∧
    ({ tri 4 5 0 with fn := 0x10 } : Tri).fn.getLsbD 4 = true := by decide +kernel
/-- A tile of another shape than tile 4, of a type that `tq4x` takes. -/
theorem witness_tq4x_shape : tctlValid (shape 8 16 31) = true ∧ tctlType (shape 8 16 31) = Ty.f32 ∧
    tctlCols (shape 8 16 31) ≠ tctlCols (tiled.tctl 4) := by decide

/-- The last 8 bytes of the window, the first byte beyond it, and a vector at its end. -/
theorem witness_scratch :
    scratchFault 8192 (scalarUse (ctx0.setS 2 8184) (hd 3) (memf 1 2)) none = none ∧
    8192 < (farAddr (memf 1 2) (ctx0.setS 2 8185)).toNat + 8 ∧
    scratchFault 8192 (vectorUse (ctx0.setS 2 7680) (memf 1 2)) (some 7680) = none ∧
    scratchFault 8192 (gatherUse (ctx0.setS 2 8188) (hd 2) (memf 1 2)) none = none := by decide +kernel
/-- Misaligned accesses within the window, and a vector and a gather with a lane beyond it. -/
theorem witness_scratch_faults : (farAddr (memf 1 2) (ctx0.setS 2 8183)).toNat + 8 ≤ 8192 ∧ (farAddr (memf 1 2) (ctx0.setS 2 8183)).toNat % 8 ≠ 0 ∧
    (maskLanes ctx0 (memf 1 2)) ≠ [] ∧ (∀ k ∈ maskLanes ctx0 (memf 1 2), 32 + 4 * k + 4 ≤ 8192) ∧ 32 % 64 ≠ 0 ∧
    (maskLanes ctx0 (memf 1 2)).any (fun k => 8192 < 7744 + 4 * k + 4) = true ∧
    ((gatherUse (ctx0.setS 2 8189) (hd 2) (memf 1 2)).addrs).any (fun p => 8192 < p.2 + 4) = true ∧
    (gatherUse (ctx0.setS 2 2) (hd 2) (memf 1 2)).addrs.all (fun p => decide (p.2 + 4 ≤ 8192 ∧ p.2 % 4 ≠ 0)) = true := by
  decide +kernel
/-- The last aligned dword below 2^52, 2^52 itself, and an address that is no multiple of 64. -/
theorem witness_far : farFault (farAddr (memf 1 2) (ctx0.setS 2 (BitVec.ofNat 64 (2 ^ 52 - 64)))) 64 = none ∧
    2 ^ 52 ≤ (farAddr (memf 1 2) (ctx0.setS 2 (BitVec.ofNat 64 (2 ^ 52)))).toNat ∧
    (farAddr (memf 1 2) (ctx0.setS 2 8)).toNat % 64 ≠ 0 ∧ farFault (homeAddr (memf 1 2) (ctx0.setS 2 8)) 8 = none := by
  decide +kernel
/-- Context 0 in set 255, and in no other. -/
def inSet : State := { s0 with sets := [(255, { members := [0] })] }
theorem witness_sets : (0 : Nat) ∈ (inSet.set 255).members ∧ (0 : Nat) ∉ (inSet.set 0).members ∧
    inSet.arrivalOpen 0 255 = false ∧ ({ s0 with sets := [(255, { members := [0], arrivals := [0] })] } : State).arrivalOpen 0 255 = true := by
  decide

/-! ## Witnesses: copy, envelope, intake and bound ops at issue -/

/-- A natural one-dimensional tensor of 64 `n8` elements. -/
def line64 (base : Nat) : Desc := { base := BitVec.ofNat 64 base, scale := 0, ctrl := 0x10, counts := [64], strides := [1] }
/-- A card from HBM address 0 (descriptor 0) to window address 1024 (descriptor 1), 64 bytes. -/
def card64 : List Byte :=
  natBytes 8 (0 + 1 * 2 ^ 4 + 1 * 2 ^ 14 + 2 * 2 ^ 21) ++ natBytes 24 0 ++ natBytes 8 0 ++ natBytes 8 64 ++ natBytes 8 1024 ++
    natBytes 8 64 ++ natBytes 64 0
/-- A step block of a collective: both tensors local, scope 3, list 0. -/
def step64 : List Byte := natBytes 8 (0 + 1 * 2 ^ 4 + 1 * 2 ^ 14 + 3 * 2 ^ 21) ++ card64.drop 8
def carded (card : List Byte) : State :=
  let s := s0.setCtx 0 { ctx0 with ctl := { ctx0.ctl with desc := [(0, line64 0), (1, line64 1024)] } }
  (s.setSpBytes 0 ((List.range 128).zip card)).onPart 0 fun p => { p with lists := [(0, [0])], coll := (0, 1) }
def planOf (x : Except Trapped Plan) : Option Plan :=
  match x with
  | .ok p => some p
  | .error _ => none
theorem witness_cards : cardAddrFault 8192 0 128 = none ∧
    ((planOf ((carded card64).checkCard 0 ((carded card64).readCard 0 0) none false 0)).map fun p => (p.bytes, p.card.seal)) =
      some (64, false) ∧
    ((planOf ((carded step64).checkCard 0 ((carded step64).readCard 0 0) none true 0)).map (·.card.seal)) = some false ∧
    0 < ((carded step64).part 0).coll.2 := by decide +kernel
/-- A sealed card from the window to device 1, under slot 2. -/
def seal64 : List Byte :=
  natBytes 8 (1 + 2 * 2 ^ 4 + 1 * 2 ^ 8 + 3 * 2 ^ 21 + 2 ^ 23) ++ natBytes 8 (1 + 2 * 2 ^ 8) ++ natBytes 16 0 ++ natBytes 8 1024 ++
    natBytes 8 64 ++ natBytes 8 0 ++ natBytes 8 64 ++ natBytes 64 0
/-- The slot is OPEN, and the partition has room for `records` records. -/
def sealing (records : Nat) : State :=
  let s := (carded seal64).onCtx 0 fun c => { c with env := [(2, { state := 1, gen := 1, eid := eidOf 0 0 2 1, mask := 2 })] }
  { (s.onVf 0 fun v => { v with peers := [(1, 0)] }).onPart 0 fun p => { p with records := records } with
    links := (List.range 14).map fun p => (p, { up := true }) }
theorem witness_sealedCard :
    ((planOf ((sealing 1).checkCard 0 ((sealing 1).readCard 0 0) none false 0)).map fun p => (p.card.seal, p.card.env, p.card.peer, p.bytes)) =
      some (true, 2, 1, 64) ∧
    ((planOf ((sealing 0).checkCard 0 ((sealing 0).readCard 0 0) none false 0)).map fun p => p.card.seal) = some true ∧
    (sealing 1).recordFree 0 = true ∧ (sealing 0).recordFree 0 = false ∧ (sealing 0).coords = [] ∧ (sealing 0).cur.life.state = .ready ∧
    ({ sealing 1 with coords := [{ eid := eidOf 0 0 2 1, vf := 0, mask := 2 }] } : State).coords.any (fun c =>
      c.eid == ((sealing 1).cur.slot 2).eid) = true := by decide +kernel
theorem witness_bbw : lookupD 0 15 ctx0.bb = 0 ∧ lookupD 0 15 { ctx0 with bb := [(15, 1)] }.bb ≠ 0 ∧ ctx0.life.mute = false ∧
    ctx0.life.state = .ready := by decide
def req (i : Instr) (addr w1 w2 : Dword) : PortReq := { blankReq (.op i) with id := 1, addr := addr, w1 := w1, w2 := w2 }
/-- A `bbw` that waits, once its bundle has issued. -/
def bbWaiting (v : Nat) : Ctx := { ctx0 with bb := [(15, v)], port := { queue :=
  [{ req (.bbw (hd 0) (tri 3 15 0)) 0 0 0 with stage := .waiting, landing := true }] } }
theorem witness_bbw_settles : (bbWaiting 1).port.queue.map (fun q => (q.bbwOn, q.landing)) = [(some 15, true)] ∧
    (bbWaiting 1).port.landings = [] ∧ (bbWaiting 1).life.mute = false ∧ (bbWaiting 1).settleBbw = bbWaiting 1 ∧
    (bbWaiting 0).settleBbw.port.acquired = true := by decide

/-- Context 0 with envelope slot 2 in a state, naming device 1; the VF has a peer there, and port 0 leads to it. -/
def enveloped (state : Nat) : State :=
  let s := at0 fun c => { c with env := [(2, { state := state, gen := 1, eid := eidOf 0 0 2 1, mask := 2 })] }
  { s.onVf 0 fun v => { v with peers := [(1, 0)] } with links := (List.range 14).map fun p => (p, { up := true }) }
def envf : Tri := { tri 3 5 0 with imm := 2 }
/-- The same without a free coordinator record, and without a peer VF. -/
def crowded : State := (enveloped 1).onPart 0 fun p => { p with records := 0 }
def peerless : State := (enveloped 1).onVf 0 fun v => { v with peers := [] }
def sealf : MemF := { memf 3 4 with disp := BitVec.ofNat 28 (2 ^ 22), fn := 0x32 }
theorem witness_sopen : maskDevices 2 = [1] ∧ ((enveloped 3).peerVf 0 1).isSome = true ∧
    ((enveloped 3).cur.slot 2).state = 3 ∧ ((enveloped 3).cur.slot 2).gen + 1 < 2 ^ 44 ∧ (enveloped 3).coords = [] ∧
    maskDevices 0 = [] ∧ (maskDevices (BitVec.ofNat 64 (2 ^ 16 - 1))).length = 16 := by decide +kernel
theorem witness_spost : ((enveloped 1).cur.slot (envf.imm.extractLsb' 0 4).toNat).state = 1 ∧ (enveloped 1).recordFree 0 = true ∧
    ((enveloped 2).cur.slot 2).state = 2 ∧ ((enveloped 0).cur.slot 2).state = 0 ∧ (enveloped 1).coords = [] ∧
    (enveloped 1).jobs = [] := by decide
theorem witness_seal : sealEnv sealf = 2 ∧ sealPeer sealf = 1 ∧ ((enveloped 1).cur.slot 2).mask.getLsbD 1 = true ∧
    (enveloped 1).reachable 1 = true ∧ ((enveloped 1).peerVf 0 1).isSome = true ∧ (enveloped 1).recordFree 0 = true ∧
    farFault (sealedAddr sealf (enveloped 1).cur) 64 = none ∧ farFault (sealedAddr sealf (enveloped 1).cur) 8 = none := by
  decide +kernel
theorem witness_seal_refused : ((enveloped 2).cur.slot 2).state ≠ 1 ∧ ((enveloped 2).cur.slot 2).state ≠ 4 ∧
    ((enveloped 4).cur.slot 2).state = 4 ∧ ((enveloped 1).cur.slot 2).mask.getLsbD 0 = false ∧
    (peerless.peerVf 0 1).isSome = false ∧ (peerless.cur.slot 2).state = 1 ∧ peerless.coords = [] ∧
    (crowded.cur.slot 2).state = 1 ∧ crowded.reachable 1 = true ∧ (crowded.peerVf 0 1).isSome = true ∧
    crowded.recordFree 0 = false ∧ crowded.coords = [] := by decide +kernel

/-- VF 0 with ring 5. -/
def ring0 : Ring := { base := 0, size := 4, policy := 0, notify := none }
def ringed : State := s0.onVf 0 fun v => { v with rings := [(5, ring0)] }
def bound1 : Binding := { image := 0, words := 1, entry := 0, steps := 1, isM := false, vmask := 0, tmask := 0, banks := 0,
                          spBase := 0, spSize := 0 }
theorem witness_ring : (ringed.ring? 0 5).isSome = true ∧
    lookup? 0xFF ({ ctx0 with binds := [(0xFF, bound1)] } : Ctx).binds = some bound1 ∧ lookup? 0xFF ctx0.binds = none := by decide

/-! ## Witnesses: landing, traps, barriers -/

/-- Context 0 owes one effect, due before its next bundle. -/
def owing (e : Effect) : State := at0 fun c => { c with lv0 := { deferred := [⟨0, 0, 6, e, none⟩] } }
theorem witness_lands : ((owing (.scalar 0 7 0)).ctx 0).level.deferred = [⟨0, 0, 6, .scalar 0 7 0, none⟩] ∧
    (0 : Nat) ≤ ((owing (.scalar 0 7 0)).ctx 0).level.count ∧ ((owing (.loadScalar 63 3 8184)).ctx 0).mat.queue = [] := by decide
/-- A landing in the buffer, arrived or not. -/
def landing (arrived : Bool) : State := at0 fun c =>
  { c with lv0 := { deferred := [⟨0, 0, 5, .landing 9, none⟩] }, port := { landings := [{ id := 9, words := [(63, 1)], arrived := arrived }] } }
theorem witness_landing : ((landing true).ctx 0).port.landings = [{ id := 9, words := [(63, 1)], arrived := true }] ∧
    ((landing false).ctx 0).port.landings.all (fun l => !l.arrived && l.vector.isNone) = true := by decide
/-- RegisterResultsLand: an array op still owes `s5`, or names tile 1; a control register, tile bytes and damage that wait for none. -/
def behindArray (i : Instr) (e : Effect) : State := (owing e).setCtx 0 { (owing e).ctx 0 with
  mat := { queue := [{ id := 0, seq := 0, level := true, op := i, sig := none }] } }
theorem witness_awaits :
    ((behindArray (.mstat (hd 0) (tri 5 1 0)) (.scalar 5 7 0)).ctx 0).awaitsResult ⟨0, 0, 6, .scalar 5 7 0, none⟩ = true ∧
    ((behindArray (.mstat (hd 0) (tri 5 1 0)) (.scalar 5 7 0)).ctx 0).dataArrived ⟨0, 0, 6, .scalar 5 7 0, none⟩ = true ∧
    ((behindArray (.tfill (hd 0) (tri 1 0 0)) (.tileBytes 1 [])).ctx 0).awaitsArray ⟨0, 0, 6, .tileBytes 1 [], none⟩ = true ∧
    (∀ e ∈ [Effect.control 0x045 7, .tctl 63 9, .tileBytes 31 [(8191, 1), (0, 2)], .damage 1 2 3, .loadLanes 2 8 5 3 [(0, 0), (127, 8184)]],
      ((owing e).ctx 0).awaitsResult ⟨0, 0, 6, e, none⟩ = false ∧ ((owing e).ctx 0).awaitsArray ⟨0, 0, 6, e, none⟩ = false) ∧
    ((owing (.control 0x045 7)).ctx 0).level.loops.length = 6 ∧ ([(8191, 1), (0, 2)].map (·.1) : List Nat).Nodup := by decide
theorem witness_trapDelivery : Cause.unbound.isFatal = false ∧ Cause.ecc.isFatal = true ∧
    ((at0 fun c => { c with trap := { handler := 0x400 } }).ctx 0).trap.handler ≠ 0 ∧ ctx0.trap.handler = 0 ∧
    ctx0.trap.tl = false := by decide
/-- At level 1 a result of level 1 lands, and one that level 0 is owed does not. -/
def handling : State := at0 fun c => { c with
  lv0 := { deferred := [⟨0, 0, 6, .scalar 5 7 0, none⟩] }, lv1 := { deferred := [⟨0, 1, 6, .scalar 6 8 0, none⟩] },
  trap := { tl := true } }
theorem witness_trapDelivery_level1 : (handling.ctx 0).trap.tl = true ∧
    handling.landDue 0 = .landed (landed (handling.landDue 0)) ∧ ((landed (handling.landDue 0)).ctx 0).s 6 = 8 ∧
    ((landed (handling.landDue 0)).ctx 0).s 5 = 0 := by decide +kernel
theorem witness_return : ({ tl := true } : Trap).tl = true ∧ ({ tl := true } : Trap).held = [] ∧
    ({ tl := true } : Trap).list = [] := by decide
/-- The last member and an earlier one arrive. -/
theorem witness_barrier : (∀ m ∈ ({ members := [3, 4], arrivals := [3] } : SetEntry).members, m ∈ [3] ++ [4]) ∧
    (4 ∈ ({ members := [3, 4] } : SetEntry).members ∧ 4 ∉ ([] : List Nat) ++ [3]) := by decide

/-! ## Witnesses: a quiet port -/

/-- One port entry of context 0, whose VF has one page, readable and writable, from virtual address 0 at physical address
0x20000, in an ember region or not. -/
def page (emb : Bool) : TlbEntry :=
  { vf := 0, va := 0, size := 65536, pa := 0x20000, bits := if emb then 0b101111 else 0b001111 }
def region0 : Region := { base := 0, size := 65536, set := 3, limit := 100 }
def ported (r : PortReq) (emb : Bool) : State :=
  let s := at0 fun c => { c with port := { queue := [r], nextId := 2 } }
  let s := s.onCore 0 fun k => { k with tlb := [page emb] }
  if emb then s.onVf 0 fun v => { v with regions := [region0] } else s

theorem quiet_ported (r : PortReq) (emb : Bool) (h : r.stage = .pending ∧ r.landing = false ∧ r.done = [] ∧ r.fails = []) :
    (ported r emb).quiet 0 r := by
  obtain ⟨a, d, b, c⟩ := h
  cases emb <;> exact ⟨rfl, rfl, rfl, rfl, rfl, rfl, rfl, a, d, b, c, rfl, rfl, rfl, rfl⟩

/-- An `amo` on the last dword of the page. -/
def amoReq : PortReq := req (.amo (hd 3) (memf 5 4)) 0xFFF8 7 9
def casReq : PortReq := req (.cas (hd 3) (memf 5 4)) 0xFFF8 0 9
def redReq : PortReq := req (.red (hd 3) { memf 0 4 with disp := BitVec.ofNat 28 (2 ^ 24) }) 0xFFF8 7 9
def wtaReq (timeout : Dword) : PortReq := req (.wta (hd 3) (memf 5 4)) 0xFFF8 0 timeout
def farReq (i : Instr) : PortReq := { req i 0x40 7 0 with vec := List.replicate 512 5 }
/-- FN of scope 2. -/
def dev (d : Nat) : MemF := { memf d 4 with fn := 0x20 }
theorem mapsTo_ported (r : PortReq) (emb : Bool)
    (h : 0 < r.size ∧ r.need.refused (page emb).bits = none ∧ r.addr.toNat + r.size ≤ 65536) :
    (ported r emb).mapsTo 0 r (0x20000 + r.addr.toNat) emb := by
  obtain ⟨p, q, m⟩ := h
  refine ⟨p, page emb, q, rfl, ?_⟩
  intro off ho
  have cov : (page emb).covers 0 (r.addr.toNat + off) = true := by
    cases emb <;> simp [TlbEntry.covers, page] <;> omega
  have loc : (ported r emb).micro (corePath (coreOf 0)) = [page emb] := by cases emb <;> rfl
  have vf : ((ported r emb).ctx 0).id.vf = 0 := by cases emb <;> rfl
  refine ⟨?_, ?_⟩
  · simp [State.tlbHit, loc, vf, cov]
  · cases emb
    · simp [page]
    · have : ((ported r true).vf 0).regions = [region0] := rfl
      simp [page, State.region, vf, this, region0]
      omega

theorem witness_atomics : (ported amoReq false).quiet 0 amoReq ∧ (ported amoReq false).mapsTo 0 amoReq 0x2FFF8 false :=
  ⟨quiet_ported _ _ ⟨rfl, rfl, rfl, rfl⟩, mapsTo_ported _ _ (by decide)⟩
theorem witness_cas : (ported casReq false).quiet 0 casReq ∧ (ported casReq false).mapsTo 0 casReq 0x2FFF8 false :=
  ⟨quiet_ported _ _ ⟨rfl, rfl, rfl, rfl⟩, mapsTo_ported _ _ (by decide)⟩
theorem witness_red : (ported redReq false).quiet 0 redReq ∧ (ported redReq false).mapsTo 0 redReq 0x2FFF8 false :=
  ⟨quiet_ported _ _ ⟨rfl, rfl, rfl, rfl⟩, mapsTo_ported _ _ (by decide)⟩
/-- A wait that returns at once, and one that registers: memory reads zero. -/
theorem witness_wta : (ported (wtaReq 0) false).quiet 0 (wtaReq 0) ∧ (ported (wtaReq 0) false).mapsTo 0 (wtaReq 0) 0x2FFF8 false ∧
    (ported (wtaReq 5) false).quiet 0 (wtaReq 5) ∧ (ported (wtaReq 5) false).mapsTo 0 (wtaReq 5) 0x2FFF8 false ∧
    (ported (wtaReq 5) false).dword 0x2FFF8 = (wtaReq 5).w1 ∧ ∀ k, (ported (wtaReq 5) false).waitsAt k < 1024 := by
  refine ⟨quiet_ported _ _ ⟨rfl, rfl, rfl, rfl⟩, mapsTo_ported _ _ (by decide), quiet_ported _ _ ⟨rfl, rfl, rfl, rfl⟩,
    mapsTo_ported _ _ (by decide), by decide +kernel, ?_⟩
  intro k
  have : (ported (wtaReq 5) false).waitsAt k = 0 := rfl
  omega
def wtaOver : State := at0 fun c => { c with life := { c.life with state := .stalled },
                                             port := { queue := [{ wtaReq 5 with stage := .waiting, landing := true, pa := 64 }] } }
theorem witness_wtaTimeout : (wtaOver.ctx 0).life.state = .stalled ∧ (wtaOver.ctx 0).life.mute = false ∧
    (wtaOver.ctx 0).port.queue = [{ wtaReq 5 with stage := .waiting, landing := true, pa := 64 }] ∧
    wtaOver.isHeld 64 8 = false ∧ (wtaOver.ctx 0).port.landings = [] ∧
    (0 : Nat) ≤ (wtaOver.core (coreOf 0)).cycle.toNat := by decide
theorem witness_farScalar : (ported (farReq (.ldf (hd 2) (dev 5))) false).mapsTo 0 (farReq (.ldf (hd 2) (dev 5))) 0x20040 false ∧
    (ported (farReq (.stf (hd 2) (dev 5))) false).mapsTo 0 (farReq (.stf (hd 2) (dev 5))) 0x20040 false ∧
    2 ≤ (dev 5).scope ∧ (farReq (.ldf (hd 2) (dev 5))).size ≤ 8 :=
  ⟨mapsTo_ported _ _ (by decide), mapsTo_ported _ _ (by decide), by decide, by decide⟩
theorem witness_farVector : (ported (farReq (.vldf (hd 0) (dev 5))) false).mapsTo 0 (farReq (.vldf (hd 0) (dev 5))) 0x20040 false ∧
    (ported (farReq (.vstf (hd 0) (dev 5))) false).mapsTo 0 (farReq (.vstf (hd 0) (dev 5))) 0x20040 false ∧
    (farReq (.vstf (hd 0) (dev 5))).vec.length = 512 :=
  ⟨mapsTo_ported _ _ (by decide +kernel), mapsTo_ported _ _ (by decide +kernel), by decide +kernel⟩

/-- A performed access and the signal that waits for it; a refused load; a fault on its way; a `red`'s. -/
def acked : State := at0 fun c => { c with port := { queue :=
  [{ req (.stf (hd 3) (dev 5)) 0 0 0 with stage := .performed, sig := some 2 },
   { blankReq (.signal 0 1) with id := 2, stage := .incomplete }] } }
def prefReq : PortReq := req (.pref (hd 0) { memf 64 4 with fn := 0x20 }) 0x40 0 0
theorem witness_pref : (ported prefReq false).quiet 0 prefReq ∧ (ported prefReq false).prefMiss 0 prefReq = none :=
  ⟨quiet_ported _ _ ⟨rfl, rfl, rfl, rfl⟩, by decide +kernel⟩
theorem witness_ack : (acked.ctx 0).port.queue.map (fun r => (r.id, r.sig)) = [(1, some 2), (2, none)] := by decide
def faulted (i : Instr) : State := at0 fun c => { c with
  trap := { handler := 0x400 }, port := { queue := [{ req i 64 0 0 with stage := .faulted }], faults := [⟨1, ⟨.illaddr, 64⟩⟩] } }
theorem witness_laterFault : ((faulted (.ldf (hd 3) (dev 5))).ctx 0).port.faults = [⟨1, ⟨.illaddr, 64⟩⟩] ∧
    (req (.ldf (hd 3) (dev 5)) 64 0 0).isRed = false ∧ (req (.red (hd 3) (dev 5)) 64 0 0).isRed = true ∧
    ((faulted (.ldf (hd 3) (dev 5))).ctx 0).trap.handler ≠ 0 ∧ Cause.illaddr.isFatal = false ∧
    ((faulted (.ldf (hd 3) (dev 5))).ctx 0).ctl.redlog.length < 32 := by decide
/-- The fault of level-0 work comes while the handler runs; that of level-1 work comes after the return. -/
def late (tl level : Bool) : State := at0 fun c => { c with
  trap := { tl := tl }, port := { queue := [{ req (.ldf (hd 3) (dev 5)) 64 0 0 with stage := .faulted, level := level }],
                                  faults := [⟨1, ⟨.illaddr, 64⟩⟩] } }
theorem witness_laterFault_levels : ((late true false).ctx 0).trap.held = [] ∧ ((late true false).ctx 0).routines = [] ∧
    ((late false true).ctx 0).trap.tl = false ∧ ((late false true).ctx 0).port.queue.map (·.level) = [true] := by decide

/-! ## Witnesses: sets and ember cells -/

def setReq (i : Instr) : PortReq := req i 0 0 0
/-- An arrival of a member, and of a context that has left. -/
def arriving (members : List Nat) : State := { ported (setReq (.barr (hd 0) { tri 0 0 0 with imm := 255 })) false with
  sets := [(255, { members := members })] }
theorem witness_arrival : (0 : Nat) ∈ ((arriving [4, 0]).set 255).members ∧ (0 : Nat) ∉ ((arriving [4]).set 255).members ∧
    ((arriving [4, 0]).ctx 0).ctl.redlog = [] := by decide
/-- Context 0 and context 4 are the members of set 255. -/
def twoSet : State := { ported (setReq (.gleave (hd 0) { tri 0 0 0 with imm := 255 })) false with
  sets := [(255, { members := [4, 0], released := [0] })] }
theorem witness_setEvents : (0 : Nat) ∈ (twoSet.set 255).released ∧ (0 : Nat) ∈ (twoSet.set 255).members ∧
    (twoSet.ctx 0).life.state ≠ .saved ∧ (twoSet.ctx 0).ctl.redlog = [] := by decide
def signalled : State := { ported (setReq (.hsigr (hd 0) { tri 0 0 0 with imm := BitVec.ofNat 44 (255 + 256 * 3) })) false with
  sets := [(255, { members := [0] })] }
theorem witness_hsigr : (signalled.set 255).members = [0] ∧ (3 : Nat) < (signalled.ctx 0).id.semCount ∧
    (signalled.ctx 0).life.state = .ready := by decide

/-- A recipe of set 3 in the last cell of the region. -/
def recipe : Dword := BitVec.ofNat 64 (3 * 2 ^ 48 + 0x40)
def emakeReq : PortReq := req (.emake (hd 0) (dev 2)) 0xFFF0 0x1234 recipe
/-- The cell has a tag, and context 0 evaluates it. -/
def celled (r : PortReq) (tag : Nat) : State :=
  { ported r true with
    tags := sparseSet 0 0x2FFF (BitVec.ofNat 2 tag) []
    hearths := if tag = 2 then [{ cell := 0x2FFF0, va := 0xFFF0, vf := 0, set := 3, place := 0, chain := [], eval := some 0 }] else [] }
theorem witness_emake : (celled emakeReq 1).mapsTo 0 emakeReq 0x2FFF0 true ∧ recipeOk recipe = true ∧
    ctrlSet recipe = ((celled emakeReq 1).region 0 0xFFF0).elim 0 (·.set) ∧ (celled emakeReq 1).tag 0x2FFF0 ≠ 2 ∧
    (celled emakeReq 2).tag 0x2FFF0 = 2 :=
  ⟨mapsTo_ported emakeReq true (by decide), by decide, by decide, by decide, by decide⟩
/-- The first half of the cell holds an uncorrectable error. -/
theorem witness_epeek : ({ celled emakeReq 1 with bad := [0x2FFF7] } : State).isBad 0x2FFF0 8 = true ∧
    (celled emakeReq 1).isBad 0x2FFF0 8 = false := by decide
theorem witness_efill : (celled emakeReq 2).ownsCell 0 0x2FFF0 = true ∧ (celled emakeReq 3).tag 0x2FFF0 = 3 ∧
    ((celled emakeReq 2).ctx 0).ctl.redlog = [] := by decide
/-- A load at the second half of the cell waits. -/
def cellWaiting : State := { celled { req (.ldf (hd 3) (memf 5 4)) 0xFFF8 0 0 with landing := true, stage := .waiting } 2 with
  waiters := [{ loader := .port 0 1, cell := 0x2FFF0, va := 0xFFF0 }] }
theorem witness_cellWaiting : (cellWaiting.ctx 0).port.queue.map (fun r => (r.id, r.landing, r.done.isEmpty && r.fails.isEmpty)) =
      [(1, true, true)] ∧ (cellWaiting.ctx 0).port.landings = [] ∧
    0xFFF8 + (req (.ldf (hd 3) (memf 5 4)) 0xFFF8 0 0).size ≤ 0xFFF0 + 16 ∧ (cellWaiting.ctx 0).life.mute = false ∧
    (cellWaiting.ctx 0).life.state = .ready := by decide
def queuedHearth : State := { celled emakeReq 1 with
  hearths := [{ cell := 0x2FFF0, va := 0xFFF0, vf := 0, set := 3, place := 0, chain := [], eval := none }] }
theorem witness_emblimit : queuedHearth.waiters = [] ∧ (queuedHearth.region 0 0xFFF0).any (fun r => r.limit != 0) = true := by
  decide

/-! ## Witnesses: translation, supervisor, reset, host -/

/-- VF 0, partition 0 with the first two GiB, and a page table that maps the first GiB of the VF to itself. -/
def dev0 : State :=
  let s := { State.reset with ready := true }
  let s := s.onVf 0 fun v => { v with state := .active, root := 0x10000 }
  let s := s.onPart 0 fun p => { p with created := true, cores := [0, 1], units := [0, 1], sets := [255], keys := (0, 16), coll := (8, 64), rings := 4 }
  (s.setBytes 0x10000 (natBytes 8 0x20001)).setBytes 0x20000 (natBytes 8 0xF)
def walk0 (page : Nat) (stage : WalkStage) : Walk := { id := 1, pool := 0, vf := 0, page := page, waiters := [], stage := stage }
theorem witness_walk : dev0.walk (walk0 0x3FFF .walking).vf ((walk0 0x3FFF .walking).page * 2 ^ 16) = .leaf 0 (2 ^ 30) 0 0b1111 ∧
    dev0.walk (walk0 0x4000 .walking).vf ((walk0 0x4000 .walking).page * 2 ^ 16) = .fault := by decide +kernel
/-- A far load without a translation, and its walk, posted. -/
def missing : State := { at0 fun c => { c with port := { queue := [farReq (.ldf (hd 2) (dev 5))], nextId := 2 } } with
  walks := [{ walk0 0 .posted with waiters := [.port 0 1] }] }
/-- A walk for which a prefetch waits alone. -/
def hinting : State := { ported prefReq false with walks := [{ walk0 0x4000 .walking with waiters := [.port 0 1] }] }
theorem witness_hints : hinting.isHintMaster (.port 0 1) = true ∧ missing.isHintMaster (.port 0 1) = false ∧
    (farReq (.ldf (hd 2) (dev 5))).isHint = false ∧ hinting.walk 0 (0x4000 * 2 ^ 16) = .fault := by decide +kernel
theorem witness_refuse : missing.entry 0 1 = some (farReq (.ldf (hd 2) (dev 5))) ∧
    (missing.ctx 0).port.queue = [farReq (.ldf (hd 2) (dev 5))] ∧ (farReq (.ldf (hd 2) (dev 5))).fence? = none ∧
    (missing.ctx 0).life.mute = false ∧ (missing.vf (missing.ctx 0).id.vf).freeze = false := by decide +kernel
def missed : State := ({ missing with walks := [] } : State).onPart 0 fun p => { p with created := true, cores := [0], units := [0] }
theorem witness_tlbMiss : missed.missOf (.port 0 1) = some (0, 0, 0x40) ∧ 0 < missed.walkShare 0 (partOf 0) := by decide +kernel
theorem witness_walkSlot : ({ missed with walks := [walk0 0 .walking] } : State).hasSlot (walk0 0 .walking) = true := by
  decide +kernel
theorem witness_invalidate : ((0, 0x10000, 4096) : Nat × Nat × Nat) ∈ ({ dev0 with invals := [(0, 0x10000, 4096)] } : State).invals := by decide
theorem witness_tableWindow : (0x7FFFFFF8 : Nat) % 8 = 0 ∧ ({ dev0 with vfs := [] } : State).ownsRange 0 0x7FFFFFF8 8 = true ∧
    ({ dev0 with vfs := [] } : State).entriesAt 0 0x7FFFFFF8 = [] ∧
    ({ dev0 with vfs := [] } : State).isHeld 0x7FFFFFF8 8 = false := by decide +kernel

def partition0 : PartitionCmd := { part := 23, cores := [255], units := [382, 383], sets := [0], keys := (4095, 1), rings := 2044, coll := (2047, 1) }
theorem witness_partition : dev0.ready = true ∧ dev0.partInUse 23 = false ∧ dev0.partitionOk partition0 = true ∧
    s0.partInUse 0 = true ∧ ({ s0 with ready := true, parts := dev0.parts } : State).partExists 0 = true ∧
    dev0.partExists 0 = true ∧ (dev0.onVf 0 fun v => { v with state := .free }).partInUse 0 = false := by decide
theorem witness_vf : dev0.partExists (partOf 7) = true ∧ (dev0.vf 7).state = .free ∧ dev0.vfExists 0 = true ∧
    (1 : Nat) ∈ (dev0.part (partOf 0)).cores ∧ (dev0.part 0).keys.1 ≤ 15 ∧ 15 < (dev0.part 0).keys.1 + (dev0.part 0).keys.2 ∧
    63 + [(5 : BitVec 256)].length ≤ (dev0.part 0).coll.2 := by decide
theorem witness_setEntry : dev0.setLive 255 = false ∧ 255 ∈ (dev0.part 0).sets ∧ (∀ n ∈ [1023, 1023], n < 1024) ∧
    inSet.setLive 255 = true ∧ s0.vfInUse 0 = true := by decide
theorem witness_management : dev0.ready = true ∧ (List.replicate 48 (1 : Byte)).length = 48 ∧ dev0.spdm = false ∧
    ({ dev0 with spdm := true } : State).spdm = true := by decide

/-- SupervisorCommands: a staged line in a unit that the partition would lose; a root that may be written, and one that may not;
an owner within the partition; lists of devices; members on its cores; shares within the device's. -/
theorem witness_registers :
    ({ dev0 with dests := [{ eid := 0, vf := some 184, state := .staging, rcvd := 0, lines := [{ line := 0x20000, bytes := [] }] }] }
      : State).losesStaged partition0 = true ∧ dev0.losesStaged partition0 = false ∧
    ((dev0.onVf 0 fun x => { x with root := 0 }).rootWrite 0 0).isSome = true ∧ (dev0.rootWrite 1 8).isNone = true ∧
    (∀ v, some 7 = some v → partOf v = 0) ∧
    (([(15, [63])] : List (Nat × List Nat)).map (·.1)).Nodup ∧ (∀ n ∈ [0, 7], n < 1024 ∧ coreOf n ∈ (dev0.part 0).cores) ∧
    (dev0.tlbOfOthers 0 3).1 + 512 ≤ 65536 - 24 * 512 ∧ (dev0.tlbOfOthers 0 3).2 + 8 ≤ 1024 - 24 * 8 ∧
    (dev0.onVf 0 fun x => { x with staging := some (2 ^ 24) }).stagingGiven 0 ≤ 2 ^ 24 ∧
    (dev0.onVf 0 fun x => { x with ways := some 0 }).waysGiven 0 ≤ (dev0.part 0).ways ∧ (∀ r ∈ (dev0.vf 0).ranges, r.2.ways = 0) ∧
    8 + dev0.framesOfOthers 255 0 ≤ 8 := by decide +kernel
theorem witness_ringFabric : dev0.ringsOk 0 [(63, { ring0 with size := 16 })] = true ∧ dev0.packets = [] ∧
    (∀ p ∈ dev0.livePorts, (lookup? p (joinPorts 9 8 8 dev0.links)).isSome = true) ∧ fabCol 9 < 8 ∧ fabRow 9 < 8 := by
  decide +kernel

def resetting : State := (dev0.setCtx 0 { ctx0 with life := { state := .draining } }).onVf 0 fun v =>
  { v with state := .resetting, reset := some (1, 0) }
theorem witness_reset : (dev0.vf 0).state = .active ∧ (resetting.vf 0).reset = some (1, 0) ∧ (resetting.vf 0).state = .resetting ∧
    resetting.vfDrained 0 = true ∧ (resetting.ctx 0).id.vf = 0 := by decide

/-- VF 0 with a device-memory window on its first page, which the I/O die's TLB holds, and one frame. -/
def framed (b : EthBody) : State :=
  let s := dev0.onVf 0 fun v => { v with windows := [(7, { base := 0x8000, len := 0x10000, rkey := 77, read := true, write := true })],
                                         launchKey := 88, statusKey := 99 }
  { s with tlbs := [((ioPath 0).pool, [page false])], frames := [(3, 0, 1, b)] }
def rdma (window key off : Nat) (data : List Byte) : RdmaReq := { qp := 15, window := window, rkey := key, off := off, len := data.length, data := data }
def arming : RdmaReq := rdma 8 88 4088 (natBytes 8 1)
theorem witness_status : (framed (.read { rdma 9 99 4095 [] with len := 1 })).frame 3 = some (0, 1, .read { rdma 9 99 4095 [] with len := 1 }) ∧
    ((framed (.read (rdma 9 99 0 []))).vf 0).state ≠ .free ∧ ((framed (.read (rdma 9 99 0 []))).vf 0).statusKey = 99 := by decide
theorem witness_window : (framed (.write (rdma 7 77 0x7FFF [1]))).memoryWindow 0 (rdma 7 77 0x7FFF [1]) true =
      some { base := 0x8000, len := 0x10000, rkey := 77, read := true, write := true } ∧
    (framed (.write (rdma 7 77 0x7FFF [1]))).checkHost 0 (windowAddrs (rdma 7 77 0x7FFF [1])
      { base := 0x8000, len := 0x10000, rkey := 77, read := true, write := true }) true = .ready ∧
    (∀ i, i < 1 → (framed (.write (rdma 7 77 0x7FFF [1]))).xlate (ioPath 0) 0 (0x8000 + 0x7FFF + i) .write = .ok (0x2FFFF + i) false) ∧
    (∀ i, i < 1 → (framed (.read (rdma 7 77 0x7FFF [1]))).xlate (ioPath 0) 0 (0x8000 + 0x7FFF + i) .read = .ok (0x2FFFF + i) false) ∧
    (framed (.read (rdma 7 77 0x7FFF [1]))).checkHost 0 (windowAddrs (rdma 7 77 0x7FFF [1])
      { base := 0x8000, len := 0x10000, rkey := 77, read := true, write := true }) false = .ready := by decide
/-- A write of device memory came before the arming word. -/
theorem witness_earlierWrite :
    ({ framed (.write arming) with frames := [(2, 0, 1, .write (rdma 7 77 0 [1])), (3, 0, 1, .write arming)] } : State).earlierWrite 0 3 = true ∧
    (framed (.write arming)).earlierWrite 0 3 = false := by decide
theorem witness_launchWindow : arming.off ≤ 4088 ∧ 4088 < arming.off + arming.len ∧
    windowDword (sparseSetList 0 arming.off arming.data [(0, 3)]) 4088 % 2 = 1 ∧
    windowDword (sparseSetList 0 arming.off arming.data [(0, 3)]) 0 % 256 ∈ [1, 2, 3] ∧ (rdma 8 88 4080 (natBytes 8 1)).off + 8 ≤ 4088 ∧
    (rdma 8 89 0 []).rkey ≠ ((framed .invalid).vf 0).launchKey := by decide

/-! ## Witnesses: launches -/

/-- A launch window that holds a command: OP with FORCE, HANDLE, LEN, ADDR. -/
def cmd (op handle len addr : Nat) : Sparse Byte :=
  sparseSetList 0 0 (natBytes 8 op ++ natBytes 8 handle ++ natBytes 8 len ++ natBytes 8 addr) []
def commanding (w : Sparse Byte) : State := dev0.onVf 0 fun v => { v with armed := some w }
/-- A Plikan image of one empty zero section, and its hash. -/
def plikanBody : List Byte :=
  natBytes 4 0x4E4B4C50 ++ natBytes 4 1 ++ natBytes 8 128 ++ natBytes 4 1 ++ natBytes 4 0 ++ natBytes 8 160 ++ natBytes 8 0 ++
    List.replicate 88 0 ++ natBytes 4 4 ++ natBytes 4 4 ++ natBytes 4 0 ++ natBytes 4 0 ++ natBytes 8 0x1000 ++ natBytes 8 0
def plikan : List Byte := plikanBody ++ sha384 plikanBody
def loading : State := (commanding (cmd 1 0 208 0x30000)).setBytes 0x30000 plikan
theorem witness_load : loading.command 0 = some (cmd 1 0 208 0x30000) ∧ cmdOp (cmd 1 0 208 0x30000) = 1 ∧
    loading.imageBytes 0 (cmd 1 0 208 0x30000) = some plikan ∧ loading.commandHeld 0 = false := by decide +kernel
theorem witness_load_ok : loadFault plikan (loading.loadPolicy 0) = none ∧ loading.commandMiss 0 = none := by decide +kernel
theorem witness_load_bad : loadFault [] (loading.loadPolicy 0) = some (1, 0) ∧
    (commanding (cmd 1 0 0 0)).imageBytes 0 (cmd 1 0 0 0) = some [] ∧ (commanding (cmd 1 0 0 0)).commandMiss 0 = none := by decide +kernel
def object0 : Image := { code := [(0x40000, 65536)], tables := [] }
/-- A record for context 4 at `entry`. -/
def record (entry cls : Nat) : List Byte := natBytes 8 (1 + cls * 2 ^ 10 + 2 * 2 ^ 24) ++ natBytes 8 entry ++ List.replicate 48 0
def launching (entry : Nat) : State :=
  (commanding (cmd 2 5 1 0 ++ (sparseSetList 0 64 (record entry 0) []))).onVf 0 fun v => { v with images := [(5, object0)] }
theorem witness_launch : ((launching 0x40000).command 0).map (fun w => (cmdOp w, cmdHandle w, cmdLen w)) = some (2, 5, 1) ∧
    (launching 0x40000).commandMiss 0 = none ∧ (launching 0x40000).commandHeld 0 = false ∧
    ((launching 0x40000).command 0).bind ((launching 0x40000).launchRecords 0) = some [⟨record 0x40000 0⟩] ∧
    (launching 0x40000).launchFault 0 object0 [⟨record 0x40000 0⟩] = none ∧
    (launching 0x3FFF0).launchFault 0 object0 [⟨record 0x3FFF0 0⟩] = some 0x0B ∧
    (launching 0x40000).launchWaits [⟨record 0x40000 0⟩] = false := by decide +kernel
/-- A handle of no image, and a list of 1025 records. -/
theorem witness_launch_refused : ((commanding (cmd 2 5 1 0)).command 0).map cmdOp = some 2 ∧
    lookup? (cmdHandle (cmd 2 5 1 0)) ((commanding (cmd 2 5 1 0)).vf 0).images = none ∧ 1024 < cmdLen (cmd 2 5 1025 0) ∧
    (lookup? (cmdHandle (cmd 2 5 1025 0)) ((launching 0x40000).vf 0).images).isSome = true ∧
    (commanding (cmd 2 5 1 0)).commandHeld 0 = false ∧ (commanding (cmd 2 5 1 0)).commandMiss 0 = none := by decide
def unloading (op : Nat) (pc : Dword) : State :=
  ((commanding (cmd op 5 0 0)).onVf 0 fun v => { v with images := [(5, object0)] }).setCtx 4 { ctx0 with pc := pc }
theorem witness_unload : (unloading 3 0x4FFF0).codeUsers 0 object0 = [4] ∧ (unloading 3 0x50000).codeUsers 0 object0 = [] ∧
    cmdForce (cmd 3 5 0 0) = false ∧ cmdForce (cmd 0x103 5 0 0) = true ∧ cmdOp (cmd 0x103 5 0 0) = 3 ∧
    ((unloading 0x103 0x4FFF0).ctx 4).routines = [] ∧ (unloading 3 0x50000).commandMiss 0 = none := by decide
def started (cls : Nat) : State := dev0.onVf 0 fun v =>
  { v with images := [(5, object0)], starting := 5, starts := [record 0x40000 cls] }
theorem witness_start : (((started 0).vf 0).starts.find? fun x => Start.num ⟨x⟩ == 4) = some (record 0x40000 0) ∧
    lookup? ((started 0).vf 0).starting ((started 0).vf 0).images = some object0 ∧ (⟨record 0x40000 0⟩ : Start).cls ≠ 2 ∧
    (⟨record 0x40000 2⟩ : Start).cls = 2 ∧ (started 2).hearths = [] ∧ (started 0).darot = [] := by decide
/-- A VF without a page table, in which code of one bundle can stand at the start of any GiB. -/
def bare : State := dev0.onVf 0 fun v => { v with root := 0 }
def haltCode : List Byte := bytesLE 16 (encode (.halt (hd 0) (tri 0 0 0)))
theorem bare_fits (v : Nat) (h : v < 2 ^ 22) : bare.darotFits 0 (darotSize haltCode) (v * 2 ^ 30) = true := by
  have n : darotSize haltCode = 65536 := by decide +kernel
  have i : (bare.vf 0).images = [] := rfl
  have l : bare.leavesFrom 0 (bare.vf 0).root = [] := rfl
  simp [State.darotFits, n, i, l]
  omega
theorem witness_darot : bare.darotOk 0 haltCode = true ∧ (∃ va, bare.darotPlace 0 haltCode = some va) ∧ bare.darot = [] := by
  refine ⟨by decide +kernel, ?_, rfl⟩
  simp only [State.darotPlace, show bare.darotOk 0 haltCode = true by decide +kernel, if_true]
  exact Option.isSome_iff_exists.1 (List.find?_isSome.2 ⟨_, List.mem_map.2 ⟨0, List.mem_range.2 (by omega), rfl⟩,
    bare_fits _ (Nat.mod_lt _ (by decide))⟩)

/-! ## Witnesses: envelopes, intake, fabric -/

def eid0 : Nat := eidOf 0 0 2 1
/-- The envelope's participants are devices 0 and 1; one packet has arrived. -/
def coord0 : Coord := { eid := eid0, vf := 0, mask := 3, sent := [(1, 8)] }
def posting (c : Coord) (m : Msg) : State :=
  { ported (req (.spost (hd 0) envf) 0 0 0) false with coords := [c], packets := [(9, { src := 1, dst := 0, msg := m })] }
def spostReq : PortReq := { req (.spost (hd 0) envf) 0 0 0 with eid := eid0 }
def preparing : State := { ported spostReq false with coords := [{ coord0 with mask := 1 }] }
theorem witness_prepareSend : preparing.spostOf eid0 = some (0, spostReq) ∧ preparing.jobs = [] ∧
    preparing.mayPerform 0 spostReq = true ∧ preparing.canFlush 0 = true ∧ (∀ d ∈ maskDevices 1, preparing.reachable d = true) := by
  decide +kernel
theorem witness_coordinator : ((posting coord0 (.ready eid0 1)).packet 9).map (fun k => (k.dst, k.msg)) =
      some ((posting coord0 (.ready eid0 1)).fabxy, .ready eid0 1) ∧
    (∀ d ∈ maskDevices 3, d = 1 ∨ d ∈ ({ coord0 with ready := [0] } : Coord).ready) ∧
    (∃ d ∈ maskDevices 3, d ≠ 1 ∧ d ∉ coord0.ready) ∧
    (∀ d ∈ maskDevices 3, d = 1 ∨ d ∈ ({ coord0 with done := [0], decision := some 0 } : Coord).done) ∧
    ((posting coord0 (.ready eid0 1)).ctx 0).port.queue = [req (.spost (hd 0) envf) 0 0 0] := by decide
def line0 : Staged := { line := 0x20000, bytes := [(63, (0xFF, 7, 1))] }
def dest0 (st : DestState) : Dest := { eid := eid0, vf := some 0, state := st, rcvd := 8, lines := [line0] }
def sealed0 : SealMsg := { eid := eid0, stream := ⟨1, 0, 5, 0, 0⟩, port := none, vf := 0, writes := [(0xFFFF, 0xFF, 7)],
                           bytes := 1, mask := 1, order := some 1 }
def holding (st : DestState) (m : Msg) : State :=
  { dev0 with tlbs := [((ioPath 0).pool, [page false])], dests := [dest0 st], packets := [(9, { src := 1, dst := 0, msg := m })] }
theorem witness_destination : (holding .staging (.seal sealed0)).sealLive sealed0 = true ∧
    (holding .staging (.seal sealed0)).ioMissing 0 (writePages sealed0.writes) = none ∧
    (holding .staging (.seal sealed0)).sealWrites sealed0 = some [(0x2FFFF, 0xFF, 7)] ∧
    (holding .staging (.seal sealed0)).stagingUsed 0 + 1 ≤ ((holding .staging (.seal sealed0)).vf 0).staging.getD (2 ^ 21) ∧
    (holding .staging (.seal sealed0)).stagingTaken 0 + 1 ≤ 2 ^ 24 ∧
    (dest0 .held).publishing = false ∧ (dest0 .staging).rcvd = 8 ∧ ((dest0 .held).lines.map (·.line)).Nodup ∧
    (∀ l ∈ (dest0 .held).lines, l.line % 64 = 0) ∧ (holding .held (.publish eid0)).ctxs = [] ∧
    ((holding .held (.publish eid0)).packet 9).map (·.dst) = some (holding .held (.publish eid0)).fabxy := by decide +kernel

def taking (i : Instr) (a : Dword) (g : Ring) : State := (ported (req i a 0 0) false).onVf 0 fun v => { v with rings := [(5, g)] }
def ring1 : Ring := { ring0 with recs := [{ seq := 0, units := 1, first := 3, len := 4, state := .taken }], used := 1, next := 1 }
def take5 : Tri := { tri 3 4 0 with imm := 5 }
theorem witness_intake : (taking (.itake (hd 0) take5) 0 ring0).quiet 0 (req (.itake (hd 0) take5) 0 0 0) ∧
    (taking (.itake (hd 0) take5) 0 ring0).ring? 0 (ringOf take5) = some ring0 ∧
    (ring1.give 0x100003).isSome = true ∧ ring1.give 0x100002 = none :=
  ⟨⟨rfl, rfl, rfl, rfl, rfl, rfl, rfl, rfl, rfl, rfl, rfl, rfl, rfl, rfl, rfl⟩, by decide, by decide, by decide⟩
def packet0 (data : List Byte) (rud : Bool) : UetPacket :=
  { ring := 5, slot := 0, epoch := false, flow := 1, msg := 2, off := 0, data := data, total := 4, rud := rud, valid := true, ecn := false, ts := 0 }
/-- One ring of four units, and a key slot of the VF. -/
def listening (b : EthBody) : State := { framed b with
  keys := [(0, { owner := some 0, state := 1, tss := true })]
  vfs := (framed b).vfs.map fun v => (v.1, { v.2 with rings := [(5, { ring0 with base := 0x8000 })], macs := [(1, 0xABC)] }) }
def whole0 : UetPacket := packet0 [1, 2, 3, 4] false
def frame0 (port bytes : Nat) (b : EthBody) : EthFrame :=
  { port := port, lane := 0, bytes := bytes, ticks := 1, dest := 0xABC, secure := true, body := b }
theorem witness_frames : (listening .invalid).macOwner 1 0xABD = none ∧ (listening .invalid).macOwner 1 0xABC = some 0 ∧
    (listening (.uet whole0)).portTakes (frame0 9 9216 (.uet whole0)) = true ∧
    (listening (.uet whole0)).portTakes (frame0 9 9217 .invalid) = false ∧ (listening .invalid).portTakes (frame0 10 64 .invalid) = false ∧
    (listening (.uet whole0)).frame 3 = some (0, 1, .uet whole0) ∧ (listening (.uet whole0)).messages = [] ∧
    (0, (packet0 [] true).slot, (packet0 [] true).flow, (packet0 [] true).msg) ∈
      ({ listening .invalid with counted := [(0, 0, 1, 2)] } : State).counted ∧
    ({ listening .invalid with keys := [(0, { owner := some 0, state := 1 })] } : State).macsec 0 = some (0, false) := by decide
/-- A marked write and a congestion notification that pass MACsec, and a frame that does not. -/
theorem witness_roce : (listening .invalid).requestOk 0 (.write arming) = true ∧
    (listening .invalid).portTakes { frame0 9 64 (.write arming) with ecn := true } = true ∧
    (listening .invalid).portTakes { frame0 9 64 (.write arming) with secure := false } = true ∧
    (listening .invalid).portTakes (frame0 9 64 (.cnp 15)) = true := by decide
theorem witness_messages : ((listening (.uet whole0)).messageWith 0 1 whole0).whole = true ∧
    ((listening (.uet whole0)).messageWith 0 1 (packet0 [1] false)).whole = false ∧
    (listening (.uet whole0)).classify ((listening (.uet whole0)).messageWith 0 1 whole0) true =
      .accept { ring0 with base := 0x8000 } 1 ∧
    (listening (.uet whole0)).checkWrite 0 (({ ring0 with base := 0x8000 } : Ring).unitAddrs 0 1) = .ready ∧
    (listening (.uet whole0)).classify ((listening (.uet whole0)).messageWith 0 1 (packet0 [1] false)) false =
      .drop { ring0 with base := 0x8000 } 3 := by decide +kernel

/-- A link whose replay buffer holds two flits, the first of them replayed sixteen times. -/
def sent0 (seq replays : Nat) : Sent :=
  { seq := seq, ack := 7, epoch := 0, kind := 0, vc := 1, pkt := some { src := 0, dst := 1, msg := .done 0 0 }, replays := replays }
def link0 : Link := { up := true, tx := 6, rx := 2 ^ 32 - 1, keys := [(0, 3)], rxKeys := [(0, 3)], buffer := [sent0 4 16, sent0 5 0] }
def linked0 (l : Link) : State := { dev0 with links := [(0, l)], packets := [(9, { src := 0, dst := 1, msg := .done 0 0 })] }
/-- A flit of a kind, with the SEQ that the link expects next, and its ACK. -/
def flit0 (kind ack : Nat) (valid : Bool) : Flit :=
  { seq := 2 ^ 32 - 1, ack := ack, epoch := 0, kind := kind, vc := 2, valid := valid, pkt := some { src := 1, dst := 0, msg := .done 0 1 } }
theorem witness_fabric : ((linked0 link0).link 0).up = true ∧ (lookup? 0 link0.rxKeys).isSome = true ∧
    (flit0 0 0 true).valid = true ∧ (flit0 0 0 true).seq = link0.rx ∧ (flit0 0 0 false).valid = false ∧
    link0.nack = false ∧ ({ link0 with nack := true } : Link).nack = true ∧ link0.hasRoom 1 = true ∧
    ({ link0 with buffer := [sent0 5 0] } : Link).buffer = [sent0 5 0] ∧ ((flit0 2 4 true).ack + 1) % 2 ^ 32 = (sent0 5 0).seq ∧
    link0.buffer = [sent0 4 16] ++ sent0 5 0 :: [] ∧ (∀ y ∈ [sent0 4 16], y.seq ≠ 5) ∧ 16 ≤ (sent0 4 16).replays ∧
    ((linked0 {}).link 0).up = false ∧ (lookup? 0 (linked0 {}).links).isSome = true := by decide +kernel
/-- A request that waits for room; every flit may be replayed once more, or none. -/
theorem witness_asks : ({ link0 with asks := true, nack := true } : Link).asks = true ∧ link0.asks = false ∧
    (({ link0 with asks := true, nack := true } : Link).acked 0).hasRoom 1 = true ∧
    (∀ y ∈ sent0 5 0 :: [], y.replays < 16 ∧ (lookup? y.epoch link0.keys).isSome = true) ∧
    (∃ y ∈ sent0 5 16 :: [], 16 ≤ y.replays) := by
  refine ⟨rfl, rfl, by decide, by decide, ⟨_, List.mem_singleton.2 rfl, by decide⟩⟩
/-- A packet's only flit and the first of two; a flit under a held key out of its order; a replay buffer that is full. -/
theorem witness_flits : (flit0 0 0 true).part = link0.got ∧ (flit0 0 0 true).part + 1 = (flit0 0 0 true).parts ∧
    ({ flit0 0 0 true with parts := 2 } : Flit).part + 1 < 2 ∧ ({ flit0 0 0 true with seq := 0 } : Flit).seq ≠ link0.rx ∧
    (link0.acked 0).hasRoom 1 = true ∧ ({ link0 with count := 2 ^ 30 } : Link).hasRoom 1 = false ∧
    link0.hasRoom (flitsOf (.done 0 0)) = true := by decide
theorem witness_rotation : link0.next = none ∧ ({ link0 with next := some 7 } : Link).next = some 7 ∧
    (∃ port, port < 14 ∧ ({ dev0 with links := [(port, link0)] } : State).mayRoute { src := 0, dst := 1, msg := .done 0 0 } port = true) := by
  decide +kernel
/-- R395: a replay request for SEQ 5 sends the second flit alone again. -/
theorem test_replay : (got (exec (.replayRequest 0 5) (linked0 link0))).outbox.length = 1 ∧
    ((got (exec (.replayRequest 0 5) (linked0 link0))).link 0).buffer = [sent0 4 16, sent0 5 1] := by decide +kernel

def remote0 (kind : Nat) : RemoteReq :=
  { streams := [⟨1, 0, 5, 7, 8⟩], vf := 0, kind := kind, kindle := false, reads := if kind = 0 then [(0xFFFF, 1)] else [],
    writes := if kind = 1 then wholeWrites 0xFFFF [7] else [], terms := [], redop := 0, window := none }
def asked (kind : Nat) : State :=
  { dev0 with tlbs := [((ioPath 0).pool, [page false])], packets := [(9, { src := 1, dst := 0, msg := .remote (remote0 kind) })] }
theorem witness_remote : (asked 0).seen ⟨1, 0, 5, 7, 8⟩ = false ∧ (1 : Nat) ∉ ((asked 0).vf 0).streams ∧
    (asked 0).ioMissing 0 (remote0 0).pages = none ∧ (asked 0).ioViolation 0 (remote0 0).need (remote0 0).pages = none ∧
    (asked 1).ioMissing 0 (remote0 1).pages = none ∧ (asked 1).ioViolation 0 (remote0 1).need (remote0 1).pages = none ∧
    (∀ i, i < 1 → (asked 0).xlate (ioPath 0) 0 (0xFFFF + i) .read = .ok (0x2FFFF + i) false ∧
      (asked 1).xlate (ioPath 0) 0 (0xFFFF + i) .write = .ok (0x2FFFF + i) false) := by decide +kernel
theorem witness_remote_refused : ({ asked 1 with tlbs := [((ioPath 0).pool, [{ page false with bits := 0b000111 }])] } : State).ioMissing 0
      (remote0 1).pages = none ∧
    ({ asked 1 with tlbs := [((ioPath 0).pool, [{ page false with bits := 0b000111 }])] } : State).ioViolation 0 .write (remote0 1).pages =
      some (3, 0xFFFF / 65536 * 65536) := by decide +kernel

/-- A copy of one byte within the window of context 0. -/
def byteSide (base : Nat) : Side :=
  { space := 1, desc := some { line64 base with counts := [1] }, tile := 0, tctl := 0, exp := 0, base := base, len := 1 }
def job1 (beats : List Beat) : Job :=
  { id := 7, ctx := 0, vf := 0, addr := 0, card := List.replicate 128 0, src := byteSide 8191, dst := byteSide 0, seq := 0, level := false,
    bytes := 1, bb := none, sig := none, group := 0, beats := beats }
/-- A number that is performed; an answer, to a job that is frozen or not. -/
def answered0 (frozen : Bool) : State := { dev0 with
  jobs := [{ job1 [] with frozen := frozen }]
  packets := [(9, { src := 1, dst := 0, msg := .answer { stream := ⟨0, 0, 5, 7, 8⟩, data := [], error := 1, addr := 0 } })] }
theorem witness_answer : (answered0 true).job? 7 = some { job1 [] with frozen := true } ∧
    ((answered0 false).answerFor 7 8).map (fun y => (y.1, y.2.error)) = some (9, 1) ∧
    ({ asked 1 with seqIn := [(64, [⟨5, 1, 0xFFFF, []⟩])] } : State).seen ⟨1, 0, 5, 7, 8⟩ = true := by decide

/-! ## Witnesses: selector, array, control store, engines, context unit -/

/-- Context 0 may start a round of core 0. -/
theorem witness_round : s0.mayStartRound 0 = true ∧ 0 ∈ slotsOf 0 ∧ s0.isReady 0 = true ∧ (s0.ctx 0).id.vf = 0 := by decide +kernel
def arrayed (i : Instr) : State := at0 fun c => { c with mat := { queue := [{ id := 0, seq := 0, level := false, op := i, sig := none }] } }
theorem witness_array : ((arrayed (.mclr (hd 0) (tri 1 0 0))).ctx 0).mat.queue.map (·.op) = [.mclr (hd 0) (tri 1 0 0)] ∧
    ((arrayed (.mstat (hd 0) (tri 63 1 0))).ctx 0).mat.queue.map (·.op) = [.mstat (hd 0) (tri 63 1 0)] ∧
    (tri 63 1 0).d.toNat ≠ 0 ∧ (arrayed (.mclr (hd 0) (tri 1 0 0))).isServed 0
      { id := 0, seq := 0, level := false, op := .mclr (hd 0) (tri 1 0 0), sig := none } = true ∧
    (arrayed (.mclr (hd 0) (tri 1 0 0))).bad = [] ∧ ((arrayed (.mclr (hd 0) (tri 1 0 0))).ctx 0).mat.bad = [] ∧
    Ty.width (tctlType (tiled.tctl 1)) = 8 := by decide +kernel
/-- An op of context 1 issued before context 0's own. -/
def behind : State := (at0 fun c => { c with mat := { queue := [{ id := 0, seq := 0, level := false, op := .mclr (hd 0) (tri 1 0 0), sig := none, order := 4 }] } }).setCtx 1
  { ctx0 with mat := { queue := [{ id := 0, seq := 0, level := false, op := .mclr (hd 0) (tri 1 0 0), sig := none, order := 3 }] } }
theorem witness_array_order : 1 ∈ slotsOf (coreOf 0) ∧ (behind.ctx 1).mat.queue.map (·.order) = [3] ∧
    (behind.ctx 0).mat.queue.map (·.order) = [4] ∧ behind.isServed 1 { id := 0, seq := 0, level := false, op := .mclr (hd 0) (tri 1 0 0), sig := none, order := 3 } = true := by
  decide +kernel
/-- A load of an M op whose results are due after the bundle of a bound op that has started (R347). -/
def holding0 : Ctx := { ctx0 with
  mat := { queue := [{ id := 0, seq := 0, level := false, op := .mstat (hd 0) (tri 5 1 0), sig := none, due := 3, reads := [1] }] }
  routines := [{ opc := 0xC0, h := hd 0, f := tri 0 0 0, bind := bound1, seq := 0, slot := 1, pos := 0, sig := none, started := true }] }
theorem witness_holdsLoad : holding0.holdsLoad = true ∧ ctx0.holdsLoad = false ∧ (behind.ctx 1).holdsLoad = false := by decide
/-- A routine of one word, in a frame of the control store. -/
def routine1 (started : Bool) : Routine :=
  { opc := 0xC0, h := hd 0, f := tri 0 0 0, bind := { bound1 with words := 2, resident := true }, seq := 0, slot := 1, pos := 0, sig := none, started := started }
def frame1 : Frame := { vf := 0, key := 0, page := 0, bytes := List.replicate 64 0, needed := false }
def bound (rs : List Routine) (frames : List Frame) (fs : List Fetch) : State :=
  let s := at0 fun c => { c with routines := rs, binds := [(0xC0, { bound1 with image := 0xFFC0, words := 2 })] }
  s.onCore 0 fun k => { k with frames := frames, fetches := fs, sel := { k.sel with turns := [0] }, tlb := [page false] }
def fetch1 (started : Bool) : Fetch := { vf := 0, ctx := 0, opc := 0xC0, key := 0, page := 0, forHash := false, started := started }
theorem witness_routineStart : (bound [routine1 false] [frame1] []).startWait 0 (routine1 false) = .none ∧
    (routine1 false).refuse = none ∧ (routine1 false).bind.failed = false := by decide
theorem witness_microStep : (bound [routine1 true] [frame1] []).hasTurn 0 = true ∧
    (bound [routine1 true] [frame1] []).routineWait 0 = .none ∧ (routine1 true).micro.steps < (routine1 true).bind.steps ∧
    (bound [routine1 true] [frame1] []).stepBad 0 (routine1 true) ((bound [routine1 true] [frame1] []).word 0 (routine1 true)) = none ∧
    ((bound [routine1 true] [frame1] []).word 0 (routine1 true)).seq ≠ 9 := by decide +kernel
/-- A word with EXIT, one that is malformed, and a step past WORDS. -/
def frameOf (w : Nat) : Frame := { frame1 with bytes := natBytes 32 w ++ List.replicate 32 0 }
theorem witness_stepEnds : ((bound [routine1 true] [frameOf (9 * 2 ^ 132)] []).word 0 (routine1 true)).seq = 9 ∧
    (bound [routine1 true] [frameOf (9 * 2 ^ 132)] []).stepBad 0 (routine1 true)
      ((bound [routine1 true] [frameOf (9 * 2 ^ 132)] []).word 0 (routine1 true)) = none ∧
    (bound [routine1 true] [frameOf (2 ^ 157)] []).stepBad 0 (routine1 true)
      ((bound [routine1 true] [frameOf (2 ^ 157)] []).word 0 (routine1 true)) = some 1 ∧
    (bound [{ routine1 true with micro := { mpc := 2 } }] [frame1] []).routineWait 0 = .none ∧
    (bound [routine1 true] [frameOf (2 ^ 157)] []).routineWait 0 = .none ∧
    ((bound [routine1 true] [frame1] []).ctx 0).after = [] ∧ ((bound [routine1 true] [frame1] []).ctx 0).afterPost = [] := by
  decide +kernel
theorem witness_stepOver : (bound [{ routine1 true with micro := { steps := 1 } }] [] []).routineWait 0 = .none ∧
    (bound [{ routine1 true with micro := { steps := 1 } }] [] []).hasTurn 0 = true := by decide
def wanting (p : Bool) : Routine := { routine1 p with bind := { (routine1 p).bind with image := 0xFFC0 } }
theorem witness_courier_needs : (bound [wanting false] [] [fetch1 false]).nextFetch 0 0 = some (fetch1 false) ∧
    ((bound [wanting false] [] [fetch1 false]).ctx 0).needs (fetch1 false) = true := by decide +kernel
theorem witness_courier : (bound [] [] [fetch1 false]).nextFetch 0 0 = some (fetch1 false) ∧
    (0 : Nat) ∉ ((bound [] [] [fetch1 false]).core 0).frozen ∧
    ((bound [] [] [fetch1 false]).ctx 0).bindingOf 0 = some { bound1 with image := 0xFFC0, words := 2 } ∧
    ((bound [] [] [fetch1 false]).core 0).frame 0 0 = none ∧
    ((bound [] [] [fetch1 false]).trimFrames 0).frameRoom 0 (fetch1 false) = true := by decide +kernel
theorem witness_courierComplete :
    (bound [] [] [fetch1 true]).fetching 0 0 = some (fetch1 true, { bound1 with image := 0xFFC0, words := 2 }) ∧
    (bound [] [] [fetch1 true]).courierMissing 0 0 (fetchPages (fetch1 true) { bound1 with image := 0xFFC0, words := 2 }) = none ∧
    (bound [] [] [fetch1 true]).courierViolation 0 0 (fetchPages (fetch1 true) { bound1 with image := 0xFFC0, words := 2 }) = none ∧
    (bound [] [] [fetch1 true]).frameRoom 0 (fetch1 true) = true ∧ (bound [] [] [fetch1 true]).dests = [] ∧
    (bound [] [] [fetch1 true]).bad = [] ∧ lookup? 0 ({ bound1 with image := 0xFFC0, words := 2 } : Binding).tags = none := by decide +kernel

def copying (beats : List Beat) : State := { s0.setSpBytes 0 [(8191, 5)] with jobs := [job1 beats] }
def beat1 : Beat := { num := 0, bytes := [(8191, 5)] }
theorem witness_beatStart : (copying []).job? 7 = some (job1 []) ∧ (job1 []).beatList[0]? = some (0, 1) ∧
    (copying []).nextJob 0 = some (job1 []) ∧ (job1 []).nextBeat = some 0 := by decide +kernel
theorem witness_beatComplete : (job1 [beat1]).beatList[0]? = some (0, 1) ∧ (∀ a ∈ (job1 [beat1]).sourceBytes (0, 1), (lookup? a beat1.bytes).isSome = true) ∧
    (job1 [beat1]).beats.find? (fun y => y.num == 0) = some beat1 ∧ beat1.fault = none ∧ (copying [beat1]).startsFor 0 = true ∧
    (job1 [beat1]).copyWrites (0, 1) ((job1 [beat1]).carry (0, 1) beat1.bytes) [] 0 = [(0, 0xFF, 5)] := by decide +kernel
/-- A copy of one byte between device memory, at the end of the page that the engine's TLB holds, or tile 1, and the window. -/
def memSide : Side := { byteSide 0xFFFF with space := 0 }
def tileSide : Side := { space := 4, desc := none, tile := 1, tctl := shape 0 1 1, exp := 0, base := 0, len := 1 }
def copyOf (src dst : Side) (beats : List Beat) : Job := { job1 beats with src := src, dst := dst }
def copyingOf (src dst : Side) (beats : List Beat) : State :=
  { s0 with jobs := [copyOf src dst beats], tlbs := [(0, [page false])] }
theorem witness_memoryBeat : (copyOf memSide (byteSide 0) []).beatList[0]? = some (0, 1) ∧
    (copyingOf memSide (byteSide 0) []).nextJob 0 = some (copyOf memSide (byteSide 0) []) ∧
    (copyOf memSide (byteSide 0) []).nextBeat = some 0 ∧
    (∀ a ∈ (copyOf memSide (byteSide 0) []).sourceBytes (0, 1), (copyingOf memSide (byteSide 0) []).xlate
      (copyOf memSide (byteSide 0) []).path 0 a .read = .ok (a + 0x20000) false) ∧
    ((copyingOf memSide (byteSide 0) []).core (coreOf 0)).l1 = [] ∧ (copyingOf memSide (byteSide 0) []).bad = [] ∧
    (copyingOf memSide (byteSide 0) []).waiters = [] := by decide +kernel
theorem witness_memoryLands :
    let j := copyOf (byteSide 8191) memSide [beat1]
    let s := copyingOf (byteSide 8191) memSide [beat1]
    j.beatList[0]? = some (0, 1) ∧ j.copyWrites (0, 1) (j.carry (0, 1) beat1.bytes) [] s.free = [(0xFFFF, 0xFF, 5)] ∧ j.k.redop = 0 ∧
      j.landAddrs (0, 1) (j.carry (0, 1) beat1.bytes) [] = [0xFFFF] ∧ s.engineMissing j [0xFFFF] = none ∧
      s.xlate j.path 0 0xFFFF .write = .ok (0xFFFF + 0x20000) false := by decide +kernel
theorem witness_tileBeats :
    let j := copyOf tileSide (byteSide 0) []
    j.beatList[0]? = some (0, 1) ∧ (copyingOf tileSide (byteSide 0) []).nextJob 0 = some j ∧ j.nextBeat = some 0 ∧
      ((copyingOf tileSide (byteSide 0) []).ctx 0).mat.bad = [] ∧
      (copyOf (byteSide 8191) tileSide [beat1]).copyWrites (0, 1) ((copyOf (byteSide 8191) tileSide [beat1]).carry (0, 1) beat1.bytes) [] 0 =
        [(0, 0xFF, 5)] := by decide +kernel
/-- A step with tensors of 512 bytes, in the window or in device memory; its partition has one word. -/
def bytes512 (space base : Nat) : Side :=
  { space := space, desc := some { line64 base with counts := [512] }, tile := 0, tctl := 0, exp := 0, base := base, len := 512 }
def step0 : Step := { entry := 0, bound := 4, list := 0 }
def job2 (space : Nat) : Job :=
  { job1 [] with started := true, step := some step0, src := bytes512 space 0, dst := bytes512 space 1024 }
def stepping (space word : Nat) : State :=
  { (s0.onPart 0 fun p => { p with coll := (8, 1), lists := [(0, [0])] }) with
    jobs := [job2 space], coll := [(8, BitVec.ofNat 256 word)], tlbs := [((ioPath 0).pool, [page false])]
    packets := [(9, { src := 0, dst := 0, msg := .unit 0 0 (List.replicate 512 7) })] }
/-- A word that passes its input port to its output port, and one that passes a received unit to device 0 and exits. -/
def portWord : Nat := 5 * 2 ^ 70 + 5 * 2 ^ 97 + 2 ^ 48 + 2 ^ 49
def unitWord : Nat := 7 * 2 ^ 70 + 3 * 2 ^ 97 + 2 ^ 156 + 9 * 2 ^ 132
theorem witness_collective : ∀ space ∈ [0, 1],
    let s := stepping space portWord
    let w : MicroWord := BitVec.ofNat 256 portWord
    s.job? 7 = some (job2 space) ∧ s.stepReady (job2 space) = true ∧ s.collWord (job2 space) 0 = some w ∧
      s.collBad (job2 space) step0 w = none ∧ w.receives = [] ∧ w.sends = false ∧ w.seq ≠ 9 ∧
      s.mayLand (job2 space) ((job2 space).stepWrites step0 w) = true ∧
      s.engineMissing (job2 space) ((job2 space).stepReads step0 w ++ (job2 space).stepWrites step0 w) = none ∧
      (∀ a ∈ (job2 space).stepReads step0 w, s.xlate (job2 space).path 0 a .read = .ok (a + 0x20000) false) ∧
      (∀ a ∈ (job2 space).stepWrites step0 w, s.xlate (job2 space).path 0 a .write = .ok (a + 0x20000) false) ∧
      (∀ a ∈ (job2 space).stepWindow step0 w, s.spBad 0 a = false) ∧ w.dst.1 = 5 := by decide +kernel
theorem witness_collectiveUnits :
    let s := stepping 1 unitWord
    let w : MicroWord := BitVec.ofNat 256 unitWord
    s.collWord (job2 1) 0 = some w ∧ s.collBad (job2 1) step0 w = none ∧ w.receives.length = 1 ∧ (s.unitsFor 0 0).length = 1 ∧
      w.sends = true ∧ s.collDevice (job2 1) 0 w.sendTo = some (0, 0) ∧ s.reachable 0 = true ∧ w.seq = 9 ∧
      (job2 1).stepReads step0 w = [] ∧ (job2 1).stepWrites step0 w = [] := by decide +kernel
/-- A word that is malformed, a routine beyond its share, and one over its bound. -/
theorem witness_collectiveBad : (stepping 1 (2 ^ 157)).collBad (job2 1) step0 (BitVec.ofNat 256 (2 ^ 157)) = some 1 ∧
    (stepping 1 0).collWord (job2 1) 1 = none ∧ ({ step0 with micro := { steps := 4 } } : Step).bound ≤ 4 := by decide +kernel
/-- R364: the unit that a word receives leaves with its next word, and the step that exits is over. -/
theorem test_collectiveExit : let t := got (exec (.collectiveMicroStep 7) (stepping 1 unitWord))
    t.jobs = [] ∧ t.packets.map (fun p => p.2.msg) = [.unit 0 0 (List.replicate 512 7)] := by decide +kernel
def draining (kind : CtxKind) : State := at0 fun c => { c with life := { state := .draining }, id := { c.id with kind := kind } }
theorem witness_drained : (draining .ord).slotDrained 0 = true ∧ (draining .eval).slotDrained 0 = true ∧ (draining .ord).hearths = [] := by decide
/-- Context 0 has stopped for a save at address 0x80000, which the page table maps. -/
def stopped : State := dev0.setCtx 0 { ctx0 with life := { state := .stalled, stop := some 0x80000, stopping := true } }
theorem witness_save : stopped.hasStopped 0 = true ∧ stopped.areaMapped 0 0x80000 = true ∧ (stopped.core (coreOf 0)).l1 = [] ∧
    stopped.jobs = [] ∧ (0x80000 : Nat) % 4096 = 0 := by decide +kernel
def restore0 : RestoreCmd := { part := 0, old := 0, area := 0x80000, ctx := 4, semBase := 0, spBase := 4096, spBlk := 1 }
def saved0 (seq : Nat) : State :=
  { dev0.setCtx 0 { ctx0 with life := { state := .saved } } with saved := [(0, { area := 0x80000, seq := 3, tags := [] })], seqs := [(0, seq)] }
theorem witness_restore_bad : (saved0 4).restoreOk restore0 = true ∧ (saved0 4).areaMapped 0 0x80000 = true ∧
    (saved0 4).badBlock 0 { area := 0x80000, seq := 3, tags := [] } 0x80000 = some 0 := by decide +kernel
/-- A save area that holds its SAVESEQ, with block tags that fit its bytes, whatever the MAC. -/
def savedArea : State := (saved0 3).setBytes 0x80018 (natBytes 8 3)
def areaBytes (b : Nat) : List Byte := (savedArea.vfBytes 0 (0x80000 + 4096 * b) 4096).getD []
def goodSave : Saved :=
  { area := 0x80000, seq := 3
    tags := (List.range saveBlocks).map fun b => blockTag (Config.randomKey (savedArea.vf 0).saveKey) (areaBytes b) b (BitVec.ofNat 64 0x80000) 3 }
def saved1 : State := { savedArea with saved := [(0, goodSave)] }
theorem area_mapped : ∀ b ∈ List.range saveBlocks, (saved1.vfBytes 0 (0x80000 + 4096 * b) 4096).isSome = true := by decide +kernel
theorem witness_restore : saved1.restoreOk restore0 = true ∧ saved1.areaMapped 0 0x80000 = true ∧ (saved1.ctx 0).life.state = .saved ∧
    (saved1.ctx 0).quar = [] ∧ goodSave.pend = [] ∧ saved1.restoreWaits restore0 = false ∧ (saved0 4).restoreWaits restore0 = false ∧
    ({ saved1 with vfs := [] } : State).restoreWaits restore0 = true := by decide +kernel
theorem badBlock_none {s : State} {n area : Nat} {sv : Saved} (q : sv.seq = lookupD 0 n s.seqs)
    (r : (s.vfBytes (s.ctx n).id.vf (area + 0x18) 8).map natOfBytes = some (lookupD 0 n s.seqs))
    (h : ∀ b, b < saveBlocks → (s.vfBytes (s.ctx n).id.vf (area + 4096 * b) 4096).map (fun bs =>
      blockTag (Config.randomKey (s.vf (s.ctx n).id.vf).saveKey) bs b (BitVec.ofNat 64 area) (lookupD 0 n s.seqs)) = sv.tags[b]?) :
    s.badBlock n sv area = none := by
  unfold State.badBlock
  simp only
  rw [if_neg (by simp [q, r]), List.find?_eq_none]
  intro b hb
  simp [h b (by simpa using hb)]
theorem tag_of_some {o : Option (List Byte)} (k : BitVec 256) (b area seq : Nat) (h : o.isSome = true) :
    o.map (fun bs => blockTag k bs b (BitVec.ofNat 64 area) seq) = some (blockTag k (o.getD []) b (BitVec.ofNat 64 area) seq) := by
  cases o with
  | none => cases h
  | some x => rfl
theorem walkEntry_saved (s : State) (x : Assoc Saved) (p va l table : Nat) :
    ({ s with saved := x } : State).walkEntry p va l table = s.walkEntry p va l table := by
  delta State.walkEntry State.bytes State.ownsRange State.part
  with_reducible rfl
theorem walkFrom_saved (s : State) (x : Assoc Saved) (p va l table : Nat) :
    ({ s with saved := x } : State).walkFrom p va l table = s.walkFrom p va l table := by
  induction l generalizing table with
  | zero => simp only [State.walkFrom, walkEntry_saved]
  | succ l ih =>
    simp only [State.walkFrom, walkEntry_saved, ih]
    delta State.ownsRange State.part
    with_reducible rfl
theorem vfBytes_saved (s : State) (x : Assoc Saved) (vf a n : Nat) :
    ({ s with saved := x } : State).vfBytes vf a n = s.vfBytes vf a n := by
  simp only [State.vfBytes, State.mapped, State.walk, walkFrom_saved]
  delta State.bytes State.vf State.ownsRange State.part
  with_reducible rfl
theorem vf_saved (s : State) (x : Assoc Saved) (vf : Nat) : ({ s with saved := x } : State).vf vf = s.vf vf := rfl
theorem witness_restore_tags : saved1.badBlock 0 goodSave 0x80000 = none := by
  have u : (saved1.ctx 0).id.vf = 0 := by decide +kernel
  have z : lookupD 0 0 saved1.seqs = 3 := by decide +kernel
  refine badBlock_none (by decide +kernel) (by decide +kernel) fun b k => ?_
  have i := area_mapped b (List.mem_range.2 k)
  have y : saved1.vfBytes 0 (0x80000 + 4096 * b) 4096 = savedArea.vfBytes 0 (0x80000 + 4096 * b) 4096 :=
    vfBytes_saved savedArea _ _ _ _
  have v : saved1.vf 0 = savedArea.vf 0 := vf_saved savedArea _ _
  rw [y] at i
  rw [u, z, v, y]
  generalize hb : savedArea.vfBytes 0 (0x80000 + 4096 * b) 4096 = o at i ⊢
  have e : goodSave.tags[b]? = some (blockTag (Config.randomKey (savedArea.vf 0).saveKey) (areaBytes b) b
      (BitVec.ofNat 64 0x80000) 3) := by
    simp only [goodSave, List.getElem?_map, List.getElem?_range k, Option.map_some]
  rw [e, areaBytes, hb]
  exact tag_of_some _ _ _ _ i
/-! ## Uncorrectable errors -/

/-- A cause that an outcome has put on its way to the port of context 0. -/
def coming (o : Host.Outcome State Fault Refusal) : List Nat := ((got o).ctx 0).port.faults.map fun f => f.trap.cause.code
def broken (r : PortReq) : State := { ported r false with bad := [0x2FFFF, 0x20047] }
theorem witness_ecc_port : (broken amoReq).quiet 0 amoReq ∧ (broken amoReq).mapsTo 0 amoReq 0x2FFF8 false ∧
    (broken amoReq).isBad 0x2FFF8 amoReq.size = true ∧
    (broken (farReq (.ldf (hd 3) (dev 5)))).isBad 0x20040 (farReq (.ldf (hd 3) (dev 5))).size = true :=
  ⟨quiet_ported amoReq false ⟨rfl, rfl, rfl, rfl⟩, mapsTo_ported amoReq false (by decide), by decide, by decide⟩
/-- An atomic on such data faults with ECC, and so does a load; a store of the byte clears the error (R191, R202, R249). -/
theorem test_ecc_amo : coming (exec (.amoPerform 0 1) (broken amoReq)) = [0x18] := by decide +kernel
theorem test_ecc_load : coming (exec (.farLoadPerform 0 1 (List.range 64)) (broken (farReq (.ldf (hd 3) (dev 5))))) = [0x18] := by
  decide +kernel
theorem test_ecc_store :
    (got (exec (.farStorePerform 0 1 (List.range 64)) (broken (farReq (.stf (hd 3) (dev 5)))))).bad = [0x2FFFF] := by decide +kernel
/-- DueAccessesLand: lanes 0 and 1 of a scatter meet in one byte, and lane 1 stands. -/
theorem witness_store : ((owing (.store 16 2 0 [(0, 8, 0x0201), (1, 9, 0x0403)])).ctx 0).level.deferred =
      [⟨0, 0, 6, .store 16 2 0 [(0, 8, 0x0201), (1, 9, 0x0403)], none⟩] ∧
    (landed ((owing (.store 16 2 0 [(0, 8, 0x0201), (1, 9, 0x0403)])).landDue 0)).spBytes 0 8 3 = [1, 3, 4] := by decide +kernel
def brokenWindow (e : Effect) : State := (owing e).corruptAt (.scratch 0 ((ctx0.id.spBase) + 9))
theorem witness_ecc_window : (brokenWindow (.loadScalar 5 3 8)).spBad 0 9 = true ∧
    ((brokenWindow (.loadScalar 5 3 8)).ctx 0).level.deferred = [⟨0, 0, 6, .loadScalar 5 3 8, none⟩] ∧
    ((brokenWindow (.loadScalar 5 3 8)).ctx 0).mat.queue = [] := by decide
theorem test_ecc_window : (brokenWindow (.loadScalar 5 3 8)).landDue 0 = .broken ∧
    (landed ((brokenWindow (.store 0 2 0 [(0, 8, 0)])).landDue 0)).spBad 0 9 = false := by decide +kernel
def brokenCell : State := (arrayed (.mrdVector (hd 8) (tri 3 1 0))).corruptAt (.cell 0 1 0 63)
theorem witness_ecc_array : (brokenCell.ctx 0).life.state = .ready ∧
    (brokenCell.ctx 0).mat.queue.all (fun q => (brokenCell.ctx 0).mat.bad.any q.isRead && brokenCell.isServed 0 q) = true := by
  decide
theorem test_ecc_array : ((got (exec (.arrayOpPerform 0) brokenCell)).ctx 0).life.state = .draining := by decide +kernel

/-- EdgeLatchOps: a latch write due, and level 0 is the level that runs. -/
theorem witness_latch_due : let s := owing (.latch true [0x21]);
    (s.ctx 0).level.deferred = [⟨0, 0, 6, .latch true [0x21], none⟩] ∧ (0 : Nat) ≤ (s.ctx 0).level.count := by decide
/-- RegisterResultsLand: a vector result on the first and the last lane. -/
theorem witness_vector_due : let ws : List (Nat × Word × Word) := [(0, 0xFFFF, 7), (127, 0xFFFFFFFF, 9)];
    ((owing (.vector 3 ws 1)).ctx 0).level.deferred = [⟨0, 0, 6, .vector 3 ws 1, none⟩] ∧
    (0 : Nat) ≤ ((owing (.vector 3 ws 1)).ctx 0).level.count ∧ (∀ w ∈ ws, w.1 < 128) ∧ (ws.map (·.1)).Nodup := by decide

/-! ## Signatures (R470, R479) -/

/-- The key pair A of RFC 7027, A.2. -/
def pubA : List Byte :=
  bigList 48 0x68B665DD91C195800650CDD363C625F4E742E8134667B767B1B476793588F885AB698C852D4A6E77A252D6380FCAF068 ++
  bigList 48 0x55BC91A39C9EC01DEE36017B7D673A931236D2F1F5C83942D049E3FA20607493E0D038FF2FD30C2AB67D15C85F7FAA59
theorem test_curve : (Point.base.mul
    0x1E20F5E048A5886F1F157C74E91BDE2B98C8B52D58E5003D57053FC4B0BD65D6F15EB5D1EE1610DF870795143627D042).bytes = pubA := by
  decide +kernel
/-- A signature of SHA-384("abc") by that key under the nonce 7, calculated outside the model, and one of another hash. -/
def sigA : List Byte :=
  bigList 48 0x6460F955EFDCBF3BF7393081DDF04A64747781BC8956C1E5FF47BE522F7F758244AE054E91E8AA160C76DC7302BCF181 ++
  bigList 48 0x831966BE0E4045A6AD7407763E28243767698B086DFE04A2DCF45BC289169211F38DD271C6F533D82C8026C6EDE5A368
theorem test_ecdsa : ecdsaVerify pubA (sha384 [0x61, 0x62, 0x63]) sigA = true ∧ ecdsaVerify pubA (sha384 [0x61, 0x62]) sigA = false := by
  decide +kernel

/-! ## Residency -/

/-- A line of set 3 of slice 2. -/
def l2Line (way line : Nat) (rrpv : BitVec 2) (kept : Option Nat) : L2Line := ⟨2, 3, way, line, rrpv, kept⟩
/-- A full set of lines with RRPV 2, but RRPV 1 in way 0. -/
def l2Full : L2 := { lines := (List.range 16).map fun w => l2Line w (100 + w) (if w = 0 then 1 else 2) none }
/-- R208: Rev8 reverses the bits. -/
theorem test_rev8 : rev8 0 = 0 ∧ rev8 1 = 128 ∧ rev8 3 = 192 := by decide
/-- R209: without RRPV 3 every RRPV of the set rises by one; then the lowest way with RRPV 3 goes. -/
theorem test_l2_victim : (l2Full.put (l2Line 0 7 2 none)).lines.find? (fun x => x.way == 1) = some (l2Line 1 7 2 none) ∧
    (l2Full.put (l2Line 0 7 2 none)).lines.find? (fun x => x.way == 0) = some (l2Line 0 100 2 none) ∧
    (l2Full.put (l2Line 0 7 2 none)).lines.find? (fun x => x.way == 9) = some (l2Line 9 109 3 none) := by decide
/-- R208: a retained line takes its register's ways and replaces only lines retained for the register. -/
theorem test_l2_kept :
    let l := (({} : L2).reserve 8 2).put (l2Line 0 7 2 (some 8)) |>.put (l2Line 0 8 2 none) |>.put (l2Line 0 9 2 (some 8)) |>.put
      (l2Line 0 10 2 (some 8))
    (l.lines.map fun x => (x.way, x.line, x.kept)) = [(0, 10, some 8), (1, 9, some 8), (2, 8, none)] := by decide
/-- R209: `near` inserts with RRPV 0, `none` does not allocate. -/
theorem test_hints : hintRrpv 0 = some 2 ∧ hintRrpv 1 = some 0 ∧ hintRrpv 2 = some 3 ∧ hintRrpv 3 = none := by decide
/-- R207: a disabled register's lines become ordinary lines with RRPV 3. -/
theorem test_l2_release : ((((({} : L2).reserve 8 2).put (l2Line 0 7 0 (some 8))).release 8).lines) = [l2Line 0 7 3 none] := by decide

/-- A far load with the hint `none` (FN[7:6] = 3), and its state in a partition in HINT mode. -/
def bypass : PortReq := farReq (.ldf (hd 2) { dev 5 with fn := 0xE0 })
def hinted : State := { ported bypass false with parts := [(0, { hint := true })] }
theorem witness_bypass : hinted.quiet 0 bypass ∧ hinted.mapsTo 0 bypass 0x20040 false ∧ 2 ≤ ({ dev 5 with fn := 0xE0 } : MemF).scope ∧
    (hinted.part (partOf (hinted.ctx 0).id.vf)).hint = true ∧ ({ dev 5 with fn := 0xE0 } : MemF).fn.extractLsb' 6 2 = 3 ∧
    (∀ x ∈ hinted.l2.lines, x.line ≠ 0x20040 / 64) ∧ hinted.isBad 0x20040 bypass.size = false :=
  ⟨quiet_ported bypass false ⟨rfl, rfl, rfl, rfl⟩, mapsTo_ported bypass false (by decide), by decide, by decide, by decide, by decide,
    by decide⟩
/-- A `resv` of a partition in HINT mode and of one in RANGE mode. -/
theorem witness_resvModes : (({ s0 with parts := [(0, { hint := true })] } : State).part (partOf s0.cur.id.vf)).hint = true ∧
    (s0.part (partOf s0.cur.id.vf)).hint = false := by decide

end Sys2Proof.Tests
end

section
/-!
PROOFS. The loop unit's `loop` and the untyped S ops (R117, R123): the checks of one op, the loop levels of a context, and
what the op does once its guard is true.
-/
namespace Sys2Proof.Machine
open Sys2Proof

/-! ## The checks of one op, in their order (R90) -/

section
variable {cls : SlotClass} {i : Instr} {opc : BitVec 8} {h : Hdr} {p : Payload} {r : Row}

theorem guardBad_of_wholeOp (cls : SlotClass) (lane : Bool) (g : h.grd.getLsbD 5 = false) : guardBad cls lane h = false := by
  simp only [guardBad, g, Bool.false_and]

theorem typeBad_untyped (u : r.types = []) (k : r.typeOk = true) (t : h.ty = 0) : typeBad r h = false := by
  simp [typeBad, u, k, t]

/-- GUARD and TYPE are the first two reasons, so an op that passes both is refused for another reason or not at all. -/
theorem checkOp_past_type (o : i.op? = some (opc, h, p)) (e : i.row = some r) (g : guardBad cls r.lane h = false)
    (t : typeBad r h = false) : checkOp cls i ≠ some .guard ∧ checkOp cls i ≠ some .type := by
  simp only [checkOp, o, e, g, t, Bool.false_eq_true, if_false]
  split_ifs <;> decide

/-- FIELD comes right after GUARD and TYPE. -/
theorem checkOp_field (o : i.op? = some (opc, h, p)) (e : i.row = some r) (g : guardBad cls r.lane h = false)
    (t : typeBad r h = false) (f : r.fields = false) : checkOp cls i = some .field := by
  simp [checkOp, o, e, g, t, f]

/-- An op of no type whose FN or IMM44 breaks its row is refused with FIELD. -/
theorem checkOp_untyped_field (g : h.grd.getLsbD 5 = false) (t : h.ty = 0) (o : i.op? = some (opc, h, p))
    (e : i.row = some r) (u : r.types = []) (k : r.typeOk = true) (b : r.fields = false) : checkOp cls i = some .field :=
  checkOp_field o e (guardBad_of_wholeOp _ _ g) (typeBad_untyped u k t) b

end

/-- An END within the `loop`'s own bundle is refused with FIELD, whichever later check of the op fails too (R123). -/
theorem Ctx.checkWord_loopBad {w : Op} {h : Hdr} {f : Branch} {after : Nat} (e : parseOp w = some (.loop h f))
    (g : h.grd.getLsbD 5 = false) (t : h.ty = 0) (b : loopBad (.loop h f) after = true) (c : Ctx) (pos : Nat) :
    c.checkWord pos after w = .error (illop .field pos) := by
  obtain ⟨noGuard, noType⟩ : checkOp .s (.loop h f) ≠ some .guard ∧ checkOp .s (.loop h f) ≠ some .type :=
    checkOp_past_type rfl rfl (guardBad_of_wholeOp _ _ g) (typeBad_untyped rfl rfl t)
  have cls : (Instr.loop h f).freeClass = .s := rfl
  -- Of the match on `checkOp` only its last arm is left, by `noGuard` and `noType`.
  simp only [Ctx.checkWord, e, cls, if_pos b]

/-! ## The loop levels of a context (R123, R125) -/

@[simp] theorem Ctx.level_onLevel (c : Ctx) (f : Level → Level) : (c.onLevel f).level = f c.level := by
  unfold Ctx.onLevel Ctx.setLevel
  split <;> rename_i tl <;> simp [Ctx.level, tl]

@[simp] theorem Ctx.length_deactivateFrom (c : Ctx) (n : Nat) :
    (c.deactivateFrom n).level.loops.length = min 6 c.level.loops.length := by
  simp [Ctx.deactivateFrom]

theorem Ctx.loop_deactivateFrom {c : Ctx} {k : Nat} (len : c.level.loops.length = 6) (hk : k < 6) (n : Nat) :
    (c.deactivateFrom n).loop k = if n ≤ k then { c.loop k with active := false } else c.loop k := by
  simp [Ctx.deactivateFrom, Ctx.loop, len, hk, List.getD_eq_getElem?_getD]

theorem Ctx.loop_setLoop_same {c : Ctx} {n : Nat} (hn : n < c.level.loops.length) (l : LoopLevel) :
    (c.setLoop n l).loop n = l := by
  simp [Ctx.setLoop, Ctx.loop, hn, List.getD_eq_getElem?_getD]

theorem Ctx.loop_setLoop_other {n k : Nat} (ne : k ≠ n) (c : Ctx) (l : LoopLevel) : (c.setLoop n l).loop k = c.loop k := by
  simp [Ctx.setLoop, Ctx.loop, ne.symm, List.getD_eq_getElem?_getD]

@[simp] theorem State.signalNow_loop (s : State) (h : Hdr) (k : Nat) : (s.signalNow h).cur.loop k = s.cur.loop k := by
  simp only [Ctx.loop, State.signalNow_level]

/-! ## `loop` once its guard is true (R123) -/

@[simp] theorem State.transfer_cur (s : State) (a : Dword) : (s.transfer a).cur = s.cur := rfl
@[simp] theorem State.transfer_ts (s : State) (a : Dword) : (s.transfer a).iss.ts = some a := rfl

section
variable {h : Hdr} {f : Branch} {s : State}

/-- What a `loop` leaves of the state before it looks at its count: its signal is complete, and its level and every deeper
one are inactive. -/
def State.loopEntered (s : State) (h : Hdr) (n : Nat) : State := (s.signalNow h).onCur fun c => c.deactivateFrom n

theorem exec_loop_zero (g : guardTrue s.cur h = true) (z : loopCount s.cur f = 0) :
    exec (.loop h f) s = .next ((s.loopEntered h f.a.toNat).transfer (branchTarget s f + 16)) := by
  change Host.Outcome.next (s.guarded h _) = _
  rw [State.guarded_on g, if_pos z]
  rfl

theorem exec_loop_count (g : guardTrue s.cur h = true) (nz : loopCount s.cur f ≠ 0) :
    exec (.loop h f) s = .next ((s.loopEntered h f.a.toNat).onCur fun c => c.setLoop f.a.toNat
      { lc := loopCount s.cur f, start := s.iss.next, stop := branchTarget s f, active := true }) := by
  change Host.Outcome.next (s.guarded h _) = _
  rw [State.guarded_on g, if_neg nz]
  rfl

@[simp] theorem State.loopEntered_iss (n : Nat) : (s.loopEntered h n).iss = s.iss := by
  simp [State.loopEntered]

theorem State.loopEntered_length (len : s.cur.level.loops.length = 6) (n : Nat) :
    (s.loopEntered h n).cur.level.loops.length = 6 := by
  simp [State.loopEntered, len]

theorem State.loopEntered_loop {k : Nat} (len : s.cur.level.loops.length = 6) (hk : k < 6) (n : Nat) :
    (s.loopEntered h n).cur.loop k = if n ≤ k then { s.cur.loop k with active := false } else s.cur.loop k := by
  have len' : (s.signalNow h).cur.level.loops.length = 6 := by rw [State.signalNow_level, len]
  simp [State.loopEntered, Ctx.loop_deactivateFrom len' hk]

theorem State.loopEntered_inactive {n k : Nat} (len : s.cur.level.loops.length = 6) (hk : k < 6) (le : n ≤ k) :
    ((s.loopEntered h n).cur.loop k).active = false := by
  rw [State.loopEntered_loop len hk, if_pos le]

theorem State.loopEntered_outer {n k : Nat} (len : s.cur.level.loops.length = 6) (hn : n < 6) (lt : k < n) :
    (s.loopEntered h n).cur.loop k = s.cur.loop k := by
  rw [State.loopEntered_loop len (lt.trans hn), if_neg (Nat.not_le.2 lt)]

end

/-! ## The untyped S ops (R117) -/

/-- `o` stands for what `exec` answers, so that one lemma serves every op of the mould. -/
theorem untypedOp_on {s : State} {h : Hdr} {rd : BitVec 7} {v : Ctx → Dword} {o : Host.Outcome State Fault Refusal}
    (g : guardTrue s.cur h = true) (e : o = untypedOp h rd v s) : o = .next (s.timed h 1 (.scalar rd.toNat (v s.cur) 0)) := by
  rw [e, untypedOp, scalarOp, State.guarded_on g]

theorem bitFieldOk_false {f : Tri} (b : f.wid = 0 ∨ 64 < f.pos + f.wid) : Instr.row.bitFieldOk f = false := by
  change (f.wid != 0 && decide (f.pos + f.wid ≤ 64)) = false
  rcases b with b | b
  · simp [b]
  · simp [Nat.not_le.2 b]

theorem Tri.only_false_of_bit {f : Tri} {n k : Nat} (le : n ≤ k) (b : f.imm.getLsbD k = true) (m : BitVec 8) :
    f.only m n = false := by
  have big : 2 ^ n ≤ f.imm.toNat := (Nat.pow_le_pow_right (by omega) le).trans (Nat.ge_two_pow_of_testBit b)
  simp [Tri.only, Nat.not_lt.2 big]

end Sys2Proof.Machine

open Sys2Proof Sys2Proof.Machine

/-- Settles O15: a zero count and another take the two branches of `loop`, and both find its level and the deeper ones
deactivated; the refusal comes from the order of the checks. -/
theorem loopOp : Obligations.LoopOp := by
  refine ⟨fun h f c w pos after e g t le => Ctx.checkWord_loopBad e g t (decide_eq_true le) c pos, ?_⟩
  intro h f s g hn len count last
  have inner : ∀ k, f.a.toNat < k → k < 6 → ((s.loopEntered h f.a.toNat).cur.loop k).active = false :=
    fun k lt hk => State.loopEntered_inactive len hk lt.le
  have outer : ∀ k, k < f.a.toNat → (s.loopEntered h f.a.toNat).cur.loop k = s.cur.loop k :=
    fun k lt => State.loopEntered_outer len hn lt
  by_cases z : count = 0
  · exact ⟨_, exec_loop_zero g z, (absurd z ·), fun _ => ⟨rfl, State.loopEntered_inactive len hn le_rfl⟩, inner, outer⟩
  · refine ⟨_, exec_loop_count g z, fun _ => ⟨by simp, ?_⟩, (absurd · z), fun k lt hk => ?_, fun k lt => ?_⟩ <;>
      rw [State.cur_onCur]
    · exact Ctx.loop_setLoop_same (by rwa [State.loopEntered_length len]) _
    · rw [Ctx.loop_setLoop_other lt.ne']
      exact inner k lt hk
    · rw [Ctx.loop_setLoop_other lt.ne]
      exact outer k lt

/-- Settles O12: a bad bit field makes the row's FIELD check fail, and under a true guard each op is the one mould of R117. -/
theorem scalarUntypedResults : Obligations.ScalarUntypedResults := by
  refine ⟨fun h f g t => ⟨fun b => ?_, fun b => ?_⟩, ?_⟩
  · have bad := bitFieldOk_false b
    refine ⟨?_, ?_, ?_⟩ <;> exact checkOp_untyped_field g t rfl rfl rfl rfl (by simp [bad])
  · exact checkOp_untyped_field g t rfl rfl rfl rfl (by simp [Tri.only_false_of_bit le_rfl b])
  · intro h f k s g a b owes field w
    have addi := untypedOp_on g (execAddi.eq_def h f s)
    have li := untypedOp_on g (execLi.eq_def h k s)
    have lea := untypedOp_on g (execLea.eq_def h f s)
    have ext := untypedOp_on g (execExt.eq_def h f s)
    have exts := untypedOp_on g (execExts.eq_def h f s)
    have ins := untypedOp_on g (execIns.eq_def h f s)
    have clz := untypedOp_on g (execClz.eq_def h f s)
    have popc := untypedOp_on g (execPopc.eq_def h f s)
    have sel := untypedOp_on g (execSel.eq_def h f s)
    simp only [bne_iff_ne] at sel
    exact ⟨addi, li, lea, ext, exts, ins, clz, popc, sel⟩
end

section
/-!
PROOFS. The edge latches (R299 to R302): what a latch image is, what landing an entry without stores does to the matrix
array's state, and why a latch write that is due never waits.
-/
namespace Sys2Proof.Machine
open Sys2Proof

/-! ## A latch image -/

theorem length_groups {α : Type} (k n : Nat) (xs : List α) : (groups k n xs).length = n := by
  induction n generalizing xs with
  | zero => rfl
  | succ n ih => simp [groups, ih]

@[simp] theorem length_bytesLanes (n : Nat) (bs : List Byte) : (bytesLanes n bs).length = n := by
  simp [bytesLanes, length_groups]

/-- Storing under the numbers of a range is storing under consecutive keys. -/
theorem foldl_zip_range'_sparseSet {α : Type} [DecidableEq α] (d : α) (xs : List α) : ∀ (k : Nat) (l : List (Nat × α)),
    ((List.range' k xs.length).zip xs).foldl (fun l (i, x) => sparseSet d i x l) l = sparseSetList d k xs l := by
  induction xs with
  | nil => intro k l; rfl
  | cons x xs ih => intro k l; exact ih (k + 1) (sparseSet d k x l)

theorem latchOf_eq (bs : List Byte) : latchOf bs = sparseSetList 0 0 (bytesLanes 64 bs) [] := by
  rw [← foldl_zip_range'_sparseSet, length_bytesLanes, ← List.range_eq_range']
  rfl

/-- Every word of a latch is the image's: nothing of the latch's old content is left (R300). -/
theorem lookupD_latchOf (i : Nat) (bs : List Byte) : lookupD 0 i (latchOf bs) = (bytesLanes 64 bs).getD i 0 := by
  rw [latchOf_eq, lookupD_sparseSetList, length_bytesLanes]
  split
  · rfl
  next out =>
    rw [List.getD_eq_default _ _ (by rw [length_bytesLanes]; omega)]
    rfl

theorem fillImage_eq (d : BitVec 4) : fillImage d.toNat = List.replicate 256 (d ++ d) := by
  have twice : ∀ d : BitVec 4, BitVec.ofNat 8 (17 * d.toNat) = d ++ d := by decide
  rw [fillImage, twice]

/-! ## What landing leaves of the array's state -/

@[simp] theorem Ctx.mat_onLevel (c : Ctx) (f : Level → Level) : (c.onLevel f).mat = c.mat := by
  unfold Ctx.onLevel Ctx.setLevel
  split <;> rfl

@[simp] theorem Ctx.mat_completeSignal (c : Ctx) (k : Option Nat) : (c.completeSignal k).mat = c.mat := by
  cases k <;> rfl

@[simp] theorem Ctx.mat_applyFlags (c : Ctx) (e : Effect) : (c.applyFlags e).mat = c.mat := by
  cases e <;> rfl

theorem mem_of_mem_bySlot {d : Deferred} {ds : List Deferred} (m : d ∈ bySlot ds) : d ∈ ds := by
  obtain ⟨_, _, f⟩ := List.mem_flatMap.1 m
  exact List.mem_of_mem_filter f

theorem State.applyStore_none {d : Deferred} (e : d.eff.stores = []) (s : State) (n : Nat) (lvl : Bool) :
    s.applyStore n lvl d = s := by
  simp [State.applyStore, e]

theorem State.foldl_applyStore_none (s : State) (n : Nat) {ds : List Deferred} (e : ∀ d ∈ ds, d.eff.stores = []) :
    ds.foldl (fun s d => s.applyStore n (s.ctx n).trap.tl d) s = s := by
  induction ds with
  | nil => rfl
  | cons d ds ih =>
    rw [List.foldl_cons, State.applyStore_none (e d List.mem_cons_self)]
    exact ih fun x m => e x (List.mem_cons_of_mem d m)

/-- An entry without stores that lands alone changes the array's state by its register part only. -/
theorem State.mat_landEntries_single {e : Deferred} (ns : e.eff.stores = []) (s : State) (n : Nat) :
    ((s.landEntries n [e]).ctx n).mat = ((s.ctx n).applyWrite (s.readEffect n e.eff)).mat := by
  have one : sortKey (fun d : Deferred => 8 * d.seq + d.slot) [e] = [e] := rfl
  have none : ∀ d ∈ bySlot [e], d.eff.stores = [] := fun d m => List.mem_singleton.1 (mem_of_mem_bySlot m) ▸ ns
  simp [State.landEntries, one, State.foldl_applyStore_none _ _ none, State.onCtx_eq]

/-! ## A latch write that is due lands (R32) -/

/-- By its results an op of the array writes S and V registers alone. -/
theorem Instr.arrayDests_file {i : Instr} {k : Nat × Nat} (m : k ∈ i.arrayDests) : k.1 = 0 ∨ k.1 = 3 := by
  unfold Instr.arrayDests at m
  split at m <;> grind

theorem Ctx.arrayTargets_file {c : Ctx} {k : Nat × Nat} (m : k ∈ c.arrayTargets) : k.1 = 0 ∨ k.1 = 3 := by
  obtain ⟨q, _, m⟩ := List.mem_flatMap.1 m
  exact Instr.arrayDests_file m

theorem Ctx.awaitsResult_latch {e : Deferred} {b : Bool} {bs : List Byte} (eff : e.eff = .latch b bs) (c : Ctx) :
    c.awaitsResult e = false := by
  have free : (if b then 5 else 4, 0) ∉ c.arrayTargets := fun m => by
    have file := Ctx.arrayTargets_file m
    cases b <;> simp at file
  simp [Ctx.awaitsResult, eff, Effect.target, free]

theorem State.landDue_latch {s : State} {n : Nat} {e : Deferred} {b : Bool} {bs : List Byte}
    (only : (s.ctx n).level.deferred = [e]) (due : e.due ≤ (s.ctx n).level.count) (eff : e.eff = .latch b bs) :
    s.landDue n = .landed ((s.onCtx n fun c => c.onLevel fun l =>
      { l with deferred := l.deferred.filter fun d => l.count < d.due }).landEntries n [e]) := by
  have now : (s.ctx n).dueNow = [e] := by simp [Ctx.dueNow, only, due]
  have arrived : (s.ctx n).dataArrived e = true := by simp [Ctx.dataArrived, eff]
  have tile : (s.ctx n).awaitsTile e = false := by simp [Ctx.awaitsTile, eff, Effect.reads]
  have array : (s.ctx n).awaitsArray e = false := by simp [Ctx.awaitsArray, eff]
  have good : s.readsBad n e = false := by simp [State.readsBad, eff, Effect.reads]
  simp [State.landDue, now, arrived, tile, array, Ctx.awaitsResult_latch eff, good]

/-- A latch write that is due alone lands, and its latch alone takes the image. -/
theorem State.landDue_latch_mat {s : State} {n : Nat} {e : Deferred} {b : Bool} {bs : List Byte}
    (only : (s.ctx n).level.deferred = [e]) (due : e.due ≤ (s.ctx n).level.count) (eff : e.eff = .latch b bs) :
    ∃ t, s.landDue n = .landed t ∧ (t.ctx n).mat =
      if b then { (s.ctx n).mat with latchB := latchOf bs } else { (s.ctx n).mat with latchA := latchOf bs } := by
  have stores : e.eff.stores = [] := by rw [eff]; rfl
  refine ⟨_, State.landDue_latch only due eff, ?_⟩
  rw [State.mat_landEntries_single stores, eff]
  cases b <;> simp [State.readEffect, Ctx.applyWrite, State.onCtx_eq]

/-! ## The latch ops at issue -/

theorem exec_xfill {h : Hdr} {s : State} (g : guardTrue s.cur h = true) (f : Tri) :
    let d := f.imm.extractLsb' 0 4
    let delta : List Byte := List.replicate 256 (d ++ d)
    exec (.xfill h f) s = .next (if f.fn.getLsbD 0 && f.fn.getLsbD 1
      then (s.defer 2 (.latch false delta) none).timed h 2 (.latch true delta)
      else s.timed h 2 (.latch (f.fn.getLsbD 1) delta)) := by
  change execXfill h f s = _
  rw [execXfill, State.guarded_on g, fillImage_eq]

end Sys2Proof.Machine

open Sys2Proof Sys2Proof.Machine

/-- Settles O23: a latch write that is due waits for nothing and its image holds all 64 words of the latch; under a true guard
each op owes its one result, and `xfill` of both latches two. -/
theorem edgeLatchOps : Obligations.EdgeLatchOps := by
  refine ⟨fun s n e b bs only due _ eff => ?_, fun h f s g => ?_⟩
  · obtain ⟨t, landed, mat⟩ := State.landDue_latch_mat only due eff
    refine ⟨t, landed, ?_⟩
    cases b <;> simp only [mat, Bool.false_eq_true, if_false, if_true, lookupD_latchOf, implies_true, and_self]
  · intro image d delta
    have xseta : exec (.xseta h f) s = _ := congrArg Host.Outcome.next (State.guarded_on g _)
    have xsetb : exec (.xsetb h f) s = _ := congrArg Host.Outcome.next (State.guarded_on g _)
    have xrd : exec (.xrd h f) s = _ := congrArg Host.Outcome.next (State.guarded_on g _)
    refine ⟨xseta, xsetb, fun a b => ?_, fun a b => ?_, fun a b => ?_, xrd⟩ <;>
      simp only [exec_xfill g, a, b, Bool.and_true, Bool.and_false, if_true, Bool.false_eq_true, if_false] <;> rfl
end

section
/-!
PROOFS. Delivery of a cause (R433): what entering the handler sets and leaves, that landing at level 1 leaves what level 0 is
owed, and that a context that ends is draining and mute whatever its end does to the rest of the device.
-/
namespace Sys2Proof.Machine
open Sys2Proof

@[simp] theorem State.ctx_onCtx_same (s : State) (n : Nat) (f : Ctx → Ctx) : (s.onCtx n f).ctx n = f (s.ctx n) := by
  rw [State.onCtx_eq, State.ctx_setCtx, if_pos rfl]

/-! ## Entering the handler (R433) -/

@[simp] theorem State.ctx_settleRound (s : State) (core m : Nat) : (s.settleRound core).ctx m = s.ctx m := by
  unfold State.settleRound
  split <;> rfl

@[simp] theorem State.byte_settleRound (s : State) (core a : Nat) : (s.settleRound core).byte a = s.byte a := by
  unfold State.settleRound
  split <;> rfl

section
variable {s : State} {n : Nat} {x : Trapped} (h : x.cause.isFatal = false) (tl : (s.ctx n).trap.tl = false)
  (hd : (s.ctx n).trap.handler ≠ 0) (pc : Dword)
include h tl hd

theorem State.takeTrap_handler : s.takeTrap n x pc = ((s.beforeReady n).setCtx n { (s.ctx n).enterHandler x pc with
    life := { (s.ctx n).life with state := .ready, wait := .none, fetchFault := none } }).testStop n := by
  simp only [State.takeTrap, h, tl, hd, Bool.false_eq_true, if_false]

/-- What `enterHandler` says of the context holds after delivery; beyond it only the life of the slot and the test-point count
change, since the handler's entry is a test point (R127). -/
theorem State.ctx_takeTrap_handler : (s.takeTrap n x pc).ctx n =
    { (s.ctx n).enterHandler x pc with
      life := ((s.takeTrap n x pc).ctx n).life, ctl := { (s.ctx n).ctl with sinceTest := 0 } } := by
  rw [State.takeTrap_handler h tl hd, State.testStop, State.ctx_onCtx_same, State.ctx_setCtx, if_pos rfl]
  rfl

theorem State.ctx_takeTrap_handler_other {m : Nat} (ne : m ≠ n) : (s.takeTrap n x pc).ctx m = s.ctx m := by
  simp [State.takeTrap_handler h tl hd, State.testStop, State.onCtx_eq, State.beforeReady, ne]

theorem State.byte_takeTrap_handler (a : Nat) : (s.takeTrap n x pc).byte a = s.byte a := by
  simp [State.takeTrap_handler h tl hd, State.testStop, State.onCtx_eq, State.beforeReady]

end

/-! ## Loop counters (Table 4.2) -/

theorem State.readControl_loop {k : Nat} (hk : k < 6) (s : State) (n : Nat) :
    s.readControl n (0x40 + k) = ((s.ctx n).loop k).lc := by
  interval_cases k <;> rfl

theorem Ctx.loop_of_freshLevel {c : Ctx} (e : c.level = {}) (k : Nat) : c.loop k = {} := by
  rw [Ctx.loop, e]
  simp only [List.getD_eq_getElem?_getD, List.getElem?_replicate]
  split <;> rfl

/-! ## Landing at level 1 (R32, R433) -/

/-- The context runs at level 1, and `l` is what belongs to its level 0. -/
def Ctx.AtHandler (l : Level) (c : Ctx) : Prop := c.trap.tl = true ∧ c.lv0 = l

section
variable {l : Level} {c : Ctx}

theorem Ctx.AtHandler.of_eq {d : Ctx} (h : c.AtHandler l) (tl : d.trap.tl = c.trap.tl) (lv0 : d.lv0 = c.lv0) :
    d.AtHandler l :=
  ⟨tl.trans h.1, lv0.trans h.2⟩

theorem Ctx.AtHandler.foldl {α : Type} {f : Ctx → α → Ctx} (keep : ∀ c, c.AtHandler l → ∀ a, (f c a).AtHandler l)
    (h : c.AtHandler l) (as : List α) : (as.foldl f c).AtHandler l :=
  List.foldlRecOn as f h fun c h a _ => keep c h a

theorem Ctx.AtHandler.onLevel (h : c.AtHandler l) (f : Level → Level) : (c.onLevel f).AtHandler l := by
  obtain ⟨tl, lv0⟩ := h
  simp [Ctx.AtHandler, Ctx.onLevel, Ctx.setLevel, tl, lv0]

theorem Ctx.AtHandler.setS (h : c.AtHandler l) (n : Nat) (v : Dword) : (c.setS n v).AtHandler l := by
  unfold Ctx.setS
  split <;> exact h

theorem Ctx.AtHandler.setP (h : c.AtHandler l) (n : Nat) (b : Bool) : (c.setP n b).AtHandler l := by
  unfold Ctx.setP
  split <;> exact h

theorem Ctx.AtHandler.setQ (h : c.AtHandler l) (n : Nat) (m v : BitVec 128) : (c.setQ n m v).AtHandler l := by
  unfold Ctx.setQ
  split <;> exact h

theorem Ctx.AtHandler.setLanes (h : c.AtHandler l) (n : Nat) (ws : List LaneWrite) : (c.setLanes n ws).AtHandler l := by
  refine Ctx.AtHandler.foldl (fun c h w => ?_) h ws
  exact h.of_eq rfl rfl

theorem Ctx.AtHandler.setTileBytes (h : c.AtHandler l) (t : Nat) (ws : List (Nat × Byte)) :
    (c.setTileBytes t ws).AtHandler l := by
  refine Ctx.AtHandler.foldl (fun c h w => ?_) h ws
  exact h.of_eq rfl rfl

/-- Of the control registers only the loop counters belong to a level, and they are those of the running one. -/
theorem Ctx.AtHandler.writeControl (h : c.AtHandler l) (num : Nat) (v : Dword) : (c.writeControl num v).AtHandler l := by
  unfold Ctx.writeControl
  split
  case h_12 =>
    split
    · exact h.onLevel _
    · exact h
  all_goals exact h.of_eq rfl rfl

theorem Ctx.AtHandler.writeLanding (h : c.AtHandler l) (d : Landing) : (c.writeLanding d).AtHandler l := by
  have words : (d.words.foldl (fun c (r, v) => c.setS r v) c).AtHandler l :=
    Ctx.AtHandler.foldl (fun _ h _ => h.setS _ _) h d.words
  unfold Ctx.writeLanding
  split
  · exact words
  · exact words.setLanes _ _

theorem Ctx.AtHandler.applyWrite (h : c.AtHandler l) (e : Effect) : (c.applyWrite e).AtHandler l := by
  cases e with
  | scalar => exact h.setS _ _
  | half => exact h.setS _ _
  | pred => exact h.setP _ _
  | lanePred => exact h.setQ _ _ _
  | vector => exact h.setLanes _ _
  | control => exact h.writeControl _ _
  | tileBytes => exact h.setTileBytes _ _
  | latch =>
    simp only [Ctx.applyWrite]
    split <;> exact h.of_eq rfl rfl
  | landing =>
    simp only [Ctx.applyWrite]
    split
    · exact h.writeLanding _
    · exact h
  | tctl | descriptor | damage | store | loadScalar | loadLanes => exact h.of_eq rfl rfl

theorem Ctx.AtHandler.applyFlags (h : c.AtHandler l) (e : Effect) : (c.applyFlags e).AtHandler l := by
  cases e <;> exact h

theorem Ctx.AtHandler.completeSignal (h : c.AtHandler l) (k : Option Nat) : (c.completeSignal k).AtHandler l := by
  cases k <;> exact h

end

@[simp] theorem State.ctx_setSpBytes (s : State) (n : Nat) (ws : List (Nat × Byte)) (m : Nat) :
    (s.setSpBytes n ws).ctx m = s.ctx m :=
  List.foldlRecOn (motive := fun t : State => t.ctx m = s.ctx m) ws _ rfl fun _ e _ _ => e

section
variable {l : Level} {s : State} {n : Nat}

theorem State.onCtx_atHandler {f : Ctx → Ctx} (h : (f (s.ctx n)).AtHandler l) : ((s.onCtx n f).ctx n).AtHandler l := by
  rwa [State.ctx_onCtx_same]

theorem State.applyStore_atHandler (h : (s.ctx n).AtHandler l) (lvl : Bool) (d : Deferred) :
    ((s.applyStore n lvl d).ctx n).AtHandler l := by
  unfold State.applyStore
  split
  · exact h
  · refine State.onCtx_atHandler ?_
    rw [State.ctx_setSpBytes]
    exact h

theorem State.foldl_applyStore_atHandler (h : (s.ctx n).AtHandler l) (ds : List Deferred) :
    ((ds.foldl (fun s d => s.applyStore n (s.ctx n).trap.tl d) s).ctx n).AtHandler l :=
  List.foldlRecOn (motive := fun t : State => (t.ctx n).AtHandler l) ds _ h
    fun _ h _ _ => State.applyStore_atHandler h _ _

/-- The five stages of a landing each keep level 0. -/
theorem State.landEntries_atHandler (h : (s.ctx n).AtHandler l) (ds : List Deferred) :
    ((s.landEntries n ds).ctx n).AtHandler l := by
  simp only [State.landEntries]
  refine State.onCtx_atHandler (Ctx.AtHandler.foldl (fun _ h _ => h.completeSignal _) ?_ _)
  refine State.onCtx_atHandler (Ctx.AtHandler.foldl (fun _ h _ => h.applyFlags _) ?_ _)
  refine State.foldl_applyStore_atHandler ?_ _
  refine State.onCtx_atHandler (Ctx.AtHandler.onLevel ?_ _)
  exact State.onCtx_atHandler (Ctx.AtHandler.foldl (fun _ h _ => h.applyWrite _) h _)

theorem State.landDue_atHandler {t : State} (h : (s.ctx n).AtHandler l) (landed : s.landDue n = .landed t) :
    (t.ctx n).AtHandler l := by
  simp only [State.landDue] at landed
  split_ifs at landed
  cases landed
  exact State.landEntries_atHandler (State.onCtx_atHandler (h.onLevel _)) _

end

/-! ## What the end of a context leaves of the life of every context -/

theorem State.life_onCtx {f : Ctx → Ctx} (keep : ∀ c, (f c).life = c.life) (s : State) (n m : Nat) :
    ((s.onCtx n f).ctx m).life = (s.ctx m).life := by
  rw [State.onCtx_eq, State.ctx_setCtx]
  split
  next e => rw [keep, e]
  next => rfl

theorem Ctx.life_acquiredBy (c : Ctx) (r : PortReq) (emb : Bool) : (c.acquiredBy r emb).life = c.life := by
  rw [Ctx.acquiredBy]
  exact (apply_ite Ctx.life _ _ _).trans (ite_self _)

section
variable (s : State) (n m : Nat)

theorem State.life_portFault (id : Nat) (t : Trapped) : ((s.portFault n id t).ctx m).life = (s.ctx m).life := by
  refine State.life_onCtx (fun c => ?_) s n m
  split <;> rfl

theorem State.life_settleLoad (id : Nat) : ((s.settleLoad n id).ctx m).life = (s.ctx m).life := by
  unfold State.settleLoad
  split
  · rfl
  · dsimp only
    split <;> split
    · exact State.life_portFault _ n m id _
    · rfl
    · refine State.life_onCtx (fun c => ?_) s n m
      exact Ctx.life_acquiredBy _ _ _
    · rfl

theorem State.life_answer (w : EmbWaiter) (r : Except Trapped (List Byte)) :
    ((s.answer w r).ctx m).life = (s.ctx m).life := by
  unfold State.answer
  split
  · rw [State.life_settleLoad]
    exact State.life_onCtx (by intro c; rfl) s _ m
  · rfl
  · rfl

theorem State.life_answerAll (cell : Nat) (r : Nat → Except Trapped (List Byte)) :
    ((s.answerAll cell r).ctx m).life = (s.ctx m).life :=
  List.foldlRecOn (motive := fun t : State => (t.ctx m).life = (s.ctx m).life) _ _ rfl
    fun _ e _ _ => (State.life_answer _ m _ _).trans e

theorem State.ctx_setCause (cell cause : Nat) : (s.setCause cell cause).ctx m = s.ctx m := State.ctx_setBytes ..

theorem State.life_failCell (cell cause : Nat) : ((s.failCell cell cause).ctx m).life = (s.ctx m).life := by
  rw [State.failCell, State.life_answerAll]
  change (((s.setTag cell 3).setCause cell cause).ctx m).life = _
  rw [State.ctx_setCause]
  rfl

theorem State.life_abandonDone : ((s.abandonDone n).ctx m).life = (s.ctx m).life := by
  simp only [State.abandonDone, State.abandon]
  split
  · rfl
  · split
    · exact State.life_failCell s m _ _
    · rfl

@[simp] theorem State.ctx_leaveTurn : (s.leaveTurn n).ctx m = s.ctx m := State.ctx_settleRound _ _ m

end

/-! ## The end of a context (R22) -/

/-- A context's life ends in one update of the context, and what follows that update takes it off the device's lists. -/
theorem State.endContext_eq (s : State) (n : Nat) (mute : Bool) : ∃ (u : State) (f : Ctx → Ctx),
    (∀ c, (f c).life.state = .draining ∧ (f c).life.mute = mute) ∧
      s.endContext n mute = ((((u.onCtx n f).withdraw n).leaveSets n).abandonDone n).leaveTurn n :=
  ⟨_, _, fun _ => ⟨rfl, rfl⟩, rfl⟩

theorem State.endContext_life (s : State) (n : Nat) (mute : Bool) :
    ((s.endContext n mute).ctx n).life.state = .draining ∧ ((s.endContext n mute).ctx n).life.mute = mute := by
  obtain ⟨u, f, ended, e⟩ := State.endContext_eq s n mute
  rw [e, State.ctx_leaveTurn, State.life_abandonDone]
  change ((u.onCtx n f).ctx n).life.state = _ ∧ ((u.onCtx n f).ctx n).life.mute = _
  rw [State.ctx_onCtx_same]
  exact ended _

theorem State.retireFatal_life (s : State) (n : Nat) (t : Trapped) (pc : Dword) (extra : Nat) (tail : List Byte) :
    ((s.retireFatal n t pc extra tail).ctx n).life.state = .draining ∧
      ((s.retireFatal n t pc extra tail).ctx n).life.mute = true := by
  rw [State.retireFatal]
  exact State.endContext_life _ n true

/-- Without a handler that may be entered, each branch of `takeTrap` is a retirement by a fatal fault. -/
theorem State.takeTrap_retires {s : State} {n : Nat} {x : Trapped}
    (h : x.cause.isFatal = true ∨ (s.ctx n).trap.tl = true ∨ (s.ctx n).trap.handler = 0) (pc : Dword) :
    ∃ y extra, s.takeTrap n x pc = s.retireFatal n y pc extra := by
  simp only [State.takeTrap]
  split_ifs with fatal tl handler
  · exact ⟨_, _, rfl⟩
  · exact ⟨_, _, rfl⟩
  · exact ⟨_, _, rfl⟩
  · simp only [fatal, tl, handler, Bool.false_eq_true, or_self] at h

end Sys2Proof.Machine

open Sys2Proof Sys2Proof.Machine

/-- Settles O32: entering the handler replaces only the trap state, level 1 and the next address; every other cause is a
retirement; and each stage of a landing at level 1 keeps level 0. -/
theorem trapDelivery : Obligations.TrapDelivery := by
  refine ⟨fun s n x pc h tl hd => ?_, fun s n x pc ends => ?_, fun s t n tl landed => ?_⟩
  · intro t
    have e : t.ctx n = _ := State.ctx_takeTrap_handler h tl hd pc
    have others : ∀ m, m ≠ n → t.ctx m = s.ctx m := fun m ne => State.ctx_takeTrap_handler_other h tl hd pc ne
    have loops : ∀ k, k < 6 → t.readControl n (0x40 + k) = 0 := fun k hk => by
      have fresh : (t.ctx n).level = {} := by rw [e]; rfl
      rw [State.readControl_loop hk, Ctx.loop_of_freshLevel fresh]
    have regs : s.sameRegs t := fun m => by
      by_cases m_n : m = n
      · rw [m_n, e]; rfl
      · rw [others m m_n]
    have memory : s.sameMemory t := State.byte_takeTrap_handler h tl hd pc
    rw [e]
    exact ⟨rfl, rfl, rfl, rfl, rfl, rfl, rfl, rfl, loops, rfl, rfl, regs, memory, others⟩
  · obtain ⟨y, extra, e⟩ := State.takeTrap_retires ends pc
    rw [e]
    exact State.retireFatal_life s n y pc extra []
  · exact State.landDue_atHandler ⟨tl, rfl⟩ landed
end

section
/-!
PROOFS. The memory after reset (R478): a memory that lists no byte is in canonical form.
-/
namespace Sys2Proof.Machine
open Sys2Proof

/-- A store that lists no key is in canonical form, whatever its unlisted keys read as. -/
@[simp] theorem sparseWf_nil {α : Type} [DecidableEq α] (d : α) : sparseWf d [] = true := rfl

@[simp] theorem State.mem_reset : State.reset.mem = [] := rfl

theorem State.memOk_of_mem_nil {s : State} (h : s.mem = []) : s.MemOk := by
  rw [State.MemOk, h]
  exact sparseWf_nil 0

end Sys2Proof.Machine

open Sys2Proof Sys2Proof.Machine

/-- Settles O2: the reset state lists no byte of memory, and a store without pairs is in canonical form. -/
theorem resetMemoryForm : Obligations.ResetMemoryForm := State.memOk_of_mem_nil State.mem_reset
end

section
/-!
PROOFS. Encoding and decoding agree: a word whose opcode byte, header and payload fields are those of an op whose form bits
stand as its constructor says decodes to that op.
-/
namespace Sys2Proof.Laws
open Sys2Proof

/-- No major opcode of the fixed quarters reaches 0xC0, so a bound opcode falls through every row of the table. -/
theorem parseOp_bound {w : Op} (h : 0xC0 ≤ (w.extractLsb' 0 8).toNat) :
    parseOp w = some (.boundOp (w.extractLsb' 0 8) (Hdr.unpack w) (Tri.unpack w)) := by
  unfold parseOp
  split
  case h_147 => exact if_pos h
  all_goals omega

/-- `parseOp` inverts the opcode table of `op?`: each opcode selects its constructor, and where two share one the form bit does. -/
theorem parseOp_of_fields {i : Instr} {opc : BitVec 8} {h : Hdr} {p : Payload} {w : Op} (o : i.op? = some (opc, h, p))
    (form : i.formOk = true) (opcode : w.extractLsb' 0 8 = opc) (header : Hdr.unpack w = h)
    (payload : Fields.reread w p = p) : parseOp w = some i := by
  subst header
  cases i
  case boundOp =>
    cases o
    cases payload
    rw [parseOp_bound (by rw [opcode]; exact of_decide_eq_true form), opcode]
  case exts | callIndirect | vmovsInsert | mrdVector =>
    cases o
    cases payload
    rw [parseOp, opcode]
    exact congrArg some (if_pos form)
  case ext | call | vmovsExtract | mrdTile =>
    cases o
    cases payload
    rw [parseOp, opcode]
    exact congrArg some (if_neg (by simpa [Instr.formOk] using form))
  -- An event has no opcode, so `o` leaves the ops alone.
  all_goals cases o
  all_goals
    cases payload
    rw [parseOp, opcode]
    rfl

end Sys2Proof.Laws

open Sys2Proof

/-- Settles O4: every field of an encoded op reads back, and the fields with the form bits select the constructor. -/
theorem encodingRoundTrip : Obligations.EncodingRoundTrip := by
  intro i op wf
  obtain ⟨⟨opc, h, p⟩, o⟩ := Option.isSome_iff_exists.1 op
  obtain ⟨opcode, header, payload⟩ := Laws.fields i opc h p o
  exact Laws.parseOp_of_fields o (Bool.and_eq_true_iff.1 wf).1 opcode header payload
end

section
/-!
PROOFS. Every step keeps the memory in canonical form (O3): the form as one predicate, and what shared
constructions keep it.
-/
namespace Sys2Proof.Machine
open Sys2Proof

/-- The canonical form of a memory, as one predicate that `simp` does not look into. -/
def Memory.Canonical (m : Memory) : Prop := m.wf

/-- An outcome that leaves a canonical memory, where it leaves a state. -/
def Keeps (o : Host.Outcome State Fault Refusal) : Prop := ∀ t, o = .next t → t.mem.Canonical

@[simp] theorem keeps_next (t : State) : Keeps (.next t) ↔ t.mem.Canonical := by simp [Keeps]

@[simp] theorem keeps_fault (r : Fault) : Keeps (.fault r) ↔ True := by simp [Keeps]

/-! The two writers of bytes. -/

@[simp] theorem State.canonical_setBytes (s : State) (pa : Nat) (bs : List Byte) (hm : s.mem.Canonical) :
    (s.setBytes pa bs).mem.Canonical :=
  State.memOk_setBytes hm pa bs

@[simp] theorem State.canonical_homeWrite (s : State) (pa : Nat) (bs : List Byte) (hm : s.mem.Canonical) :
    (s.homeWrite pa bs).mem.Canonical :=
  State.memOk_homeWrite hm pa bs

/-! Branches and folds. -/

@[simp] theorem Memory.canonical_ite (c : Prop) [Decidable c] (a b : Memory) :
    (if c then a else b).Canonical ↔ if c then a.Canonical else b.Canonical := by split <;> rfl

@[simp] theorem State.mem_apply_ite (c : Prop) [Decidable c] (a b : State) :
    (if c then a else b).mem = if c then a.mem else b.mem := apply_ite State.mem c a b

@[simp] theorem State.mem_foldl {α : Type} {f : State → α → State} (keep : ∀ s a, (f s a).mem = s.mem) (l : List α)
    (s : State) : (l.foldl f s).mem = s.mem :=
  List.foldlRecOn (motive := fun t : State => t.mem = s.mem) l f rfl fun t e a _ => (keep t a).trans e

@[simp] theorem State.mem_foldl_onSet (f : Nat → SetEntry → SetEntry) (l : List Nat) (s : State) :
    (l.foldl (fun t k => t.onSet k (f k)) s).mem = s.mem :=
  State.mem_foldl (fun t k => State.onSet_mem t k (f k)) l s

@[simp] theorem State.canonical_foldl {α : Type} {f : State → α → State}
    (keep : ∀ s a, s.mem.Canonical → (f s a).mem.Canonical) (l : List α) {s : State} (h : s.mem.Canonical) :
    (l.foldl f s).mem.Canonical :=
  List.foldlRecOn (motive := fun t : State => t.mem.Canonical) l f h fun t e a _ => keep t a e

@[simp] theorem State.canonical_foldl_fst {α β : Type} {f : State × β → α → State × β} (l : List α) {x : State × β}
    (keep : ∀ x a, x.1.mem.Canonical → (f x a).1.mem.Canonical) (h : x.1.mem.Canonical) :
    (l.foldl f x).1.mem.Canonical :=
  List.foldlRecOn (motive := fun x : State × β => x.1.mem.Canonical) l f h fun t e a _ => keep t a e

end Sys2Proof.Machine
end

section
/-!
PROOFS. Every step keeps the memory in canonical form (O3): the state, lines, selectors, ember cells and sets.
An operation that writes no byte leaves the memory; one that does puts back a canonical one.
-/
namespace Sys2Proof.Machine
open Sys2Proof

@[simp] theorem State.mem_onCtx (s : State) (n : Nat) (f : Ctx → Ctx) : (s.onCtx n f).mem = s.mem := (rfl)

@[simp] theorem State.mem_onCore (s : State) (n : Nat) (f : Core → Core) : (s.onCore n f).mem = s.mem := (rfl)

@[simp] theorem State.mem_onEveryCore (s : State) (f : Core → Core) : (s.onEveryCore f).mem = s.mem := (rfl)

@[simp] theorem State.mem_onVf (s : State) (n : Nat) (f : Vf → Vf) : (s.onVf n f).mem = s.mem := (rfl)

@[simp] theorem State.mem_onPart (s : State) (n : Nat) (f : Partition → Partition) : (s.onPart n f).mem = s.mem := (rfl)

@[simp] theorem State.mem_onCur (s : State) (f : Ctx → Ctx) : (s.onCur f).mem = s.mem := (rfl)

@[simp] theorem State.mem_setSpByte (s : State) (n : Nat) (w : Nat × Byte) : (s.setSpByte n w).mem = s.mem := (rfl)

@[simp] theorem State.mem_setSpBytes (s : State) (n : Nat) (ws : List (Nat × Byte)) : (s.setSpBytes n ws).mem = s.mem := by
  simp [State.setSpBytes]

@[simp] theorem State.mem_setSem (s : State) (n h v : Nat) : (s.setSem n h v).mem = s.mem := (rfl)

@[simp] theorem State.mem_addSem (s : State) (n h v : Nat) : (s.addSem n h v).mem = s.mem := (rfl)

@[simp] theorem State.mem_defer (s : State) (d : Nat) (e : Effect) (sig : Option Nat) : (s.defer d e sig).mem = s.mem := by
  simp [State.defer]

@[simp] theorem State.mem_addPort (s : State) (r : PortReq) : (s.addPort r).1.mem = s.mem := by
  simp [State.addPort]

@[simp] theorem State.mem_timed (s : State) (h : Hdr) (d : Nat) (e : Effect) : (s.timed h d e).mem = s.mem := by
  simp [State.timed]

@[simp] theorem State.mem_microUse (s : State) (p : Path) (e : TlbEntry) : (s.microUse p e).mem = s.mem := by
  unfold State.microUse
  split <;> simp

@[simp] theorem State.mem_tlbFill (s : State) (pool : Nat) (e : TlbEntry) : (s.tlbFill pool e).mem = s.mem := (rfl)

@[simp] theorem State.mem_touch (s : State) (p : Path) (vf va : Nat) : (s.touch p vf va).mem = s.mem := by
  unfold State.touch
  (repeat' split) <;> simp

@[simp] theorem State.mem_touchAll (s : State) (p : Path) (vf : Nat) (as : List Nat) : (s.touchAll p vf as).mem = s.mem := by
  simp [State.touchAll]

@[simp] theorem State.mem_trimMicro (s : State) (core : Nat) : (s.trimMicro core).mem = s.mem := (rfl)

@[simp] theorem State.mem_trimShared (s : State) : (s.trimShared).mem = s.mem := (rfl)

@[simp] theorem State.mem_startWalk (s : State) (pool vf va : Nat) (m : Master) :
    (s.startWalk pool vf va m).mem = s.mem := by
  simp [State.startWalk]

@[simp] theorem State.mem_dropTlb (s : State) (vf va len : Nat) : (s.dropTlb vf va len).mem = s.mem := (rfl)

@[simp] theorem State.mem_postRecord (s : State) (vf : Nat) (r : List Byte) : (s.postRecord vf r).mem = s.mem := (rfl)

@[simp] theorem State.mem_postViolation (s : State) (master id vf reason va detail : Nat) :
    (s.postViolation master id vf reason va detail).mem = s.mem := (rfl)

@[simp] theorem State.mem_wakeLines (s : State) (hit : Nat → Bool) : (s.wakeLines hit).mem = s.mem := (rfl)

@[simp] theorem State.canonical_writeBack (s : State) (core : Nat) (l : L1Line)
    (hm : s.mem.Canonical) : (s.writeBack core l).mem.Canonical := by
  simp +contextual [State.writeBack, hm]

@[simp] theorem State.canonical_writeBackIf (s : State) (core : Nat) (q : L1Line → Bool)
    (hm : s.mem.Canonical) : (s.writeBackIf core q).mem.Canonical := by
  simp +contextual [State.writeBackIf, hm]

@[simp] theorem State.canonical_flushCtx (s : State) (n : Nat) (hm : s.mem.Canonical) : (s.flushCtx n).mem.Canonical := by
  simp +contextual [State.flushCtx, hm]

@[simp] theorem State.mem_acquire (s : State) (n : Nat) : (s.acquire n).mem = s.mem := (rfl)

@[simp] theorem State.canonical_l1Insert (s : State) (core vf line : Nat)
    (hm : s.mem.Canonical) : (s.l1Insert core vf line).mem.Canonical := by
  unfold State.l1Insert
  dsimp only
  (repeat' split) <;> simp +contextual [*]

@[simp] theorem State.canonical_l1Ready (s : State) (core vf line : Nat)
    (hm : s.mem.Canonical) : (s.l1Ready core vf line).mem.Canonical := by
  unfold State.l1Ready
  split <;> simp +contextual [*]

@[simp] theorem State.canonical_l1Store (s : State) (n cls pa : Nat) (bs : List Byte)
    (hm : s.mem.Canonical) : (s.l1Store n cls pa bs).mem.Canonical := by
  unfold State.l1Store
  dsimp only
  (repeat' split) <;> simp +contextual [*]

@[simp] theorem State.canonical_syncLine (s : State) (n pa : Nat)
    (hm : s.mem.Canonical) : (s.syncLine n pa).mem.Canonical := by
  unfold State.syncLine
  split <;> simp +contextual [*]

@[simp] theorem State.mem_staleLine (s : State) (n pa : Nat) : (s.staleLine n pa).mem = s.mem := (rfl)

@[simp] theorem State.canonical_setBlocks (s : State) (core b : Nat)
    (hm : s.mem.Canonical) : (s.setBlocks core b).mem.Canonical := by
  simp +contextual [State.setBlocks, hm]

@[simp] theorem State.canonical_deviceStore (s : State) (n pa : Nat) (bs : List Byte)
    (hm : s.mem.Canonical) : (s.deviceStore n pa bs).mem.Canonical := by
  unfold State.deviceStore
  dsimp only
  (repeat' split) <;> simp +contextual [*]

@[simp] theorem State.canonical_purgeLine (s : State) (n pa : Nat)
    (hm : s.mem.Canonical) : (s.purgeLine n pa).mem.Canonical := by
  simp +contextual [State.purgeLine, hm]

@[simp] theorem State.mem_onSel (s : State) (core : Nat) (f : Selector → Selector) : (s.onSel core f).mem = s.mem := (rfl)

@[simp] theorem State.mem_settleRound (s : State) (core : Nat) : (s.settleRound core).mem = s.mem := by
  simp [State.settleRound]

@[simp] theorem State.mem_takeTurn (s : State) (core n : Nat) : (s.takeTurn core n).mem = s.mem := (rfl)

@[simp] theorem State.mem_endTurn (s : State) (core n : Nat) : (s.endTurn core n).mem = s.mem := by
  simp [State.endTurn]

@[simp] theorem State.mem_leaveTurn (s : State) (n : Nat) : (s.leaveTurn n).mem = s.mem := by
  simp [State.leaveTurn]

@[simp] theorem State.mem_beforeReady (s : State) (n : Nat) : (s.beforeReady n).mem = s.mem := by
  simp [State.beforeReady]

@[simp] theorem State.mem_chargeVf (s : State) (core vf cost : Nat) : (s.chargeVf core vf cost).mem = s.mem := (rfl)

@[simp] theorem State.mem_chargeTurn (s : State) (core n cost : Nat) (mayEnd : Bool) :
    (s.chargeTurn core n cost mayEnd).mem = s.mem := by
  simp [State.chargeTurn]

@[simp] theorem State.mem_setTag (s : State) (cell t : Nat) : (s.setTag cell t).mem = s.mem := (rfl)

@[simp] theorem State.canonical_setCause (s : State) (cell cause : Nat)
    (hm : s.mem.Canonical) : (s.setCause cell cause).mem.Canonical := by
  simp +contextual [State.setCause, hm]

@[simp] theorem State.mem_portFault (s : State) (n id : Nat) (t : Trapped) : (s.portFault n id t).mem = s.mem := (rfl)

@[simp] theorem State.mem_settleLoad (s : State) (n id : Nat) : (s.settleLoad n id).mem = s.mem := by
  unfold State.settleLoad
  dsimp only
  (repeat' split) <;> simp

@[simp] theorem State.mem_answer (s : State) (w : EmbWaiter) (r : Except Trapped (List Byte)) :
    (s.answer w r).mem = s.mem := by
  unfold State.answer
  split <;> simp

@[simp] theorem State.mem_answerAll (s : State) (cell : Nat) (r : Nat → Except Trapped (List Byte)) :
    (s.answerAll cell r).mem = s.mem := by
  simp [State.answerAll]

@[simp] theorem State.canonical_failCell (s : State) (cell cause : Nat)
    (hm : s.mem.Canonical) : (s.failCell cell cause).mem.Canonical := by
  simp +contextual [State.failCell, hm]

@[simp] theorem State.canonical_fillCell (s : State) (cell : Nat) (bs : List Byte)
    (hm : s.mem.Canonical) : (s.fillCell cell bs).mem.Canonical := by
  simp +contextual [State.fillCell, hm]

@[simp] theorem State.canonical_abandon (s : State) (n : Nat) (hm : s.mem.Canonical) : (s.abandon n).mem.Canonical := by
  unfold State.abandon
  split <;> simp +contextual [*]

@[simp] theorem State.mem_withdraw (s : State) (n : Nat) : (s.withdraw n).mem = s.mem := (rfl)

@[simp] theorem State.mem_clearSems (s : State) (n : Nat) : (s.clearSems n).mem = s.mem := (rfl)

@[simp] theorem State.mem_placeEval (s : State) (h : Hearth) (n : Nat) : (s.placeEval h n).mem = s.mem := by
  simp [State.placeEval]

@[simp] theorem State.mem_offerSlot (s : State) (n : Nat) : (s.offerSlot n).mem = s.mem := by
  unfold State.offerSlot
  dsimp only
  (repeat' split) <;> simp

@[simp] theorem State.canonical_storeCell (s : State) (pa : Nat) (bs : List Byte)
    (hm : s.mem.Canonical) : (s.storeCell pa bs).1.mem.Canonical := by
  unfold State.storeCell
  dsimp only
  (repeat' split) <;> simp +contextual [*]

@[simp] theorem State.canonical_storeCells (s : State) (pa : Nat) (bs : List Byte)
    (hm : s.mem.Canonical) : (s.storeCells pa bs).1.mem.Canonical := by
  simp +contextual [State.storeCells, hm]

@[simp] theorem State.mem_leaveSets (s : State) (n : Nat) : (s.leaveSets n).mem = s.mem := (rfl)

@[simp] theorem State.mem_addPending (s : State) (n : Nat) (p : Pending) : (s.addPending n p).mem = s.mem := by
  unfold State.addPending
  split <;> simp

@[simp] theorem State.mem_raiseSem (s : State) (n h v : Nat) : (s.raiseSem n h v).mem = s.mem := by
  simp [State.raiseSem]

@[simp] theorem State.mem_fireSignal (s : State) (n : Nat) (sig : Option Nat) : (s.fireSignal n sig).mem = s.mem := by
  unfold State.fireSignal
  dsimp only
  (repeat' split) <;> simp

@[simp] theorem State.mem_onJob (s : State) (id : Nat) (f : Job → Job) : (s.onJob id f).mem = s.mem := (rfl)

@[simp] theorem State.mem_subBytes (s : State) (j : Job) (n : Nat) : (s.subBytes j n).mem = s.mem := by
  simp [State.subBytes]

@[simp] theorem State.mem_completionIncrement (s : State) (j : Job) : (s.completionIncrement j).mem = s.mem := by
  simp [State.completionIncrement]

@[simp] theorem State.mem_completeJob (s : State) (j : Job) : (s.completeJob j).mem = s.mem := by
  simp [State.completeJob]

@[simp] theorem State.mem_cancelJob (s : State) (j : Job) : (s.cancelJob j).mem = s.mem := (rfl)

@[simp] theorem State.mem_dropSealed (s : State) (eid : Nat) : (s.dropSealed eid).mem = s.mem := by
  simp [State.dropSealed]

@[simp] theorem State.mem_setOutcome (s : State) (eid st cause : Nat) : (s.setOutcome eid st cause).mem = s.mem := by
  simp [State.setOutcome]

@[simp] theorem State.mem_onCoord (s : State) (eid : Nat) (f : Coord → Coord) : (s.onCoord eid f).mem = s.mem := (rfl)

@[simp] theorem State.mem_send (s : State) (dst : Nat) (m : Msg) : (s.send dst m).mem = s.mem := (rfl)

@[simp] theorem State.mem_reapCoord (s : State) : (s.reapCoord).mem = s.mem := (rfl)

@[simp] theorem State.mem_decideEnvelope (s : State) (eid cause : Nat) : (s.decideEnvelope eid cause).mem = s.mem := by
  unfold State.decideEnvelope
  dsimp only
  (repeat' split) <;> simp

end Sys2Proof.Machine
end

section
/-!
PROOFS. Every step keeps the memory in canonical form (O3): traps, the scratchpad port and the far port.
An operation that writes no byte leaves the memory; one that does puts back a canonical one.
-/
namespace Sys2Proof.Machine
open Sys2Proof

@[simp] theorem State.mem_testStop (s : State) (n : Nat) : (s.testStop n).mem = s.mem := (rfl)

@[simp] theorem State.mem_applyStore (s : State) (n : Nat) (lvl : Bool) (d : Deferred) :
    (s.applyStore n lvl d).mem = s.mem := by
  unfold State.applyStore
  split <;> simp

@[simp] theorem State.mem_landStores (s : State) (n : Nat) : (s.landStores n).mem = s.mem := by
  have land : ∀ (lvl : Bool) (t : State) (d : Deferred),
      (if (t.ctx n).awaitsArray d then t
       else match d.eff with
        | .store _ _ _ _ => (t.applyStore n lvl d).onCtx n fun c => c.completeSignal d.sig
        | .tileBytes i ws => t.onCtx n fun c => (c.setTileBytes i ws).completeSignal d.sig
        | _ => t).mem = t.mem := by
    intro lvl t d
    repeat' split
    all_goals simp
  unfold State.landStores
  exact (State.mem_foldl (land false) _ _).trans (State.mem_foldl (land true) _ _)

@[simp] theorem State.mem_endJobs (s : State) (n : Nat) : (s.endJobs n).mem = s.mem := by
  simp [State.endJobs]

@[simp] theorem State.mem_voidOpen (s : State) (n cause : Nat) : (s.voidOpen n cause).mem = s.mem := by
  simp [State.voidOpen]

@[simp] theorem State.mem_meetNeeds (s : State) (n : Nat) : (s.meetNeeds n).mem = s.mem := (rfl)

@[simp] theorem State.mem_dropFetches (s : State) (n : Nat) : (s.dropFetches n).mem = s.mem := (rfl)

@[simp] theorem State.canonical_abandonDone (s : State) (n : Nat)
    (hm : s.mem.Canonical) : (s.abandonDone n).mem.Canonical := by
  simp +contextual [State.abandonDone, hm]

@[simp] theorem State.canonical_endContext (s : State) (n : Nat) (mute : Bool)
    (hm : s.mem.Canonical) : (s.endContext n mute).mem.Canonical := by
  simp +contextual [State.endContext, hm]

@[simp] theorem State.canonical_retireFatal (s : State) (n : Nat) (t : Trapped) (pc : Dword) (extra : Nat) (tail : List Byte)
    (hm : s.mem.Canonical) : (s.retireFatal n t pc extra tail).mem.Canonical := by
  simp +contextual [State.retireFatal, hm]

@[simp] theorem State.mem_dropSaved (s : State) (n : Nat) : (s.dropSaved n).mem = s.mem := (rfl)

@[simp] theorem State.canonical_jobFault (s : State) (j : Job) (t : Trapped) (tail : List Byte)
    (hm : s.mem.Canonical) : (s.jobFault j t tail).mem.Canonical := by
  simp +contextual [State.jobFault, hm]

@[simp] theorem State.canonical_haltContext (s : State) (n : Nat)
    (hm : s.mem.Canonical) : (s.haltContext n).mem.Canonical := by
  simp +contextual [State.haltContext, hm]

@[simp] theorem State.canonical_takeTrap (s : State) (n : Nat) (t : Trapped) (pc : Dword)
    (hm : s.mem.Canonical) : (s.takeTrap n t pc).mem.Canonical := by
  simp +contextual [State.takeTrap, hm]

@[simp] theorem State.canonical_raise (s : State) (t : Trapped) (hm : s.mem.Canonical) : (s.raise t).mem.Canonical := by
  simp +contextual [State.raise, hm]

@[simp] theorem State.mem_faultAfter (s : State) (t : Trapped) (r : PortReq) : (s.faultAfter t r).mem = s.mem := by
  simp [State.faultAfter]

@[simp] theorem State.mem_landEntries (s : State) (n : Nat) (ds : List Deferred) : (s.landEntries n ds).mem = s.mem := by
  simp [State.landEntries]

@[simp] theorem State.mem_pushOp (s : State) (n : Nat) (r : PortReq) (landing : Bool) :
    (s.pushOp n r landing).mem = s.mem := by
  unfold State.pushOp
  dsimp only
  (repeat' split) <;> simp

@[simp] theorem State.mem_heldSignal (s : State) (n : Nat) (r : PortReq) : (s.heldSignal n r).mem = s.mem := by
  unfold State.heldSignal
  split <;> simp

@[simp] theorem State.mem_landNow (s : State) (n : Nat) (r : PortReq) (d : Nat) (v : Dword) :
    (s.landNow n r d v).mem = s.mem := (rfl)

@[simp] theorem State.mem_waitNow (s : State) (n : Nat) (r : PortReq) : (s.waitNow n r).mem = s.mem := by
  simp [State.waitNow]

@[simp] theorem State.mem_beginAccess (s : State) (n : Nat) : (s.beginAccess n).mem = s.mem := by
  simp [State.beginAccess]

@[simp] theorem State.canonical_redFault (s : State) (n : Nat) (r : PortReq)
    (hm : s.mem.Canonical) : (s.redFault n r).mem.Canonical := by
  simp +contextual [State.redFault, hm]

@[simp] theorem State.canonical_tryFence (s : State) (n : Nat) (r : PortReq)
    (hm : s.mem.Canonical) : (s.tryFence n r).mem.Canonical := by
  unfold State.tryFence
  split <;> simp +contextual [*]

@[simp] theorem State.canonical_settlePort (s : State) (n : Nat)
    (hm : s.mem.Canonical) : (s.settlePort n).mem.Canonical := by
  simp +contextual [State.settlePort, hm]

@[simp] theorem State.canonical_settlePorts (s : State) (hm : s.mem.Canonical) : (s.settlePorts).mem.Canonical := by
  simp +contextual [State.settlePorts, hm]

@[simp] theorem State.mem_freezeCtx (s : State) (n reason va opc : Nat) : (s.freezeCtx n reason va opc).mem = s.mem := by
  simp [State.freezeCtx]

@[simp] theorem State.mem_violatePort (s : State) (n : Nat) (r : PortReq) (reason va : Nat) :
    (s.violatePort n r reason va).mem = s.mem := by
  simp [State.violatePort]

@[simp] theorem State.mem_sendEntry (s : State) (n id : Nat) : (s.sendEntry n id).mem = s.mem := (rfl)

theorem State.keeps_performing {s : State} (n id : Nat) {k : PortReq → State → State}
    (keep : ∀ r t, t.mem.Canonical → (k r t).mem.Canonical) (hm : s.mem.Canonical) : Keeps (s.performing n id k) := by
  unfold State.performing
  repeat' split
  all_goals simp [hm, keep]

/-- The states that a load at a cell may leave hold a canonical memory. -/
def CellLoad.Keeps : CellLoad → Prop
  | .waits t | .fails _ t => t.mem.Canonical
  | .value _ | .refused => True

theorem State.keeps_loadCell {s : State} (ld : Loader) (chain : List Dword) (own : Option Nat) (vf cell va : Nat)
    (hm : s.mem.Canonical) : (s.loadCell ld chain own vf cell va).Keeps := by
  unfold State.loadCell
  repeat' (first | split | dsimp only)
  all_goals simp [CellLoad.Keeps, hm]

@[simp] theorem State.canonical_loadEmber (s : State) (n : Nat) (r : PortReq) (pa va : Nat)
    (hm : s.mem.Canonical) : (s.loadEmber n r pa va).mem.Canonical := by
  unfold State.loadEmber
  dsimp only
  split
  · exact hm
  have cell := State.keeps_loadCell (.port n r.id) (s.ctx n).ctl.chain ((s.ownHearth n).map (·.cell)) (s.ctx n).id.vf
    (cellOf pa) (cellOf va) hm
  generalize s.loadCell _ _ _ _ _ _ = c at cell
  cases c <;> simp_all [CellLoad.Keeps]

theorem State.canonical_loadBytes {s t : State} {n pa len : Nat} {r : PortReq} {bs : List Byte} (hm : s.mem.Canonical)
    (e : s.loadBytes n r pa len = some (t, bs)) : t.mem.Canonical := by
  simp only [State.loadBytes] at e
  split_ifs at e <;> cases e <;> simp [hm]

@[simp] theorem State.canonical_loadPiece (s : State) (n id off : Nat)
    (hm : s.mem.Canonical) : (s.loadPiece n id off).mem.Canonical := by
  unfold State.loadPiece
  repeat' split
  all_goals try simp [hm]
  all_goals
    next e => simpa using State.canonical_loadBytes hm e

@[simp] theorem State.mem_loadSent (s : State) (n id : Nat) : (s.loadSent n id).mem = s.mem := by
  unfold State.loadSent
  split <;> simp

@[simp] theorem State.mem_skipPref (s : State) (n id page : Nat) : (s.skipPref n id page).mem = s.mem := (rfl)

@[simp] theorem State.canonical_prefLine (s : State) (n : Nat) (r : PortReq) (i : Nat)
    (hm : s.mem.Canonical) : (s.prefLine n r i).mem.Canonical := by
  unfold State.prefLine
  dsimp only
  (repeat' split) <;> simp +contextual [*]

@[simp] theorem keeps_execFarLoadPerform (n id : Nat) (lines : List Nat) (s : State)
    (hm : s.mem.Canonical) : Keeps (execFarLoadPerform n id lines s) := by
  have load : Keeps (s.performing n id fun r s =>
      let offs := r.units.filter fun o => lines.contains (o / 8)
      let t := s.visitUnits (offs.foldl (fun s o => s.loadPiece n id o) s) n r offs
      (t.loadSent n id).settleLoad n id) :=
    State.keeps_performing n id (fun r t ht => by simp +contextual [ht]) hm
  unfold execFarLoadPerform
  split
  · simpa using hm
  split
  · split
    · refine (keeps_next _).2 (State.canonical_settlePort _ _ (State.canonical_foldl
        (fun t i => State.canonical_prefLine t n _ i) _ ?_))
      simpa using hm
    · simpa using hm
  · exact load
  · exact load
  · simpa using hm

@[simp] theorem State.canonical_releaseFirst (s : State) (n : Nat) (r : PortReq)
    (hm : s.mem.Canonical) : (s.releaseFirst n r).mem.Canonical := by
  simp +contextual [State.releaseFirst, hm]

@[simp] theorem State.canonical_storePiece (s : State) (n id off : Nat)
    (hm : s.mem.Canonical) : (s.storePiece n id off).mem.Canonical := by
  unfold State.storePiece
  dsimp only
  (repeat' split) <;> simp +contextual [*]

@[simp] theorem State.mem_settleStore (s : State) (n id : Nat) : (s.settleStore n id).mem = s.mem := by
  unfold State.settleStore
  dsimp only
  (repeat' split) <;> simp

@[simp] theorem State.canonical_performFlush (s : State) (n : Nat) (r : PortReq) (mode : Nat)
    (hm : s.mem.Canonical) : (s.performFlush n r mode).mem.Canonical := by
  simp +contextual [State.performFlush, hm]

@[simp] theorem keeps_execFarStorePerform (n id : Nat) (lines : List Nat) (s : State)
    (hm : s.mem.Canonical) : Keeps (execFarStorePerform n id lines s) := by
  have store : Keeps (s.performing n id fun r s =>
      let offs := r.units.filter fun o => lines.contains (o / 8)
      let s := s.releaseFirst n r
      (s.visitUnits (offs.foldl (fun s o => s.storePiece n id o) s) n r offs).settleStore n id) :=
    State.keeps_performing n id (fun r t ht => by simp +contextual [ht]) hm
  unfold execFarStorePerform
  repeat' (first | split | dsimp only)
  all_goals try exact store
  all_goals simp [hm]

@[simp] theorem keeps_execFarStoreAck (n id : Nat) (s : State) (hm : s.mem.Canonical) : Keeps (execFarStoreAck n id s) := by
  unfold execFarStoreAck
  dsimp only
  (repeat' split) <;> simp +contextual [*]

@[simp] theorem keeps_execLandingDataArrival (n id : Nat) (s : State)
    (hm : s.mem.Canonical) : Keeps (execLandingDataArrival n id s) := by
  simp +contextual [execLandingDataArrival, hm]

@[simp] theorem State.canonical_arriveFault (s : State) (n : Nat) (r : PortReq) (t : Trapped)
    (hm : s.mem.Canonical) : (s.arriveFault n r t).mem.Canonical := by
  simp +contextual [State.arriveFault, hm]

@[simp] theorem keeps_execFarFaultArrival (n id : Nat) (s : State)
    (hm : s.mem.Canonical) : Keeps (execFarFaultArrival n id s) := by
  unfold execFarFaultArrival
  dsimp only
  (repeat' split) <;> simp +contextual [*]

@[simp] theorem keeps_execRedlogAppend (n id : Nat) (s : State)
    (hm : s.mem.Canonical) : Keeps (execRedlogAppend n id s) := by
  unfold execRedlogAppend
  dsimp only
  (repeat' split) <;> simp +contextual [*]

@[simp] theorem keeps_execSemaphoreSignal (n id : Nat) (s : State)
    (hm : s.mem.Canonical) : Keeps (execSemaphoreSignal n id s) := by
  unfold execSemaphoreSignal
  dsimp only
  (repeat' split) <;> simp +contextual [*]

@[simp] theorem keeps_execEmberLoadResend (n id : Nat) (s : State)
    (hm : s.mem.Canonical) : Keeps (execEmberLoadResend n id s) := by
  simp +contextual [execEmberLoadResend, hm]

end Sys2Proof.Machine
end

section
/-!
PROOFS. Every step keeps the memory in canonical form (O3): home agents, the array and the fabric.
An operation that writes no byte leaves the memory; one that does puts back a canonical one.
-/
namespace Sys2Proof.Machine
open Sys2Proof

@[simp] theorem State.mem_awaitRelease (s : State) (n k : Nat) (r : PortReq) : (s.awaitRelease n k r).mem = s.mem := by
  simp [State.awaitRelease]

theorem State.keeps_atHome {s : State} (n id : Nat) {k : PortReq → Nat → State → State}
    (keep : ∀ r pa t, t.mem.Canonical → (k r pa t).mem.Canonical) (hm : s.mem.Canonical) : Keeps (s.atHome n id k) := by
  have access : Keeps (s.performing n id fun r s => match s.xlatePort n r 0 with
      | .ok _ true => s.portFault n id (permInfo 0x20)
      | .ok pa false =>
        let s := (s.releaseFirst n r).purgeLine n pa
        s.visitOp (if s.isBad pa r.size then s.portFault n id ⟨.ecc, 0⟩ else k r pa s) n r pa
      | _ => s) := by
    refine State.keeps_performing n id (fun r t ht => ?_) hm
    split <;> simp [ht, keep]
  unfold State.atHome
  dsimp only
  repeat' split
  all_goals try exact access
  all_goals simpa using hm

@[simp] theorem State.mem_respondWord (s : State) (n : Nat) (r : PortReq) (v : Dword) :
    (s.respondWord n r v).mem = s.mem := (rfl)

@[simp] theorem keeps_execAmoPerform (n id : Nat) (s : State)
    (hm : s.mem.Canonical) : Keeps (execAmoPerform n id s) := State.keeps_atHome n id
        (fun r pa t ht => by split <;> simp [ht]) hm

@[simp] theorem keeps_execCasPerform (n id : Nat) (s : State)
    (hm : s.mem.Canonical) : Keeps (execCasPerform n id s) := State.keeps_atHome n id
        (fun r pa t ht => by split <;> simp [ht]) hm

@[simp] theorem keeps_execRedPerform (n id : Nat) (s : State)
    (hm : s.mem.Canonical) : Keeps (execRedPerform n id s) := State.keeps_atHome n id
        (fun r pa t ht => by split <;> simp [ht]) hm

@[simp] theorem keeps_execWtaArrival (n id : Nat) (s : State) (hm : s.mem.Canonical) : Keeps (execWtaArrival n id s) := by
  refine State.keeps_atHome n id (fun r pa t ht => ?_) hm
  repeat' (first | split | dsimp only)
  all_goals simp [ht]

@[simp] theorem State.mem_cancelWait (s : State) (n : Nat) (r : PortReq) : (s.cancelWait n r).mem = s.mem := (rfl)

@[simp] theorem keeps_execWtaTimeout (n id : Nat) (s : State) (hm : s.mem.Canonical) : Keeps (execWtaTimeout n id s) := by
  unfold execWtaTimeout
  (repeat' split) <;> simp +contextual [*]

@[simp] theorem keeps_execBarrierArrival (n id : Nat) (s : State)
    (hm : s.mem.Canonical) : Keeps (execBarrierArrival n id s) := by
  unfold execBarrierArrival
  dsimp only
  (repeat' split) <;> simp +contextual [*]

@[simp] theorem State.mem_depart (s : State) (n k : Nat) : (s.depart n k).mem = s.mem := (rfl)

@[simp] theorem keeps_execBarrierRelease (n k : Nat) (s : State)
    (hm : s.mem.Canonical) : Keeps (execBarrierRelease n k s) := by
  unfold execBarrierRelease
  dsimp only
  (repeat' split) <;> simp +contextual [*]

@[simp] theorem keeps_execGleavePerform (n id : Nat) (s : State)
    (hm : s.mem.Canonical) : Keeps (execGleavePerform n id s) := by
  unfold execGleavePerform
  dsimp only
  (repeat' split) <;> simp +contextual [*]

@[simp] theorem keeps_execHsigrDeliver (n id : Nat) (s : State)
    (hm : s.mem.Canonical) : Keeps (execHsigrDeliver n id s) := by
  unfold execHsigrDeliver
  dsimp only
  (repeat' split) <;> simp +contextual [*]

@[simp] theorem State.mem_enqueue (s : State) (h : Hdr) (i : Instr) (f : ArrayOp → ArrayOp) :
    (s.enqueue h i f).mem = s.mem := by
  simp [State.enqueue]

@[simp] theorem State.mem_performTsts (s : State) (n : Nat) (q : ArrayOp) (f : Tri) : (s.performTsts n q f).mem = s.mem := by
  simp [State.performTsts]

@[simp] theorem State.mem_landTiles (s : State) (n : Nat) : (s.landTiles n).mem = s.mem := by
  simp [State.landTiles]

@[simp] theorem keeps_execArrayOpPerform (n : Nat) (s : State) (hm : s.mem.Canonical) : Keeps (execArrayOpPerform n s) := by
  unfold execArrayOpPerform
  dsimp only
  (repeat' split) <;> simp +contextual [*]

@[simp] theorem State.mem_setLink (s : State) (p : Nat) (l : Link) : (s.setLink p l).mem = s.mem := (rfl)

@[simp] theorem State.mem_dropPacket (s : State) (id : Nat) : (s.dropPacket id).mem = s.mem := (rfl)

theorem State.keeps_takePacket {s : State} (id : Nat) {k : Packet → State → State}
    (keep : ∀ p t, t.mem.Canonical → (k p t).mem.Canonical) (hm : s.mem.Canonical) : Keeps (s.takePacket id k) := by
  unfold State.takePacket
  repeat' split
  all_goals simp [hm, keep]

@[simp] theorem State.mem_streamNext (s : State) (engine dst : Nat) : (s.streamNext engine dst).1.mem = s.mem := (rfl)

@[simp] theorem State.mem_markSeen (s : State) (x : Stream) (error addr : Nat) (data : List Byte) :
    (s.markSeen x error addr data).mem = s.mem := by
  simp [State.markSeen]

@[simp] theorem State.mem_noteLink (s : State) (m : Msg) (port : Nat) : (s.noteLink m port).mem = s.mem := by
  unfold State.noteLink
  dsimp only
  (repeat' split) <;> simp

@[simp] theorem State.mem_emitFlit (s : State) (port : Nat) (x : Sent) : (s.emitFlit port x).mem = s.mem := (rfl)

@[simp] theorem State.mem_newFlits (s : State) (port kind vc : Nat) (pkt : Option Packet) (n : Nat) :
    (s.newFlits port kind vc pkt n).mem = s.mem := by
  simp [State.newFlits]

@[simp] theorem State.mem_sendFlit (s : State) (port : Nat) (k : Packet) : (s.sendFlit port k).mem = s.mem := by
  simp [State.sendFlit]

@[simp] theorem State.mem_askReplay (s : State) (port : Nat) : (s.askReplay port).mem = s.mem := by
  simp [State.askReplay]

@[simp] theorem State.mem_askWaiting (s : State) (port : Nat) : (s.askWaiting port).mem = s.mem := by
  simp [State.askWaiting]

@[simp] theorem State.mem_replayFrom (s : State) (port k : Nat) : (s.replayFrom port k).mem = s.mem := by
  simp [State.replayFrom]

@[simp] theorem keeps_execPacketForward (id port : Nat) (merged : Option Nat) (s : State)
    (hm : s.mem.Canonical) : Keeps (execPacketForward id port merged s) := by
  unfold execPacketForward
  (repeat' split) <;> simp +contextual [*]

@[simp] theorem State.mem_discardFlit (s : State) (port : Nat) (f : Flit) : (s.discardFlit port f).mem = s.mem := by
  simp [State.discardFlit]

@[simp] theorem State.canonical_doubtStores (s : State) (n port : Nat)
    (hm : s.mem.Canonical) : (s.doubtStores n port).mem.Canonical := by
  unfold State.doubtStores
  dsimp only
  (repeat' split) <;> simp +contextual [*]

@[simp] theorem State.canonical_doubtJob (s : State) (id port : Nat)
    (hm : s.mem.Canonical) : (s.doubtJob id port).mem.Canonical := by
  unfold State.doubtJob
  dsimp only
  (repeat' split) <;> simp +contextual [*]

@[simp] theorem State.canonical_dropUnreachable (s : State) (p : Nat × Packet)
    (hm : s.mem.Canonical) : (s.dropUnreachable p).mem.Canonical := by
  have fails : ∀ (t : State) (x : Stream), t.mem.Canonical →
      ((t.job? x.job).elim t fun j => t.jobFault j ⟨.remote, 4⟩).mem.Canonical := by
    intro t x ht
    cases t.job? x.job <;> simp [ht]
  unfold State.dropUnreachable
  dsimp only
  split
  · exact hm
  split
  · exact State.canonical_foldl fails _ hm
  · split
    · simp [hm]
    · exact fails _ _ (by simpa using hm)
  · exact hm

@[simp] theorem State.mem_reportLost (s : State) (k : Packet) : (s.reportLost k).mem = s.mem := by
  unfold State.reportLost
  split <;> simp

@[simp] theorem State.canonical_failLink (s : State) (port : Nat)
    (hm : s.mem.Canonical) : (s.failLink port).mem.Canonical := by
  have lost : ∀ (t : State) (b : Sent), t.mem.Canonical → (match b.pkt with
      | some k => t.reportLost k
      | none => t).mem.Canonical := by
    intro t b ht
    split <;> simp [ht]
  unfold State.failLink
  simp only [State.mem_reapCoord]
  refine State.canonical_foldl (fun t p => State.canonical_dropUnreachable t p) _ ?_
  refine State.canonical_foldl (fun t eid ht => by simpa using ht) _ ?_
  refine State.canonical_foldl (fun t id => State.canonical_doubtJob t id port) _ ?_
  refine State.canonical_foldl (fun t n => State.canonical_doubtStores t n port) _ ?_
  exact State.canonical_foldl lost _ (by simpa using hm)

@[simp] theorem keeps_execLinkFailure (port : Nat) (s : State) (hm : s.mem.Canonical) : Keeps (execLinkFailure port s) := by
  simp +contextual [execLinkFailure, hm]

@[simp] theorem keeps_execLinkRetrain (port : Nat) (s : State) (hm : s.mem.Canonical) : Keeps (execLinkRetrain port s) := by
  simp +contextual [execLinkRetrain, hm]

@[simp] theorem State.canonical_replayOrFail (s : State) (port k : Nat)
    (hm : s.mem.Canonical) : (s.replayOrFail port k).mem.Canonical := by
  simp +contextual [State.replayOrFail, hm]

@[simp] theorem keeps_execFlitReceive (port : Nat) (f : Flit) (s : State)
    (hm : s.mem.Canonical) : Keeps (execFlitReceive port f s) := by
  unfold execFlitReceive
  dsimp only
  (repeat' split) <;> simp +contextual [*]

@[simp] theorem keeps_execReplayRequest (port seq : Nat) (s : State)
    (hm : s.mem.Canonical) : Keeps (execReplayRequest port seq s) := by
  unfold execReplayRequest
  dsimp only
  (repeat' split) <;> simp +contextual [*]

@[simp] theorem State.mem_sendValue (s : State) (port : Nat) : (s.sendValue port).mem = s.mem := (rfl)

@[simp] theorem keeps_execLinkKeyEstablish (port : Nat) (peer : List Byte) (signed : Bool) (s : State)
    (hm : s.mem.Canonical) : Keeps (execLinkKeyEstablish port peer signed s) := by
  unfold execLinkKeyEstablish
  dsimp only
  (repeat' split) <;> simp +contextual [*]

@[simp] theorem keeps_execLinkKeyRotation (port : LinkRotation) (s : State)
    (hm : s.mem.Canonical) : Keeps (execLinkKeyRotation port s) := by
  unfold execLinkKeyRotation
  dsimp only
  (repeat' split) <;> simp +contextual [*]

end Sys2Proof.Machine
end

section
/-!
PROOFS. Every step keeps the memory in canonical form (O3): envelopes, jobs and the copy engines.
An operation that writes no byte leaves the memory; one that does puts back a canonical one.
-/
namespace Sys2Proof.Machine
open Sys2Proof

@[simp] theorem State.mem_setSlot (s : State) (n k : Nat) (e : EnvSlot) : (s.setSlot n k e).mem = s.mem := by
  simp [State.setSlot]

@[simp] theorem State.mem_sendSeal (s : State) (n : Nat) (r : PortReq) (env peer : Nat) (data : List Byte) :
    (s.sendSeal n r env peer data).mem = s.mem := by
  simp [State.sendSeal]

@[simp] theorem keeps_execEnvelopePrepareSend (eid : Nat) (s : State)
    (hm : s.mem.Canonical) : Keeps (execEnvelopePrepareSend eid s) := by
  unfold execEnvelopePrepareSend
  dsimp only
  (repeat' split) <;> simp +contextual [*]

@[simp] theorem keeps_execReady (pkt : Nat) (s : State) (hm : s.mem.Canonical) : Keeps (execReady pkt s) := by
  refine State.keeps_takePacket pkt (fun p t ht => ?_) hm
  repeat' (first | split | dsimp only)
  all_goals simp [ht]

@[simp] theorem keeps_execFail (pkt : Nat) (s : State) (hm : s.mem.Canonical) : Keeps (execFail pkt s) := by
  refine State.keeps_takePacket pkt (fun p t ht => ?_) hm
  repeat' (first | split | dsimp only)
  all_goals simp [ht]

@[simp] theorem keeps_execDone (pkt : Nat) (s : State) (hm : s.mem.Canonical) : Keeps (execDone pkt s) := by
  refine State.keeps_takePacket pkt (fun p t ht => ?_) hm
  repeat' (first | split | dsimp only)
  all_goals simp [ht]

@[simp] theorem keeps_execQuery (pkt : Nat) (s : State) (hm : s.mem.Canonical) : Keeps (execQuery pkt s) := by
  refine State.keeps_takePacket pkt (fun p t ht => ?_) hm
  repeat' (first | split | dsimp only)
  all_goals simp [ht]

@[simp] theorem keeps_execDecisionResend (eid : Nat) (s : State)
    (hm : s.mem.Canonical) : Keeps (execDecisionResend eid s) := by
  unfold execDecisionResend
  (repeat' split) <;> simp +contextual [*]

@[simp] theorem keeps_execPreptimeExpiry (eid : Nat) (s : State)
    (hm : s.mem.Canonical) : Keeps (execPreptimeExpiry eid s) := by
  unfold execPreptimeExpiry
  split <;> simp +contextual [*]

@[simp] theorem State.mem_beatDone (s : State) (job beat bytes : Nat) : (s.beatDone job beat bytes).mem = s.mem := by
  unfold State.beatDone
  dsimp only
  (repeat' split) <;> simp

@[simp] theorem State.mem_onDest (s : State) (eid : Nat) (f : Dest → Dest) : (s.onDest eid f).mem = s.mem := (rfl)

@[simp] theorem State.mem_takeEid (s : State) (eid : Nat) : (s.takeEid eid).mem = s.mem := by
  simp [State.takeEid]

@[simp] theorem State.mem_freeDest (s : State) (eid : Nat) : (s.freeDest eid).mem = s.mem := (rfl)

@[simp] theorem State.mem_failDest (s : State) (eid cause : Nat) : (s.failDest eid cause).mem = s.mem := (rfl)

@[simp] theorem State.mem_stageSeal (s : State) (m : SealMsg) (ws : List (Nat × Byte × Byte)) :
    (s.stageSeal m ws).mem = s.mem := by
  simp [State.stageSeal]

@[simp] theorem State.mem_sealStaging (s : State) (m : SealMsg) (d : Dest) : (s.sealStaging m d).1.mem = s.mem := by
  unfold State.sealStaging
  dsimp only
  (repeat' split) <;> simp

@[simp] theorem State.mem_refuseSeal (s : State) (pkt src : Nat) (m : SealMsg) (cause : Nat) :
    (s.refuseSeal pkt src m cause).mem = s.mem := by
  simp [State.refuseSeal]

@[simp] theorem keeps_execSeal (pkt : Nat) (s : State) (hm : s.mem.Canonical) : Keeps (execSeal pkt s) := by
  unfold execSeal
  dsimp only
  (repeat' split) <;> simp +contextual [*]

@[simp] theorem keeps_execPrepare (pkt : Nat) (s : State) (hm : s.mem.Canonical) : Keeps (execPrepare pkt s) := by
  refine State.keeps_takePacket pkt (fun p t ht => ?_) hm
  repeat' (first | split | dsimp only)
  all_goals simp [ht]

@[simp] theorem State.mem_postInDoubt (s : State) (kind : Nat) (d : Dest) : (s.postInDoubt kind d).mem = s.mem := by
  unfold State.postInDoubt
  split <;> simp

@[simp] theorem State.canonical_publishDest (s : State) (d : Dest)
    (hm : s.mem.Canonical) : (s.publishDest d).mem.Canonical := by
  have write : ∀ (t : State) (w : Nat × List Byte), t.mem.Canonical →
      (d.vf.elim (t.homeWrite w.1 w.2) fun vf => (t.homeWrite w.1 w.2).visit vf none w.1 0).mem.Canonical := by
    intro t w ht
    cases d.vf <;> simp [ht]
  unfold State.publishDest
  simp only [State.mem_onEveryCore]
  exact State.canonical_foldl write _ (by simp [hm])

@[simp] theorem State.canonical_applyDecision (s : State) (d : Dest) (publish : Bool)
    (hm : s.mem.Canonical) : (s.applyDecision d publish).mem.Canonical := by
  simp +contextual [State.applyDecision, hm]

@[simp] theorem State.canonical_publishNext (s : State) (hm : s.mem.Canonical) : (s.publishNext).mem.Canonical := by
  unfold State.publishNext
  split <;> simp +contextual [*]

@[simp] theorem State.canonical_publishReady (s : State) (hm : s.mem.Canonical) : (s.publishReady).mem.Canonical := by
  simp +contextual [State.publishReady, hm]

@[simp] theorem State.canonical_takeDecision (s : State) (d : Dest) (publish : Bool)
    (hm : s.mem.Canonical) : (s.takeDecision d publish).mem.Canonical := by
  simp +contextual [State.takeDecision, hm]

@[simp] theorem keeps_execPublish (pkt : Nat) (s : State) (hm : s.mem.Canonical) : Keeps (execPublish pkt s) := by
  refine State.keeps_takePacket pkt (fun p t ht => ?_) hm
  repeat' (first | split | dsimp only)
  all_goals simp [ht]

@[simp] theorem keeps_execDiscard (pkt : Nat) (s : State) (hm : s.mem.Canonical) : Keeps (execDiscard pkt s) := by
  refine State.keeps_takePacket pkt (fun p t ht => ?_) hm
  repeat' (first | split | dsimp only)
  all_goals simp [ht]

@[simp] theorem keeps_execQueryResend (eid : Nat) (s : State) (hm : s.mem.Canonical) : Keeps (execQueryResend eid s) := by
  unfold execQueryResend
  split <;> simp +contextual [*]

@[simp] theorem keeps_execIndoubtIntervalExpiry (eid : Nat) (s : State)
    (hm : s.mem.Canonical) : Keeps (execIndoubtIntervalExpiry eid s) := by
  unfold execIndoubtIntervalExpiry
  split <;> simp +contextual [*]

@[simp] theorem State.canonical_hostDecision (s : State) (eid : Nat) (publish : Bool)
    (hm : s.mem.Canonical) : (s.hostDecision eid publish).mem.Canonical := by
  unfold State.hostDecision
  split <;> simp +contextual [*]

@[simp] theorem keeps_execHostPublish (eid : Nat) (s : State) (hm : s.mem.Canonical) : Keeps (execHostPublish eid s) := by
  simp +contextual [execHostPublish, hm]

@[simp] theorem keeps_execHostDiscard (eid : Nat) (s : State) (hm : s.mem.Canonical) : Keeps (execHostDiscard eid s) := by
  simp +contextual [execHostDiscard, hm]

@[simp] theorem State.mem_oweSignal (s : State) (n : Nat) (r : PortReq) : (s.oweSignal n r).1.mem = s.mem := by
  unfold State.oweSignal
  dsimp only
  (repeat' split) <;> simp

@[simp] theorem State.mem_postJob (s : State) (n : Nat) (r : PortReq) (addr : Nat) (p : Plan) (bb sig : Option Nat)
    (group : Nat) (step : Option Step) :
    (s.postJob n r addr p bb sig group step).mem = s.mem := by
  simp [State.postJob]

theorem State.mem_takeCoord {s t : State} {vf : Nat} {e : EnvSlot} (h : s.takeCoord vf e = some t) : t.mem = s.mem := by
  simp only [State.takeCoord] at h
  split_ifs at h <;> cases h <;> rfl

@[simp] theorem State.mem_sealRecord (s : State) (n : Nat) (k : Card) : (s.sealRecord n k).mem = s.mem := by
  unfold State.sealRecord
  split
  · cases e : s.takeCoord (s.ctx n).id.vf ((s.ctx n).slot k.env) with
    | none => simp [e]
    | some t => simpa [e] using State.mem_takeCoord e
  · rfl

@[simp] theorem State.mem_sendRoce (s : State) (vf : Nat) (xs : List RoceOut) : (s.sendRoce vf xs).mem = s.mem := by
  unfold State.sendRoce
  split <;> simp

@[simp] theorem State.mem_setSlow (s : State) (vf qp : Nat) (slow : Bool) : (s.setSlow vf qp slow).mem = s.mem := (rfl)

@[simp] theorem State.mem_onBeat (s : State) (job beat : Nat) (f : Beat → Beat) : (s.onBeat job beat f).mem = s.mem := (rfl)

@[simp] theorem State.mem_freezeJob (s : State) (j : Job) : (s.freezeJob j).mem = s.mem := (rfl)

@[simp] theorem State.canonical_violateJob (s : State) (j : Job) (reason va : Nat)
    (hm : s.mem.Canonical) : (s.violateJob j reason va).mem.Canonical := by
  simp +contextual [State.violateJob, hm]

@[simp] theorem State.mem_visitRead (s t : State) (j : Job) (beat : Nat) (as : List Nat) :
    (s.visitRead t j beat as).mem = t.mem := by
  simp [State.visitRead]

@[simp] theorem State.mem_freeDrain (s : State) (j : Nat) : (s.freeDrain j).mem = s.mem := by
  unfold State.freeDrain
  split <;> simp

/-- Reading a beat's source leaves a canonical memory, in the state with its bytes and in the one with its fault. -/
def ReadKeeps : Option (Except (Trapped × State) State) → Prop
  | some (.ok t) => t.mem.Canonical
  | some (.error x) => x.2.mem.Canonical
  | none => True

theorem State.keeps_readLocal {s : State} (j : Job) (beat : Nat) (as : List Nat) (hm : s.mem.Canonical) :
    ReadKeeps (s.readLocal j beat as) := by
  unfold State.readLocal
  refine List.foldlRecOn (motive := ReadKeeps) as _ hm fun acc keep a _ => ?_
  split
  case h_2 => exact keep
  case h_1 t =>
  split
  case h_2 => exact keep
  case h_1 pa emb _ =>
  have cell := State.keeps_loadCell (.beat j.id beat) [] none j.vf (cellOf pa) (cellOf a) keep
  dsimp only
  generalize t.loadCell _ _ _ _ _ _ = c at cell
  repeat' split
  all_goals simp_all [ReadKeeps, CellLoad.Keeps]

theorem State.keeps_readBeat {s : State} (j : Job) (beat : Nat) (b : Nat × Nat) (hm : s.mem.Canonical) :
    ReadKeeps (s.readBeat j beat b) := by
  have near := s.keeps_readLocal j beat (j.sourceBytes b) hm
  unfold State.readBeat
  dsimp only
  generalize s.readLocal j beat (j.sourceBytes b) = r at near
  split
  case h_1 => rcases r with _ | (_ | _) <;> simp_all [ReadKeeps, Except.map]
  all_goals
    repeat' split
    all_goals simp [ReadKeeps, hm]

theorem State.canonical_readBeat {s t : State} {j : Job} {beat : Nat} {b : Nat × Nat} (hm : s.mem.Canonical)
    (e : s.readBeat j beat b = some (.ok t)) : t.mem.Canonical := by
  simpa [e, ReadKeeps] using s.keeps_readBeat j beat b hm

theorem State.canonical_readBeat_fault {s t : State} {f : Trapped} {j : Job} {beat : Nat} {b : Nat × Nat}
    (hm : s.mem.Canonical)
    (e : s.readBeat j beat b = some (.error (f, t))) : t.mem.Canonical := by
  simpa [e, ReadKeeps] using s.keeps_readBeat j beat b hm

@[simp] theorem keeps_execBeatStart (job beat : Nat) (s : State)
    (hm : s.mem.Canonical) : Keeps (execBeatStart job beat s) := by
  unfold execBeatStart
  dsimp only
  repeat' split
  all_goals try simp [hm]
  · next e =>
    have ht := State.canonical_readBeat_fault (by simp [hm]) e
    simp [ht]
  · next e =>
    have ht := State.canonical_readBeat (by simp [hm]) e
    simp [ht]

@[simp] theorem State.mem_dropFrame (s : State) (id : Nat) : (s.dropFrame id).mem = s.mem := (rfl)

@[simp] theorem State.mem_takeAnswer (s : State) (j : Job) (beat : Nat) (as : List Nat) :
    (s.takeAnswer j beat as).mem = s.mem := by
  unfold State.takeAnswer
  dsimp only
  (repeat' split) <;> simp

@[simp] theorem State.canonical_writeMasked (s : State) (pa : Nat) (mask val : Byte)
    (hm : s.mem.Canonical) : (s.writeMasked pa mask val).mem.Canonical := by
  simp +contextual [State.writeMasked, hm]

@[simp] theorem State.canonical_masterWrite (s : State) (p : Path) (vf : Nat) (kindle : Bool) (w : Nat × Byte × Byte)
    (hm : s.mem.Canonical) : (s.masterWrite p vf kindle w).1.mem.Canonical := by
  unfold State.masterWrite
  dsimp only
  (repeat' split) <;> simp +contextual [*]

@[simp] theorem State.mem_wakeAddrs (s : State) (p : Path) (vf : Nat) (as : List Nat) :
    (s.wakeAddrs p vf as).mem = s.mem := (rfl)

@[simp] theorem State.canonical_masterBytes (s : State) (p : Path) (vf : Nat) (kindle : Bool) (ws : List (Nat × Byte × Byte))
    (hm : s.mem.Canonical) : (s.masterBytes p vf kindle ws).1.mem.Canonical := by
  simp +contextual [State.masterBytes, hm]

@[simp] theorem State.canonical_masterWrites (s : State) (p : Path) (vf : Nat) (kindle : Bool) (ws : List
    (Nat × Byte × Byte))
    (hm : s.mem.Canonical) : (s.masterWrites p vf kindle ws).1.mem.Canonical := by
  unfold State.masterWrites
  split <;> simp +contextual [*]

@[simp] theorem State.canonical_masterReduce (s : State) (p : Path) (vf : Nat) (kindle : Bool) (redop width : Nat)
    (ts : List (Nat × Nat × Exact))
    (hm : s.mem.Canonical) : (s.masterReduce p vf kindle redop width ts).1.mem.Canonical := by
  unfold State.masterReduce
  dsimp only
  cases if kindle then none else s.emberMet p vf (ts.flatMap fun t => (List.range width).map fun i => t.1 + i) with
  | some a => exact hm
  | none =>
    refine (State.mem_wakeAddrs _ _ _ _).symm ▸ State.canonical_foldl_fst ts (fun x t hx => ?_) hm
    split <;> simp [hx]

@[simp] theorem State.mem_landByte (s : State) (n : Nat) (w : Nat × Byte × Byte) : (s.landByte n w).mem = s.mem := (rfl)

@[simp] theorem State.mem_landLocal (s : State) (n : Nat) (tile : Option Nat) (ws : List (Nat × Byte × Byte)) :
    (s.landLocal n tile ws).mem = s.mem := by
  unfold State.landLocal
  split <;> simp

@[simp] theorem State.canonical_sendBeat (s : State) (j : Job) (beat : Nat) (b : Nat × Nat) (c : Carried) (order : List Nat)
    (hm : s.mem.Canonical) : (s.sendBeat j beat b c order).mem.Canonical := by
  unfold State.sendBeat
  dsimp only
  (repeat' split) <;> simp +contextual [*]

@[simp] theorem State.canonical_landBeat (s : State) (j : Job) (beat : Nat) (b : Nat × Nat) (c : Carried) (order : List Nat)
    (hm : s.mem.Canonical) : (s.landBeat j beat b c order).1.mem.Canonical := by
  unfold State.landBeat
  dsimp only
  (repeat' split) <;> simp +contextual [*]

@[simp] theorem State.canonical_finishBeat (s : State) (j : Job) (x : Beat) (b : Nat × Nat) (order : List Nat)
    (hm : s.mem.Canonical) : (s.finishBeat j x b order).mem.Canonical := by
  have landed := (s.onJob j.id fun i => { i with damage := Damage.add i.damage (i.beatDamage (j.carry b x.bytes))
      }).canonical_landBeat
    j x.num b (j.carry b x.bytes) order (by simpa using hm)
  unfold State.finishBeat
  dsimp only
  generalize State.landBeat _ _ _ _ _ _ = y at landed
  rcases y with ⟨t, _ | bad⟩
  all_goals
    repeat' split
    all_goals simp_all

@[simp] theorem State.mem_discardAnswer (s : State) (job beat : Nat) : (s.discardAnswer job beat).mem = s.mem := by
  unfold State.discardAnswer
  split <;> simp

@[simp] theorem keeps_execBeatComplete (job beat : Nat) (order : List Nat) (s : State)
    (hm : s.mem.Canonical) : Keeps (execBeatComplete job beat order s) := by
  unfold execBeatComplete
  repeat' (first | split | dsimp only)
  all_goals try simp [hm]
  · next e =>
    have ht := State.canonical_readBeat (by simp [hm]) e
    simp [ht]
  · next e =>
    have ht := State.canonical_readBeat_fault (by simp [hm]) e
    simp [ht]

@[simp] theorem State.mem_sealedBeat (s : State) (job beat : Nat) : (s.sealedBeat job beat).mem = s.mem := by
  unfold State.sealedBeat
  (repeat' split) <;> simp

@[simp] theorem keeps_execSealack (pkt : Nat) (s : State) (hm : s.mem.Canonical) : Keeps (execSealack pkt s) := by
  refine State.keeps_takePacket pkt (fun p t ht => ?_) hm
  repeat' (first | split | dsimp only)
  all_goals simp [ht]

@[simp] theorem keeps_execRemoteError (job beat : Nat) (s : State)
    (hm : s.mem.Canonical) : Keeps (execRemoteError job beat s) := by
  unfold execRemoteError
  (repeat' split) <;> simp +contextual [*]

@[simp] theorem State.mem_drainQuarantine (s : State) (n : Nat) : (s.drainQuarantine n).mem = s.mem := by
  unfold State.drainQuarantine
  refine State.mem_foldl (fun t q => ?_) _ _
  repeat' (first | split | dsimp only)
  all_goals simp

end Sys2Proof.Machine
end

section
/-!
PROOFS. Every step keeps the memory in canonical form (O3): remote requests, the intake unit, rounds and routines.
An operation that writes no byte leaves the memory; one that does puts back a canonical one.
-/
namespace Sys2Proof.Machine
open Sys2Proof

@[simp] theorem State.mem_answerStreams (s : State) (r : RemoteReq) (data : List Byte) (error addr : Nat) :
    (s.answerStreams r data error addr).mem = s.mem := by
  simp [State.answerStreams]

@[simp] theorem State.mem_endRemote (s : State) (pkt : Nat) : (s.endRemote pkt).mem = s.mem := (rfl)

@[simp] theorem State.mem_closeRemote (s : State) (pkt : Nat) (r : RemoteReq) (data : List Byte) (error addr : Nat) :
    (s.closeRemote pkt r data error addr).mem = s.mem := by
  simp [State.closeRemote]

@[simp] theorem State.mem_turnAway (s : State) (pkt : Nat) (r : RemoteReq) (error addr : Nat) :
    (s.turnAway pkt r error addr).mem = s.mem := by
  simp [State.turnAway]

@[simp] theorem State.mem_answerAgain (s : State) (pkt : Nat) (r : RemoteReq) : (s.answerAgain pkt r).mem = s.mem := by
  simp [State.answerAgain]

@[simp] theorem State.mem_refuseRemote (s : State) (pkt src : Nat) (r : RemoteReq) (reason va : Nat) :
    (s.refuseRemote pkt src r reason va).mem = s.mem := by
  simp [State.refuseRemote]

@[simp] theorem State.canonical_gatherCell (s : State) (pkt vf : Nat) (c : Nat × Nat)
    (hm : s.mem.Canonical) : (s.gatherCell pkt vf c).mem.Canonical := by
  unfold State.gatherCell
  split
  · exact hm
  have cell := State.keeps_loadCell (.remote pkt) [] none vf c.2 c.1 hm
  generalize s.loadCell _ _ _ _ _ _ = x at cell
  cases x <;> simp_all [CellLoad.Keeps]

@[simp] theorem State.canonical_remoteRead (s : State) (pkt : Nat) (r : RemoteReq)
    (hm : s.mem.Canonical) : (s.remoteRead pkt r).mem.Canonical := by
  unfold State.remoteRead
  dsimp only
  (repeat' split) <;> simp +contextual [*]

@[simp] theorem State.canonical_remoteWrite (s : State) (pkt : Nat) (r : RemoteReq)
    (hm : s.mem.Canonical) : (s.remoteWrite pkt r).mem.Canonical := by
  unfold State.remoteWrite
  dsimp only
  (repeat' split) <;> simp +contextual [*]

@[simp] theorem keeps_execRemoteRequestReceive (pkt : Nat) (s : State)
    (hm : s.mem.Canonical) : Keeps (execRemoteRequestReceive pkt s) := by
  unfold execRemoteRequestReceive
  (repeat' split) <;> simp +contextual [*]

@[simp] theorem State.mem_congest (s : State) (vf : Nat) (marked : Bool) (b : EthBody) :
    (s.congest vf marked b).mem = s.mem := by
  unfold State.congest
  split <;> simp

@[simp] theorem keeps_execEthernetFrameReceive (f : EthFrame) (s : State)
    (hm : s.mem.Canonical) : Keeps (execEthernetFrameReceive f s) := by
  unfold execEthernetFrameReceive
  dsimp only
  (repeat' split) <;> simp +contextual [*]

@[simp] theorem State.mem_setRing (s : State) (vf k : Nat) (r : Ring) : (s.setRing vf k r).mem = s.mem := (rfl)

@[simp] theorem State.mem_closeMessage (s : State) (m : Message) (counted : Bool) :
    (s.closeMessage m counted).mem = s.mem := by
  simp [State.closeMessage]

@[simp] theorem State.mem_dropMessage (s : State) (m : Message) (r : Ring) (counter : Nat) :
    (s.dropMessage m r counter).mem = s.mem := by
  simp [State.dropMessage]

@[simp] theorem State.mem_notifyRing (s : State) (vf : Nat) (r : Ring) : (s.notifyRing vf r).mem = s.mem := by
  unfold State.notifyRing
  split <;> simp

@[simp] theorem State.mem_refuseMessage (s : State) (m : Message) (r : Ring) (reason va : Nat) :
    (s.refuseMessage m r reason va).mem = s.mem := by
  simp [State.refuseMessage]

@[simp] theorem State.canonical_acceptMessage (s : State) (m : Message) (r : Ring) (units : Nat)
    (hm : s.mem.Canonical) : (s.acceptMessage m r units).mem.Canonical := by
  simp +contextual [State.acceptMessage, hm]

theorem State.canonical_settleMessage {s t : State} {m : Message} {whole : Bool} (hm : s.mem.Canonical)
    (e : s.settleMessage m whole = some t) : t.mem.Canonical := by
  unfold State.settleMessage at e
  split at e
  case h_4 =>
    split at e <;> cases e <;> simp [hm]
  all_goals cases e; simp [hm]

theorem State.canonical_settled {s t : State} (m : Message) (whole : Bool) (hs : s.mem.Canonical) (ht : t.mem.Canonical) :
    ((s.settleMessage m whole).getD t).mem.Canonical := by
  cases e : s.settleMessage m whole with
  | none => exact ht
  | some u => exact State.canonical_settleMessage hs e

@[simp] theorem keeps_execUetPacketReceive (frame : Nat) (s : State)
    (hm : s.mem.Canonical) : Keeps (execUetPacketReceive frame s) := by
  unfold execUetPacketReceive
  repeat' (first | split | dsimp only)
  all_goals simp [hm, State.canonical_settled]

@[simp] theorem keeps_execReassemblyTimeout (id : Nat) (s : State)
    (hm : s.mem.Canonical) : Keeps (execReassemblyTimeout id s) := by
  unfold execReassemblyTimeout
  split <;> simp [hm, State.canonical_settled]

theorem State.keeps_onRing {s : State} (n id : Nat) {k : PortReq → Nat → Ring → State → State}
    (keep : ∀ r x g t, t.mem.Canonical → (k r x g t).mem.Canonical) (hm : s.mem.Canonical) : Keeps (s.onRing n id k) := by
  have flushed := s.canonical_flushCtx n hm
  unfold State.onRing
  dsimp only
  repeat' split
  all_goals simp [hm, keep, flushed]

@[simp] theorem keeps_execItakePerform (n id : Nat) (s : State)
    (hm : s.mem.Canonical) : Keeps (execItakePerform n id s) := by
  refine State.keeps_onRing n id (fun r x g t ht => ?_) hm
  repeat' (first | split | dsimp only)
  all_goals simp [ht]

@[simp] theorem keeps_execIgivePerform (n id : Nat) (s : State)
    (hm : s.mem.Canonical) : Keeps (execIgivePerform n id s) := by
  refine State.keeps_onRing n id (fun r x g t ht => ?_) hm
  repeat' (first | split | dsimp only)
  all_goals simp [ht]

@[simp] theorem keeps_execIstatPerform (n id : Nat) (s : State)
    (hm : s.mem.Canonical) : Keeps (execIstatPerform n id s) := by
  refine State.keeps_onRing n id (fun r x g t ht => ?_) hm
  repeat' (first | split | dsimp only)
  all_goals simp [ht]

@[simp] theorem State.mem_startRound (s : State) (core : Nat) : (s.startRound core).mem = s.mem := (rfl)

@[simp] theorem keeps_execRoundStart (core : Nat) (s : State) (hm : s.mem.Canonical) : Keeps (execRoundStart core s) := by
  simp +contextual [execRoundStart, hm]

@[simp] theorem State.mem_passCycles (s : State) (core n : Nat) : (s.passCycles core n).mem = s.mem := (rfl)

@[simp] theorem State.mem_switchTo (s : State) (core n : Nat) : (s.switchTo core n).mem = s.mem := by
  simp [State.switchTo]

@[simp] theorem State.mem_noteIssue (s : State) (core n : Nat) : (s.noteIssue core n).mem = s.mem := (rfl)

@[simp] theorem State.mem_freeFrames (s : State) (n key : Nat) : (s.freeFrames n key).mem = s.mem := by
  simp [State.freeFrames]

@[simp] theorem State.mem_unbind (s : State) (n key : Nat) : (s.unbind n key).mem = s.mem := by
  simp [State.unbind]

@[simp] theorem State.mem_dropPages (s : State) (n : Nat) : (s.dropPages n).mem = s.mem := (rfl)

@[simp] theorem State.mem_queueHash (s : State) (n opc : Nat) (b : Binding) : (s.queueHash n opc b).mem = s.mem := (rfl)

@[simp] theorem State.mem_applyBind (s : State) (n opc : Nat) (b : Option Binding) : (s.applyBind n opc b).mem = s.mem := by
  unfold State.applyBind
  dsimp only
  (repeat' split) <;> simp

@[simp] theorem State.mem_trimFrames (s : State) (core : Nat) : (s.trimFrames core).mem = s.mem := (rfl)

@[simp] theorem State.mem_putFrame (s : State) (core : Nat) (g : Fetch) (f : Frame) :
    (s.putFrame core g f).mem = s.mem := (rfl)

@[simp] theorem State.mem_useFrame (s : State) (core key page : Nat) (needed : Bool) :
    (s.useFrame core key page needed).mem = s.mem := (rfl)

@[simp] theorem State.mem_wantPage (s : State) (n : Nat) (r : Routine) : (s.wantPage n r).mem = s.mem := by
  simp [State.wantPage]

@[simp] theorem State.mem_dropFetch (s : State) (core : Nat) (f : Fetch) : (s.dropFetch core f).mem = s.mem := (rfl)

@[simp] theorem keeps_execCourierFetch (core vf : Nat) (s : State)
    (hm : s.mem.Canonical) : Keeps (execCourierFetch core vf s) := by
  unfold execCourierFetch
  dsimp only
  (repeat' split) <;> simp +contextual [*]

@[simp] theorem State.mem_refuseRoutine (s : State) (n key reason : Nat) :
    (s.refuseRoutine n key reason).mem = s.mem := (rfl)

@[simp] theorem State.mem_failFetch (s : State) (core : Nat) (f : Fetch) (reason : Nat) :
    (s.failFetch core f reason).mem = s.mem := by
  simp [State.failFetch]

@[simp] theorem State.mem_violateCourier (s : State) (core vf : Nat) (f : Fetch) (reason va : Nat) :
    (s.violateCourier core vf f reason va).mem = s.mem := by
  simp [State.violateCourier]

@[simp] theorem State.mem_pageArrived (s : State) (core vf : Nat) (f : Fetch) (b : Binding) (bs : List Byte) :
    (s.pageArrived core vf f b bs).mem = s.mem := by
  unfold State.pageArrived
  dsimp only
  (repeat' split) <;> simp

@[simp] theorem keeps_execCourierFetchComplete (core vf : Nat) (s : State)
    (hm : s.mem.Canonical) : Keeps (execCourierFetchComplete core vf s) := by
  unfold execCourierFetchComplete
  dsimp only
  (repeat' split) <;> simp +contextual [*]

@[simp] theorem State.canonical_boundary (s : State) (n : Nat) (ts : List Trapped) (pc : Dword)
    (hm : s.mem.Canonical) : (s.boundary n ts pc).mem.Canonical := by
  unfold State.boundary
  dsimp only
  (repeat' split) <;> simp +contextual [*]

@[simp] theorem State.canonical_closeRoutines (s : State) (n : Nat) (raised : Option Trapped)
    (hm : s.mem.Canonical) : (s.closeRoutines n raised).mem.Canonical := by
  simp +contextual [State.closeRoutines, hm]

@[simp] theorem State.canonical_endRefused (s : State) (n : Nat) (r : Routine) (t : Trapped)
    (hm : s.mem.Canonical) : (s.endRefused n r t).mem.Canonical := by
  simp +contextual [State.endRefused, hm]

@[simp] theorem State.canonical_exitRoutine (s : State) (n : Nat) (r : Routine)
    (hm : s.mem.Canonical) : (s.exitRoutine n r).mem.Canonical := by
  simp +contextual [State.exitRoutine, hm]

@[simp] theorem keeps_execBoundRoutineStart (n : Nat) (s : State)
    (hm : s.mem.Canonical) : Keeps (execBoundRoutineStart n s) := by
  unfold execBoundRoutineStart
  dsimp only
  (repeat' split) <;> simp +contextual [*]

@[simp] theorem State.mem_microWrite (s : State) (n : Nat) (r : Routine) (w : MicroWord) (view : Ctx)
    (act : BitVec 128) (ws : List LaneWrite) (result : List Word) :
    (s.microWrite n r w view act ws result).1.mem = s.mem := by
  unfold State.microWrite
  dsimp only
  (repeat' split) <;> simp

@[simp] theorem State.mem_executeWord (s : State) (n : Nat) (r : Routine) (w : MicroWord) :
    (s.executeWord n r w).1.mem = s.mem := by
  simp [State.executeWord]

@[simp] theorem State.mem_noteHeld (s : State) (n : Nat) (before after : Routine) :
    (s.noteHeld n before after).mem = s.mem := by
  simp [State.noteHeld]

@[simp] theorem State.canonical_stopRoutine (s : State) (n : Nat) (r : Routine) (t : Trapped)
    (hm : s.mem.Canonical) : (s.stopRoutine n r t).mem.Canonical := by
  simp +contextual [State.stopRoutine, hm]

@[simp] theorem keeps_execMicroStep (n : Nat) (s : State) (hm : s.mem.Canonical) : Keeps (execMicroStep n s) := by
  unfold execMicroStep
  dsimp only
  (repeat' split) <;> simp +contextual [*]

end Sys2Proof.Machine
end

section
/-!
PROOFS. Every step keeps the memory in canonical form (O3): collective steps, control ops, ember ops and the replay list.
An operation that writes no byte leaves the memory; one that does puts back a canonical one.
-/
namespace Sys2Proof.Machine
open Sys2Proof

@[simp] theorem State.canonical_runStep (s : State) (j : Job) (st : Step) (w : MicroWord)
    (hm : s.mem.Canonical) : (s.runStep j st w).1.mem.Canonical := by
  have sent : ∀ (t : State) (d : Prop) [Decidable d] (list : Nat) (o : Option (Nat × Nat))
      (bs : List Byte), t.mem.Canonical →
      (if d then (match o with
        | some (d, v) => t.send d (.unit (partOf v) list bs)
        | none => t) else t).mem.Canonical := by
    intro t d _ list o bs ht
    repeat' split
    all_goals simpa using ht
  unfold State.runStep
  dsimp only
  generalize hu : (if (w.sends = true) then _ else _ : State) = u
  have hm : u.mem.Canonical := hu ▸ sent _ _ _ _ _ (by simpa using hm)
  split
  · split <;> simp [hm]
  · exact hm

@[simp] theorem State.mem_exitStep (s : State) (j : Job) : (s.exitStep j).mem = s.mem := by
  unfold State.exitStep
  dsimp only
  (repeat' split) <;> simp

@[simp] theorem State.canonical_stepOn (s : State) (j : Job) (st : Step) (w : MicroWord) (reads : List Nat)
    (hm : s.mem.Canonical) : (s.stepOn j st w reads).mem.Canonical := by
  have ran := s.canonical_runStep j st w hm
  unfold State.stepOn
  dsimp only
  split
  · simp [hm]
  · simp [hm]
  · split
    · generalize s.runStep j st w = y at ran
      rcases y with ⟨t, _ | bad⟩
      · dsimp only
        split <;> simpa using ran
      · exact State.canonical_jobFault _ _ _ [] ran
    · exact hm

@[simp] theorem State.canonical_performStep (s : State) (j : Job) (st : Step) (w : MicroWord)
    (hm : s.mem.Canonical) : (s.performStep j st w).mem.Canonical := by
  have begun : ∀ c : Bool, (if c then s else s.onJob j.id
      fun j => { j with beats := j.beats ++ [{ num := st.micro.steps }] }).mem.Canonical := by
    intro c
    split <;> simp [hm]
  unfold State.performStep
  dsimp only
  split
  · exact hm
  split
  · exact State.canonical_violateJob _ _ _ _ hm
  have ready := begun (j.beats.any (fun b => b.num == st.micro.steps) || (j.stepReads st w).isEmpty)
  generalize (if (j.beats.any (fun b => b.num == st.micro.steps) || (j.stepReads st w).isEmpty)
      = true then s else _ : State) = u at ready
  have read := u.keeps_readLocal j st.micro.steps (j.stepReads st w) ready
  have gathered : ReadKeeps (if (j.stepReads st w).isEmpty then some (.ok u) else u.readLocal j st.micro.steps
      (j.stepReads st w)) := by
    split
    · exact ready
    · exact read
  generalize (if (j.stepReads st w).isEmpty = true then _ else _ : Option (Except (Trapped × State) State)) = r at gathered
  rcases r with _ | (⟨f, t⟩ | t)
  · exact ready
  · exact State.canonical_jobFault _ _ _ [] gathered
  · dsimp only
    split
    · exact ready
    · exact (State.mem_visitAddrs _ _ _ _ _).symm ▸ State.canonical_stepOn _ _ _ _ _ gathered

@[simp] theorem keeps_execCollectiveMicroStep (job : Nat) (s : State)
    (hm : s.mem.Canonical) : Keeps (execCollectiveMicroStep job s) := by
  unfold execCollectiveMicroStep
  dsimp only
  (repeat' split) <;> simp +contextual [*]

@[simp] theorem State.mem_transfer (s : State) (target : Dword) : (s.transfer target).mem = s.mem := (rfl)

@[simp] theorem State.mem_postCause (s : State) (t : Trapped) : (s.postCause t).mem = s.mem := (rfl)

@[simp] theorem State.mem_emberDone (s : State) (n : Nat) (r : PortReq) : (s.emberDone n r).mem = s.mem := (rfl)

theorem State.keeps_atCell {s : State} (n id : Nat) {k : PortReq → Nat → State → State}
    (keep : ∀ r pa t, t.mem.Canonical → (k r pa t).mem.Canonical) (hm : s.mem.Canonical) : Keeps (s.atCell n id k) := by
  have access : Keeps (s.performing n id fun r s =>
      let s := if r.holdsAll then s.flushCtx n else s.releaseFirst n r
      match s.xlatePort n r 0 with
      | .ok pa true => s.visitOp (k r pa s) n r pa
      | .ok _ false => s.portFault n id (permInfo 0x30)
      | _ => s) := by
    refine State.keeps_performing n id (fun r t ht => ?_) hm
    repeat' (first | split | dsimp only)
    all_goals simp [ht, keep]
  unfold State.atCell
  dsimp only
  repeat' split
  all_goals try exact access
  all_goals simpa using hm

@[simp] theorem keeps_execEmakePerform (n id : Nat) (s : State)
    (hm : s.mem.Canonical) : Keeps (execEmakePerform n id s) := by
  refine State.keeps_atCell n id (fun r pa t ht => ?_) hm
  repeat' (first | split | dsimp only)
  all_goals simp [ht]

@[simp] theorem keeps_execEfillPerform (n id : Nat) (s : State)
    (hm : s.mem.Canonical) : Keeps (execEfillPerform n id s) := by
  refine State.keeps_atCell n id (fun r pa t ht => ?_) hm
  repeat' (first | split | dsimp only)
  all_goals simp [ht]

@[simp] theorem keeps_execEfailPerform (n id : Nat) (s : State)
    (hm : s.mem.Canonical) : Keeps (execEfailPerform n id s) := by
  refine State.keeps_atCell n id (fun r pa t ht => ?_) hm
  repeat' (first | split | dsimp only)
  all_goals simp [ht]

@[simp] theorem keeps_execEarmPerform (n id : Nat) (s : State) (hm : s.mem.Canonical) : Keeps (execEarmPerform n id s) := by
  refine State.keeps_atCell n id (fun r pa t ht => ?_) hm
  repeat' (first | split | dsimp only)
  all_goals simp [ht]

theorem State.keeps_peekCell {s : State} (n id : Nat) (second : PortReq → Nat → Bool → State → Dword)
    (hm : s.mem.Canonical) : Keeps (s.peekCell n id second) := by
  unfold State.peekCell
  dsimp only
  repeat' split
  all_goals try simpa using hm
  all_goals
    refine State.keeps_performing n id (fun r t ht => ?_) hm
    repeat' (first | split | dsimp only)
    all_goals simp [ht]

@[simp] theorem keeps_execEpeekPerform (n id : Nat) (s : State)
    (hm : s.mem.Canonical) : Keeps (execEpeekPerform n id s) := by
  unfold execEpeekPerform
  split
  · exact State.keeps_peekCell n id _ hm
  · simpa using hm

@[simp] theorem keeps_execEstatPerform (n id : Nat) (s : State)
    (hm : s.mem.Canonical) : Keeps (execEstatPerform n id s) := by
  unfold execEstatPerform
  split
  · exact State.keeps_peekCell n id _ hm
  · simpa using hm

@[simp] theorem keeps_execEmblimitExpiry (cell : Nat) (s : State)
    (hm : s.mem.Canonical) : Keeps (execEmblimitExpiry cell s) := by
  unfold execEmblimitExpiry
  dsimp only
  (repeat' split) <;> simp +contextual [*]

@[simp] theorem State.mem_requeue (s : State) (n : Nat) (r : PortReq) : (s.requeue n r).mem = s.mem := by
  unfold State.requeue
  dsimp only
  (repeat' split) <;> simp

end Sys2Proof.Machine
end

section
/-!
PROOFS. Operations that leave the registers of every context (O9).
-/
namespace Sys2Proof.Machine
open Sys2Proof

theorem State.regs_onCtx' {f : Ctx → Ctx} (keep : ∀ c, (f c).regs = c.regs) (s : State) (n m : Nat) :
    ((s.onCtx n f).ctx m).regs = (s.ctx m).regs := by
  rw [State.onCtx_eq, State.ctx_setCtx]
  split
  next e => rw [keep, e]
  next => rfl

@[simp] theorem State.regs_onCtx {f : Ctx → Ctx} (s : State) (n m : Nat) (keep : ∀ c, (f c).regs = c.regs) :
    ((s.onCtx n f).ctx m).regs = (s.ctx m).regs := State.regs_onCtx' keep s n m

@[simp] theorem State.regs_onCur {f : Ctx → Ctx} (s : State) (m : Nat) (keep : ∀ c, (f c).regs = c.regs) :
    ((s.onCur f).ctx m).regs = (s.ctx m).regs := State.regs_onCtx s _ m keep

@[simp] theorem State.ctx_onCore (s : State) (n : Nat) (f : Core → Core) (m : Nat) : (s.onCore n f).ctx m = s.ctx m := (rfl)
@[simp] theorem State.ctx_onVf (s : State) (n : Nat) (f : Vf → Vf) (m : Nat) : (s.onVf n f).ctx m = s.ctx m := (rfl)

@[simp] theorem State.regs_foldl {α : Type} {f : State → α → State} (l : List α) (s : State) (m : Nat)
    (keep : ∀ s a, ((f s a).ctx m).regs = (s.ctx m).regs) : ((l.foldl f s).ctx m).regs = (s.ctx m).regs :=
  List.foldlRecOn (motive := fun t : State => (t.ctx m).regs = (s.ctx m).regs) l f rfl fun t e a _ => (keep t a).trans e

@[simp] theorem Ctx.regs_onLevel (c : Ctx) (f : Level → Level) : (c.onLevel f).regs = c.regs := by
  unfold Ctx.onLevel Ctx.setLevel
  split <;> rfl
@[simp] theorem State.regs_ite (c : Prop) [Decidable c] (a b : State) (m : Nat) :
    ((if c then a else b).ctx m).regs = if c then (a.ctx m).regs else (b.ctx m).regs := apply_ite (fun t : State =>
        (t.ctx m).regs) c a b

theorem lookup?_map_snd {α β : Type} (g : α → β) (k : Nat) (l : List (Nat × α)) :
    lookup? k (l.map fun p => (p.1, g p.2)) = (lookup? k l).map g := by
  induction l with
  | nil => rfl
  | cons p l ih =>
    simp only [List.map_cons, lookup?, ih]
    split <;> rfl

/-- An update of every context's record alike, which leaves registers, leaves those of each context. -/
theorem State.regs_mapCtxs {g : Ctx → Ctx} (keep : ∀ c, (g c).regs = c.regs) (s : State) (m : Nat) :
    (({ s with ctxs := s.ctxs.map fun p => (p.1, g p.2) } : State).ctx m).regs = (s.ctx m).regs := by
  simp only [State.ctx, lookupD, lookup?_map_snd]
  cases lookup? m s.ctxs with
  | none => rfl
  | some c => exact keep c

@[simp] theorem Ctx.regs_completeSignal (c : Ctx) (k : Option Nat) : (c.completeSignal k).regs = c.regs := by
  cases k <;> rfl

@[simp] theorem Ctx.regs_respond (c : Ctx) (l : Landing) : (c.respond l).regs = c.regs := (rfl)

@[simp] theorem Ctx.regs_setAcquired (c : Ctx) : c.setAcquired.regs = c.regs := (rfl)

@[simp] theorem Ctx.regs_wakeBbw (c : Ctx) (k : Nat) : (c.wakeBbw k).regs = c.regs := by
  unfold Ctx.wakeBbw
  split
  · rfl
  · exact List.foldlRecOn (motive := fun d : Ctx => d.regs = c.regs) _ _ rfl fun d e r _ => e

@[simp] theorem Ctx.regs_wakeSwait (c : Ctx) (eid : Nat) (e : EnvSlot) : (c.wakeSwait eid e).regs = c.regs := by
  refine List.foldlRecOn (motive := fun d : Ctx => d.regs = c.regs) _ _ rfl fun d h r _ => ?_
  dsimp only
  split <;> exact h

@[simp] theorem Ctx.regs_subCounter (c : Ctx) (bb : Option Nat) (n : Nat) : (c.subCounter bb n).regs = c.regs := by
  unfold Ctx.subCounter
  split <;> simp

@[simp] theorem Ctx.regs_addDamage (c : Ctx) (a b d : Nat) : (c.addDamage a b d).regs = c.regs := (rfl)

@[simp] theorem Ctx.regs_outcome (c : Ctx) (eid st cause : Nat) : (c.outcome eid st cause).regs = c.regs := by
  unfold Ctx.outcome
  exact List.foldlRecOn (motive := fun d : Ctx => d.regs = c.regs) _ _ rfl fun d e p _ => by simpa using e

@[simp] theorem Ctx.regs_settleBbw (c : Ctx) : c.settleBbw.regs = c.regs :=
  List.foldlRecOn (motive := fun d : Ctx => d.regs = c.regs) _ _ rfl fun d e k _ => by simpa using e
@[simp] theorem Ctx.regs_setStat (c : Ctx) (n : Nat) (x : AccStatus) : (c.setStat n x).regs = c.regs := (rfl)
@[simp] theorem Ctx.regs_clearTag (c : Ctx) (n : Nat) : (c.clearTag n).regs = c.regs := (rfl)
@[simp] theorem Ctx.regs_clearIf (c : Ctx) (fn : BitVec 8) (n : Nat) : (c.clearIf fn n).regs = c.regs := by
  unfold Ctx.clearIf
  split <;> simp
@[simp] theorem Ctx.regs_deactivateFrom (c : Ctx) (n : Nat) : (c.deactivateFrom n).regs = c.regs := by
  simp [Ctx.deactivateFrom]
@[simp] theorem Ctx.regs_setLoop (c : Ctx) (n : Nat) (l : LoopLevel) : (c.setLoop n l).regs = c.regs := by
  simp [Ctx.setLoop]
@[simp] theorem State.regs_addSem (s : State) (n h v m : Nat) : ((s.addSem n h v).ctx m).regs = (s.ctx m).regs := (rfl)

@[simp] theorem State.regs_defer (s : State) (d : Nat) (e : Effect) (sig : Option Nat) (m : Nat) :
    ((s.defer d e sig).ctx m).regs = (s.ctx m).regs := by
  simp [State.defer]

@[simp] theorem State.regs_addPort (s : State) (r : PortReq) (m : Nat) : ((s.addPort r).1.ctx m).regs = (s.ctx m).regs := by
  simp [State.addPort]

@[simp] theorem State.regs_addSignal (s : State) (h : Hdr) (complete : Bool) (m : Nat) :
    ((s.addSignal h complete).1.ctx m).regs = (s.ctx m).regs := by
  unfold State.addSignal
  split <;> simp

@[simp] theorem State.regs_signalNow (s : State) (h : Hdr) (m : Nat) : ((s.signalNow h).ctx m).regs = (s.ctx m).regs := by
  simp [State.signalNow]

@[simp] theorem State.regs_timed (s : State) (h : Hdr) (d : Nat) (e : Effect) (m : Nat) :
    ((s.timed h d e).ctx m).regs = (s.ctx m).regs := by
  simp [State.timed]

@[simp] theorem State.regs_addPending (s : State) (n : Nat) (p : Pending) (m : Nat) :
    ((s.addPending n p).ctx m).regs = (s.ctx m).regs := by
  unfold State.addPending
  split <;> rfl

@[simp] theorem State.regs_raiseSem (s : State) (n h v m : Nat) : ((s.raiseSem n h v).ctx m).regs = (s.ctx m).regs := by
  simp [State.raiseSem]

@[simp] theorem State.regs_fireSignal (s : State) (n : Nat) (sig : Option Nat) (m : Nat) :
    ((s.fireSignal n sig).ctx m).regs = (s.ctx m).regs := by
  unfold State.fireSignal
  dsimp only
  (repeat' split) <;> simp

@[simp] theorem State.regs_onJob (s : State) (id : Nat) (f : Job → Job) (m : Nat) :
    ((s.onJob id f).ctx m).regs = (s.ctx m).regs := (rfl)

@[simp] theorem State.regs_subBytes (s : State) (j : Job) (n m : Nat) : ((s.subBytes j n).ctx m).regs = (s.ctx m).regs := by
  unfold State.subBytes
  dsimp only
  split
  · rfl
  · split <;> simp

@[simp] theorem State.regs_completionIncrement (s : State) (j : Job) (m : Nat) :
    ((s.completionIncrement j).ctx m).regs = (s.ctx m).regs := by
  simp [State.completionIncrement]

@[simp] theorem State.regs_completeJob (s : State) (j : Job) (m : Nat) :
    ((s.completeJob j).ctx m).regs = (s.ctx m).regs := by
  have kept : ∀ t : State, (State.ctx
      { t.onCore (coreOf j.ctx) (fun k => { k with board := k.board.filter fun e => e.job != j.id }) with
        jobs := t.jobs.filter fun k => k.id != j.id } m).regs = (t.ctx m).regs := fun t => rfl
  unfold State.completeJob
  obtain ⟨a, b, d⟩ := j.damage
  refine (kept _).trans ?_
  repeat' split
  all_goals simp

@[simp] theorem State.regs_dropSealed (s : State) (eid m : Nat) : ((s.dropSealed eid).ctx m).regs = (s.ctx m).regs := by
  simp [State.dropSealed]

@[simp] theorem State.regs_setOutcome (s : State) (eid st cause m : Nat) :
    ((s.setOutcome eid st cause).ctx m).regs = (s.ctx m).regs := by
  unfold State.setOutcome
  refine (State.regs_mapCtxs (g := fun c => if c.life.state != .saved then c.outcome eid st cause else c)
      (fun c => ?_) _ m).trans ?_
  · split <;> simp
  · simp

@[simp] theorem State.regs_onCoord (s : State) (eid : Nat) (f : Coord → Coord) (m : Nat) :
    ((s.onCoord eid f).ctx m).regs = (s.ctx m).regs := (rfl)

@[simp] theorem State.regs_send (s : State) (dst : Nat) (m : Msg) (k : Nat) :
    ((s.send dst m).ctx k).regs = (s.ctx k).regs := (rfl)

@[simp] theorem State.regs_decideEnvelope (s : State) (eid cause m : Nat) :
    ((s.decideEnvelope eid cause).ctx m).regs = (s.ctx m).regs := by
  unfold State.decideEnvelope
  repeat' (first | split | dsimp only)
  all_goals simp

@[simp] theorem State.regs_faultAfter (s : State) (t : Trapped) (r : PortReq) (m : Nat) :
    ((s.faultAfter t r).ctx m).regs = (s.ctx m).regs := by
  simp [State.faultAfter]

@[simp] theorem State.regs_pushOp (s : State) (n : Nat) (r : PortReq) (landing : Bool) (m : Nat) :
    ((s.pushOp n r landing).ctx m).regs = (s.ctx m).regs := by
  unfold State.pushOp
  dsimp only
  (repeat' split) <;> simp

@[simp] theorem State.regs_heldSignal (s : State) (n : Nat) (r : PortReq) (m : Nat) :
    ((s.heldSignal n r).ctx m).regs = (s.ctx m).regs := by
  unfold State.heldSignal
  split <;> simp

@[simp] theorem State.regs_landNow (s : State) (n : Nat) (r : PortReq) (d : Nat) (v : Dword) (m : Nat) :
    ((s.landNow n r d v).ctx m).regs = (s.ctx m).regs := by
  simp [State.landNow]

@[simp] theorem State.regs_waitNow (s : State) (n : Nat) (r : PortReq) (m : Nat) :
    ((s.waitNow n r).ctx m).regs = (s.ctx m).regs := by
  simp [State.waitNow]

@[simp] theorem State.regs_awaitRelease (s : State) (n k : Nat) (r : PortReq) (m : Nat) :
    ((s.awaitRelease n k r).ctx m).regs = (s.ctx m).regs := by
  simp [State.awaitRelease]

@[simp] theorem State.regs_enqueue (s : State) (h : Hdr) (i : Instr) (f : ArrayOp → ArrayOp) (m : Nat) :
    ((s.enqueue h i f).ctx m).regs = (s.ctx m).regs := by
  simp [State.enqueue]

@[simp] theorem State.regs_streamNext (s : State) (engine dst m : Nat) :
    ((s.streamNext engine dst).1.ctx m).regs = (s.ctx m).regs := (rfl)

@[simp] theorem State.regs_setSlot (s : State) (n k : Nat) (e : EnvSlot) (m : Nat) :
    ((s.setSlot n k e).ctx m).regs = (s.ctx m).regs := by
  simp [State.setSlot]

@[simp] theorem State.regs_sendSeal (s : State) (n : Nat) (r : PortReq) (env peer : Nat) (data : List Byte) (m : Nat) :
    ((s.sendSeal n r env peer data).ctx m).regs = (s.ctx m).regs := by
  simp [State.sendSeal]

@[simp] theorem State.regs_oweSignal (s : State) (n : Nat) (r : PortReq) (m : Nat) :
    ((s.oweSignal n r).1.ctx m).regs = (s.ctx m).regs := by
  unfold State.oweSignal
  dsimp only
  (repeat' split) <;> simp

@[simp] theorem State.regs_postJob (s : State) (n : Nat) (r : PortReq) (addr : Nat) (p : Plan) (bb sig : Option Nat)
    (group : Nat) (step : Option Step) (m : Nat) :
    ((s.postJob n r addr p bb sig group step).ctx m).regs = (s.ctx m).regs := by
  have kept : ∀ js k, ((({ s with jobs := js, nextId := k } : State).ctx m).regs = (s.ctx m).regs) := fun _ _ => rfl
  unfold State.postJob
  repeat' (first | split | dsimp only)
  all_goals simp [kept]

theorem State.regs_takeCoord {s t : State} {vf : Nat} {e : EnvSlot} (h : s.takeCoord vf e = some t) (m : Nat) :
    (t.ctx m).regs = (s.ctx m).regs := by
  simp only [State.takeCoord] at h
  split_ifs at h <;> cases h <;> rfl

@[simp] theorem State.regs_sealRecord (s : State) (n : Nat) (k : Card) (m : Nat) :
    ((s.sealRecord n k).ctx m).regs = (s.ctx m).regs := by
  unfold State.sealRecord
  split
  · cases e : s.takeCoord (s.ctx n).id.vf ((s.ctx n).slot k.env) with
    | none => simp [e]
    | some t => simpa [e] using State.regs_takeCoord e m
  · rfl

@[simp] theorem State.regs_transfer (s : State) (target : Dword) (m : Nat) :
    ((s.transfer target).ctx m).regs = (s.ctx m).regs := (rfl)

@[simp] theorem State.regs_postCause (s : State) (t : Trapped) (m : Nat) :
    ((s.postCause t).ctx m).regs = (s.ctx m).regs := (rfl)

@[simp] theorem State.regs_vectorBranch (s : State) (h : Hdr) (f : Tri) (taken : Bool) (m : Nat) :
    ((s.vectorBranch h f taken).ctx m).regs = (s.ctx m).regs := by
  simp [State.vectorBranch]

end Sys2Proof.Machine
end

section
/-!
PROOFS. What an op of the C slot leaves as it enters the port (O3, O9).
-/
namespace Sys2Proof.Machine
open Sys2Proof

/-- HBM and the registers of every context stand. -/
def State.Same (s t : State) : Prop := t.mem = s.mem ∧ ∀ m, (t.ctx m).regs = (s.ctx m).regs

theorem State.Same.trans {s t u : State} (h : s.Same t) (k : t.Same u) : s.Same u :=
  ⟨k.1.trans h.1, fun m => (k.2 m).trans (h.2 m)⟩

theorem State.Same.refl (s : State) : s.Same s := ⟨rfl, fun _ => rfl⟩

/-- What an op of the port leaves where it enters. -/
def Accept.Keeps (a : Accept) : Prop := ∀ s n r t, a s n r = .ok t → s.Same t

theorem acceptFar_keeps (align : Nat) (landing : Bool) : (acceptFar align landing).Keeps := by
  intro s n r t e
  unfold acceptFar at e
  split at e <;> cases e
  simp [State.Same]

theorem acceptAlways_keeps (landing : Bool) : (acceptAlways landing).Keeps := by
  intro s n r t e
  cases e
  simp [State.Same]

theorem acceptBare_keeps : acceptBare.Keeps := by
  intro s n r t e
  cases e
  simp [State.Same]

theorem acceptBbw_keeps : acceptBbw.Keeps := by
  intro s n r t e
  cases e
  simp [State.Same]

theorem acceptResv_keeps : acceptResv.Keeps := by
  intro s n r t e
  unfold acceptResv at e
  split at e <;> cases e
  · refine ⟨by simp, fun m => ?_⟩
    simp
    rfl
  · exact State.Same.refl s

theorem acceptRing_keeps (landing : Bool) : (acceptRing landing).Keeps := by
  intro s n r t e
  unfold acceptRing at e
  repeat' split at e
  all_goals cases e
  all_goals simp [State.Same]

theorem acceptBarr_keeps : acceptBarr.Keeps := by
  intro s n r t e
  unfold acceptBarr at e
  repeat' split at e
  all_goals cases e
  all_goals simp [State.Same]

theorem acceptBarw_keeps : acceptBarw.Keeps := by
  intro s n r t e
  unfold acceptBarw at e
  repeat' split at e
  all_goals cases e
  all_goals simp [State.Same]

theorem acceptBar_keeps : acceptBar.Keeps := by
  intro s n r t e
  unfold acceptBar at e
  repeat' split at e
  all_goals cases e
  all_goals simp [State.Same]

theorem acceptSopen_keeps : acceptSopen.Keeps := by
  intro s n r t e
  unfold acceptSopen at e
  repeat' (first | split at e | dsimp only at e)
  all_goals cases e
  all_goals simp [State.Same]

theorem acceptSvoid_keeps : acceptSvoid.Keeps := by
  intro s n r t e
  unfold acceptSvoid at e
  repeat' (first | split at e | dsimp only at e)
  all_goals cases e
  all_goals simp [State.Same]

theorem acceptSwait_keeps : acceptSwait.Keeps := by
  intro s n r t e
  unfold acceptSwait at e
  repeat' (first | split at e | dsimp only at e)
  all_goals cases e
  all_goals simp [State.Same]

theorem acceptSstat_keeps : acceptSstat.Keeps := by
  intro s n r t e
  unfold acceptSstat at e
  repeat' (first | split at e | dsimp only at e)
  all_goals cases e
  all_goals simp [State.Same]

theorem State.takeCoord_same {s t : State} {vf : Nat} {e : EnvSlot} (h : s.takeCoord vf e = some t) : s.Same t :=
  ⟨State.mem_takeCoord h, State.regs_takeCoord h⟩

theorem acceptSeal_keeps (align : Nat) (data : PortReq → List Byte) : (acceptSeal align data).Keeps := by
  intro s n r t e
  unfold acceptSeal at e
  repeat' (first | split at e | dsimp only at e)
  all_goals cases e
  all_goals try (simp [State.Same]; done)
  all_goals next h => exact (State.takeCoord_same h).trans (by simp [State.Same])

theorem acceptSpost_keeps : acceptSpost.Keeps := by
  intro s n r t e
  unfold acceptSpost at e
  repeat' (first | split at e | dsimp only at e)
  all_goals cases e
  all_goals try (simp [State.Same]; done)
  all_goals next h => exact (State.takeCoord_same h).trans (by simp [State.Same])

theorem State.postCards_same {s t : State} {n k : Nat} {r : PortReq} {bb : Option Nat} (e : s.postCards n r bb k = .ok t) :
    s.Same t := by
  unfold State.postCards at e
  repeat' (first | split at e | dsimp only at e)
  all_goals cases e
  all_goals simp [State.Same]

theorem acceptCards_keeps : acceptCards.Keeps := by
  intro s n r t e
  unfold acceptCards at e
  split at e
  · exact State.postCards_same e
  · exact State.postCards_same e
  · cases e
    exact State.Same.refl s

theorem acceptColl_keeps : acceptColl.Keeps := by
  intro s n r t e
  have owed : s.Same (s.oweSignal n r).1 := by simp [State.Same]
  unfold acceptColl at e
  generalize s.oweSignal n r = x at e owed
  obtain ⟨u, sig⟩ := x
  repeat' (first | dsimp only at e | split at e)
  all_goals cases e
  · exact State.Same.trans owed (by simp [State.Same])
  · exact State.Same.refl s

theorem acceptAgain_keeps : acceptAgain.Keeps := by
  intro s n r t e
  unfold acceptAgain at e
  cases hw : r.work with
  | signal sem k =>
    rw [hw] at e
    cases e
    exact State.Same.refl s
  | op i =>
    rw [hw] at e
    cases i
    case lds | sts | vlds | vsts | vgat | vsca =>
      dsimp only at e
      split at e <;> cases e
      exact State.Same.refl s
    case ldf | amo | cas | stf | red | vldf | vstf | wta | epeek | estat | emake | efill | efail | earm =>
      exact acceptFar_keeps _ _ _ _ _ _ e
    case pref | fence => exact acceptBare_keeps _ _ _ _ e
    case cflush | gleave | hsigr => exact acceptAlways_keeps _ _ _ _ _ e
    case resv => exact acceptResv_keeps _ _ _ _ e
    case bar => exact acceptBar_keeps _ _ _ _ e
    case barr => exact acceptBarr_keeps _ _ _ _ e
    case barw => exact acceptBarw_keeps _ _ _ _ e
    case cpj | cpc => exact acceptCards_keeps _ _ _ _ e
    case coll => exact acceptColl_keeps _ _ _ _ e
    case bbw =>
      cases e
      exact (acceptBbw_keeps s n r _ rfl).trans (by simp [State.Same])
    case sopen => exact acceptSopen_keeps _ _ _ _ e
    case sst | svst => exact acceptSeal_keeps _ _ _ _ _ _ e
    case spost => exact acceptSpost_keeps _ _ _ _ e
    case svoid => exact acceptSvoid_keeps _ _ _ _ e
    case swait => exact acceptSwait_keeps _ _ _ _ e
    case sstat => exact acceptSstat_keeps _ _ _ _ e
    case itake | istat | igive => exact acceptRing_keeps _ _ _ _ _ e
    all_goals
      cases e
      exact State.Same.refl s

end Sys2Proof.Machine
end

section
/-!
PROOFS. Every step keeps the memory in canonical form (O3): the replay list, host access, images and launches.
-/
namespace Sys2Proof.Machine
open Sys2Proof

theorem State.mem_replayEntry {s t : State} {n : Nat} {r : PortReq} (e : s.replayEntry n r = .ok t) : t.mem = s.mem := by
  unfold State.replayEntry at e
  split at e
  · cases e
    simp
  · exact (acceptAgain_keeps _ _ _ _ e).1

@[simp] theorem State.mem_resend (n : Nat) (l : List PortReq) : ∀ (s : State) (kept : List PortReq) (fault : Option Trapped),
    (s.resend n kept fault l).state.mem = s.mem := by
  induction l with
  | nil => exact fun _ _ _ => rfl
  | cons r rest ih =>
    intro s kept fault
    unfold State.resend
    split
    · exact ih s _ _
    split
    · exact ih s _ _
    split
    · rfl
    · next e _ => exact (ih _ _ _).trans (State.mem_replayEntry e)

@[simp] theorem State.canonical_replayImmed (s : State) (n : Nat)
    (hm : s.mem.Canonical) : (s.replayImmed n).mem.Canonical := by
  unfold State.replayImmed
  dsimp only
  split
  · exact hm
  split <;> simp [hm]

@[simp] theorem State.mem_landLevel1 (s : State) (n : Nat) : (s.landLevel1 n).1.mem = s.mem := by
  unfold State.landLevel1
  refine List.foldlRecOn (motive := fun x : State × Bool => x.1.mem = s.mem) _ _ rfl fun x e k _ => ?_
  dsimp only
  split <;> simpa using e

@[simp] theorem State.canonical_finishReturn (s : State) (n : Nat)
    (hm : s.mem.Canonical) : (s.finishReturn n).mem.Canonical := by
  unfold State.finishReturn
  dsimp only
  (repeat' split) <;> simp +contextual [*]

@[simp] theorem State.canonical_tryReturn (s : State) (n : Nat) (hm : s.mem.Canonical) : (s.tryReturn n).mem.Canonical := by
  simp +contextual [State.tryReturn, hm]

@[simp] theorem State.mem_commandDone (s : State) (vf status tag detail : Nat) :
    (s.commandDone vf status tag detail).mem = s.mem := (rfl)

@[simp] theorem State.mem_writeLaunch (s : State) (vf off : Nat) (data : List Byte) :
    (s.writeLaunch vf off data).mem = s.mem := by
  simp [State.writeLaunch]

@[simp] theorem State.mem_answerFrame (s : State) (frame vf : Nat) (xs : List RoceOut) :
    (s.answerFrame frame vf xs).mem = s.mem := by
  simp [State.answerFrame]

@[simp] theorem keeps_execRdmaWrite (frame : Nat) (s : State) (hm : s.mem.Canonical) : Keeps (execRdmaWrite frame s) := by
  unfold execRdmaWrite
  dsimp only
  (repeat' split) <;> simp +contextual [*]

@[simp] theorem keeps_execRdmaRead (frame : Nat) (s : State) (hm : s.mem.Canonical) : Keeps (execRdmaRead frame s) := by
  unfold execRdmaRead
  dsimp only
  (repeat' split) <;> simp +contextual [*]

@[simp] theorem State.mem_uncache (s : State) (frame : Nat) : (s.uncache frame).mem = s.mem := (rfl)

@[simp] theorem State.canonical_flushFrame (s : State) (frame : Nat)
    (hm : s.mem.Canonical) : (s.flushFrame frame).mem.Canonical := by
  simp +contextual [State.flushFrame, hm]

@[simp] theorem State.canonical_freshFrame (s : State) (vf page frame : Nat)
    (hm : s.mem.Canonical) : (s.freshFrame vf page frame).mem.Canonical := by
  unfold State.freshFrame
  dsimp only
  split
  · exact hm
  split
  · simp [hm]
  · exact sparseWf_filter 0 _ _ hm

@[simp] theorem State.canonical_freshLeaves (s : State) (new : List Leaf)
    (hm : s.mem.Canonical) : (s.freshLeaves new).mem.Canonical := by
  unfold State.freshLeaves
  exact State.canonical_foldl (fun t x ht => State.canonical_foldl
      (fun u p hu => State.canonical_freshFrame _ _ _ _ hu) _ ht) _ hm

@[simp] theorem State.canonical_tableWrite (s : State) (part addr e : Nat)
    (hm : s.mem.Canonical) : (s.tableWrite part addr e).mem.Canonical := by
  unfold State.tableWrite
  dsimp only
  (repeat' split) <;> simp +contextual [*]

@[simp] theorem keeps_execTableWindowWrite (w : TableWrite) (s : State)
    (hm : s.mem.Canonical) : Keeps (execTableWindowWrite w s) := by
  simp +contextual [execTableWindowWrite, hm]

@[simp] theorem State.mem_finishCommand (s : State) (vf status detail : Nat) :
    (s.finishCommand vf status detail).mem = s.mem := by
  unfold State.finishCommand
  split <;> simp

@[simp] theorem State.canonical_placeBytes (s : State) (vf a : Nat) (bs : List Byte)
    (hm : s.mem.Canonical) : (s.placeBytes vf a bs).mem.Canonical := by
  unfold State.placeBytes
  refine State.canonical_foldl (fun t x ht => ?_) _ hm
  split <;> simp [ht]

@[simp] theorem State.canonical_markCode (s : State) (vf : Nat) (c : Nat × Nat) (x : Bool)
    (hm : s.mem.Canonical) : (s.markCode vf c x).mem.Canonical := by
  unfold State.markCode
  simp only [State.mem_dropTlb]
  refine State.canonical_foldl (fun t i ht => ?_) _ hm
  repeat' (first | split | dsimp only)
  all_goals simp [ht]

@[simp] theorem State.canonical_markEmb (s : State) (vf : Nat) (r : Region)
    (hm : s.mem.Canonical) : (s.markEmb vf r).mem.Canonical := by
  unfold State.markEmb
  simp only [State.mem_dropTlb]
  refine State.canonical_foldl (fun t i ht => ?_) _ hm
  repeat' (first | split | dsimp only)
  all_goals simp [ht]

@[simp] theorem State.canonical_placeImage (s : State) (vf : Nat) (bs : List Byte)
    (hm : s.mem.Canonical) : (s.placeImage vf bs).mem.Canonical := by
  unfold State.placeImage
  simp only [State.mem_finishCommand]
  refine State.canonical_foldl (fun t c => State.canonical_markCode t vf c true) _ ?_
  simp only [State.mem_onVf]
  exact State.canonical_foldl (fun t _ => State.canonical_placeBytes t vf _ _) _ hm

@[simp] theorem keeps_execLoad (vf : Nat) (s : State) (hm : s.mem.Canonical) : Keeps (execLoad vf s) := by
  unfold execLoad
  (repeat' split) <;> simp +contextual [*]

@[simp] theorem State.canonical_distribute (s : State) (vf h : Nat) (img : Image) (rs : List Start)
    (hm : s.mem.Canonical) : (s.distribute vf h img rs).mem.Canonical := by
  have split : (rs.foldl (fun (s : State) r => if s.splitFixed r.core then s else s.setBlocks r.core r.spblk)
      s).mem.Canonical := by
    refine State.canonical_foldl (fun t r ht => ?_) _ hm
    split <;> simp [ht]
  unfold State.distribute
  simp only [State.mem_finishCommand]
  refine State.canonical_foldl (fun t r => State.canonical_markEmb t vf r) _ ?_
  rw [State.mem_onVf, State.mem_foldl_onSet]
  exact split

@[simp] theorem keeps_execLaunch (vf : Nat) (s : State) (hm : s.mem.Canonical) : Keeps (execLaunch vf s) := by
  unfold execLaunch
  (repeat' split) <;> simp +contextual [*]

@[simp] theorem keeps_execStartRecordArrival (vf n : Nat) (s : State)
    (hm : s.mem.Canonical) : Keeps (execStartRecordArrival vf n s) := by
  unfold execStartRecordArrival
  dsimp only
  (repeat' split) <;> simp +contextual [*]

@[simp] theorem State.canonical_loseSaved (s : State) (n : Nat) (t : Trapped) (extra : Nat)
    (hm : s.mem.Canonical) : (s.loseSaved n t extra).mem.Canonical := by
  simp +contextual [State.loseSaved, hm]

@[simp] theorem State.canonical_endCodeUser (s : State) (n : Nat)
    (hm : s.mem.Canonical) : (s.endCodeUser n).mem.Canonical := by
  simp +contextual [State.endCodeUser, hm]

@[simp] theorem State.canonical_dropImage (s : State) (vf h : Nat) (img : Image)
    (hm : s.mem.Canonical) : (s.dropImage vf h img).mem.Canonical := by
  simp +contextual [State.dropImage, hm]

@[simp] theorem State.canonical_unload (s : State) (vf : Nat) (force : Bool)
    (hm : s.mem.Canonical) : (s.unload vf force).mem.Canonical := by
  unfold State.unload
  dsimp only
  repeat' split
  all_goals simp [hm, State.canonical_foldl (fun t n => State.canonical_endCodeUser t n)]

@[simp] theorem keeps_execUnload (vf : Nat) (s : State) (hm : s.mem.Canonical) : Keeps (execUnload vf s) := by
  simp +contextual [execUnload, hm]

@[simp] theorem keeps_execUnloadForce (vf : Nat) (s : State) (hm : s.mem.Canonical) : Keeps (execUnloadForce vf s) := by
  simp +contextual [execUnloadForce, hm]

@[simp] theorem State.mem_mapDarot (s : State) (vf va pa : Nat) (code : List Byte) :
    (s.mapDarot vf va pa code).mem = s.mem := (rfl)

@[simp] theorem keeps_execDarotXTranslation (vf : Nat) (input : List Byte) (version : Nat) (s : State)
    (hm : s.mem.Canonical) : Keeps (execDarotXTranslation vf input version s) := by
  have placed : ∀ (c : Bool) (pa : Nat) (bs : List Byte) (o : Option Nat),
      (o.elim (if c then s else s.setBytes pa bs) fun va =>
          (if c then s else s.setBytes pa bs).mapDarot vf va pa bs).mem.Canonical := by
    intro c pa bs o
    cases o <;> cases c <;> simp [hm]
  unfold execDarotXTranslation
  exact (keeps_next _).2 (placed _ _ _ _)

end Sys2Proof.Machine
end

section
/-!
PROOFS. Every step keeps the memory in canonical form (O3): the save area, walks, resets and supervisor commands.
-/
namespace Sys2Proof.Machine
open Sys2Proof

@[simp] theorem keeps_execStopFlagSet (n : Nat) (area : Dword) (s : State)
    (hm : s.mem.Canonical) : Keeps (execStopFlagSet n area s) := by
  unfold execStopFlagSet
  dsimp only
  (repeat' split) <;> simp +contextual [*]

@[simp] theorem State.mem_moveToList (s : State) (n : Nat) (r : PortReq) : (s.moveToList n r).mem = s.mem := (rfl)

@[simp] theorem State.mem_withdrawOps (s : State) (n : Nat) : (s.withdrawOps n).mem = s.mem := by
  simp [State.withdrawOps]

@[simp] theorem State.mem_cancelWaits (s : State) (n : Nat) : (s.cancelWaits n).mem = s.mem := by
  unfold State.cancelWaits
  refine State.mem_foldl (fun t r => ?_) _ _
  repeat' split
  all_goals simp

@[simp] theorem State.mem_stopBeats (s : State) (n : Nat) : (s.stopBeats n).mem = s.mem := by
  simp [State.stopBeats]

@[simp] theorem State.mem_dropFetchWaits (s : State) (n : Nat) : (s.dropFetchWaits n).mem = s.mem := (rfl)

/-- Stated for a state of its own, so that the kernel does not unfold the states it is used on. -/
theorem State.mem_withSaved (s : State) (saved : List (Nat × Saved)) (seqs : List (Nat × Nat)) :
    { s with saved := saved, seqs := seqs }.mem = s.mem := (rfl)

@[simp] theorem State.canonical_saveContext (s : State) (n : Nat) (area : Dword)
    (hm : s.mem.Canonical) : (s.saveContext n area).mem.Canonical := by
  rw [State.saveContext, State.mem_leaveTurn, State.mem_onCtx, State.mem_onCore, State.mem_withSaved]
  refine State.canonical_foldl (fun t b => State.canonical_placeBytes t _ _ _) _ ?_
  simp [hm]

@[simp] theorem keeps_execSaveComplete (n : Nat) (s : State) (hm : s.mem.Canonical) : Keeps (execSaveComplete n s) := by
  unfold execSaveComplete
  dsimp only
  (repeat' split) <;> simp +contextual [*]

@[simp] theorem State.mem_renumberCtx (s : State) (a b : Nat) : (s.renumberCtx a b).mem = s.mem := (rfl)

@[simp] theorem State.mem_applyPending (s : State) (n : Nat) (p : Pending) : (s.applyPending n p).mem = s.mem := by
  unfold State.applyPending
  split <;> simp

@[simp] theorem State.mem_moveContext (s : State) (r : RestoreCmd) : (s.moveContext r).mem = s.mem := by
  simp [State.moveContext]

@[simp] theorem State.mem_loadArea (s : State) (r : RestoreCmd) : (s.loadArea r).mem = s.mem := by
  simp [State.loadArea]

@[simp] theorem State.mem_takeBoard (s : State) (n : Nat) : (s.takeBoard n).mem = s.mem := (rfl)

@[simp] theorem State.mem_resumeHashes (s : State) (n : Nat) : (s.resumeHashes n).mem = s.mem := by
  simp [State.resumeHashes]

@[simp] theorem State.canonical_bringBack (s : State) (r : RestoreCmd) (sv : Saved)
    (hm : s.mem.Canonical) : (s.bringBack r sv).mem.Canonical := by
  have split : (if s.splitFixed (coreOf r.ctx) then s else s.setBlocks (coreOf r.ctx) r.spBlk).mem.Canonical := by
    split <;> simp [hm]
  have moved : ∀ t : State, t.mem.Canonical →
      (((((t.takeBoard r.ctx).drainQuarantine r.ctx).replayImmed r.ctx).resumeHashes r.ctx).settlePort r.ctx).mem.Canonical := by
    intro t ht
    simp [ht]
  unfold State.bringBack
  exact moved _ (by simpa using split)

@[simp] theorem keeps_execRestore (r : RestoreCmd) (s : State) (hm : s.mem.Canonical) : Keeps (execRestore r s) := by
  unfold execRestore
  dsimp only
  (repeat' split) <;> simp +contextual [*]

@[simp] theorem State.mem_forget (s : State) (n : Nat) : (s.forget n).mem = s.mem := (rfl)

@[simp] theorem keeps_execSlotDrainComplete (n : Nat) (s : State)
    (hm : s.mem.Canonical) : Keeps (execSlotDrainComplete n s) := by
  have left : ((s.abandon n).forget n).mem.Canonical := by simp [hm]
  unfold execSlotDrainComplete
  dsimp only
  generalize (s.abandon n).forget n = u at left
  repeat' split
  all_goals simp [hm, left]

@[simp] theorem keeps_execExtend (reg : Nat) (value : List Byte) (s : State)
    (hm : s.mem.Canonical) : Keeps (execExtend reg value s) := by
  unfold execExtend
  split <;> simp +contextual [*]

@[simp] theorem keeps_execPowerOn (failing : Option Nat) (s : State) : Keeps (execPowerOn failing s) := by
  unfold execPowerOn
  repeat' (first | split | dsimp only)
  all_goals exact (keeps_next _).2 (sparseWf_nil 0)

@[simp] theorem State.mem_respond (s : State) (ok : Bool) (data : List Byte) : (s.respond ok data).mem = s.mem := by
  simp [State.respond]

@[simp] theorem keeps_execGetVersion (s : State) (hm : s.mem.Canonical) : Keeps (execGetVersion s) := by
  simp +contextual [execGetVersion, hm]

@[simp] theorem keeps_execGetCapabilities (s : State) (hm : s.mem.Canonical) : Keeps (execGetCapabilities s) := by
  simp +contextual [execGetCapabilities, hm]

@[simp] theorem keeps_execNegotiateAlgorithms (sha384 brainpool : Bool) (s : State)
    (hm : s.mem.Canonical) : Keeps (execNegotiateAlgorithms sha384 brainpool s) := by
  simp +contextual [execNegotiateAlgorithms, hm]

@[simp] theorem keeps_execGetDigests (s : State) (hm : s.mem.Canonical) : Keeps (execGetDigests s) := by
  simp +contextual [execGetDigests, hm]

@[simp] theorem keeps_execGetCertificate (s : State) (hm : s.mem.Canonical) : Keeps (execGetCertificate s) := by
  simp +contextual [execGetCertificate, hm]

@[simp] theorem keeps_execChallenge (nonce : List Byte) (s : State)
    (hm : s.mem.Canonical) : Keeps (execChallenge nonce s) := by
  simp +contextual [execChallenge, hm]

@[simp] theorem keeps_execGetMeasurements (reg : Nat) (nonce : Option (List Byte)) (s : State)
    (hm : s.mem.Canonical) : Keeps (execGetMeasurements reg nonce s) := by
  simp +contextual [execGetMeasurements, hm]

@[simp] theorem keeps_execPowerCapSet (watts : Nat) (s : State)
    (hm : s.mem.Canonical) : Keeps (execPowerCapSet watts s) := by
  simp +contextual [execPowerCapSet, hm]

@[simp] theorem keeps_execPowerSample (watts : Nat) (s : State)
    (hm : s.mem.Canonical) : Keeps (execPowerSample watts s) := by
  simp +contextual [execPowerSample, hm]

@[simp] theorem keeps_execCoolantTemperatureChange (celsius : Nat) (s : State)
    (hm : s.mem.Canonical) : Keeps (execCoolantTemperatureChange celsius s) := by
  simp +contextual [execCoolantTemperatureChange, hm]

@[simp] theorem State.mem_skipPage (s : State) (page : Nat) (m : Master) : (s.skipPage page m).mem = s.mem := by
  unfold State.skipPage
  split <;> simp

@[simp] theorem keeps_execTlbMiss (m : Master) (s : State) (hm : s.mem.Canonical) : Keeps (execTlbMiss m s) := by
  unfold execTlbMiss
  split <;> simp +contextual [*]

@[simp] theorem State.mem_violateFetch (s : State) (n reason va : Nat) : (s.violateFetch n reason va).mem = s.mem := by
  simp [State.violateFetch]

@[simp] theorem State.mem_refusePacket (s : State) (pkt reason va : Nat) : (s.refusePacket pkt reason va).mem = s.mem := by
  unfold State.refusePacket
  split <;> simp

@[simp] theorem State.mem_refuseFrame (s : State) (frame reason va : Nat) : (s.refuseFrame frame reason va).mem = s.mem := by
  unfold State.refuseFrame
  (repeat' split) <;> simp

@[simp] theorem State.mem_refuseCommand (s : State) (vf page : Nat) : (s.refuseCommand vf page).mem = s.mem := by
  unfold State.refuseCommand
  split <;> simp

@[simp] theorem State.mem_refuseOutside (s : State) (vf page reason : Nat) :
    (s.refuseOutside vf page reason).mem = s.mem := by
  simp [State.refuseOutside]

@[simp] theorem State.canonical_violateMaster (s : State) (vf page reason : Nat) (m : Master)
    (hm : s.mem.Canonical) : (s.violateMaster vf page reason m).mem.Canonical := by
  unfold State.violateMaster
  dsimp only
  (repeat' split) <;> simp +contextual [*]

@[simp] theorem State.mem_keepParked (s : State) (m : Master) : (s.keepParked m).mem = s.mem := by
  unfold State.keepParked
  split <;> simp

@[simp] theorem State.mem_endWalk (s : State) (w : Walk) : (s.endWalk w).mem = s.mem := by
  simp [State.endWalk]

@[simp] theorem State.canonical_violateWalk (s : State) (w : Walk) (reason : Nat)
    (hm : s.mem.Canonical) : (s.violateWalk w reason).mem.Canonical := by
  simp +contextual [State.violateWalk, hm]

@[simp] theorem keeps_execWalkComplete (walk : Nat) (s : State)
    (hm : s.mem.Canonical) : Keeps (execWalkComplete walk s) := by
  unfold execWalkComplete
  dsimp only
  (repeat' split) <;> simp +contextual [*]

@[simp] theorem keeps_execFaultRecordPost (walk : Nat) (s : State)
    (hm : s.mem.Canonical) : Keeps (execFaultRecordPost walk s) := by
  unfold execFaultRecordPost
  dsimp only
  (repeat' split) <;> simp +contextual [*]

@[simp] theorem keeps_execMap (part rec : Nat) (s : State) (hm : s.mem.Canonical) : Keeps (execMap part rec s) := by
  unfold execMap
  split <;> simp +contextual [*]

@[simp] theorem keeps_execRefuse (part rec : Nat) (s : State) (hm : s.mem.Canonical) : Keeps (execRefuse part rec s) := by
  unfold execRefuse
  split <;> simp +contextual [*]

@[simp] theorem keeps_execInvalidate (vf va len : Nat) (s : State)
    (hm : s.mem.Canonical) : Keeps (execInvalidate vf va len s) := by
  simp +contextual [execInvalidate, hm]

@[simp] theorem State.mem_askAgain (s : State) (vf va len : Nat) : (s.askAgain vf va len).mem = s.mem := (rfl)

@[simp] theorem keeps_execInvalidateComplete (vf va len : Nat) (s : State)
    (hm : s.mem.Canonical) : Keeps (execInvalidateComplete vf va len s) := by
  unfold execInvalidateComplete
  split <;> simp +contextual [*]

@[simp] theorem State.mem_scrubSlot (s : State) (n : Nat) : (s.scrubSlot n).mem = s.mem := (rfl)

@[simp] theorem State.mem_resetSlot (s : State) (n : Nat) : (s.resetSlot n).mem = s.mem := by
  simp [State.resetSlot]

@[simp] theorem State.mem_resetJobs (s : State) (vf : Nat) : (s.resetJobs vf).mem = s.mem := (rfl)

@[simp] theorem State.mem_withdrawOutside (s : State) (vf : Nat) : (s.withdrawOutside vf).mem = s.mem := by
  unfold State.withdrawOutside
  refine (State.mem_foldl (fun t f => ?_) _ _).trans (State.mem_foldl (fun t k => ?_) _ _)
  · split <;> simp
  · repeat' split
    all_goals simp

@[simp] theorem keeps_execFunctionLevelReset (vf : Nat) (s : State)
    (hm : s.mem.Canonical) : Keeps (execFunctionLevelReset vf s) := by
  unfold execFunctionLevelReset
  split <;> simp +contextual [*]

@[simp] theorem State.mem_scrubVf (s : State) (vf : Nat) : (s.scrubVf vf).mem = s.mem := (rfl)

@[simp] theorem State.canonical_resetEmber (s : State) (vf : Nat)
    (hm : s.mem.Canonical) : (s.resetEmber vf).mem.Canonical := by
  simp +contextual [State.resetEmber, hm]

@[simp] theorem State.mem_resetEnvelopes (s : State) (vf : Nat) : (s.resetEnvelopes vf).mem = s.mem := by
  simp [State.resetEnvelopes]

@[simp] theorem keeps_execResetDrainComplete (vf : Nat) (s : State)
    (hm : s.mem.Canonical) : Keeps (execResetDrainComplete vf s) := by
  unfold execResetDrainComplete
  dsimp only
  (repeat' split) <;> simp +contextual [*]

@[simp] theorem State.mem_refuseCommandWith (s : State) (status : Nat) : (s.refuseCommandWith status).mem = s.mem := (rfl)

@[simp] theorem State.mem_refuseValue (s : State) : (s.refuseValue).mem = s.mem := (rfl)

@[simp] theorem State.mem_command? {s : State} (ok : Bool) {f : State → State} (keep : (f s).mem = s.mem) :
    (s.command? ok f).mem = s.mem := by
  unfold State.command?
  split <;> simp [keep]

@[simp] theorem State.mem_clearMoved (s : State) (p : PartitionCmd) : (s.clearMoved p).mem = s.mem := (rfl)

@[simp] theorem keeps_execPartitionCreate (p : PartitionCmd) (s : State)
    (hm : s.mem.Canonical) : Keeps (execPartitionCreate p s) := by
  unfold execPartitionCreate
  dsimp only
  (repeat' split) <;> simp +contextual [*]

@[simp] theorem State.mem_fitQuotas (s : State) (vf : Nat) : (s.fitQuotas vf).mem = s.mem := (rfl)

@[simp] theorem State.mem_forgetFrames (s : State) (vf : Nat) : (s.forgetFrames vf).mem = s.mem := (rfl)

@[simp] theorem keeps_execVfCreate (vf root : Nat) (freeze : Bool) (s : State)
    (hm : s.mem.Canonical) : Keeps (execVfCreate vf root freeze s) := by
  unfold execVfCreate
  split <;> simp +contextual [*]

@[simp] theorem keeps_execSetEntryRewrite (part k : Nat) (members : List Nat) (s : State)
    (hm : s.mem.Canonical) : Keeps (execSetEntryRewrite part k members s) := by
  unfold execSetEntryRewrite
  split <;> simp +contextual [*]

@[simp] theorem keeps_execVfWeightWrite (core vf w : Nat) (s : State)
    (hm : s.mem.Canonical) : Keeps (execVfWeightWrite core vf w s) := by
  simp +contextual [execVfWeightWrite, hm]

@[simp] theorem keeps_execKeySlotWrite (k : KeySlotCmd) (s : State)
    (hm : s.mem.Canonical) : Keeps (execKeySlotWrite k s) := by
  simp +contextual [execKeySlotWrite, hm]

@[simp] theorem keeps_execCollectiveRoutineLoad (part base : Nat) (words : List (BitVec 256)) (lists : List
    (Nat × List Nat)) (s : State)
    (hm : s.mem.Canonical) : Keeps (execCollectiveRoutineLoad part base words lists s) := by
  simp +contextual [execCollectiveRoutineLoad, hm]

@[simp] theorem State.mem_writeVf (s : State) (vf : Nat) (ok : Bool) (f : Vf → Vf) : (s.writeVf vf ok f).mem = s.mem := by
  simp [State.writeVf]

@[simp] theorem State.mem_writePart (s : State) (part : Nat) (ok : Bool) (f : Partition → Partition) :
    (s.writePart part ok f).mem = s.mem := by
  simp [State.writePart]

@[simp] theorem State.mem_assignPart (s : State) (part : Nat) (ok : Bool) (f : Partition → Partition) :
    (s.assignPart part ok f).mem = s.mem := by
  simp [State.assignPart]

@[simp] theorem keeps_execReductionWindowRegister (part idx : Nat) (w : ReductionWindow) (s : State)
    (hm : s.mem.Canonical) : Keeps (execReductionWindowRegister part idx w s) := by
  simp +contextual [execReductionWindowRegister, hm]

@[simp] theorem State.canonical_writeMap (s : State) (xy cols rows : Nat) (broken : List (Nat × Nat))
    (hm : s.mem.Canonical) : (s.writeMap xy cols rows broken).mem.Canonical := by
  unfold State.writeMap
  simp only [State.mem_reapCoord]
  refine State.canonical_foldl (fun t p => State.canonical_dropUnreachable t p) _ ?_
  exact State.canonical_foldl (fun t p => State.canonical_failLink t p) _ hm

theorem State.canonical_rootWrite {s t : State} {vf root : Nat} (hm : s.mem.Canonical) (e : s.rootWrite vf root = some t) :
    t.mem.Canonical := by
  obtain ⟨_, e⟩ := Option.ite_none_right_eq_some.1 e
  rw [← Option.some.inj e]
  simp [hm]

@[simp] theorem State.canonical_writeRegister (s : State) (r : SupReg)
    (hm : s.mem.Canonical) : (s.writeRegister r).mem.Canonical := by
  cases r with
  | root vf v =>
    simp only [State.writeRegister]
    split
    · cases e : s.rootWrite vf v with
      | none => simp [hm]
      | some t => simpa using State.canonical_rootWrite hm e
    · simp [hm]
  | fabric xy cols rows broken =>
    simp only [State.writeRegister, State.command?]
    split <;> simp [hm]
  | residency part hint | staging vf n | policy vf freeze =>
    simp only [State.writeRegister]
    split <;> simp [hm]
  | _ => simp [State.writeRegister, hm]

@[simp] theorem keeps_execSupervisorRegisterWrite (r : SupReg) (s : State)
    (hm : s.mem.Canonical) : Keeps (execSupervisorRegisterWrite r s) := by
  simp +contextual [execSupervisorRegisterWrite, hm]

@[simp] theorem State.mem_vectorBranch (s : State) (h : Hdr) (f : Tri) (taken : Bool) :
    (s.vectorBranch h f taken).mem = s.mem := by
  simp [State.vectorBranch]

@[simp] theorem State.mem_takeWaits (s : State) (n : Nat) (ops : List BundleOp) : (s.takeWaits n ops).mem = s.mem := by
  simp [State.takeWaits]

end Sys2Proof.Machine
end

section
/-!
PROOFS. What the issue of any op leaves (O3, O9).
-/
namespace Sys2Proof.Machine
open Sys2Proof

/-- What the issue of one op may leave: a canonical memory, and where the op does not fault, HBM and registers as they stood. -/
structure State.Issues (s t : State) : Prop where
  canonical : s.mem.Canonical → t.mem.Canonical
  same : t.iss.fault = none → s.Same t

theorem State.Same.issues {s t : State} (h : s.Same t) : s.Issues t := ⟨fun hm => h.1 ▸ hm, fun _ => h⟩

theorem State.raise_issues (s : State) (x : Trapped) : s.Issues (s.raise x) := by
  refine ⟨fun hm => State.canonical_raise s x hm, fun h => ?_⟩
  unfold State.raise at h ⊢
  split at h <;> simp_all

theorem State.Same.then {s t u : State} (h : s.Same t) (k : t.Issues u) : s.Issues u :=
  ⟨fun hm => k.canonical (h.1 ▸ hm), fun f => h.trans (k.same f)⟩

theorem State.guarded_issues {s : State} {h : Hdr} {f : State → State} (k : s.Issues (f s)) : s.Issues (s.guarded h f) := by
  unfold State.guarded
  split
  · exact k
  · exact (State.Same.refl s).issues

/-- An op answers with a state that its issue may leave. -/
def Issuing (s : State) (o : Host.Outcome State Fault Refusal) : Prop := ∀ t, o = .next t → s.Issues t

theorem issuing_guarded {s : State} {h : Hdr} {f : State → State} (k : s.Issues (f s))
    : Issuing s (.next (s.guarded h f)) := by
  rintro _ ⟨⟩
  exact State.guarded_issues k

theorem issuing_timed (s : State) (h : Hdr) (d : Nat) (f : State → Effect)
    : Issuing s (.next (s.guarded h fun s => s.timed h d (f s))) :=
  issuing_guarded (State.Same.issues (by simp [State.Same]))

theorem portOp_issuing {a : Accept} (k : a.Keeps) (h : Hdr) (capture : Ctx → PortReq) (targets : List (Nat × Nat))
    (s : State) :
    Issuing s (portOp h capture targets a s) := by
  refine issuing_guarded ?_
  dsimp only
  split
  · exact State.Same.issues (by simp [State.Same])
  · next e => exact ((k _ _ _ _ e).trans (by simp [State.Same])).issues

theorem scratchOp_issuing (h : Hdr) (i : Instr) (f : MemF) (d : Nat) (u : Ctx → ScratchUse) (whole : Bool)
    (eff : Ctx → ScratchUse → Effect) (s : State) : Issuing s (scratchOp h i f d u whole eff s) := by
  refine issuing_guarded ?_
  dsimp only
  split <;> exact State.Same.issues (by simp [State.Same])

theorem multiplyOp_issuing (h : Hdr) (i : Instr) (f : Mat) (clear : Bool) (s : State) :
    Issuing s (multiplyOp h i f clear s) := by
  refine issuing_guarded ?_
  dsimp only
  split
  · exact State.raise_issues _ _
  · exact State.raise_issues _ _
  · exact State.Same.issues (by simp [State.Same])

theorem State.transferIndirect_issues (s : State) (a : Dword) : s.Issues (s.transferIndirect a) := by
  unfold State.transferIndirect
  split
  · exact State.raise_issues _ _
  · exact State.Same.issues (by simp [State.Same])

theorem State.pushReturn_issues (s : State) {k : State → State} (same : ∀ t : State, t.Same (k t))
    : s.Issues (s.pushReturn k) := by
  unfold State.pushReturn
  split
  · exact State.raise_issues _ _
  · exact (State.Same.trans (by simp [State.Same]) (same _)).issues

theorem exec_issuing (i : Instr) (s : State) (op : i.op?.isSome = true) : Issuing s (exec i s) := by
  have same : ∀ {h : Hdr} {f : State → State}, s.Same (f s) → Issuing s (.next (s.guarded h f)) :=
    fun keep => issuing_guarded keep.issues
  unfold exec
  cases i
  case lds | sts | vlds | vsts | vgat | vsca => exact scratchOp_issuing _ _ _ _ _ _ _ _
  case mma | mmz => exact multiplyOp_issuing _ _ _ _ _
  case ldf | stf | vldf | vstf | amo | cas | red | wta | emake | efill | epeek | efail | earm | estat =>
    exact portOp_issuing (acceptFar_keeps _ _) _ _ _ _
  case pref | fence => exact portOp_issuing acceptBare_keeps _ _ _ _
  case cflush | gleave | hsigr => exact portOp_issuing (acceptAlways_keeps _) _ _ _ _
  case resv => exact portOp_issuing acceptResv_keeps _ _ _ _
  case bar => exact portOp_issuing acceptBar_keeps _ _ _ _
  case barr => exact portOp_issuing acceptBarr_keeps _ _ _ _
  case barw => exact portOp_issuing acceptBarw_keeps _ _ _ _
  case sopen => exact portOp_issuing acceptSopen_keeps _ _ _ _
  case sst | svst => exact portOp_issuing (acceptSeal_keeps _ _) _ _ _ _
  case spost => exact portOp_issuing acceptSpost_keeps _ _ _ _
  case svoid => exact portOp_issuing acceptSvoid_keeps _ _ _ _
  case swait => exact portOp_issuing acceptSwait_keeps _ _ _ _
  case sstat => exact portOp_issuing acceptSstat_keeps _ _ _ _
  case cpj | cpc => exact portOp_issuing acceptCards_keeps _ _ _ _
  case coll => exact portOp_issuing acceptColl_keeps _ _ _ _
  case bbw => exact portOp_issuing acceptBbw_keeps _ _ _ _
  case itake | igive | istat => exact portOp_issuing (acceptRing_keeps _) _ _ _ _
  case add | sub | mul | mulh | div | rem | shl | shr | sar | min | max | and | or | xor | addi | li | lea | ext
      | exts | ins |
      clz | popc | sel | vadd | vsub | vmul | vmin | vmax | vand | vor | vxor | vshl | vshr | vsar | vfma | vclip | vabs |
      vneg | vrcp | vrsq | vexp2 | vlog2 | vpopc | vsel | vbcast | vperm | vshuf | vplog | vcvt | vdot | vhash | vred |
      vscan | xseta | xsetb | mfk | wstat | vmovsExtract =>
    exact issuing_timed _ _ _ _
  case cpq | bbrd =>
    refine portOp_issuing (fun s n r t e => ?_) _ _ _ _
    cases e
    simp [State.Same]
  case mclr | mstat | mrdVector | xfill | xrd | br | lbrk | wunb | yield | halt | nop | trap | cmp | vmovsInsert
      | vq4x | vdq4x | plog |
      vbany | vball =>
    exact same (by simp [State.Same])
  case dbg =>
    refine same ?_
    split <;> simp [State.Same]
  case wbind | loop =>
    refine same ?_
    dsimp only
    split <;> simp [State.Same]
  case bri => exact issuing_guarded ((State.Same.then (by simp [State.Same]) (State.transferIndirect_issues _ _)))
  case call => exact issuing_guarded (State.Same.then (by simp [State.Same]) (State.pushReturn_issues _
      fun t => by simp [State.Same]))
  case callIndirect =>
    refine issuing_guarded ?_
    dsimp only
    split
    · exact State.raise_issues _ _
    · exact State.Same.then (by simp [State.Same]) (State.pushReturn_issues _ fun t => by simp [State.Same])
  case macc | mrdTile | tlds | tsts | ttr | tmov | tfill | tq4x | vtrd | vtwr | tdset | boundOp | hsig | hget | ret =>
    refine issuing_guarded ?_
    dsimp only
    split
    · exact State.raise_issues _ _
    · exact State.Same.issues (by simp [State.Same])
  case mtk | eret =>
    refine issuing_guarded ?_
    split
    · exact State.Same.issues (by simp [State.Same])
    · exact State.raise_issues _ _
  case tset =>
    refine issuing_guarded ?_
    dsimp only
    split
    · exact State.Same.issues (by simp [State.Same])
    · exact State.raise_issues _ _
  case vcmp | vfind =>
    dsimp only [execVcmp, execVfind]
    split
    · exact issuing_timed _ _ _ _
    · exact issuing_timed _ _ _ _
  case vmov =>
    dsimp only [execVmov]
    split
    · exact issuing_timed _ _ _ _
    · exact issuing_timed _ _ _ _
    · exact issuing_timed _ _ _ _
    · exact issuing_timed _ _ _ _
  all_goals cases op

end Sys2Proof.Machine
open Sys2Proof Sys2Proof.Machine

/-- Settles O9: what an op leaves where it does not fault is what `exec_issuing` says. -/
theorem opsLeaveRegistersAndMemory : Obligations.OpsLeaveRegistersAndMemory :=
  ⟨fun i s t op e ok => ((exec_issuing i s op t e).same ok).2,
   fun i s t op e ok => State.sameMemory_of_mem ((exec_issuing i s op t e).same ok).1⟩
end

section
/-!
PROOFS. Every step keeps the memory in canonical form (O3): bundles, the work of the engines, and the step.
-/
namespace Sys2Proof.Machine
open Sys2Proof

/-! ## What a step leaves -/

/-- Every instruction leaves a canonical memory: an op by what its issue may leave, any other by the lemma of its own. -/
theorem exec_keeps (i : Instr) {s : State} (hm : s.mem.Canonical) : Keeps (exec i s) := by
  by_cases op : i.op?.isSome = true
  · exact fun t e => (exec_issuing i s op t e).canonical hm
  · unfold exec
    cases i
    all_goals try exact absurd rfl op
    all_goals simp [hm]

@[simp] theorem State.canonical_runOps (s : State) (ops : List BundleOp)
    (hm : s.mem.Canonical) : (s.runOps ops).mem.Canonical := by
  refine State.canonical_foldl (fun t o ht => ?_) ops hm
  split
  next e => exact exec_keeps o.i (by simpa using ht) _ e
  next => exact ht

@[simp] theorem State.canonical_endBundle (s : State) (n : Nat) (x : Issue) (ops : List BundleOp)
    (hm : s.mem.Canonical) : (s.endBundle n x ops).mem.Canonical := by
  unfold State.endBundle
  refine State.canonical_settlePort _ _ (State.canonical_tryReturn _ _ ?_)
  dsimp only
  split
  · refine State.canonical_boundary _ _ _ _ ?_
    repeat' split
    all_goals simp [hm]
  · repeat' split
    all_goals simp [hm]

@[simp] theorem State.canonical_commit (t : State) (n : Nat) (ops : List BundleOp)
    (hm : t.mem.Canonical) : (t.commit n ops).mem.Canonical := by
  unfold State.commit
  dsimp only
  (repeat' split) <;> simp +contextual [*]

@[simp] theorem State.mem_stall (s : State) (n : Nat) (w : Wait) (late : Bool) : (s.stall n w late).mem = s.mem := (rfl)

/-- The state that an attempt leaves. -/
def Attempt.state : Attempt → State
  | .stall _ _ s | .trap _ s | .freeze _ _ s | .hold s | .issue _ s => s

theorem State.canonical_tryOps {s : State} (n : Nat) (ops : List BundleOp) (hm : s.mem.Canonical) :
    (s.tryOps n ops).state.mem.Canonical := by
  have ran : (State.runOps { s.takeWaits n ops with iss := bundleIssue n (s.ctx n) ops } ops).mem.Canonical :=
    State.canonical_runOps _ _ (by simpa using hm)
  unfold State.tryOps
  dsimp only
  split
  · exact hm
  split
  · exact hm
  split
  · exact hm
  split
  · exact hm
  · split
    · exact hm
    · exact ran

theorem State.mem_landDue {s t : State} {n : Nat} (e : s.landDue n = .landed t) : t.mem = s.mem := by
  unfold State.landDue at e
  dsimp only at e
  repeat' split at e
  all_goals cases e
  simp

theorem State.canonical_fetchLine {s t : State} {n : Nat} {bs : List Byte} (hm : s.mem.Canonical)
    (e : s.fetchLine n = .line t bs) : t.mem.Canonical := by
  unfold State.fetchLine at e
  dsimp only at e
  repeat' split at e
  all_goals cases e
  simp [hm]

theorem State.canonical_attempt {s : State} (n : Nat) (hm : s.mem.Canonical) : (s.attempt n).state.mem.Canonical := by
  have due : ∀ {t : State}, s.landDue n = .landed t → t.mem.Canonical := fun e => State.mem_landDue e ▸ hm
  unfold State.attempt
  dsimp only
  split
  · exact hm
  split
  · exact hm
  split
  · exact hm
  split
  · exact hm
  split
  · exact hm
  · exact hm
  · exact hm
  next landed =>
  split
  · simpa [Attempt.state] using due landed
  split
  · exact due landed
  · split <;> exact due landed
  next fetched =>
  split
  · exact State.canonical_fetchLine (due landed) fetched
  · exact State.canonical_tryOps n _ (State.canonical_fetchLine (due landed) fetched)

@[simp] theorem State.canonical_mergeNext (s old : State) (core : Nat) (first : List BundleOp) (ms : List Nat)
    (hm : s.mem.Canonical) : (s.mergeNext old core first ms).mem.Canonical := by
  induction ms with
  | nil => exact hm
  | cons m rest ih =>
    have tried := s.canonical_attempt m hm
    unfold State.mergeNext
    split
    · next e =>
      rw [e] at tried
      split
      · simpa [Attempt.state] using State.canonical_commit _ _ _ tried
      · exact ih
    · exact ih

@[simp] theorem State.mem_atCycle (s : State) (core : Nat) (x : Dword) : (s.atCycle core x).1.mem = s.mem := (rfl)

@[simp] theorem State.canonical_issueBundle (s t : State) (core n : Nat) (ops : List BundleOp)
    (hm : t.mem.Canonical) : (s.issueBundle t core n ops).mem.Canonical := by
  have merged := State.canonical_mergeNext (((t.takeTurn core n).commit n ops).atCycle core (t.core core).cycle).1
    (s.takeWaits n ops) core ops (s.intakes core n) (by simp [hm])
  unfold State.issueBundle
  dsimp only
  repeat' split
  all_goals simp [merged]

@[simp] theorem State.canonical_issueContext (s : State) (core n : Nat)
    (hm : s.mem.Canonical) : (s.issueContext core n).mem.Canonical := by
  have started : ∀ c : Prop, [Decidable c] → (State.replayImmed (if c then s.passCycles core 1 else s) n).mem.Canonical := by
    intro c _
    split <;> simp [hm]
  unfold State.issueContext
  dsimp only
  have tried := State.canonical_attempt n (started ((s.core core).sel.lastCtx.any fun m => m != n))
  generalize State.attempt _ n = a at tried
  cases a <;> simp_all [Attempt.state]

@[simp] theorem State.canonical_runRoutine (s : State) (core n : Nat) (r : Routine)
    (hm : s.mem.Canonical) : (s.runRoutine core n r).mem.Canonical := by
  have kept : ∀ o, Keeps o → (match o with
      | .next t => t
      | _ => s : State).mem.Canonical := by
    intro o ho
    split
    · exact ho _ rfl
    · exact hm
  unfold State.runRoutine
  dsimp only
  split
  · split
    · exact kept _ (keeps_execMicroStep n s hm)
    · exact kept _ (keeps_execBoundRoutineStart n s hm)
  · split <;> simp [hm]

@[simp] theorem State.canonical_issueCore (s : State) (core : Nat)
    (hm : s.mem.Canonical) : (s.issueCore core).mem.Canonical := by
  unfold State.issueCore
  dsimp only
  (repeat' split) <;> simp +contextual [*]

@[simp] theorem State.canonical_wake (s : State) (n : Nat) (hm : s.mem.Canonical) : (s.wake n).mem.Canonical := by
  simp +contextual [State.wake, hm]

@[simp] theorem keeps_resendLoad (n id : Nat) (s : State) (hm : s.mem.Canonical) : Keeps (resendLoad n id s) := by
  unfold resendLoad
  split
  next t sent =>
    have ht := keeps_execEmberLoadResend n id s hm t sent
    repeat' split
    all_goals simp [hm, ht]
  next => simp [hm]

@[simp] theorem State.mem_idleCycle (s : State) : (s.idleCycle).mem = s.mem := by
  simp [State.idleCycle]

@[simp] theorem State.canonical_evictLine (s : State) (core line : Nat)
    (hm : s.mem.Canonical) : (s.evictLine core line).mem.Canonical := by
  simp +contextual [State.evictLine, hm]

@[simp] theorem State.mem_corruptAt (s : State) (place : Place) : (s.corruptAt place).mem = s.mem := by
  unfold State.corruptAt
  split <;> simp

/-! The engines' moves. -/

/-- Every one of these pieces of work leaves a canonical memory. -/
def AllKeep (l : List Work) : Prop := ∀ w ∈ l, ∀ s : State, s.mem.Canonical → Keeps (w s)

@[simp] theorem allKeep_nil : AllKeep [] := by simp [AllKeep]

@[simp] theorem allKeep_cons (w : Work) (l : List Work) :
    AllKeep (w :: l) ↔ (∀ s : State, s.mem.Canonical → Keeps (w s)) ∧ AllKeep l := by simp [AllKeep]

@[simp] theorem allKeep_append (k l : List Work) : AllKeep (k ++ l) ↔ AllKeep k ∧ AllKeep l := by
  simp only [AllKeep, List.mem_append, or_imp, forall_and]

@[simp] theorem allKeep_map {α : Type} (f : α → Work) (l : List α) :
    AllKeep (l.map f) ↔ ∀ a ∈ l, ∀ s : State, s.mem.Canonical → Keeps (f a s) := by simp [AllKeep]

@[simp] theorem allKeep_flatMap {α : Type} (f : α → List Work) (l : List α) :
    AllKeep (l.flatMap f) ↔ ∀ a ∈ l, AllKeep (f a) := by
  simp only [AllKeep, List.mem_flatMap]
  exact ⟨fun h a ha w hw => h w ⟨a, ha, hw⟩, fun h w ⟨a, ha, hw⟩ => h a ha w hw⟩

theorem PortReq.moves_keep (n : Nat) (r : PortReq) : AllKeep (r.moves n) := by
  unfold PortReq.moves
  dsimp only
  refine (allKeep_append _ _).2 ⟨?_, ?_⟩
  · repeat' split
    all_goals simp +contextual
  · split <;> simp +contextual

theorem Ctx.moves_keep (n : Nat) (c : Ctx) : AllKeep (c.moves n) := by
  simp only [Ctx.moves, allKeep_append, allKeep_flatMap, allKeep_map]
  refine ⟨⟨⟨⟨⟨?_, ?_⟩, fun r _ => r.moves_keep n⟩, ?_⟩, ?_⟩, ?_⟩
  case refine_2 => simp +contextual
  all_goals split <;> simp +contextual

theorem Core.moves_keep (core : Nat) (k : Core) : AllKeep (k.moves core) := by
  simp +contextual [Core.moves]

theorem Job.moves_keep (j : Job) : AllKeep j.moves := by
  unfold Job.moves
  dsimp only
  split <;> simp +contextual

theorem packetMoves_keep (self id : Nat) (k : Packet) : AllKeep (packetMoves self id k) := by
  unfold packetMoves
  repeat' split
  all_goals simp +contextual

theorem frameMoves_keep (f : Nat × Nat × Nat × EthBody) : AllKeep (frameMoves f) := by
  unfold frameMoves
  split <;> simp +contextual

theorem Vf.moves_keep (vf : Nat) (v : Vf) : AllKeep (v.moves vf) := by
  simp only [Vf.moves, allKeep_append, allKeep_map]
  refine ⟨⟨?_, ?_⟩, ?_⟩
  case refine_2 => simp +contextual
  all_goals split <;> simp +contextual

theorem State.moves_keep (s : State) : AllKeep s.moves := by
  simp only [State.moves, allKeep_append, allKeep_flatMap, allKeep_map]
  refine ⟨⟨⟨⟨⟨⟨⟨⟨⟨fun p _ => p.2.moves_keep p.1, ?_⟩, ?_⟩, fun p _ => p.2.moves_keep p.1⟩,
    fun j _ => j.moves_keep⟩,
    fun p _ => packetMoves_keep _ _ _⟩, fun f _ => frameMoves_keep f⟩, ?_⟩, ?_⟩, fun p _ => p.2.moves_keep p.1⟩
  case refine_2 =>
    intro w _
    split <;> simp +contextual
  all_goals simp +contextual

theorem State.canonical_firstMove {s t : State} {l : List Work} (keep : AllKeep l) (hm : s.mem.Canonical)
    (e : s.firstMove l = some t) : t.mem.Canonical := by
  induction l with
  | nil => cases e
  | cons w rest ih =>
    obtain ⟨hw, hrest⟩ := (allKeep_cons w rest).1 keep
    unfold State.firstMove at e
    split at e
    · next done =>
      split at e
      · exact ih hrest e
      · cases e
        exact hw s hm _ done
    · exact ih hrest e

@[simp] theorem State.canonical_run (s : State) (hm : s.mem.Canonical) : (s.run).mem.Canonical := by
  unfold State.run
  split
  next e => exact State.canonical_firstMove s.moves_keep hm e
  repeat' split
  all_goals simp [hm]

/-! ## The step -/

theorem keeps_carryOut {s : State} (m : Move) (hm : s.mem.Canonical) : Keeps (s.carryOut m) := by
  cases m with
  | event i =>
    simp only [State.carryOut]
    split
    · simp
    · exact exec_keeps i hm
  | _ => simp [State.carryOut, hm]

theorem keeps_step {s : State} (hm : s.mem.Canonical) : Keeps (step s) := by
  unfold step
  split
  · exact keeps_carryOut _ hm
  · simp [hm]

end Sys2Proof.Machine
open Sys2Proof Sys2Proof.Machine

/-- Settles O3: each function of the state either leaves the memory as it was or puts back a canonical one, and a step is
made of them. -/
theorem stepKeepsMemoryForm : Obligations.StepKeepsMemoryForm := fun _ t hm e => keeps_step hm t e
end

section
/-!
PROOFS. An op whose whole-op guard is false (O8).
-/
namespace Sys2Proof.Machine
open Sys2Proof

/-- An op that is one guarded operation does nothing where its guard is false. -/
theorem next_guarded_off {s : State} {h : Hdr} (f : State → State) (off : guardTrue s.cur h = false) :
    (Host.Outcome.next (s.guarded h f) : Host.Outcome State Fault Refusal) = .next s :=
  congrArg Host.Outcome.next (State.guarded_off off f)

theorem exec_of_guard_false (i : Instr) {opc : BitVec 8} {h : Hdr} {p : Payload} {s : State}
    (op : i.op? = some (opc, h, p)) (off : guardTrue s.cur h = false) : exec i s = .next s := by
  unfold exec
  cases i
  case vcmp | vfind =>
    cases op
    dsimp only [execVcmp, execVfind]
    split
    · exact next_guarded_off _ off
    · exact next_guarded_off _ off
  case vmov =>
    cases op
    dsimp only [execVmov]
    split
    · exact next_guarded_off _ off
    · exact next_guarded_off _ off
    · exact next_guarded_off _ off
    · exact next_guarded_off _ off
  all_goals cases op <;> exact next_guarded_off _ off

end Sys2Proof.Machine
open Sys2Proof Sys2Proof.Machine

/-- Settles O8: every op is one guarded operation. -/
theorem guardFalseDoesNothing : Obligations.GuardFalseDoesNothing :=
  fun i _ _ _ _ op off => exec_of_guard_false i op off
end

section
/-!
PROOFS. The walk of the loop unit over its levels, and where fetch goes after a bundle (R124, R126; O7).
-/
namespace Sys2Proof.Machine
open Sys2Proof

/-- The levels below `n`, innermost first. -/
def levelsBelow : Nat → List Nat
  | 0 => []
  | n + 1 => n :: levelsBelow n

/-- A level is active and its END is one of these addresses. -/
def Ctx.ends (c : Ctx) (addrs : List Dword) (j : Nat) : Prop := (c.loop j).active = true ∧ (c.loop j).stop ∈ addrs

variable {addrs : List Dword} {c : Ctx} {k n : Nat}

theorem loopWalk_step_of_not_ends (h : ¬ c.ends addrs k) (rest : List Nat) :
    loopWalk addrs (k :: rest) c = loopWalk addrs rest c := by
  have test : ¬ ((c.loop k).active && addrs.contains (c.loop k).stop) = true := by simpa [Ctx.ends] using h
  rw [loopWalk, if_neg test]

theorem loopWalk_step_of_last (h : c.ends addrs k) (last : (c.loop k).lc = 1) (rest : List Nat) :
    loopWalk addrs (k :: rest) c = loopWalk addrs rest (c.setLoop k { c.loop k with lc := 0, active := false }) := by
  obtain ⟨active, stop⟩ := h
  simp [loopWalk, active, stop, last]

theorem loopWalk_step_of_more (h : c.ends addrs k) (more : (c.loop k).lc ≠ 1) (rest : List Nat) :
    loopWalk addrs (k :: rest) c =
      (c.setLoop k { c.loop k with lc := (c.loop k).lc - 1 }, some (c.loop k).start) := by
  have test : ((c.loop k).active && addrs.contains (c.loop k).stop) = true := by simpa [Ctx.ends] using h
  have left : (c.loop k).lc - 1 ≠ 0 := sub_ne_zero.2 more
  rw [loopWalk, if_pos test, if_neg left]

theorem loopWalk_none (none : ∀ j, j < n → ¬ c.ends addrs j) : loopWalk addrs (levelsBelow n) c = (c, .none) := by
  induction n with
  | zero => rfl
  | succ n ih =>
    rw [levelsBelow, loopWalk_step_of_not_ends (none n n.lt_succ_self)]
    exact ih fun j hj => none j (hj.trans n.lt_succ_self)

/-- The walk passes to the innermost level that ends. -/
theorem loopWalk_innermost (hk : k < n) (inner : ∀ j, k < j → j < n → ¬ c.ends addrs j) :
    loopWalk addrs (levelsBelow n) c = loopWalk addrs (k :: levelsBelow k) c := by
  induction n with
  | zero => omega
  | succ n ih =>
    rcases Nat.lt_succ_iff_lt_or_eq.1 hk with lt | rfl
    · rw [levelsBelow, loopWalk_step_of_not_ends (inner n lt n.lt_succ_self)]
      exact ih lt fun j hkj hj => inner j hkj (hj.trans n.lt_succ_self)
    · rfl

/-- The walk leaves the levels that it does not visit. -/
theorem loopWalk_loop_of_le (n : Nat) : ∀ {c : Ctx} {j : Nat}, n ≤ j →
    (loopWalk addrs (levelsBelow n) c).1.loop j = c.loop j := by
  induction n with
  | zero => exact fun _ => rfl
  | succ n ih =>
    intro c j hj
    have ne : j ≠ n := by omega
    rw [levelsBelow]
    by_cases h : c.ends addrs n
    · by_cases last : (c.loop n).lc = 1
      · rw [loopWalk_step_of_last h last, ih (by omega), Ctx.loop_setLoop_other ne]
      · rw [loopWalk_step_of_more h last, Ctx.loop_setLoop_other ne]
    · rw [loopWalk_step_of_not_ends h, ih (by omega)]

@[simp] theorem Ctx.ends_setLoop_of_ne {j : Nat} (ne : j ≠ k) (l : LoopLevel) :
    (c.setLoop k l).ends addrs j ↔ c.ends addrs j := by
  simp [Ctx.ends, Ctx.loop_setLoop_other ne]

/-! What `resolve` makes of a transfer and of the walk. -/

theorem resolve_of_transfer {x : Issue} {u : Dword} (ts : x.ts = some u) (addrs : List Dword) (c : Ctx) :
    x.resolve addrs c = ⟨c, u, false, true, x.tv.any fun v => v != u⟩ := by
  simp [Issue.resolve, ts]

theorem resolve_of_back {x : Issue} {d : Ctx} {u : Dword} (ts : x.ts = none)
    (walk : loopWalk addrs (levelsBelow 6) c = (d, some u)) :
    x.resolve addrs c = ⟨d, u, true, true, x.tv.any fun v => v != u⟩ := by
  simp only [levelsBelow] at walk
  simp [Issue.resolve, ts, walk]

theorem resolve_of_no_back {x : Issue} {d : Ctx} (ts : x.ts = none) (walk : loopWalk addrs (levelsBelow 6) c = (d, none)) :
    x.resolve addrs c = ⟨d, x.tv.getD x.next, false, x.tv.isSome, false⟩ := by
  simp only [levelsBelow] at walk
  cases tv : x.tv <;> simp [Issue.resolve, ts, tv, walk]

theorem resolve_ctx {x : Issue} (ts : x.ts = none) : (x.resolve addrs c).ctx = (loopWalk addrs (levelsBelow 6) c).1 := by
  rcases e : loopWalk addrs (levelsBelow 6) c with ⟨d, _ | u⟩
  · rw [resolve_of_no_back ts e]
  · rw [resolve_of_back ts e]

theorem clash_iff (tv : Option Dword) (u : Dword) : (tv.any fun v => v != u) = true ↔ ∃ y, tv = some y ∧ y ≠ u := by
  cases tv <;> simp

end Sys2Proof.Machine
open Sys2Proof Sys2Proof.Machine

/-- Settles O7, by the walk from the innermost level that ends: a back edge stops it, a last iteration lets it go on. -/
theorem branchResolution : Obligations.BranchResolution := by
  intro x addrs c u v k len
  refine ⟨fun ts => ?_, fun ts ⟨hk, here, inner⟩ more => ?_, fun ts ⟨hk, here, inner⟩ last => ?_, fun ts tv none => ?_,
    fun ts tv none => ?_⟩
  · rw [resolve_of_transfer ts]
    exact ⟨rfl, rfl, rfl, clash_iff _ _⟩
  · have walk := (loopWalk_innermost hk inner).trans (loopWalk_step_of_more here more _)
    rw [resolve_of_back ts walk]
    refine ⟨rfl, rfl, ?_, clash_iff _ _⟩
    rw [Ctx.loop_setLoop_same (by omega)]
  · have walk := (loopWalk_innermost hk inner).trans (loopWalk_step_of_last here last _)
    refine ⟨?_, fun none => ?_, fun i hi ends outer more => ?_⟩
    · rw [resolve_ctx ts, walk, loopWalk_loop_of_le k le_rfl, Ctx.loop_setLoop_same (by omega)]
    · rw [resolve_of_no_back ts (walk.trans (loopWalk_none fun j hj => (Ctx.ends_setLoop_of_ne (Nat.ne_of_lt hj) _).not.2 (none j hj)))]
      exact ⟨rfl, rfl, rfl⟩
    · have ne : i ≠ k := Nat.ne_of_lt hi
      have next := loopWalk_step_of_more (c := c.setLoop k { c.loop k with lc := 0, active := false })
        ((Ctx.ends_setLoop_of_ne ne _).2 ends) (by rwa [Ctx.loop_setLoop_other ne]) (levelsBelow i)
      rw [Ctx.loop_setLoop_other ne] at next
      have skip := loopWalk_innermost (c := c.setLoop k { c.loop k with lc := 0, active := false }) hi fun j hij hjk =>
        (Ctx.ends_setLoop_of_ne (Nat.ne_of_lt hjk) _).not.2 (outer j hij hjk)
      rw [resolve_of_back ts (walk.trans (skip.trans next))]
      exact ⟨rfl, rfl⟩
  · rw [resolve_of_no_back ts (loopWalk_none none), tv]
    exact ⟨rfl, rfl, rfl⟩
  · rw [resolve_of_no_back ts (loopWalk_none none), tv]
    exact ⟨rfl, rfl⟩
end

section
/-!
PROOFS. What the start of a round gives the VFs of a core, and whom its turn list holds (R98; O56).
-/
namespace Sys2Proof.Machine
open Sys2Proof

theorem mem_rotate {last : Option Nat} {l : List Nat} {n : Nat} (h : n ∈ rotate last l) : n ∈ l := by
  cases last <;> simp only [rotate, List.mem_append, List.mem_filter] at h
  · exact h
  · exact h.elim And.left And.left

theorem State.mem_vfOrder {s : State} {core vf n : Nat} {ns : List Nat} (h : n ∈ s.vfOrder core vf ns) : n ∈ ns := by
  have turn : ∀ {last : Option Nat} {p : Nat → Bool}, n ∈ rotate last (ns.filter p) → n ∈ ns :=
    fun h => (List.mem_filter.1 (mem_rotate h)).1
  simp only [State.vfOrder, List.mem_append] at h
  rcases h with ((h | h) | h) | h <;> exact turn h

theorem State.core_onSel_same (s : State) (core : Nat) (f : Selector → Selector) :
    ((s.onSel core f).core core).sel = f (s.core core).sel := by
  simp [State.onSel, State.onCore, Core.onSel]

/-- Shares updated once each: a VF of the list has its update, another what it had. -/
theorem lookup?_foldl_onShare (g : Nat → VfShare → VfShare) {l : List Nat} (once : l.Nodup) (x : Selector) (v : Nat) :
    lookup? v (l.foldl (fun x w => x.onShare w (g w)) x).shares =
      if v ∈ l then some (g v (lookupD {} v x.shares)) else lookup? v x.shares := by
  induction l generalizing x with
  | nil => simp
  | cons w l ih =>
    obtain ⟨new, once⟩ := List.nodup_cons.1 once
    rw [List.foldl_cons, ih once]
    by_cases e : v = w
    · subst e
      simp [new, Selector.onShare]
    · simp [e, Selector.onShare]

end Sys2Proof.Machine
open Sys2Proof Sys2Proof.Machine

/-- Settles O56: the turn list is drawn from the runnable contexts, and each ready VF's share is updated once. -/
theorem roundStarts : Obligations.RoundStarts := by
  intro s core v start
  refine ⟨s.startRound core, congrArg Host.Outcome.next (if_pos start), fun n hn => ?_, fun hv ready => ?_⟩
  · rw [State.startRound, State.core_onSel_same] at hn
    obtain ⟨_, hp, hn⟩ := List.mem_flatMap.1 hn
    obtain ⟨_, _, rfl⟩ := List.mem_map.1 hp
    exact (List.mem_filter.1 (State.mem_vfOrder hn)).1
  · obtain ⟨n, slot, ready, vf⟩ := ready
    have given : v ∈ (List.range 192).filter fun v =>
        ((slotsOf core).filter s.isReady).any fun n => (s.ctx n).id.vf == v := by
      simp only [List.mem_filter, List.mem_range, List.any_eq_true, beq_iff_eq]
      exact ⟨hv, n, ⟨slot, ready⟩, vf⟩
    have once := (List.nodup_range (n := 192)).filter fun v =>
        ((slotsOf core).filter s.isReady).any fun n => (s.ctx n).id.vf == v
    have share : (s.startRound core).share core v =
        { s.share core v with
          quantum := 32 * (s.share core v).weight
          deficit := min ((s.share core v).deficit + 32 * (s.share core v).weight) (2 * (32 * (s.share core v).weight))
          issuedNow := [] } := by
      have cleared := lookup?_map_snd (fun h : VfShare => { h with issuedNow := [] }) v
      rw [State.share, State.startRound, State.core_onSel_same, lookupD, cleared, lookup?_foldl_onShare _ once, if_pos given]
      rfl
    rw [share]
    exact ⟨rfl, rfl⟩
end

section
/-!
PROOFS. Translation events: a miss, an invalidation that completes, a write to the table window (R449 to R456; O43).
-/
namespace Sys2Proof.Machine
open Sys2Proof

/-- The first miss on a page starts a walk, with its master as the first waiter. -/
theorem State.startWalk_walks {s : State} (none : s.walks = []) (pool vf va : Nat) (m : Master) :
    (s.startWalk pool vf va m).walks =
      [{ id := s.nextId, pool := pool, vf := vf, page := va / 2 ^ 16, waiters := [m], stage := .walking }] := by
  simp [State.startWalk, none]

theorem execTlbMiss_of_no_walk {s : State} {m : Master} {pool vf va : Nat} (miss : s.missOf m = some (pool, vf, va))
    (none : s.walks = []) : execTlbMiss m s = .next (s.startWalk pool vf va m) := by
  simp [execTlbMiss, miss, none]

theorem execInvalidateComplete_tlbs {s : State} {vf va len : Nat} (posted : (vf, va, len) ∈ s.invals) :
    execInvalidateComplete vf va len s =
      .next { (s.dropTlb vf va len).askAgain vf va len with invals := s.invals.erase (vf, va, len) } := by
  simp [execInvalidateComplete, posted]

theorem State.dropTlb_tlbs {s : State} {vf va len : Nat} {p : Nat × List TlbEntry} {e : TlbEntry}
    (hp : p ∈ (s.dropTlb vf va len).tlbs) (he : e ∈ p.2) : e.meets vf va len = false := by
  obtain ⟨q, _, rfl⟩ := List.mem_map.1 hp
  simpa using (List.mem_filter.1 he).2

theorem State.dropTlb_cores {s : State} {vf va len : Nat} {p : Nat × Core} {e : TlbEntry}
    (hp : p ∈ (s.dropTlb vf va len).cores) (he : e ∈ p.2.tlb) : e.meets vf va len = false := by
  obtain ⟨q, _, rfl⟩ := List.mem_map.1 hp
  simpa using (List.mem_filter.1 he).2

/-- A write to memory of the partition that no table of it holds is the bytes alone. -/
theorem State.tableWrite_of_no_table {s : State} {part addr : Nat} (aligned : addr % 8 = 0) (owns : s.ownsRange part addr 8 = true)
    (free : s.isHeld addr 8 = false) (table : s.entriesAt part addr = []) (e : Nat) :
    s.tableWrite part addr e = s.homeWrite addr (natBytes 8 e) := by
  simp [State.tableWrite, aligned, owns, free, table]

end Sys2Proof.Machine
open Sys2Proof Sys2Proof.Machine

/-- Settles O43. -/
theorem translationEvents : Obligations.TranslationEvents := by
  refine ⟨fun s m vf va len => ⟨fun pool v a miss none => ?_, fun ready => ?_, fun off => ?_, fun posted => ?_⟩,
    fun s w aligned owns free table => ?_⟩
  · exact ⟨_, _, execTlbMiss_of_no_walk miss none, State.startWalk_walks none pool v a m, rfl, rfl, rfl, rfl⟩
  · exact ⟨{ s with invals := s.invals ++ [(vf, va, len)] }, congrArg Host.Outcome.next (if_pos ready), by simp⟩
  · exact congrArg Host.Outcome.next (if_neg (by simp [off]))
  · exact ⟨_, execInvalidateComplete_tlbs posted, fun p hp e he => State.dropTlb_tlbs hp he,
      fun p hp e he => State.dropTlb_cores hp he⟩
  · have mem := s.homeWrite_mem w.addr (natBytes 8 w.value.toNat)
    exact ⟨_, congrArg Host.Outcome.next (State.tableWrite_of_no_table aligned owns free table _),
      State.bytes_of_mem mem (natBytes_length ..), State.sameOutside_of_mem mem (natBytes_length ..)⟩
end

section
/-!
PROOFS. What a function-level reset changes, and what it leaves (R464 to R466; O46).
-/
namespace Sys2Proof.Machine
open Sys2Proof

@[simp] theorem State.vfs_onCtx (s : State) (n : Nat) (f : Ctx → Ctx) : (s.onCtx n f).vfs = s.vfs := (rfl)
@[simp] theorem State.vfs_onCore (s : State) (n : Nat) (f : Core → Core) : (s.onCore n f).vfs = s.vfs := (rfl)
@[simp] theorem State.vfs_ite (c : Prop) [Decidable c] (a b : State) :
    (if c then a else b).vfs = if c then a.vfs else b.vfs := apply_ite State.vfs c a b
@[simp] theorem State.vfs_onJob (s : State) (n : Nat) (f : Job → Job) : (s.onJob n f).vfs = s.vfs := (rfl)
@[simp] theorem State.vfs_foldl {α : Type} {f : State → α → State} (keep : ∀ s a, (f s a).vfs = s.vfs) (l : List α)
    (s : State) :
    (l.foldl f s).vfs = s.vfs :=
  List.foldlRecOn (motive := fun t : State => t.vfs = s.vfs) l f rfl fun t e a _ => (keep t a).trans e

@[simp] theorem State.vfs_addSem (s : State) (n h v : Nat) :
    (s.addSem n h v).vfs = s.vfs := (rfl)

@[simp] theorem State.vfs_setTag (s : State) (cell t : Nat) :
    (s.setTag cell t).vfs = s.vfs := (rfl)

@[simp] theorem State.vfs_setCause (s : State) (cell cause : Nat) :
    (s.setCause cell cause).vfs = s.vfs := (rfl)

@[simp] theorem State.vfs_withdraw (s : State) (n : Nat) :
    (s.withdraw n).vfs = s.vfs := (rfl)

@[simp] theorem State.vfs_leaveSets (s : State) (n : Nat) :
    (s.leaveSets n).vfs = s.vfs := (rfl)

@[simp] theorem State.vfs_addPending (s : State) (n : Nat) (p : Pending) :
    (s.addPending n p).vfs = s.vfs := by
  unfold State.addPending
  split <;> simp

@[simp] theorem State.vfs_raiseSem (s : State) (n h v : Nat) :
    (s.raiseSem n h v).vfs = s.vfs := by
  simp [State.raiseSem]

@[simp] theorem State.vfs_fireSignal (s : State) (n : Nat) (sig : Option Nat) :
    (s.fireSignal n sig).vfs = s.vfs := by
  unfold State.fireSignal
  dsimp only
  (repeat' split) <;> simp

@[simp] theorem State.vfs_subBytes (s : State) (j : Job) (n : Nat) :
    (s.subBytes j n).vfs = s.vfs := by
  simp [State.subBytes]

@[simp] theorem State.vfs_completionIncrement (s : State) (j : Job) :
    (s.completionIncrement j).vfs = s.vfs := by
  simp [State.completionIncrement]

@[simp] theorem State.vfs_completeJob (s : State) (j : Job) :
    (s.completeJob j).vfs = s.vfs := by
  simp [State.completeJob]

@[simp] theorem State.vfs_dropSealed (s : State) (eid : Nat) :
    (s.dropSealed eid).vfs = s.vfs := by
  simp [State.dropSealed]

@[simp] theorem State.vfs_setOutcome (s : State) (eid st cause : Nat) :
    (s.setOutcome eid st cause).vfs = s.vfs := by
  simp [State.setOutcome]

@[simp] theorem State.vfs_onCoord (s : State) (eid : Nat) (f : Coord → Coord) :
    (s.onCoord eid f).vfs = s.vfs := (rfl)

@[simp] theorem State.vfs_send (s : State) (dst : Nat) (m : Msg) :
    (s.send dst m).vfs = s.vfs := (rfl)

@[simp] theorem State.vfs_decideEnvelope (s : State) (eid cause : Nat) :
    (s.decideEnvelope eid cause).vfs = s.vfs := by
  unfold State.decideEnvelope
  dsimp only
  (repeat' split) <;> simp

@[simp] theorem State.vfs_dropFetches (s : State) (n : Nat) :
    (s.dropFetches n).vfs = s.vfs := (rfl)

@[simp] theorem State.vfs_dropSaved (s : State) (n : Nat) :
    (s.dropSaved n).vfs = s.vfs := (rfl)

@[simp] theorem State.vfs_failDest (s : State) (eid cause : Nat) :
    (s.failDest eid cause).vfs = s.vfs := (rfl)

@[simp] theorem State.vfs_scrubSlot (s : State) (n : Nat) :
    (s.scrubSlot n).vfs = s.vfs := (rfl)

@[simp] theorem State.vfs_resetSlot (s : State) (n : Nat) :
    (s.resetSlot n).vfs = s.vfs := by
  simp [State.resetSlot]

@[simp] theorem State.vfs_resetJobs (s : State) (vf : Nat) :
    (s.resetJobs vf).vfs = s.vfs := (rfl)

@[simp] theorem State.vfs_resetEmber (s : State) (vf : Nat) :
    (s.resetEmber vf).vfs = s.vfs := by
  simp [State.resetEmber]

@[simp] theorem State.vfs_resetEnvelopes (s : State) (vf : Nat) :
    (s.resetEnvelopes vf).vfs = s.vfs := by
  simp [State.resetEnvelopes]

@[simp] theorem State.onCtx_life {f : Ctx → Ctx} (s : State) (n m : Nat) (keep : ∀ c, (f c).life = c.life) :
    ((s.onCtx n f).ctx m).life = (s.ctx m).life := by
  rw [State.onCtx_eq, State.ctx_setCtx]
  split
  next e => rw [keep, e]
  next => rfl
@[simp] theorem State.life_onJob (s : State) (n : Nat) (f : Job → Job) (m : Nat) : ((s.onJob n f).ctx m).life =
    (s.ctx m).life := (rfl)
@[simp] theorem Ctx.life_outcome (c : Ctx) (eid st cause : Nat) : (c.outcome eid st cause).life = c.life := by
  have step : ∀ (d : Ctx) (p : Nat × EnvSlot) (e : EnvSlot), ({ d with env := assocSet p.1 e d.env }.wakeSwait eid e).life = d.life := by
    intro d p e
    refine List.foldlRecOn (motive := fun x : Ctx => x.life = d.life) _ _ rfl fun x h r _ => ?_
    dsimp only
    split <;> exact h
  exact List.foldlRecOn (motive := fun d : Ctx => d.life = c.life) _ _ rfl fun d e p _ => (step d p _).trans e

@[simp] theorem Ctx.life_completeSignal (c : Ctx) (k : Option Nat) : (c.completeSignal k).life = c.life := by
  cases k <;> rfl

@[simp] theorem Ctx.life_subCounter (c : Ctx) (bb : Option Nat) (n : Nat) : (c.subCounter bb n).life = c.life := by
  have woken : ∀ (d : Ctx) (k : Nat), (d.wakeBbw k).life = d.life := by
    intro d k
    unfold Ctx.wakeBbw
    split
    · rfl
    · exact List.foldlRecOn (motive := fun x : Ctx => x.life = d.life) _ _ rfl fun x e r _ => e
  unfold Ctx.subCounter
  split <;> simp [woken]

@[simp] theorem Ctx.life_addDamage (c : Ctx) (a b d : Nat) : (c.addDamage a b d).life = c.life := (rfl)

theorem State.life_mapCtxs {g : Ctx → Ctx} (keep : ∀ c, (g c).life = c.life) (s : State) (m : Nat) :
    (({ s with ctxs := s.ctxs.map fun p => (p.1, g p.2) } : State).ctx m).life = (s.ctx m).life := by
  simp only [State.ctx, lookupD, lookup?_map_snd]
  cases lookup? m s.ctxs with
  | none => rfl
  | some c => exact keep c

@[simp] theorem State.life_foldl {α : Type} {f : State → α → State} (l : List α) (s : State) (m : Nat)
    (keep : ∀ s a, ((f s a).ctx m).life = (s.ctx m).life) : ((l.foldl f s).ctx m).life = (s.ctx m).life :=
  List.foldlRecOn (motive := fun t : State => (t.ctx m).life = (s.ctx m).life) l f rfl fun t e a _ => (keep t a).trans e

@[simp] theorem State.life_addPending (s : State) (n : Nat) (p : Pending) (k : Nat) :
    ((s.addPending n p).ctx k).life = (s.ctx k).life := by
  unfold State.addPending
  split <;> rfl

@[simp] theorem State.life_setOutcome (s : State) (eid st cause m : Nat) :
    ((s.setOutcome eid st cause).ctx m).life = (s.ctx m).life := by
  unfold State.setOutcome
  refine (State.life_mapCtxs (g := fun c => if c.life.state != .saved then c.outcome eid st cause else c)
      (fun c => ?_) _ m).trans ?_
  · split <;> simp
  · simp

@[simp] theorem State.life_onCoord (s : State) (eid : Nat) (f : Coord → Coord) (k : Nat) :
    ((s.onCoord eid f).ctx k).life = (s.ctx k).life := (rfl)

@[simp] theorem State.life_send (s : State) (dst : Nat) (m : Msg) (k : Nat) :
    ((s.send dst m).ctx k).life = (s.ctx k).life := (rfl)

@[simp] theorem State.life_addSem (s : State) (n h v k : Nat) :
    ((s.addSem n h v).ctx k).life = (s.ctx k).life := (rfl)

@[simp] theorem State.life_raiseSem (s : State) (n h v k : Nat) :
    ((s.raiseSem n h v).ctx k).life = (s.ctx k).life := by
  unfold State.raiseSem
  split <;> simp

@[simp] theorem State.life_completionIncrement (s : State) (j : Job) (m : Nat) :
    ((s.completionIncrement j).ctx m).life = (s.ctx m).life := by
  unfold State.completionIncrement
  dsimp only
  repeat' split
  case isFalse.isFalse.isTrue =>
    refine State.life_foldl _ _ _ fun t n => ?_
    split <;> simp
  all_goals simp

@[simp] theorem State.life_fireSignal (s : State) (n : Nat) (sig : Option Nat) (m : Nat) :
    ((s.fireSignal n sig).ctx m).life = (s.ctx m).life := by
  unfold State.fireSignal
  dsimp only
  repeat' split
  all_goals simp

@[simp] theorem State.life_completeJob (s : State) (j : Job) (m : Nat) : ((s.completeJob j).ctx m).life =
    (s.ctx m).life := by
  have kept : ∀ t : State, (State.ctx
      { t.onCore (coreOf j.ctx) (fun k => { k with board := k.board.filter fun e => e.job != j.id }) with
        jobs := t.jobs.filter fun k => k.id != j.id } m).life = (t.ctx m).life := fun t => rfl
  unfold State.completeJob
  obtain ⟨a, b, d⟩ := j.damage
  refine (kept _).trans ?_
  repeat' split
  all_goals simp

@[simp] theorem State.life_subBytes (s : State) (j : Job) (n k : Nat) :
    ((s.subBytes j n).ctx k).life = (s.ctx k).life := by
  unfold State.subBytes
  dsimp only
  (repeat' split) <;> simp

@[simp] theorem State.life_dropSealed (s : State) (eid k : Nat) :
    ((s.dropSealed eid).ctx k).life = (s.ctx k).life := by
  simp [State.dropSealed]

@[simp] theorem State.life_decideEnvelope (s : State) (eid cause k : Nat) :
    ((s.decideEnvelope eid cause).ctx k).life = (s.ctx k).life := by
  unfold State.decideEnvelope
  dsimp only
  (repeat' split) <;> simp

@[simp] theorem State.life_failDest (s : State) (eid cause k : Nat) :
    ((s.failDest eid cause).ctx k).life = (s.ctx k).life := (rfl)

@[simp] theorem State.life_resetEnvelopes (s : State) (vf k : Nat) :
    ((s.resetEnvelopes vf).ctx k).life = (s.ctx k).life := by
  simp [State.resetEnvelopes]

@[simp] theorem State.life_resetEmber (s : State) (vf m : Nat) : ((s.resetEmber vf).ctx m).life = (s.ctx m).life := by
  have cells : ∀ l : List Nat, ((l.foldl (fun (s : State) cell => (s.setTag cell 3).setCause cell 4)
      s).ctx m).life = (s.ctx m).life :=
    fun l => State.life_foldl l s m fun t cell => rfl
  exact cells _

@[simp] theorem State.jobs_onCtx (s : State) (n : Nat) (f : Ctx → Ctx) : (s.onCtx n f).jobs = s.jobs := (rfl)
@[simp] theorem State.jobs_ite (c : Prop) [Decidable c] (a b : State) :
    (if c then a else b).jobs = if c then a.jobs else b.jobs := apply_ite State.jobs c a b
@[simp] theorem State.jobs_foldl {α : Type} {f : State → α → State} (keep : ∀ s a, (f s a).jobs = s.jobs) (l :
    List α) (s : State) :
    (l.foldl f s).jobs = s.jobs :=
  List.foldlRecOn (motive := fun t : State => t.jobs = s.jobs) l f rfl fun t e a _ => (keep t a).trans e

@[simp] theorem State.jobs_addPending (s : State) (n : Nat) (p : Pending) :
    (s.addPending n p).jobs = s.jobs := by
  unfold State.addPending
  split <;> simp

@[simp] theorem State.jobs_setOutcome (s : State) (eid st cause : Nat) :
    (s.setOutcome eid st cause).jobs = s.jobs := by
  simp [State.setOutcome]

@[simp] theorem State.jobs_onCoord (s : State) (eid : Nat) (f : Coord → Coord) :
    (s.onCoord eid f).jobs = s.jobs := (rfl)

@[simp] theorem State.jobs_send (s : State) (dst : Nat) (m : Msg) :
    (s.send dst m).jobs = s.jobs := (rfl)

@[simp] theorem State.jobs_addSem (s : State) (n h v : Nat) :
    (s.addSem n h v).jobs = s.jobs := (rfl)

@[simp] theorem State.jobs_raiseSem (s : State) (n h v : Nat) :
    (s.raiseSem n h v).jobs = s.jobs := by
  simp [State.raiseSem]

@[simp] theorem State.jobs_completionIncrement (s : State) (j : Job) :
    (s.completionIncrement j).jobs = s.jobs := by
  simp [State.completionIncrement]

@[simp] theorem State.jobs_fireSignal (s : State) (n : Nat) (sig : Option Nat) :
    (s.fireSignal n sig).jobs = s.jobs := by
  unfold State.fireSignal
  dsimp only
  (repeat' split) <;> simp

@[simp] theorem State.jobs_failDest (s : State) (eid cause : Nat) :
    (s.failDest eid cause).jobs = s.jobs := (rfl)

@[simp] theorem State.jobs_setCause (s : State) (cell cause : Nat) :
    (s.setCause cell cause).jobs = s.jobs := (rfl)

@[simp] theorem State.jobs_setTag (s : State) (cell t : Nat) :
    (s.setTag cell t).jobs = s.jobs := (rfl)

@[simp] theorem State.jobs_resetEmber (s : State) (vf : Nat) :
    (s.resetEmber vf).jobs = s.jobs := by
  simp [State.resetEmber]

/-- No job is one of this VF. -/
def State.NoJobsOf (s : State) (vf : Nat) : Prop := ∀ j ∈ s.jobs, j.vf ≠ vf

section
variable {s t : State} {k : Nat} (hk : s.NoJobsOf k)
include hk

theorem State.NoJobsOf.of_jobs (e : t.jobs = s.jobs) : t.NoJobsOf k := fun j hj => hk j (e ▸ hj)

theorem State.NoJobsOf.foldl {α : Type} {f : State → α → State} (keep : ∀ s a, s.NoJobsOf k → (f s a).NoJobsOf k)
    (l : List α) :
    (l.foldl f s).NoJobsOf k :=
  List.foldlRecOn (motive := fun t : State => t.NoJobsOf k) l f hk fun t e a _ => keep t a e

theorem State.NoJobsOf.scrubSlot (n : Nat) : (s.scrubSlot n).NoJobsOf k := by
  intro j hj
  obtain ⟨i, hi, rfl⟩ := List.mem_map.1 hj
  exact hk i hi

theorem State.NoJobsOf.completeJob (j : Job) : (s.completeJob j).NoJobsOf k := by
  have left : ((s.completeJob j).jobs) = s.jobs.filter fun k => k.id != j.id := by
    unfold State.completeJob
    obtain ⟨a, b, d⟩ := j.damage
    dsimp only
    repeat' split
    all_goals simp
  intro i hi
  rw [left] at hi
  exact hk i (List.mem_filter.1 hi).1

theorem State.NoJobsOf.subBytes (j : Job) (n : Nat) : (s.subBytes j n).NoJobsOf k := by
  have less : (s.onJob j.id fun j => { j with bytes := j.bytes - n }).NoJobsOf k := by
    intro i hi
    obtain ⟨i, h, rfl⟩ := List.mem_map.1 hi
    dsimp only
    split <;> exact hk i h
  unfold State.subBytes
  dsimp only
  repeat' split
  all_goals exact less.of_jobs (by simp)

theorem State.NoJobsOf.dropSealed (eid : Nat) : (s.dropSealed eid).NoJobsOf k :=
  hk.foldl (fun _ j ht => (ht.subBytes j j.bytes).completeJob _) _

theorem State.NoJobsOf.decideEnvelope (eid cause : Nat) : (s.decideEnvelope eid cause).NoJobsOf k := by
  unfold State.decideEnvelope
  dsimp only
  split
  next c _ =>
    have told : ∀ t : State, t.jobs = s.jobs → (if cause = 0 then t else t.dropSealed eid).NoJobsOf k := by
      intro t e
      split
      · exact hk.of_jobs e
      · exact (hk.of_jobs e).dropSealed eid
    split
    · exact hk
    split
    · exact State.NoJobsOf.of_jobs (told _ (by simp)) (State.jobs_onCtx _ _ _)
    · exact told _ (by simp)
  next => exact (hk.of_jobs (by simp)).dropSealed eid

theorem State.NoJobsOf.resetEnvelopes (vf : Nat) : (s.resetEnvelopes vf).NoJobsOf k :=
  (hk.foldl (fun t e ht => ht.decideEnvelope e 8) _).foldl (fun t e ht => ht.of_jobs (by simp)) _

end

@[simp] theorem State.ctx_scrubSlot (s : State) (n m : Nat) : (s.scrubSlot n).ctx m = if m = n then {} else s.ctx m := by
  have left : (s.scrubSlot n).ctxs = dropKey n s.ctxs := rfl
  rw [State.ctx, left, lookupD, lookup?_dropKey]
  split <;> rfl

theorem State.ctx_scrubSlots (l : List Nat) (s : State) (m : Nat) :
    (l.foldl State.scrubSlot s).ctx m = if m ∈ l then {} else s.ctx m := by
  induction l generalizing s with
  | nil => simp
  | cons n l ih =>
    rw [List.foldl_cons, ih, State.ctx_scrubSlot]
    by_cases h : m ∈ l <;> by_cases e : m = n <;> simp [h, e]

theorem mem_of_lookup? {α : Type} {k : Nat} {v : α} {l : List (Nat × α)} (h : lookup? k l = some v) : (k, v) ∈ l := by
  induction l with
  | nil => cases h
  | cons p l ih =>
    simp only [lookup?] at h
    split at h
    · next e =>
      cases h
      exact e ▸ List.mem_cons_self
    · exact List.mem_cons_of_mem _ (ih h)

/-- A slot of the VF is one that the reset scrubs, or is free. -/
theorem State.mem_slotsOfVf {s : State} {n vf : Nat} (hv : (s.ctx n).id.vf = vf) (busy : (s.ctx n).life.state ≠ .free) :
    n ∈ s.slotsOfVf vf := by
  cases e : lookup? n s.ctxs with
  | none => simp [State.ctx, lookupD, e] at busy
  | some c =>
    have hc : s.ctx n = c := by simp [State.ctx, lookupD, e]
    rw [hc] at hv busy
    exact List.mem_map.2 ⟨(n, c), List.mem_filter.2 ⟨mem_of_lookup? e, by simp [hv, busy]⟩, rfl⟩

theorem State.free_scrubSlots {s : State} {n vf : Nat} (hv : (s.ctx n).id.vf = vf) :
    (((s.slotsOfVf vf).foldl State.scrubSlot s).ctx n).life.state = .free := by
  rw [State.ctx_scrubSlots]
  split
  · rfl
  next out => exact of_not_not fun busy => out (State.mem_slotsOfVf hv busy)

theorem State.vf_onVf_same (s : State) (vf : Nat) (f : Vf → Vf) : (s.onVf vf f).vf vf = f (s.vf vf) := by simp [State.onVf]

theorem State.hearths_onVf (s : State) (vf : Nat) (f : Vf → Vf) : (s.onVf vf f).hearths = s.hearths := rfl
theorem State.jobs_onVf (s : State) (vf : Nat) (f : Vf → Vf) : (s.onVf vf f).jobs = s.jobs := rfl
theorem State.ctx_postRecord (s : State) (vf : Nat) (r : List Byte) (m : Nat) : (s.postRecord vf r).ctx m = s.ctx m := rfl
theorem State.hearths_postRecord (s : State) (vf : Nat) (r : List Byte) : (s.postRecord vf r).hearths = s.hearths := rfl
theorem State.jobs_postRecord (s : State) (vf : Nat) (r : List Byte) : (s.postRecord vf r).jobs = s.jobs := rfl

/-- What a reset leaves as it begins, but for walks and fetches. -/
def State.resetBegun (s : State) (vf : Nat) : State :=
  let slots := s.slotsOfVf vf
  let jobs := (s.jobs.filter fun j => j.vf == vf).length
  let s := ((s.finishCommand vf 0x0D 0).withdrawOutside vf).onVf vf fun v =>
    { v with state := .resetting, starts := [], reset := some (slots.length, jobs) }
  slots.foldl State.leaveSets ((slots.foldl State.resetSlot s).resetJobs vf)

theorem execFunctionLevelReset_of_active {s : State} {vf : Nat} (active : (s.vf vf).state = .active) :
    execFunctionLevelReset vf s = .next { s.resetBegun vf with
      walks := (s.resetBegun vf).walks.filter fun w => w.vf != vf
      cores := (s.resetBegun vf).cores.map fun k => (k.1, { k.2 with fetches := k.2.fetches.filter fun f => f.vf != vf }) } := by
  rw [execFunctionLevelReset, if_neg (by simp [active])]
  rfl

theorem State.resetBegun_vf (s : State) (vf : Nat) :
    (s.resetBegun vf).vf vf = { ((s.finishCommand vf 0x0D 0).withdrawOutside vf).vf vf with
      state := .resetting
      starts := []
      reset := some ((s.slotsOfVf vf).length, (s.jobs.filter fun j => j.vf == vf).length) } := by
  have left : (s.resetBegun vf).vfs = (((s.finishCommand vf 0x0D 0).withdrawOutside vf).onVf vf fun v =>
      { v with
        state := .resetting
        starts := []
        reset := some ((s.slotsOfVf vf).length, (s.jobs.filter fun j => j.vf == vf).length) }).vfs := by
    simp [State.resetBegun]
  rw [State.vf, left, ← State.vf, State.vf_onVf_same]

/-- What a reset that has drained leaves, before its record is posted. -/
def State.drained (s : State) (vf : Nat) : State :=
  let s := { s with jobs := s.jobs.filter fun j => j.vf != vf }
  let s := (s.slotsOfVf vf).foldl State.scrubSlot s
  ((s.scrubVf vf).resetEnvelopes vf).resetEmber vf

/-- What a reset that has drained leaves. -/
def State.resetDone (s : State) (vf a b : Nat) : State :=
  ((s.drained vf).postRecord vf (resetRecord vf a b ((s.drained vf).vf vf).violations)).onVf vf
    fun v => { v with state := .active, rings := [], violations := 0, reset := none }

theorem execResetDrainComplete_of_drained {s : State} {vf a b : Nat} (reset : (s.vf vf).reset = some (a, b))
    (state : (s.vf vf).state = .resetting) (drained : s.vfDrained vf = true) :
    execResetDrainComplete vf s = .next (s.resetDone vf a b) := by
  simp [execResetDrainComplete, reset, state, drained, State.drained, State.resetDone]

theorem State.drained_ranges (s : State) (vf : Nat) : ((s.drained vf).vf vf).ranges = [] := by
  have left : (s.drained vf).vfs =
      (State.scrubVf ((({ s with jobs := s.jobs.filter fun j => j.vf != vf } : State).slotsOfVf vf).foldl State.scrubSlot
        { s with jobs := s.jobs.filter fun j => j.vf != vf }) vf).vfs := by
    simp [State.drained]
  rw [State.vf, left, ← State.vf, State.scrubVf, State.onVf, State.vf_setVf, if_pos rfl]

theorem State.drained_free {s : State} {n vf : Nat} (hv : (s.ctx n).id.vf = vf) :
    ((s.drained vf).ctx n).life.state = .free := by
  have kept : ∀ t : State, ((t.scrubVf vf).ctx n).life = (t.ctx n).life := fun t => rfl
  rw [State.drained, State.life_resetEmber, State.life_resetEnvelopes, kept]
  exact State.free_scrubSlots hv

theorem State.drained_hearths {s : State} {vf : Nat} {h : Hearth} (hh : h ∈ (s.drained vf).hearths) : h.vf ≠ vf := by
  simpa using (List.mem_filter.1 hh).2

theorem State.drained_jobs (s : State) (vf : Nat) : (s.drained vf).NoJobsOf vf := by
  have left : State.NoJobsOf { s with jobs := s.jobs.filter fun j => j.vf != vf } vf :=
    fun j hj => by simpa using (List.mem_filter.1 hj).2
  have scrubbed := (left.foldl (fun t n ht => ht.scrubSlot n)
    (State.slotsOfVf { s with jobs := s.jobs.filter fun j => j.vf != vf } vf))
  exact (State.NoJobsOf.resetEnvelopes (s := State.scrubVf _ vf) (scrubbed.of_jobs rfl) vf).of_jobs
      (State.jobs_resetEmber _ _)

section
variable (s : State) (vf a b : Nat)

theorem State.resetDone_vf : (s.resetDone vf a b).vf vf =
    { ((s.drained vf).postRecord vf (resetRecord vf a b ((s.drained vf).vf vf).violations)).vf vf with
      state := .active, rings := [], violations := 0, reset := none } := by
  rw [State.resetDone, State.vf_onVf_same]

theorem State.resetDone_ranges : ((s.resetDone vf a b).vf vf).ranges = [] := by
  rw [State.resetDone_vf, State.postRecord, State.vf_onVf_same]
  exact s.drained_ranges vf

theorem State.resetDone_ctx (n : Nat) : (s.resetDone vf a b).ctx n = (s.drained vf).ctx n := by
  rw [State.resetDone, State.ctx_onVf, State.ctx_postRecord]

theorem State.resetDone_hearths : (s.resetDone vf a b).hearths = (s.drained vf).hearths := by
  rw [State.resetDone, State.hearths_onVf, State.hearths_postRecord]

theorem State.resetDone_jobs : (s.resetDone vf a b).jobs = (s.drained vf).jobs := by
  rw [State.resetDone, State.jobs_onVf, State.jobs_postRecord]

end

end Sys2Proof.Machine
open Sys2Proof Sys2Proof.Machine

/-- Settles O46. -/
theorem resetEvents : Obligations.ResetEvents := by
  refine fun s vf => ⟨fun active => ?_, fun a b reset state drained => ?_⟩
  · refine ⟨_, execFunctionLevelReset_of_active active, ?_, ?_, fun w hw => by simpa using (List.mem_filter.1 hw).2⟩
    · exact congrArg Vf.state (s.resetBegun_vf vf)
    · exact congrArg Vf.starts (s.resetBegun_vf vf)
  · refine ⟨s.resetDone vf a b, execResetDrainComplete_of_drained reset state drained,
      congrArg Vf.state (s.resetDone_vf vf a b), congrArg Vf.rings (s.resetDone_vf vf a b), s.resetDone_ranges vf a b,
      fun n hv => ?_, fun h hh => ?_, fun j hj => ?_⟩
    · rw [State.resetDone_ctx]
      exact State.drained_free hv
    · exact State.drained_hearths (s.resetDone_hearths vf a b ▸ hh)
    · exact State.drained_jobs s vf j (s.resetDone_jobs vf a b ▸ hj)
end

section
/-!
PROOFS. How ops of the C slot enter the port of their context, or fault after the bundle (R43, R189, R195; O25).
-/
namespace Sys2Proof.Machine
open Sys2Proof

variable {s t : State} {h : Hdr} {capture : Ctx → PortReq} {targets : List (Nat × Nat)} {accept : Accept}

/-- A port op that its checks accept leaves what it makes of the port, and notes its targets. -/
theorem portOp_accepted (on : guardTrue s.cur h = true) (ok : accept s s.iss.cur (s.stamp (capture s.cur)) = .ok t) :
    portOp h capture targets accept s =
      .next (t.onIss fun x => targets.foldl (fun x k => x.note (if k = (0, 0) then none else some k)) x) := by
  rw [portOp, State.guarded_on on]
  dsimp only
  rw [ok]

/-- One that fails a check faults after the bundle. -/
theorem portOp_failed {e : Trapped} (on : guardTrue s.cur h = true)
    (fails : accept s s.iss.cur (s.stamp (capture s.cur)) = .error e) :
    portOp h capture targets accept s = .next (s.faultAfter e (s.stamp (capture s.cur))) := by
  rw [portOp, State.guarded_on on]
  dsimp only
  rw [fails]

theorem State.faultAfter_cfaults (s : State) (e : Trapped) (r : PortReq) :
    (s.faultAfter e r).iss.cfaults = s.iss.cfaults ++ [e] := rfl

theorem State.faultAfter_port (s : State) (e : Trapped) (r : PortReq) : (s.faultAfter e r).cur.port = s.cur.port := by
  rw [State.faultAfter, State.cur_onIss _ _ rfl, State.cur_onCur]

/-! ## Entries of the port -/

/-- Entries that are additions to semaphores alone: what an op with SINC owes, behind it in the port. -/
def OnlySignals (l : List PortReq) : Prop := ∀ x ∈ l, ∃ h n, x.work = .signal h n

theorem onlySignals_hold {β : Type} (o : Option β) {req : β → PortReq} (signal : ∀ b, ∃ h n, (req b).work = .signal h n) :
    OnlySignals (o.map req).toList := by
  cases o <;> simp [OnlySignals, signal]

/-- A copy of an entry as it stands in the port: the op with its address, place and time of issue, not yet performed. -/
def PortReq.EnteredAs (r q : PortReq) (id : Nat) : Prop :=
  q.work = r.work ∧ q.addr = r.addr ∧ q.stage = .pending ∧ q.seq = r.seq ∧ q.slot = r.slot ∧ q.id = id

/-- An op that enters the port becomes its last entry, but for the signal that it owes. -/
theorem State.pushOp_queue (s : State) (n : Nat) (r : PortReq) (landing : Bool) : ∃ q rest,
    ((s.pushOp n r landing).ctx n).port.queue = (s.ctx n).port.queue ++ q :: rest ∧
      r.EnteredAs q (s.ctx n).port.nextId ∧ OnlySignals rest := by
  rw [State.pushOp, State.ctx_onCtx_same]
  dsimp only
  split
  · split
    all_goals exact ⟨_, _, List.append_assoc .., ⟨rfl, rfl, rfl, rfl, rfl, rfl⟩, onlySignals_hold _ fun x => ⟨_, _, rfl⟩⟩
  · exact ⟨_, _, List.append_assoc .., ⟨rfl, rfl, rfl, rfl, rfl, rfl⟩, onlySignals_hold _ fun x => ⟨_, _, rfl⟩⟩

/-- What it loads is owed at its due bundle. -/
theorem State.pushOp_deferred (s : State) (n : Nat) (r : PortReq) (lvl : r.level = (s.ctx n).trap.tl) : ∃ e,
    ((s.pushOp n r true).ctx n).level.deferred = (s.ctx n).level.deferred ++ [e] ∧ e.due = r.due ∧
      e.eff = .landing (s.ctx n).port.nextId := by
  rw [State.pushOp, State.ctx_onCtx_same]
  cases tl : (s.ctx n).trap.tl
  all_goals
    simp only [Ctx.level, lvl, tl, if_true, Bool.false_eq_true, if_false]
    refine ⟨_, rfl, ?_⟩
    exact ⟨rfl, rfl⟩

theorem State.queued_pushOp {r : PortReq} {i : Instr} (w : r.work = .op i) (landing : Bool) :
    s.queued (s.pushOp s.iss.cur (s.stamp r) landing) i r.addr := by
  obtain ⟨q, rest, queue, ⟨work, addr, stage, seq, slot, -⟩, signals⟩ := s.pushOp_queue s.iss.cur (s.stamp r) landing
  exact ⟨q, rest, queue, work.trans w, addr, stage, seq, slot, signals⟩

theorem State.queuedLanding_pushOp {r : PortReq} {i : Instr} {due : Nat} (w : r.work = .op i)
    (d : r.due = s.cur.level.count + due) : s.queuedLanding (s.pushOp s.iss.cur (s.stamp r) true) i r.addr due := by
  obtain ⟨q, rest, queue, ⟨work, -, -, -, -, id⟩, -⟩ := s.pushOp_queue s.iss.cur (s.stamp r) true
  obtain ⟨e, deferred, at', eff⟩ := s.pushOp_deferred s.iss.cur (s.stamp r) rfl
  exact ⟨State.queued_pushOp w true, q, by simp [queue], work.trans w, e, by simp [deferred], by rw [eff, id], at'.trans d⟩

/-! ## Far accesses -/

theorem acceptFar_ok {n align : Nat} {r : PortReq} (ok : farFault r.addr align = none) (landing : Bool) :
    acceptFar align landing s n r = .ok (s.pushOp n r landing) := by
  rw [acceptFar, ok]

theorem acceptFar_error {n align : Nat} {r : PortReq} {e : Trapped} (fails : farFault r.addr align = some e)
    (landing : Bool) : acceptFar align landing s n r = .error e := by
  rw [acceptFar, fails]

section
variable {i : Instr} {f : MemF} {addr : MemF → Ctx → Dword} {align : Nat}

theorem farOp_queued (targets : List (Nat × Nat)) (on : guardTrue s.cur h = true)
    (w : (capture s.cur).work = .op i) (ok : farFault (capture s.cur).addr align = none) :
    ∃ t, portOp h capture targets (acceptFar align false) s = .next t ∧ s.queued t i (capture s.cur).addr :=
  ⟨_, portOp_accepted on (acceptFar_ok (r := s.stamp (capture s.cur)) ok false), State.queued_pushOp w false⟩

theorem farOp_queuedLanding {due : Nat} (targets : List (Nat × Nat)) (on : guardTrue s.cur h = true)
    (w : (capture s.cur).work = .op i) (d : (capture s.cur).due = s.cur.level.count + due)
    (ok : farFault (capture s.cur).addr align = none) :
    ∃ t, portOp h capture targets (acceptFar align true) s = .next t ∧ s.queuedLanding t i (capture s.cur).addr due :=
  ⟨_, portOp_accepted on (acceptFar_ok (r := s.stamp (capture s.cur)) ok true), State.queuedLanding_pushOp w d⟩

theorem farOp_faults {e : Trapped} {landing : Bool} (targets : List (Nat × Nat)) (on : guardTrue s.cur h = true)
    (fails : farFault (capture s.cur).addr align = some e) :
    ∃ t, portOp h capture targets (acceptFar align landing) s = .next t ∧ t.iss.cfaults = s.iss.cfaults ++ [e] ∧
      t.cur.port = s.cur.port :=
  ⟨_, portOp_failed on (acceptFar_error (r := s.stamp (capture s.cur))
      fails landing), State.faultAfter_cfaults .., State.faultAfter_port ..⟩

end

theorem acceptAlways_queued {i : Instr} (targets : List (Nat × Nat)) (on : guardTrue s.cur h = true)
    (w : (capture s.cur).work = .op i) :
    ∃ t, portOp h capture targets (acceptAlways false) s = .next t ∧ s.queued t i (capture s.cur).addr :=
  ⟨_, portOp_accepted on rfl, State.queued_pushOp w false⟩

/-- What `heldSignal` adds to a port: signals alone. -/
theorem State.heldSignal_port (s : State) (n : Nat) (r : PortReq) : ∃ rest, OnlySignals rest ∧
    ((s.heldSignal n r).ctx n).port.queue = (s.ctx n).port.queue ++ rest ∧
    ((s.heldSignal n r).ctx n).port.departs = (s.ctx n).port.departs ∧
    ((s.heldSignal n r).ctx n).port.acquired = (s.ctx n).port.acquired := by
  have none : OnlySignals [] := by simp [OnlySignals]
  unfold State.heldSignal
  split
  · exact ⟨[], none, by simp⟩
  · split
    · exact ⟨[], none, by simp⟩
    · rw [State.ctx_onCtx_same]
      exact ⟨_, by simp [OnlySignals, blankReq], rfl, rfl, rfl⟩

theorem acceptBare_queued {i : Instr} (targets : List (Nat × Nat)) (on : guardTrue s.cur h = true)
    (w : (capture s.cur).work = .op i) :
    ∃ t, portOp h capture targets acceptBare s = .next t ∧ s.queued t i (capture s.cur).addr := by
  obtain ⟨rest, signals, queue, -⟩ := State.heldSignal_port (s.onCtx s.iss.cur fun c =>
    { c with port := { c.port with
        queue := c.port.queue ++ [{ s.stamp (capture s.cur) with id := c.port.nextId, known := true, stage := .pending }]
        nextId := c.port.nextId + 1 } }) s.iss.cur (s.stamp (capture s.cur))
  rw [State.ctx_onCtx_same] at queue
  exact ⟨_, portOp_accepted on rfl, _, rest, queue.trans (List.append_assoc ..), w, rfl, rfl, rfl, rfl, signals⟩

end Sys2Proof.Machine
open Sys2Proof Sys2Proof.Machine

/-- Settles O25, by what the acceptance of each kind of op makes of the port. -/
theorem farOpsEnterPort : Obligations.FarOpsEnterPort := by
  refine ⟨fun h f s on => ?_, fun h f s on => ?_, fun a align => ⟨fun far => ?_, fun near off => ?_, fun near on => ?_⟩⟩
  · refine ⟨fun ok => ⟨farOp_queuedLanding _ on rfl rfl ok, farOp_queued _ on rfl ok⟩,
      fun ok => ⟨farOp_queuedLanding _ on rfl rfl ok, farOp_queued _ on rfl ok⟩,
      acceptBare_queued _ on rfl, acceptAlways_queued _ on rfl,
      fun ok => ⟨farOp_queuedLanding _ on rfl rfl ok, farOp_queuedLanding _ on rfl rfl ok, farOp_queued _ on rfl ok⟩,
      fun ok => farOp_queuedLanding (capture := fun c => { memReq (.wta h f) f homeAddr c with
        deadline := s.wtaDeadline s.iss.cur (memReq (.wta h f) f homeAddr c) }) _ on rfl rfl ok,
      fun ok => ⟨farOp_queued _ on rfl ok, farOp_queued _ on rfl ok, farOp_queued _ on rfl ok, farOp_queued _ on rfl ok,
        farOp_queuedLanding _ on rfl rfl ok⟩,
      fun ok => farOp_queuedLanding _ on rfl rfl ok⟩
  · refine ⟨fun i hi e fails => ?_, fun i hi e fails => ?_, fun i hi e fails => ?_, fun e fails => ?_,
      fun i hi e fails => ?_,
      fun e fails => ?_⟩
    · rcases List.mem_pair.1 hi with rfl | rfl <;> exact farOp_faults _ on fails
    · rcases List.mem_pair.1 hi with rfl | rfl <;> exact farOp_faults _ on fails
    · simp only [List.mem_cons, List.not_mem_nil, or_false] at hi
      rcases hi with rfl | rfl | rfl <;> exact farOp_faults _ on fails
    · exact farOp_faults (capture := fun c => { memReq (.wta h f) f homeAddr c with
        deadline := s.wtaDeadline s.iss.cur (memReq (.wta h f) f homeAddr c) }) _ on fails
    · simp only [List.mem_cons, List.not_mem_nil, or_false] at hi
      rcases hi with rfl | rfl | rfl | rfl | rfl <;> exact farOp_faults _ on fails
    · exact farOp_faults _ on fails
  · rw [farFault, if_pos far]
  · rw [farFault, if_neg (not_le.2 near), if_pos off]
  · rw [farFault, if_neg (not_le.2 near), if_neg (not_not.2 on)]
end

section
/-!
PROOFS. Fences, set ops and range registers at issue (R207, R255 to R258; O26).
-/
namespace Sys2Proof.Machine
open Sys2Proof

variable {s : State} {h : Hdr} {f : Tri}

theorem State.memberFault_member {n k : Nat} (member : n ∈ (s.set k).members) : s.memberFault n k = none := by
  simp [State.memberFault, member]

theorem State.memberFault_stranger {n k : Nat} (stranger : n ∉ (s.set k).members) :
    s.memberFault n k = some (permInfo 0x21) := by
  simp [State.memberFault, stranger]

theorem State.pushOp_departs (s : State) (n : Nat) (r : PortReq) (landing : Bool) :
    ((s.pushOp n r landing).ctx n).port.departs = (s.ctx n).port.departs := by
  rw [State.pushOp, State.ctx_onCtx_same]
  dsimp only
  split
  · split <;> rfl
  · rfl

/-- The release of a set is awaited last, and signals alone enter the port. -/
theorem State.awaitRelease_port (s : State) (n k : Nat) (r : PortReq) :
    ((((s.awaitRelease n k r).ctx n).port.departs.getLast?).any fun d => d.set == k) = true ∧
    ∃ rest, OnlySignals rest ∧ ((s.awaitRelease n k r).ctx n).port.queue = (s.ctx n).port.queue ++ rest := by
  rw [State.awaitRelease, State.ctx_onCtx_same]
  exact ⟨by simp, _, onlySignals_hold _ fun x => ⟨_, _, rfl⟩, rfl⟩

theorem bar_member (on : guardTrue s.cur h = true) (member : s.iss.cur ∈ (s.set (setOf f)).members) :
    ∃ t, execBar h f s = .next t ∧ s.queued t (.bar h f) (s.cur.s f.a.toNat) ∧
      (t.cur.port.departs.getLast?).any (fun d => d.set == setOf f) = true := by
  let r := s.stamp (triReq (.bar h f) f s.cur)
  let t := s.onCtx s.iss.cur fun c =>
    { c with port := { c.port with
        queue := c.port.queue ++ [{ r with id := c.port.nextId, known := true, stage := .pending }]
        nextId := c.port.nextId + 1 } }
  have ok : acceptBar s s.iss.cur r = .ok (t.awaitRelease s.iss.cur (setOf f) r) := by
    simp only [acceptBar, show r.work = .op (.bar h f) from rfl, State.memberFault_member member]
    rfl
  obtain ⟨departs, rest, signals, queue⟩ := t.awaitRelease_port s.iss.cur (setOf f) r
  rw [State.ctx_onCtx_same] at queue
  exact ⟨_, portOp_accepted on ok, ⟨_, rest, queue.trans (List.append_assoc ..), rfl, rfl, rfl, rfl, rfl, signals⟩, departs⟩

theorem barr_member (on : guardTrue s.cur h = true) (member : s.iss.cur ∈ (s.set (setOf f)).members) :
    ∃ t, execBarr h f s = .next t ∧ s.queued t (.barr h f) (s.cur.s f.a.toNat)
        ∧ t.cur.port.departs = s.cur.port.departs := by
  have ok : acceptBarr s s.iss.cur (s.stamp (triReq (.barr h f) f s.cur)) =
      .ok (s.pushOp s.iss.cur (s.stamp (triReq (.barr h f) f s.cur)) false) := by
    simp only [acceptBarr, show (s.stamp (triReq (.barr h f) f s.cur)).work = .op (.barr h f) from rfl,
      State.memberFault_member member]
  exact ⟨_, portOp_accepted on ok, State.queued_pushOp rfl false, s.pushOp_departs ..⟩

theorem acceptBarw_member {n : Nat} {r : PortReq} (w : r.work = .op (.barw h f)) (member : n ∈ (s.set (setOf f)).members) :
    acceptBarw s n r = .ok (if s.arrivalOpen n (setOf f) then s.awaitRelease n (setOf f) r
      else (s.onCtx n Ctx.setAcquired).heldSignal n r) := by
  simp only [acceptBarw, w, State.memberFault_member member]

theorem barw_open (on : guardTrue s.cur h = true) (member : s.iss.cur ∈ (s.set (setOf f)).members)
    (arrival : s.arrivalOpen s.iss.cur (setOf f) = true) :
    ∃ t, execBarw h f s = .next t ∧ (t.cur.port.departs.getLast?).any (fun d => d.set == setOf f) = true := by
  have ok := acceptBarw_member (r := s.stamp (triReq (.barw h f) f s.cur)) rfl member
  rw [if_pos arrival] at ok
  exact ⟨_, portOp_accepted on ok, (s.awaitRelease_port ..).1⟩

@[simp] theorem State.heldSignal_iss (s : State) (n : Nat) (r : PortReq) : (s.heldSignal n r).iss = s.iss := by
  unfold State.heldSignal
  split
  · rfl
  · split <;> rfl

theorem barw_released (on : guardTrue s.cur h = true) (member : s.iss.cur ∈ (s.set (setOf f)).members)
    (none : s.arrivalOpen s.iss.cur (setOf f) = false) :
    ∃ t, execBarw h f s = .next t ∧ t.cur.port.departs = s.cur.port.departs ∧ t.cur.port.acquired = true := by
  have ok := acceptBarw_member (r := s.stamp (triReq (.barw h f) f s.cur)) rfl member
  rw [if_neg (by simp [none])] at ok
  obtain ⟨rest, -, -, departs, acquired⟩ := (s.onCtx s.iss.cur Ctx.setAcquired).heldSignal_port s.iss.cur
    (s.stamp (triReq (.barw h f) f s.cur))
  rw [State.ctx_onCtx_same (f := Ctx.setAcquired)] at departs acquired
  refine ⟨_, portOp_accepted on ok, ?_, ?_⟩
  all_goals rw [State.cur_onIss _ _ (by rfl), State.cur, State.heldSignal_iss]
  exacts [departs, acquired]

theorem setOp_stranger {i : Instr} {accept : Accept} (on : guardTrue s.cur h = true)
    (fails : accept s s.iss.cur (s.stamp (triReq i f s.cur)) = .error (permInfo 0x21)) :
    ∃ t, portOp h (triReq i f) [] accept s = .next t ∧ t.iss.cfaults = s.iss.cfaults ++ [⟨.perm, 0x21⟩] ∧
      t.cur.port = s.cur.port :=
  ⟨_, portOp_failed on fails, State.faultAfter_cfaults .., State.faultAfter_port ..⟩

/-! ## `resv` -/

@[simp] theorem State.heldSignal_l2 (s : State) (n : Nat) (r : PortReq) : (s.heldSignal n r).l2 = s.l2 := by
  unfold State.heldSignal
  split
  · rfl
  · split <;> rfl

@[simp] theorem State.heldSignal_vf (s : State) (n : Nat) (r : PortReq) (v : Nat) : (s.heldSignal n r).vf v = s.vf v := by
  unfold State.heldSignal
  split
  · rfl
  · split <;> rfl

/-- The range register that a `resv` of these operands sets. -/
def State.rangeOf (s : State) (f : Tri) (r : PortReq) : RangeReg :=
  let vf := s.cur.id.vf
  let others := ((s.vf vf).ranges.filter fun p => p.1 != (f.imm.extractLsb' 0 3).toNat).foldl (fun k p => k + p.2.granted) 0
  { base := r.addr.toNat / 2 ^ 16 * 2 ^ 16
    len := (r.addr.toNat + r.w1.toNat + 2 ^ 16 - 1) / 2 ^ 16 * 2 ^ 16 - r.addr.toNat / 2 ^ 16 * 2 ^ 16
    ratio := (f.imm.extractLsb' 3 9).toNat
    ways := (f.imm.extractLsb' 12 4).toNat
    granted := min (f.imm.extractLsb' 12 4).toNat (s.wayQuota vf - others) }

theorem acceptResv_sets {r : PortReq} (w : r.work = .op (.resv h f)) : ∃ t, acceptResv s s.iss.cur r = .ok t ∧
    lookup? (f.imm.extractLsb' 0 3).toNat (t.vf s.cur.id.vf).ranges = some (s.rangeOf f r) ∧
    t.l2 = s.afterResv s.cur.id.vf (f.imm.extractLsb' 0 3).toNat (s.rangeOf f r).ways (s.rangeOf f r).granted := by
  simp only [acceptResv, w]
  refine ⟨_, rfl, ?_, ?_⟩
  · rw [State.heldSignal_vf, State.onVf, State.vf_setVf, if_pos (by rfl)]
    simp
    rfl
  · rw [State.heldSignal_l2]
    rfl

end Sys2Proof.Machine
open Sys2Proof Sys2Proof.Machine

/-- Settles O26, by what the acceptance of each op makes of the port, the set and the range register. -/
theorem portOps : Obligations.PortOps := by
  intro h f s on
  refine ⟨acceptBare_queued _ on rfl, acceptAlways_queued _ on rfl, acceptAlways_queued _ on rfl, bar_member on, barr_member on,
    barw_open on, barw_released on, fun stranger i hi => ?_, ?_⟩
  · have fails : s.memberFault s.iss.cur (setOf f) = some (permInfo 0x21) := State.memberFault_stranger stranger
    simp only [List.mem_cons, List.not_mem_nil, or_false] at hi
    rcases hi with rfl | rfl | rfl
    · exact setOp_stranger on (by
        simp only [acceptBar, show (s.stamp (triReq (.bar h f) f s.cur)).work = .op (.bar h f) from rfl, fails])
    · exact setOp_stranger on (by
        simp only [acceptBarr, show (s.stamp (triReq (.barr h f) f s.cur)).work = .op (.barr h f) from rfl, fails])
    · exact setOp_stranger on (by
        simp only [acceptBarw, show (s.stamp (triReq (.barw h f) f s.cur)).work = .op (.barw h f) from rfl, fails])
  · obtain ⟨t, ok, set, l2⟩ := acceptResv_sets (s := s) (r := s.stamp (triReq (.resv h f) f s.cur)) rfl
    refine ⟨_, portOp_accepted on ok, _, set, rfl, rfl, min_le_left _ _, fun hint => ?_, fun hint off x hx => ?_⟩
    · exact l2.trans (if_pos hint)
    · have l2 : t.l2 = s.l2.release _ := l2.trans ((if_neg (by simp [hint])).trans (if_pos off))
      rw [State.onIss_l2, l2] at hx
      exact L2.release_kept _ _ x hx
end

section
/-!
PROOFS. The ops on accumulators at issue (R273, R275, R287 to R292, R303; O21).
-/
namespace Sys2Proof.Machine
open Sys2Proof

variable {s : State} {h : Hdr} {f : Tri} {g : Mat} {i : Instr}

/-- In `t` the op is the last entry of the array queue, which is longer by one than in `s`. -/
def State.arrayQueued (s t : State) (i : Instr) : Prop :=
  (t.cur.mat.queue.getLast?).any (fun q => decide (q.op = i)) = true ∧
    t.cur.mat.queue.length = s.cur.mat.queue.length + 1

/-- An op whose issue changes only what else the context's array state holds is queued. -/
theorem State.arrayQueued_enqueue (c : Ctx → Ctx) (kept : (c s.cur).mat.queue = s.cur.mat.queue) {f : ArrayOp → ArrayOp}
    (keep : ∀ q, (f q).op = q.op) : s.arrayQueued ((s.onCur c).enqueue h i f) i := by
  have last := (s.onCur c).enqueue_last h i f keep
  rwa [State.cur_onCur, kept] at last

/-! ## The checks of `mma` and `mmz` -/

/-- Tiles that are valid, of the op's type and wide enough. -/
def State.shaped (s : State) (h : Hdr) (g : Mat) : Prop :=
  tctlValid (s.cur.tctl g.a.toNat) = true ∧ tctlValid (s.cur.tctl g.b.toNat) = true ∧
    tctlType (s.cur.tctl g.a.toNat) = h.typ ∧ tctlType (s.cur.tctl g.b.toNat) = h.typ ∧
    g.k.toNat ≤ tctlCols (s.cur.tctl g.a.toNat) ∧ g.k.toNat ≤ tctlCols (s.cur.tctl g.b.toNat)

/-- The status that the tag check of a multiply reads. -/
def State.statBefore (s : State) (g : Mat) (clear : Bool) : AccStatus :=
  if clear then s.cur.mat.zeroedStat g.d.toNat else s.cur.mat.stat g.d.toNat

/-- The window of a multiply's base exponents. -/
def State.window (s : State) (g : Mat) : Int := baseExp (s.cur.s g.ea.toNat) + baseExp (s.cur.s g.eb.toNat)

theorem State.shaped.firstShape {a b : Nat} (shaped : s.shaped h g) :
    firstShape [(!tctlValid (s.cur.tctl g.a.toNat), 1, a), (!tctlValid (s.cur.tctl g.b.toNat), 1, b),
      (tctlType (s.cur.tctl g.a.toNat) != h.typ, 2, a), (tctlType (s.cur.tctl g.b.toNat) != h.typ, 2, b),
      (tctlCols (s.cur.tctl g.a.toNat) < g.k.toNat, 3, a), (tctlCols (s.cur.tctl g.b.toNat) < g.k.toNat, 3, b)] = none := by
  obtain ⟨validA, validB, typeA, typeB, wideA, wideB⟩ := shaped
  simp [Machine.firstShape, validA, validB, typeA, typeB, Nat.not_lt.2 wideA, Nat.not_lt.2 wideB]

theorem multiplyOp_ok {clear : Bool} {x : AccStatus} (on : guardTrue s.cur h = true) (shaped : s.shaped h g)
    (ok : checkTag (isExactClass h.typ) g.d.toNat (s.window g) (s.statBefore g clear) = .ok x) :
    ∃ t, multiplyOp h i g clear s = .next t ∧ s.arrayQueued t i ∧ t.cur.mat.stat g.d.toNat = x := by
  simp only [State.window, State.statBefore] at ok
  rw [multiplyOp, State.guarded_on on]
  simp only [shaped.firstShape, ok]
  exact ⟨_, rfl, State.arrayQueued_enqueue _ (Ctx.queue_setStat ..) fun _ => rfl, by simp⟩

theorem multiplyOp_fault {clear : Bool} {e : Trapped} (on : guardTrue s.cur h = true) (none : s.iss.fault = none)
    (shaped : s.shaped h g)
    (fails : checkTag (isExactClass h.typ) g.d.toNat (s.window g) (s.statBefore g clear) = .error e) :
    ∃ t, multiplyOp h i g clear s = .next t ∧ t.iss.fault = some e := by
  simp only [State.window, State.statBefore] at fails
  rw [multiplyOp, State.guarded_on on]
  simp only [shaped.firstShape, fails]
  exact ⟨_, rfl, State.raise_fault none e⟩

theorem MatSt.zeroedStat_tag (m : MatSt) (d : Nat) : (m.zeroedStat d).tag = 0 := by
  rw [MatSt.zeroedStat]
  split <;> rfl

theorem MatSt.zeroedStat_of_empty {m : MatSt} (empty : m.queue = []) (d : Nat) : m.zeroedStat d = {} := by
  simp [MatSt.zeroedStat, empty]

/-! ## The check of the tag and the window -/

section
variable {acc : Nat} {w : Int} {x : AccStatus}

theorem checkTag_none (exact : Bool) (tag : x.tag = 0) :
    checkTag exact acc w x = .ok { x with tag := if exact then 1 else 2, win := if exact then w else 0 } := by
  cases exact <;> simp [checkTag, tag]

theorem checkTag_same (tag : x.tag = 1) (win : x.win = w) : checkTag true acc w x = .ok x := by simp [checkTag, tag, win]

theorem checkTag_window (tag : x.tag = 1) (win : x.win ≠ w) : checkTag true acc w x = .error (accWin acc w) := by
  simp [checkTag, tag, win]

theorem checkTag_float (tag : x.tag = 1) : checkTag false acc w x = .error (accMode acc) := by simp [checkTag, tag]

theorem checkTag_exact (tag : x.tag = 2) : checkTag true acc w x = .error (accMode acc) := by simp [checkTag, tag]

end

section
variable {d : Nat} {a x : AccStatus}

theorem combineTags_none (ha : a.tag = 0) : combineTags d a x = .ok x := by simp [combineTags, ha]

theorem combineTags_copy (ha : a.tag ≠ 0) (hx : x.tag = 0) :
    combineTags d a x = .ok { x with tag := a.tag, win := a.win } := by simp [combineTags, ha, hx]

theorem combineTags_mode (ha : a.tag ≠ 0) (hx : x.tag ≠ 0) (ne : a.tag ≠ x.tag) :
    combineTags d a x = .error (accMode d) := by simp [combineTags, ha, hx, ne]

theorem combineTags_window (ha : a.tag = 1) (hx : x.tag = 1) (ne : a.win ≠ x.win) :
    combineTags d a x = .error (accWin d a.win) := by simp [combineTags, ha, hx, ne]

theorem combineTags_same (ha : a.tag ≠ 0) (same : a.tag = x.tag) (win : a.tag = 1 → a.win = x.win) :
    combineTags d a x = .ok x := by
  rw [combineTags, if_neg ha, if_neg (same ▸ ha), if_neg (not_not.2 same), if_neg fun both => both.2 (win both.1)]

end

/-! ## `mmz`, `mclr`, `macc`, `mstat` and `mrd` -/

theorem mmz_queued (on : guardTrue s.cur h = true) (shaped : s.shaped h g) :
    ∃ t, execMmz h g s = .next t ∧ s.arrayQueued t (.mmz h g) ∧
      (t.cur.mat.stat g.d.toNat).tag = (if isExactClass h.typ then 1 else 2) ∧
      (t.cur.mat.stat g.d.toNat).win = (if isExactClass h.typ then s.window g else 0) ∧
      (s.cur.mat.queue = [] → t.cur.mat.stat g.d.toNat =
        { tag := if isExactClass h.typ then 1 else 2, win := if isExactClass h.typ then s.window g else 0 }) := by
  obtain ⟨t, run, queued, stat⟩ := multiplyOp_ok (i := .mmz h g) (clear := true) on shaped
    (checkTag_none _ (MatSt.zeroedStat_tag ..))
  refine ⟨t, run, queued, by rw [stat], by rw [stat], fun empty => ?_⟩
  rw [stat, State.statBefore, if_pos rfl, MatSt.zeroedStat_of_empty empty]

theorem mclr_queued (on : guardTrue s.cur h = true) :
    ∃ t, execMclr h f s = .next t ∧ s.arrayQueued t (.mclr h f) ∧
      t.cur.mat.stat f.d.toNat = { s.cur.mat.stat f.d.toNat with tag := 0, win := 0 } := by
  rw [execMclr, State.guarded_on on]
  exact ⟨_, rfl, State.arrayQueued_enqueue _ (Ctx.queue_setStat ..) fun _ => rfl, by simp [Ctx.clearTag]⟩

theorem macc_queued {x : AccStatus} (on : guardTrue s.cur h = true)
    (ok : combineTags f.d.toNat (s.cur.mat.stat f.a.toNat) (s.cur.mat.stat f.d.toNat) = .ok x) :
    ∃ t, execMacc h f s = .next t ∧ s.arrayQueued t (.macc h f) ∧ t.cur.mat.stat f.d.toNat = x := by
  rw [execMacc, State.guarded_on on]
  simp only [ok]
  exact ⟨_, rfl, State.arrayQueued_enqueue _ (Ctx.queue_setStat ..) fun _ => rfl, by simp⟩

theorem macc_fault {e : Trapped} (on : guardTrue s.cur h = true) (none : s.iss.fault = none)
    (fails : combineTags f.d.toNat (s.cur.mat.stat f.a.toNat) (s.cur.mat.stat f.d.toNat) = .error e) :
    ∃ t, execMacc h f s = .next t ∧ t.iss.fault = some e := by
  rw [execMacc, State.guarded_on on]
  simp only [fails]
  exact ⟨_, rfl, State.raise_fault none e⟩

theorem mstat_queued (on : guardTrue s.cur h = true) :
    ∃ t, execMstat h f s = .next t ∧ s.arrayQueued t (.mstat h f) ∧ t.cur.mat.stat f.a.toNat = s.cur.mat.stat f.a.toNat := by
  rw [execMstat, State.guarded_on on]
  exact ⟨_, rfl, State.enqueue_last _ _ _ _ fun _ => rfl, by simp⟩

theorem mrdVector_queued (on : guardTrue s.cur h = true) :
    ∃ t, execMrdVector h f s = .next t ∧ s.arrayQueued t (.mrdVector h f) := by
  rw [execMrdVector, State.guarded_on on]
  exact ⟨_, rfl, State.arrayQueued_enqueue _ (Ctx.queue_clearIf ..) fun _ => rfl⟩

theorem mrdTile_queued (on : guardTrue s.cur h = true) (valid : tctlValid (s.cur.tctl f.d.toNat) = true)
    (type : tctlType (s.cur.tctl f.d.toNat) = h.typ) (fits : tctlCols (s.cur.tctl f.d.toNat) ≤ 64)
    (q4x : h.typ = Ty.q4x → tctlCols (s.cur.tctl f.d.toNat) = 32 ∨ tctlCols (s.cur.tctl f.d.toNat) = 64) :
    ∃ t, execMrdTile h f s = .next t ∧ s.arrayQueued t (.mrdTile h f) := by
  have passes : firstShape [(!tctlValid (s.cur.tctl f.d.toNat), 1, f.d.toNat), (tctlType (s.cur.tctl f.d.toNat)
      != h.typ, 2, f.d.toNat),
      (64 < tctlCols (s.cur.tctl f.d.toNat) || (h.typ == Ty.q4x && tctlCols (s.cur.tctl f.d.toNat) != 32 &&
        tctlCols (s.cur.tctl f.d.toNat) != 64), 5, f.d.toNat)] = none := by
    have wide : ¬ 64 < tctlCols (s.cur.tctl f.d.toNat) := Nat.not_lt.2 fits
    simp only [firstShape, valid, type, wide]
    by_cases hq : h.typ = Ty.q4x
    · rcases q4x hq with e | e <;> simp [e]
    · simp [hq]
  rw [execMrdTile, State.guarded_on on]
  simp only [passes]
  exact ⟨_, rfl, State.arrayQueued_enqueue _ (Ctx.queue_clearIf ..) fun _ => rfl⟩

end Sys2Proof.Machine
open Sys2Proof Sys2Proof.Machine

/-- Settles O21, by the checks of each op and what its entry in the array queue leaves. -/
theorem accumulatorOps : Obligations.AccumulatorOps := by
  refine ⟨fun h f g s on none => ?_, fun d a x _ _ => ?_, fun acc w x => ?_⟩
  · exact ⟨fun shaped x ok => multiplyOp_ok (clear := false) on shaped ok,
      fun shaped e fails => multiplyOp_fault (clear := false) on none shaped fails, mmz_queued on, mclr_queued on,
      fun x ok => macc_queued on ok, fun e fails => macc_fault on none fails, mstat_queued on, mrdVector_queued on,
      mrdTile_queued on⟩
  · exact ⟨combineTags_none, combineTags_copy, combineTags_mode, combineTags_window, combineTags_same⟩
  · exact ⟨fun tag => ⟨checkTag_none true tag, checkTag_none false tag⟩, checkTag_same, checkTag_window, checkTag_float,
      checkTag_exact⟩
end

section
/-!
PROOFS. A `cpc` over a slot table that holds a slot twice (O27).
-/
namespace Sys2Proof.Machine
open Sys2Proof Sys2Proof.Tests

/-! A slot table is a list, and nothing in the statement says that it holds a slot once. Where it holds slot 2 under EID 3 and
behind it under EID 5, voiding EID 5, for a card under slot 1, leaves slot 2 under EID 5: the card under slot 2 then voids EID 5
too, and an earlier job of EID 3 stays. -/

/-- A sealed card from the window to device 1, under a slot. -/
def sealCard (slot : Nat) : List Byte :=
  natBytes 8 (1 + 2 * 2 ^ 4 + 1 * 2 ^ 8 + 3 * 2 ^ 21 + 2 ^ 23) ++ natBytes 8 (1 + slot * 2 ^ 8) ++ natBytes 16 0 ++
    natBytes 8 1024 ++ natBytes 8 64 ++ natBytes 8 0 ++ natBytes 8 64 ++ natBytes 64 0

/-- A job of EID 3, posted before. -/
def earlierJob : Job :=
  { id := 0, ctx := 0, vf := 0, addr := 0, card := [], seq := 0, level := false, bytes := 0, bb := none, sig := none,
    src := { space := 0, desc := none, tile := 0, tctl := 0, exp := 0, base := 0, len := 0 }
    dst := { space := 0, desc := none, tile := 0, tctl := 0, exp := 0, base := 0, len := 0 }
    group := 0, eid := 3 }

/-- No record is free; cards under slot 1 (EID 5) and slot 2 (EID 3, and behind it EID 5) stand in the window. -/
def slotTwice : State :=
  let s := (sealing 0).onCtx 0 fun c => { c with env :=
    [(1, { state := 1, eid := 5, mask := 2 }), (2, { state := 1, eid := 3, mask := 2 }),
     (2, { state := 1, eid := 5, mask := 2 })] }
  { s.setSpBytes 0 ((List.range 256).zip (sealCard 1 ++ sealCard 2)) with jobs := [earlierJob], nextId := 1 }

/-- A `cpc` of two cards. -/
def twoCards : JobF := { imm := 2, fn := 0, z2 := 0, a := 0, z3 := 0 }

/-- Do the cards pass, one of them sealed under slot 2? -/
def sealsSlot2 : Except Trapped (List Plan) → Bool
  | .ok ps => ps.any fun p => p.card.seal && p.card.env == 2
  | .error _ => false

/-- Does a job of EID 3 stand after the step? -/
def jobStays : Host.Outcome State Fault Refusal → Bool
  | .next t => t.jobs.any fun j => j.eid == 3
  | _ => false

theorem slotTwice_passes : sealsSlot2 (slotTwice.checkCards 0 0 twoCards.bb 2 0 0) = true := by decide +kernel

theorem slotTwice_stays : jobStays (exec (.cpc (hd 0) twoCards) slotTwice) = true := by decide +kernel

theorem slotTwice_coords : slotTwice.coords = [] := by decide +kernel

theorem exists_plan_of_sealsSlot2 {x : Except Trapped (List Plan)} (h : sealsSlot2 x = true) :
    ∃ ps, x = .ok ps ∧ ∃ p ∈ ps, p.card.seal = true ∧ p.card.env = 2 := by
  cases x with
  | error e => cases h
  | ok ps =>
    obtain ⟨p, hp, both⟩ := List.any_eq_true.1 h
    exact ⟨ps, rfl, p, hp, by simpa using both⟩

theorem exists_job_of_jobStays {x : Host.Outcome State Fault Refusal} {t : State} (run : x = .next t) (h :
    jobStays x = true) :
    ∃ j ∈ t.jobs, j.eid = 3 := by
  subst run
  simpa [jobStays] using h

end Sys2Proof.Machine
open Sys2Proof Sys2Proof.Machine Sys2Proof.Tests

/-- Refutes O27: where the slot table holds a slot twice, a `cpc` whose card under another slot is voided first leaves the slot
under its second EID, and a job of its first EID stays. -/
theorem not_copyOps : ¬ Obligations.CopyOps := by
  intro claim
  obtain ⟨-, cpc, -⟩ := (claim.2 (hd 0) twoCards (tri 0 0 0) slotTwice (by decide +kernel))
  obtain ⟨ps, passes, p, hp, sealed, env⟩ := exists_plan_of_sealsSlot2 slotTwice_passes
  obtain ⟨t, run, -, -, gone⟩ := (cpc ps (by decide +kernel) passes).2 p hp sealed
    (fun ⟨c, hc, _⟩ => List.not_mem_nil (slotTwice_coords ▸ hc)) (by decide +kernel) (by decide +kernel)
  obtain ⟨j, hj, eid⟩ := exists_job_of_jobStays run slotTwice_stays
  refine gone j hj (eid.trans ?_)
  show 3 = (slotTwice.cur.slot p.card.env).eid
  rw [env]
  decide +kernel
end

section
/-!
PROOFS. The envelope ops and sealed stores at issue (R404, R408, R410 to R415; O28).
-/
namespace Sys2Proof.Machine
open Sys2Proof

@[simp] theorem State.onCtx_env {f : Ctx → Ctx} (s : State) (n m : Nat) (keep : ∀ c, (f c).env = c.env) :
    ((s.onCtx n f).ctx m).env = (s.ctx m).env := by
  rw [State.onCtx_eq, State.ctx_setCtx]
  split
  next e => rw [keep, e]
  next => rfl
@[simp] theorem State.env_onJob (s : State) (n : Nat) (f : Job → Job) (m : Nat) : ((s.onJob n f).ctx m).env =
    (s.ctx m).env := (rfl)
@[simp] theorem Ctx.env_completeSignal (c : Ctx) (k : Option Nat) : (c.completeSignal k).env = c.env := by
  cases k <;> rfl

@[simp] theorem Ctx.env_subCounter (c : Ctx) (bb : Option Nat) (n : Nat) : (c.subCounter bb n).env = c.env := by
  have woken : ∀ (d : Ctx) (k : Nat), (d.wakeBbw k).env = d.env := by
    intro d k
    unfold Ctx.wakeBbw
    split
    · rfl
    · exact List.foldlRecOn (motive := fun x : Ctx => x.env = d.env) _ _ rfl fun x e r _ => e
  unfold Ctx.subCounter
  split <;> simp [woken]

@[simp] theorem Ctx.env_addDamage (c : Ctx) (a b d : Nat) : (c.addDamage a b d).env = c.env := (rfl)

@[simp] theorem State.env_foldl {α : Type} {f : State → α → State} (l : List α) (s : State) (m : Nat)
    (keep : ∀ s a, ((f s a).ctx m).env = (s.ctx m).env) : ((l.foldl f s).ctx m).env = (s.ctx m).env :=
  List.foldlRecOn (motive := fun t : State => (t.ctx m).env = (s.ctx m).env) l f rfl fun t e a _ => (keep t a).trans e

@[simp] theorem State.iss_onCtx (s : State) (n : Nat) (f : Ctx → Ctx) : (s.onCtx n f).iss = s.iss := (rfl)
@[simp] theorem State.iss_onCore (s : State) (n : Nat) (f : Core → Core) : (s.onCore n f).iss = s.iss := (rfl)
@[simp] theorem State.iss_onJob (s : State) (n : Nat) (f : Job → Job) : (s.onJob n f).iss = s.iss := (rfl)
@[simp] theorem State.iss_ite (c : Prop) [Decidable c] (a b : State) :
    (if c then a else b).iss = if c then a.iss else b.iss := apply_ite State.iss c a b
@[simp] theorem State.iss_foldl {α : Type} {f : State → α → State} (keep : ∀ s a, (f s a).iss = s.iss) (l : List α)
    (s : State) :
    (l.foldl f s).iss = s.iss :=
  List.foldlRecOn (motive := fun t : State => t.iss = s.iss) l f rfl fun t e a _ => (keep t a).trans e

@[simp] theorem State.env_addPending (s : State) (n : Nat) (p : Pending) (k : Nat) :
    ((s.addPending n p).ctx k).env = (s.ctx k).env := by
  unfold State.addPending
  split <;> rfl

@[simp] theorem State.env_onCoord (s : State) (eid : Nat) (f : Coord → Coord) (k : Nat) :
    ((s.onCoord eid f).ctx k).env = (s.ctx k).env := (rfl)

@[simp] theorem State.env_send (s : State) (dst : Nat) (m : Msg) (k : Nat) :
    ((s.send dst m).ctx k).env = (s.ctx k).env := (rfl)

@[simp] theorem State.env_addSem (s : State) (n h v k : Nat) :
    ((s.addSem n h v).ctx k).env = (s.ctx k).env := (rfl)

@[simp] theorem State.env_raiseSem (s : State) (n h v k : Nat) :
    ((s.raiseSem n h v).ctx k).env = (s.ctx k).env := by
  unfold State.raiseSem
  split <;> simp

@[simp] theorem State.env_completionIncrement (s : State) (j : Job) (m : Nat) :
    ((s.completionIncrement j).ctx m).env = (s.ctx m).env := by
  unfold State.completionIncrement
  dsimp only
  repeat' split
  case isFalse.isFalse.isTrue =>
    refine State.env_foldl _ _ _ fun t n => ?_
    split <;> simp
  all_goals simp

@[simp] theorem State.env_fireSignal (s : State) (n : Nat) (sig : Option Nat) (m : Nat) :
    ((s.fireSignal n sig).ctx m).env = (s.ctx m).env := by
  unfold State.fireSignal
  dsimp only
  repeat' split
  all_goals simp

@[simp] theorem State.env_completeJob (s : State) (j : Job) (m : Nat) : ((s.completeJob j).ctx m).env = (s.ctx m).env := by
  have kept : ∀ t : State, (State.ctx
      { t.onCore (coreOf j.ctx) (fun k => { k with board := k.board.filter fun e => e.job != j.id }) with
        jobs := t.jobs.filter fun k => k.id != j.id } m).env = (t.ctx m).env := fun t => rfl
  unfold State.completeJob
  obtain ⟨a, b, d⟩ := j.damage
  refine (kept _).trans ?_
  repeat' split
  all_goals simp

@[simp] theorem State.env_subBytes (s : State) (j : Job) (n k : Nat) :
    ((s.subBytes j n).ctx k).env = (s.ctx k).env := by
  unfold State.subBytes
  dsimp only
  (repeat' split) <;> simp

@[simp] theorem State.env_dropSealed (s : State) (eid k : Nat) :
    ((s.dropSealed eid).ctx k).env = (s.ctx k).env := by
  simp [State.dropSealed]
@[simp] theorem State.iss_addPending (s : State) (n : Nat) (p : Pending) :
    (s.addPending n p).iss = s.iss := by
  unfold State.addPending
  split <;> simp

@[simp] theorem State.iss_setOutcome (s : State) (eid st cause : Nat) :
    (s.setOutcome eid st cause).iss = s.iss := by
  simp [State.setOutcome]

@[simp] theorem State.iss_onCoord (s : State) (eid : Nat) (f : Coord → Coord) :
    (s.onCoord eid f).iss = s.iss := (rfl)

@[simp] theorem State.iss_send (s : State) (dst : Nat) (m : Msg) :
    (s.send dst m).iss = s.iss := (rfl)

@[simp] theorem State.iss_addSem (s : State) (n h v : Nat) :
    (s.addSem n h v).iss = s.iss := (rfl)

@[simp] theorem State.iss_raiseSem (s : State) (n h v : Nat) :
    (s.raiseSem n h v).iss = s.iss := by
  simp [State.raiseSem]

@[simp] theorem State.iss_completionIncrement (s : State) (j : Job) :
    (s.completionIncrement j).iss = s.iss := by
  simp [State.completionIncrement]

@[simp] theorem State.iss_fireSignal (s : State) (n : Nat) (sig : Option Nat) :
    (s.fireSignal n sig).iss = s.iss := by
  unfold State.fireSignal
  dsimp only
  (repeat' split) <;> simp

@[simp] theorem State.iss_completeJob (s : State) (j : Job) :
    (s.completeJob j).iss = s.iss := by
  simp [State.completeJob]

@[simp] theorem State.iss_subBytes (s : State) (j : Job) (n : Nat) :
    (s.subBytes j n).iss = s.iss := by
  simp [State.subBytes]

@[simp] theorem State.iss_dropSealed (s : State) (eid : Nat) :
    (s.dropSealed eid).iss = s.iss := by
  simp [State.dropSealed]

@[simp] theorem State.iss_decideEnvelope (s : State) (eid cause : Nat) :
    (s.decideEnvelope eid cause).iss = s.iss := by
  unfold State.decideEnvelope
  dsimp only
  (repeat' split) <;> simp

/-! ## The outcome of a slot -/

/-- A slot has this state and cause. -/
def SlotIs (env : List (Nat × EnvSlot)) (k st cause : Nat) : Prop :=
  (lookupD {} k env).state = st ∧ (lookupD {} k env).cause = cause

theorem SlotIs.assocSet {env : List (Nat × EnvSlot)} {k j st cause : Nat} (e : EnvSlot) (h : j = k ∨ SlotIs env k st cause) :
    SlotIs (assocSet j { e with state := st, cause := cause } env) k st cause := by
  unfold SlotIs
  rw [lookupD_assocSet]
  split
  · exact ⟨rfl, rfl⟩
  next ne => exact h.resolve_left (Ne.symm ne)

theorem Ctx.env_wakeSwait (c : Ctx) (eid : Nat) (e : EnvSlot) : (c.wakeSwait eid e).env = c.env := by
  refine List.foldlRecOn (motive := fun x : Ctx => x.env = c.env) _ _ rfl fun x h r _ => ?_
  dsimp only
  split <;> exact h

/-- Slots that take an outcome one after the other. -/
theorem slotIs_foldl {k st cause eid : Nat} (l : List (Nat × EnvSlot)) (d : Ctx) (h : (∃ p ∈ l, p.1 = k)
    ∨ SlotIs d.env k st cause) :
    SlotIs (l.foldl (fun c p =>
      let e := { p.2 with state := st, cause := cause }
      { c with env := assocSet p.1 e c.env }.wakeSwait eid e) d).env k st cause := by
  induction l generalizing d with
  | nil =>
    obtain ⟨p, hp, -⟩ | h := h
    · cases hp
    · exact h
  | cons p l ih =>
    refine ih _ ?_
    dsimp only
    rw [Ctx.env_wakeSwait]
    obtain ⟨q, hq, e⟩ | h := h
    · obtain rfl | hq := List.mem_cons.1 hq
      · exact .inr (SlotIs.assocSet _ (.inl e))
      · exact .inl ⟨q, hq, e⟩
    · exact .inr (SlotIs.assocSet _ (.inr h))

/-- A slot that holds a live envelope takes its outcome. -/
theorem Ctx.outcome_slot {c : Ctx} {k : Nat} (live : (c.slot k).state = 1 ∨ (c.slot k).state = 2) (st cause : Nat) :
    SlotIs (c.outcome (c.slot k).eid st cause).env k st cause := by
  have held : (k, c.slot k) ∈ c.env := by
    cases e : lookup? k c.env with
    | none => simp [Ctx.slot, lookupD, e] at live
    | some x =>
      rw [Ctx.slot, lookupD, e]
      exact mem_of_lookup? e
  exact slotIs_foldl _ _ (.inl ⟨_, List.mem_filter.2 ⟨held, by simpa using live⟩, rfl⟩)

theorem State.ctx_mapCtxs {g : Ctx → Ctx} (default : g {} = {}) (s : State) (m : Nat) :
    ({ s with ctxs := s.ctxs.map fun p => (p.1, g p.2) } : State).ctx m = g (s.ctx m) := by
  simp only [State.ctx, lookupD, lookup?_map_snd]
  cases lookup? m s.ctxs with
  | none => exact default.symm
  | some c => rfl

theorem State.setOutcome_ctx {s : State} {n : Nat} (ready : (s.ctx n).life.state ≠ .saved) (eid st cause : Nat) :
    (s.setOutcome eid st cause).ctx n = (s.ctx n).outcome eid st cause := by
  unfold State.setOutcome
  refine (State.ctx_mapCtxs (g := fun c => if c.life.state != .saved then c.outcome eid st cause else c) rfl _ n).trans ?_
  have kept : ∀ l : List (Nat × Ctx), (l.foldl (fun (s : State) p => s.addPending p.1 (.envelope eid st cause))
      s).ctx n = s.ctx n :=
    fun l => List.foldlRecOn (motive := fun t : State => t.ctx n = s.ctx n) l _ rfl fun t e p _ => by
      refine Eq.trans ?_ e
      unfold State.addPending
      split <;> rfl
  dsimp only
  rw [kept, if_pos (by simpa using ready)]

theorem State.env_decideEnvelope {s : State} {eid : Nat} (undecided :
    ∀ c ∈ s.coords, c.eid = eid → c.decision = none) (cause n : Nat) :
    ((s.decideEnvelope eid cause).ctx n).env = ((s.setOutcome eid (if cause = 0 then 3 else 4) cause).ctx n).env := by
  unfold State.decideEnvelope
  split
  next c found =>
    have decision := undecided c (List.mem_of_find?_eq_some found) (by simpa using List.find?_some found)
    dsimp only
    rw [if_neg (by simp [decision])]
    split
    · rw [State.onCtx_env _ _ _ fun c => Ctx.env_completeSignal c _]
      split <;> simp
    · split <;> simp
  · simp

/-- A live slot whose envelope is decided VOID. -/
theorem State.decideEnvelope_void {s : State} {n k cause : Nat} (ready : (s.ctx n).life.state = .ready)
    (live : ((s.ctx n).slot k).state = 1 ∨ ((s.ctx n).slot k).state = 2)
    (undecided : ∀ c ∈ s.coords, c.eid = ((s.ctx n).slot k).eid → c.decision = none) (fails : cause ≠ 0) :
    SlotIs ((s.decideEnvelope ((s.ctx n).slot k).eid cause).ctx n).env k 4 cause := by
  rw [State.env_decideEnvelope undecided, State.setOutcome_ctx (by simp [ready]), if_neg fails]
  exact Ctx.outcome_slot live 4 cause

/-! ## Entries of the port -/

@[simp] theorem State.heldSignal_env (s : State) (n : Nat) (r : PortReq) (m : Nat) :
    ((s.heldSignal n r).ctx m).env = (s.ctx m).env := by
  unfold State.heldSignal
  split
  · rfl
  · split
    · rfl
    · exact State.onCtx_env _ _ _ fun c => rfl

@[simp] theorem State.heldSignal_packets (s : State) (n : Nat) (r : PortReq) : (s.heldSignal n r).packets = s.packets := by
  unfold State.heldSignal
  split
  · rfl
  · split <;> rfl

@[simp] theorem State.pushOp_env (s : State) (n : Nat) (r : PortReq) (landing : Bool) (m : Nat) :
    ((s.pushOp n r landing).ctx m).env = (s.ctx m).env := by
  refine State.onCtx_env _ _ _ fun c => ?_
  dsimp only
  split
  · split <;> rfl
  · rfl

/-- An entry that answers a wait or a decision keeps its op and its EID. -/
theorem State.pushOp_mem (s : State) (n : Nat) (r : PortReq) (landing : Bool) : ∃ sig,
    { r with id := (s.ctx n).port.nextId, known := true, stage := .pending, sig := sig } ∈
      ((s.pushOp n r landing).ctx n).port.queue := by
  rw [State.pushOp, State.ctx_onCtx_same]
  dsimp only
  split
  · split <;> exact ⟨_, List.mem_append_left _ (List.mem_append_right _ List.mem_cons_self)⟩
  · exact ⟨_, List.mem_append_left _ (List.mem_append_right _ List.mem_cons_self)⟩

theorem State.waitNow_mem (s : State) (n : Nat) (r : PortReq) : ∃ sig,
    { r with
      id := (s.ctx n).port.nextId
      known := true
      stage := .waiting
      sig := sig
      landing := (s.ctx n).landingRoom r.slots } ∈ ((s.waitNow n r).ctx n).port.queue := by
  obtain ⟨sig, pushed⟩ := s.pushOp_mem n r true
  rw [State.waitNow, State.ctx_onCtx_same]
  refine ⟨sig, List.mem_map.2 ⟨_, pushed, ?_⟩⟩
  rw [if_pos rfl]

/-! ## Values at issue -/

theorem sumOf_append {α : Type} (f : α → Nat) (a b : List α) : sumOf f (a ++ b) = sumOf f a + sumOf f b := by
  have shift : ∀ (l : List α) (k : Nat), l.foldl (fun k x => k + f x) k = k + l.foldl (fun k x => k + f x) 0 := by
    intro l
    induction l with
    | nil => simp
    | cons x l ih =>
      intro k
      rw [List.foldl_cons, ih, List.foldl_cons, ih (0 + f x)]
      omega
  rw [sumOf, List.foldl_append, shift]
  rfl

theorem sumOf_toList {α β : Type} (f : α → Nat) {g : β → α} (zero : ∀ b, f (g b) = 0) (o : Option β) :
    sumOf f (o.map g).toList = 0 := by
  cases o with
  | none => rfl
  | some b => exact (Nat.zero_add _).trans (zero b)

/-- An op that reserves no landing entry leaves the landing buffer as it is. -/
theorem State.pushOp_landingUsed (s : State) (n : Nat) (r : PortReq) (free : r.landing = false)
    (reserves : PortReq.reserves { r with stage := .pending } = 0) :
    ((s.pushOp n r true).ctx n).landingUsed = (s.ctx n).landingUsed := by
  rw [State.pushOp, State.ctx_onCtx_same]
  dsimp only
  cases r.level
  all_goals
    simp only [Ctx.landingUsed, Ctx.landingReserved, Ctx.allDeferred, if_true, sumOf_append, Bool.false_eq_true, if_false]
    rw [sumOf_toList _ (by intro b; rfl), sumOf_toList _ (by intro b; rfl)]
    simp [sumOf, free, Effect.reserves]
    exact reserves

/-- What an answer puts into the landing buffer of a context that is neither mute nor drained. -/
theorem Ctx.respond_landings {c : Ctx} (alive : c.life.mute = false) (kept : c.life.state ≠ .draining) (l : Landing) :
    ∃ x, (c.respond l).port.landings = c.port.landings ++ [x] ∧ x.id = l.id ∧ x.words = l.words ∧
      (c.landingRoom l.slots = true → x.arrived = l.arrived) := by
  unfold Ctx.respond
  dsimp only
  rw [if_neg (by simp [alive, kept])]
  refine ⟨_, rfl, ?_, ?_, fun room => ?_⟩
  · split <;> rfl
  · split <;> rfl
  · exact (congrArg Landing.arrived (if_pos (Bool.or_eq_true_iff.2 (.inr room)))).trans rfl

/-- A value sampled at issue is owed at its due bundle, and arrives at once where the landing buffer has room. -/
theorem State.landsAt_landNow {s : State} {r : PortReq} {d due : Nat} {v : Dword} (alive : s.cur.life.mute = false)
    (ready : s.cur.life.state = .ready) (level : r.level = s.cur.trap.tl) (at' : r.due = s.cur.level.count + due)
    (free : r.landing = false) (reserves : PortReq.reserves { r with stage := .pending } = 0) :
    s.landsAt (s.landNow s.iss.cur r d v) d v due := by
  obtain ⟨e, deferred, due, eff⟩ := s.pushOp_deferred s.iss.cur r level
  have used := s.pushOp_landingUsed s.iss.cur r free reserves
  have life : ((s.pushOp s.iss.cur r true).ctx s.iss.cur).life = s.cur.life := by
    refine State.onCtx_life _ _ _ fun c => ?_
    dsimp only
    split
    · split <;> rfl
    · rfl
  obtain ⟨l, landings, id, words, arrived⟩ := Ctx.respond_landings (c := (s.pushOp s.iss.cur r true).ctx s.iss.cur)
    (by rw [life, alive]) (by rw [life, ready]; decide) { id := s.cur.port.nextId, words := [(d, v)], arrived := true }
  have room : s.cur.landingRoom 1 = true → l.arrived = true := fun room => arrived
      (by rw [Ctx.landingRoom, used]; exact room)
  unfold State.landsAt
  rw [State.landNow, State.ctx_onCtx_same]
  refine ⟨l, ?_, words, room, e, ?_, eff.trans (congrArg Effect.landing id.symm), due.trans at'⟩
  · exact landings ▸ List.mem_append_right _ (List.mem_singleton_self _)
  · exact deferred ▸ List.mem_append_right _ (List.mem_singleton_self _)

/-! ## Coordinator records -/

theorem State.takeCoord_some {s : State} {vf : Nat} {e : EnvSlot} (room :
    s.recordFree vf = true ∨ ∃ c ∈ s.coords, c.eid = e.eid) :
    ∃ cs, s.takeCoord vf e = some { s with coords := cs } := by
  unfold State.takeCoord
  split
  · exact ⟨s.coords, rfl⟩
  next none =>
    refine ⟨_, if_pos (room.resolve_right fun ⟨c, hc, e⟩ => none ?_)⟩
    exact List.any_eq_true.2 ⟨c, hc, by simpa using e⟩

theorem State.takeCoord_none {s : State} {vf : Nat} {e : EnvSlot}
    (full : ¬ (s.recordFree vf = true ∨ ∃ c ∈ s.coords, c.eid = e.eid)) : s.takeCoord vf e = none := by
  obtain ⟨used, none⟩ := not_or.1 full
  rw [State.takeCoord, if_neg, if_neg used]
  intro h
  obtain ⟨c, hc, e⟩ := List.any_eq_true.1 h
  exact none ⟨c, hc, by simpa using e⟩

/-! ## The envelope ops -/

/-- A step that leaves faults, slots and packets as they were. -/
def State.envIdle (s t : State) : Prop :=
  t.iss.cfaults = s.iss.cfaults ∧ t.cur.env = s.cur.env ∧ t.packets = s.packets

/-- A step that is refused with this reason. -/
def State.envRefused (s t : State) (reason : Nat) : Prop :=
  t.iss.cfaults = s.iss.cfaults ++ [permInfo reason] ∧ t.cur.env = s.cur.env ∧ t.packets = s.packets

theorem Issue.note_cfaults (x : Issue) (k : Option (Nat × Nat)) : (x.note k).cfaults = x.cfaults := by
  cases k with
  | none => rfl
  | some k => simp only [Issue.note]; split <;> rfl

section
variable {s t : State} {h : Hdr} {capture : Ctx → PortReq} {targets : List (Nat × Nat)} {accept : Accept}
  (on : guardTrue s.cur h = true)
include on

/-- What an accepted port op leaves: what its acceptance makes of the state, its targets noted. -/
theorem portOp_leaves (ok : accept s s.iss.cur (s.stamp (capture s.cur)) = .ok t) (cur : t.iss.cur = s.iss.cur) :
    ∃ u, portOp h capture targets accept s = .next u ∧ u.cur = t.ctx s.iss.cur ∧ u.ctx s.iss.cur = t.ctx s.iss.cur ∧
      u.iss.cfaults = t.iss.cfaults ∧ u.packets = t.packets := by
  let noted : Issue := targets.foldl (fun x k => x.note (if k = (0, 0) then none else some k)) t.iss
  have same : noted.cur = t.iss.cur ∧ noted.cfaults = t.iss.cfaults :=
    List.foldlRecOn (motive := fun x : Issue => x.cur = t.iss.cur ∧ x.cfaults = t.iss.cfaults) _ _ ⟨rfl, rfl⟩
      fun x e k _ => ⟨(Issue.note_cur _ _).trans e.1, (Issue.note_cfaults _ _).trans e.2⟩
  refine ⟨_, portOp_accepted on ok, ?_, rfl, same.2, rfl⟩
  rw [State.cur_onIss _ _ same.1, State.cur, cur]

theorem portOp_refused {reason : Nat} (fails : accept s s.iss.cur (s.stamp (capture s.cur)) = .error (permInfo reason)) :
    ∃ u, portOp h capture targets accept s = .next u ∧ s.envRefused u reason := by
  refine ⟨_, portOp_failed on fails, rfl, ?_, rfl⟩
  rw [State.faultAfter, State.cur_onIss _ _ rfl, State.cur_onCur]

/-- An op that changes nothing but for its signal. -/
theorem portOp_idle (ok : accept s s.iss.cur (s.stamp (capture s.cur)) =
    .ok (s.heldSignal s.iss.cur (s.stamp (capture s.cur)))) :
    ∃ u, portOp h capture targets accept s = .next u ∧ s.envIdle u := by
  obtain ⟨u, run, cur, -, cfaults, packets⟩ := portOp_leaves (targets := targets) on ok (by rw [State.heldSignal_iss])
  refine ⟨u, run, by rw [cfaults, State.heldSignal_iss], ?_, by rw [packets, State.heldSignal_packets]⟩
  rw [cur, State.heldSignal_env]
  rfl

/-- An op that voids the live envelope of a slot. -/
theorem portOp_void {k cause : Nat} (ready : s.cur.life.state = .ready)
    (live : (s.cur.slot k).state = 1 ∨ (s.cur.slot k).state = 2)
    (undecided : ∀ c ∈ s.coords, c.eid = (s.cur.slot k).eid → c.decision = none) (fails : cause ≠ 0)
    (ok : accept s s.iss.cur (s.stamp (capture s.cur)) =
      .ok ((s.decideEnvelope (s.cur.slot k).eid cause).heldSignal s.iss.cur (s.stamp (capture s.cur)))) :
    ∃ u, portOp h capture targets accept s = .next u ∧ (u.cur.slot k).state = 4 ∧ (u.cur.slot k).cause = cause := by
  obtain ⟨u, run, cur, -⟩ := portOp_leaves (targets := targets) on ok
      (by rw [State.heldSignal_iss, State.iss_decideEnvelope])
  refine ⟨u, run, ?_⟩
  have env : u.cur.env = ((s.decideEnvelope (s.cur.slot k).eid cause).ctx s.iss.cur).env := by
    rw [cur, State.heldSignal_env]
  unfold Ctx.slot
  rw [env]
  exact State.decideEnvelope_void ready live undecided fails

/-- An op that returns a value sampled as it issues. -/
theorem portOp_returns {d due : Nat} {v : Dword} {c : Ctx → Ctx} (alive : s.cur.life.mute = false)
    (ready : s.cur.life.state = .ready) (at' : (capture s.cur).due = s.cur.level.count + due)
    (free : (capture s.cur).landing = false)
    (reserves : PortReq.reserves { s.stamp (capture s.cur) with stage := .pending } = 0)
    (keep : ∀ x, (c x).port.landings = x.port.landings ∧ (c x).level.deferred = x.level.deferred)
    (ok : accept s s.iss.cur (s.stamp (capture s.cur)) =
      .ok ((s.landNow s.iss.cur (s.stamp (capture s.cur)) d v).onCtx s.iss.cur c)) :
    ∃ u, portOp h capture targets accept s = .next u ∧ s.landsAt u d v due := by
  obtain ⟨u, run, -, ctx, -⟩ := portOp_leaves (targets := targets) on ok rfl
  refine ⟨u, run, ?_⟩
  have lands := State.landsAt_landNow (d := d) (v := v) (r := s.stamp (capture s.cur)) alive ready rfl at' free reserves
  rw [State.ctx_onCtx_same] at ctx
  unfold State.landsAt at lands ⊢
  rw [ctx, (keep _).1, (keep _).2]
  exact lands

end

/-! ## The ops of the TRI form -/

theorem State.heldSignal_slot (s : State) (n : Nat) (r : PortReq) (m k : Nat) :
    ((s.heldSignal n r).ctx m).slot k = (s.ctx m).slot k := by rw [Ctx.slot, State.heldSignal_env, Ctx.slot]
theorem State.pushOp_slot (s : State) (n : Nat) (r : PortReq) (landing : Bool) (m k : Nat) :
    ((s.pushOp n r landing).ctx m).slot k = (s.ctx m).slot k := by rw [Ctx.slot, State.pushOp_env, Ctx.slot]

@[simp] theorem State.slot_setSlot (s : State) (n k : Nat) (e : EnvSlot) : ((s.setSlot n k e).ctx n).slot k = e := by
  rw [State.setSlot, State.ctx_onCtx_same, Ctx.slot, lookupD_assocSet, if_pos rfl]

section
variable {s : State} {h : Hdr} {f : Tri} (on : guardTrue s.cur h = true) (ready : s.cur.life.state = .ready)
include on

theorem sopen_opens (closed : ¬ ((s.cur.slot (envOf f)).state = 1 ∨ (s.cur.slot (envOf f)).state = 2))
    (peers : ¬ ((maskDevices (s.cur.s f.a.toNat)).isEmpty || 16 < (maskDevices (s.cur.s f.a.toNat)).length ||
      (maskDevices (s.cur.s f.a.toNat)).any fun d => (s.peerVf s.cur.id.vf d).isNone) = true) :
    ∃ t, execSopen h f s = .next t ∧ t.cur.slot (envOf f) =
      { state := 1
        gen := s.nextGen s.iss.cur (envOf f) 4097 (s.cur.slot (envOf f)).gen
        eid := eidOf s.fabxy s.iss.cur (envOf f) (s.nextGen s.iss.cur (envOf f) 4097 (s.cur.slot (envOf f)).gen)
        mask := s.cur.s f.a.toNat } := by
  have ok : acceptSopen s s.iss.cur (s.stamp (triReq (.sopen h f) f s.cur)) = .ok (State.heldSignal _ s.iss.cur _) :=
    (if_neg closed).trans (if_neg peers)
  obtain ⟨u, run, cur, -⟩ := portOp_leaves (targets := []) on ok (by rw [State.heldSignal_iss]; rfl)
  refine ⟨u, run, ?_⟩
  rw [cur]
  exact (State.heldSignal_slot ..).trans (State.slot_setSlot ..)

theorem sopen_live (live : (s.cur.slot (envOf f)).state = 1 ∨ (s.cur.slot (envOf f)).state = 2) :
    ∃ t, execSopen h f s = .next t ∧ s.envRefused t 0x50 :=
  portOp_refused on (if_pos live)

theorem sopen_peerless (closed : ¬ ((s.cur.slot (envOf f)).state = 1 ∨ (s.cur.slot (envOf f)).state = 2))
    (peers : ((maskDevices (s.cur.s f.a.toNat)).isEmpty || 16 < (maskDevices (s.cur.s f.a.toNat)).length ||
      (maskDevices (s.cur.s f.a.toNat)).any fun d => (s.peerVf s.cur.id.vf d).isNone) = true) :
    ∃ t, execSopen h f s = .next t ∧ s.envRefused t 0x51 :=
  portOp_refused on ((if_neg closed).trans (if_pos peers))

theorem spost_posts (opened : (s.cur.slot (envOf f)).state = 1)
    (room : s.recordFree s.cur.id.vf = true ∨ ∃ c ∈ s.coords, c.eid = (s.cur.slot (envOf f)).eid) :
    ∃ t, execSpost h f s = .next t ∧ t.cur.slot (envOf f) = { s.cur.slot (envOf f) with state := 2 } ∧
      (t.cur.port.queue.any fun r => r.eid == (s.cur.slot (envOf f)).eid && decide (r.work = .op (.spost h f))) = true := by
  obtain ⟨cs, coord⟩ := State.takeCoord_some room
  have ok : ∃ t, acceptSpost s s.iss.cur (s.stamp (triReq (.spost h f) f s.cur)) = .ok t ∧ t.iss.cur = s.iss.cur ∧
      ((t.ctx s.iss.cur).slot (envOf f) = { s.cur.slot (envOf f) with state := 2 }) ∧
      ((t.ctx s.iss.cur).port.queue.any fun r => r.eid == (s.cur.slot (envOf f)).eid &&
        decide (r.work = .op (.spost h f))) = true := by
    have open' : ((s.ctx s.iss.cur).slot (envOf f)).state = 1 := opened
    have coord : s.takeCoord (s.ctx s.iss.cur).id.vf ((s.ctx s.iss.cur).slot (envOf f)) = some { s with coords := cs } := coord
    simp only [acceptSpost, show (s.stamp (triReq (.spost h f) f s.cur)).work = .op (.spost h f) from rfl, coord]
    rw [if_neg (by rw [open']; decide), if_neg (not_not.2 open')]
    refine ⟨_, rfl, rfl, ?_, ?_⟩
    · exact (State.pushOp_slot ..).trans (State.slot_setSlot ..)
    · obtain ⟨sig, pushed⟩ := State.pushOp_mem
        (State.setSlot { s with coords := cs } s.iss.cur (envOf f) { (s.ctx s.iss.cur).slot (envOf f) with state := 2 })
        s.iss.cur { s.stamp (triReq (.spost h f) f s.cur) with eid := ((s.ctx s.iss.cur).slot (envOf f)).eid } false
      exact List.any_eq_true.2 ⟨_, pushed, by simp [State.stamp, triReq, blankReq]; rfl⟩
  obtain ⟨t, ok, iss, slot, queue⟩ := ok
  obtain ⟨u, run, cur, -⟩ := portOp_leaves (targets := []) on ok iss
  exact ⟨u, run, cur ▸ slot, cur ▸ queue⟩

theorem spost_crowded (ready : s.cur.life.state = .ready) (opened : (s.cur.slot (envOf f)).state = 1)
    (full : ¬ (s.recordFree s.cur.id.vf = true ∨ ∃ c ∈ s.coords, c.eid = (s.cur.slot (envOf f)).eid)) :
    ∃ t, execSpost h f s = .next t ∧ (t.cur.slot (envOf f)).state = 4 ∧ (t.cur.slot (envOf f)).cause = 9 := by
  refine portOp_void on ready (.inl opened) (fun c hc e => absurd (.inr ⟨c, hc, e⟩) full) (by decide) ?_
  refine (if_neg (by rw [show ((s.ctx s.iss.cur).slot (envOf f)).state = 1 from opened]; decide)).trans
      ((if_neg (not_not.2 opened)).trans ?_)
  rw [show s.takeCoord (s.ctx s.iss.cur).id.vf ((s.ctx s.iss.cur).slot (envOf f)) = none from State.takeCoord_none full]
  rfl

theorem spost_void (void : (s.cur.slot (envOf f)).state = 4) : ∃ t, execSpost h f s = .next t ∧ s.envIdle t :=
  portOp_idle on (if_pos void)

theorem spost_closed (opened : (s.cur.slot (envOf f)).state ≠ 1) (void : (s.cur.slot (envOf f)).state ≠ 4) :
    ∃ t, execSpost h f s = .next t ∧ s.envRefused t 0x50 :=
  portOp_refused on ((if_neg void).trans (if_pos opened))

theorem svoid_voids (ready : s.cur.life.state = .ready) (live : (s.cur.slot (envOf f)).state = 1 ∨ (s.cur.slot
    (envOf f)).state = 2)
    (undecided : ∀ c ∈ s.coords, c.eid = (s.cur.slot (envOf f)).eid → c.decision = none) :
    ∃ t, execSvoid h f s = .next t ∧ (t.cur.slot (envOf f)).state = 4 ∧ (t.cur.slot (envOf f)).cause = 1 :=
  portOp_void on ready live undecided (by decide)
    (congrArg (fun t : State => Except.ok (t.heldSignal s.iss.cur (s.stamp (triReq (.svoid h f) f s.cur)))) (if_pos live))

theorem svoid_idle (closed : ¬ ((s.cur.slot (envOf f)).state = 1 ∨ (s.cur.slot (envOf f)).state = 2)) :
    ∃ t, execSvoid h f s = .next t ∧ s.envIdle t :=
  portOp_idle on
    (congrArg (fun t : State => Except.ok (t.heldSignal s.iss.cur (s.stamp (triReq (.svoid h f) f s.cur)))) (if_neg closed))

theorem sstat_returns (alive : s.cur.life.mute = false) (ready : s.cur.life.state = .ready) :
    ∃ t, execSstat h f s = .next t ∧ s.landsAt t f.d.toNat (s.cur.slot (envOf f)).word 16 := by
  obtain ⟨u, run, -, ctx, -⟩ := portOp_leaves (accept := acceptSstat) (targets := [(0, f.d.toNat)])
      (capture := triReq (.sstat h f) f) on rfl rfl
  refine ⟨u, run, ?_⟩
  have lands := State.landsAt_landNow (s := s) (r := s.stamp (triReq (.sstat h f) f s.cur)) (d := f.d.toNat) (due := 16)
    (v := (s.cur.slot (envOf f)).word) alive ready rfl rfl rfl rfl
  unfold State.landsAt at lands ⊢
  rw [ctx]
  exact lands

theorem swait_returns (alive : s.cur.life.mute = false) (ready : s.cur.life.state = .ready)
    (decided : (s.cur.slot (envOf f)).state ≠ 2) :
    ∃ t, execSwait h f s = .next t ∧ s.landsAt t f.d.toNat (s.cur.slot (envOf f)).word 16 := by
  refine portOp_returns (c := fun c => if (s.cur.slot (envOf f)).state = 3 then c.setAcquired else c)
      on alive ready rfl rfl rfl
    (fun x => ?_) (if_neg decided)
  split <;> exact ⟨rfl, rfl⟩

theorem swait_waits (posted : (s.cur.slot (envOf f)).state = 2) :
    ∃ t, execSwait h f s = .next t ∧ (t.cur.port.queue.any fun r => r.isSwait (s.cur.slot (envOf f)).eid) = true := by
  have ok : acceptSwait s s.iss.cur (s.stamp (triReq (.swait h f) f s.cur)) = .ok _ := if_pos posted
  obtain ⟨u, run, cur, -⟩ := portOp_leaves (targets := [(0, f.d.toNat)]) on ok rfl
  obtain ⟨sig, waits⟩ := s.waitNow_mem s.iss.cur
    { s.stamp (triReq (.swait h f) f s.cur) with eid := (s.cur.slot (envOf f)).eid }
  refine ⟨u, run, List.any_eq_true.2 ⟨_, cur ▸ waits, ?_⟩⟩
  simp [PortReq.isSwait, State.stamp, triReq, blankReq]

end

/-! ## Sealed stores -/

theorem State.onCtx_slot {f : Ctx → Ctx} (s : State) (n m k : Nat) (keep : ∀ c, (f c).env = c.env) :
    ((s.onCtx n f).ctx m).slot k = (s.ctx m).slot k := by
  rw [Ctx.slot, State.onCtx_env _ _ _ keep, Ctx.slot]

/-- The next generation is the one that follows, where no record has its EID. -/
theorem State.nextGen_succ {s : State} {n slot g : Nat} (fuel : Nat) (small : g + 1 < 2 ^ 44)
    (free : ∀ c ∈ s.coords, c.eid ≠ eidOf s.fabxy n slot (g + 1)) : s.nextGen n slot (fuel + 1) g = g + 1 := by
  have none : (s.coords.any fun c => c.eid == eidOf s.fabxy n slot (g + 1)) = false := by simpa using free
  simp only [State.nextGen, if_pos small, none]
  rfl

theorem State.ctx_send (s : State) (dst : Nat) (m : Msg) (n : Nat) : (s.send dst m).ctx n = s.ctx n := rfl
theorem State.ctx_onCoord (s : State) (eid : Nat) (f : Coord → Coord) (n : Nat) : (s.onCoord eid f).ctx n = s.ctx n := rfl
theorem State.ctx_streamNext (s : State) (k dst n : Nat) : (s.streamNext k dst).1.ctx n = s.ctx n := rfl
theorem State.send_last (s : State) (dst : Nat) (m : Msg) :
    ((s.send dst m).packets.getLast?).map (fun p => (p.2.dst, p.2.msg)) = some (dst, m) := by simp [State.send]

/-- What a seal request leaves: the count in SENT and the request, the last packet. -/
theorem State.sendSeal_leaves (s : State) (n : Nat) (r : PortReq) (env peer : Nat) (data : List Byte) :
    ((s.sendSeal n r env peer data).ctx n).slot env = ((s.ctx n).slot env).addSent peer data.length ∧
      ∃ m, ((s.sendSeal n r env peer data).packets.getLast?).map (fun p => (p.2.dst, p.2.msg)) = some (peer, .seal m) ∧
        m.eid = ((s.ctx n).slot env).eid ∧ m.writes = wholeWrites r.addr.toNat data ∧ m.bytes = data.length ∧
        m.mask = ((s.ctx n).slot env).mask := by
  refine ⟨?_, ⟨_, State.send_last .., rfl, rfl, rfl, rfl⟩⟩
  simp only [State.sendSeal]
  rw [State.ctx_send, State.onCtx_slot, State.pushOp_slot, State.ctx_onCoord, State.ctx_streamNext,
    State.onCtx_slot, State.slot_setSlot]
  all_goals exact fun c => rfl

section
variable {s : State} {h : Hdr} {f : MemF} {align : Nat} {data : PortReq → List Byte} {capture : Ctx → PortReq}
  (on : guardTrue s.cur h = true) (ok : farFault (capture s.cur).addr align = none)
  (mem : (capture s.cur).mem = some f)
include on ok mem

theorem sealedStore_void (void : (s.cur.slot (sealEnv f)).state = 4) :
    ∃ t, portOp h capture [] (acceptSeal align data) s = .next t ∧ s.envIdle t := by
  refine portOp_idle on ?_
  simp only [acceptSeal, show (s.stamp (capture s.cur)).addr = (capture s.cur).addr from rfl, ok,
    show (s.stamp (capture s.cur)).mem = some f from mem]
  exact if_pos void

theorem sealedStore_closed (opened : (s.cur.slot (sealEnv f)).state ≠ 1) (void : (s.cur.slot (sealEnv f)).state ≠ 4) :
    ∃ t, portOp h capture [] (acceptSeal align data) s = .next t ∧ s.envRefused t 0x50 := by
  refine portOp_refused on ?_
  simp only [acceptSeal, show (s.stamp (capture s.cur)).addr = (capture s.cur).addr from rfl, ok,
    show (s.stamp (capture s.cur)).mem = some f from mem]
  exact (if_neg void).trans (if_pos opened)

section
variable (opened : (s.cur.slot (sealEnv f)).state = 1)
include opened

theorem sealedStore_outside (outside : (s.cur.slot (sealEnv f)).mask.getLsbD (sealPeer f) = false) :
    ∃ t, portOp h capture [] (acceptSeal align data) s = .next t ∧ s.envRefused t 0x52 := by
  refine portOp_refused on ?_
  simp only [acceptSeal, show (s.stamp (capture s.cur)).addr = (capture s.cur).addr from rfl, ok,
    show (s.stamp (capture s.cur)).mem = some f from mem]
  have opened : ((s.ctx s.iss.cur).slot (sealEnv f)).state = 1 := opened
  exact (if_neg (by rw [opened]; decide)).trans ((if_neg (not_not.2 opened)).trans (if_pos (by
    rw [show ((s.ctx s.iss.cur).slot (sealEnv f)).mask.getLsbD (sealPeer f) = false from outside]; rfl)))

variable (inside : (s.cur.slot (sealEnv f)).mask.getLsbD (sealPeer f) = true)
include inside

theorem acceptSeal_inside : acceptSeal align data s s.iss.cur (s.stamp (capture s.cur)) =
    if !s.reachable (sealPeer f) || (s.peerVf s.cur.id.vf (sealPeer f)).isNone then
      .ok ((s.decideEnvelope (s.cur.slot (sealEnv f)).eid 10).heldSignal s.iss.cur (s.stamp (capture s.cur)))
    else
      match s.takeCoord s.cur.id.vf (s.cur.slot (sealEnv f)) with
      | none => .ok ((s.decideEnvelope (s.cur.slot (sealEnv f)).eid 9).heldSignal s.iss.cur (s.stamp (capture s.cur)))
      | some t => .ok (t.sendSeal s.iss.cur (s.stamp (capture s.cur)) (sealEnv f) (sealPeer f)
        (data (s.stamp (capture s.cur)))) := by
  simp only [acceptSeal, show (s.stamp (capture s.cur)).addr = (capture s.cur).addr from rfl, ok,
    show (s.stamp (capture s.cur)).mem = some f from mem]
  have opened : ((s.ctx s.iss.cur).slot (sealEnv f)).state = 1 := opened
  rw [if_neg (by rw [opened]; decide), if_neg (not_not.2 opened), if_neg (by
    rw [show ((s.ctx s.iss.cur).slot (sealEnv f)).mask.getLsbD (sealPeer f) = true from inside]; decide)]
  rfl

theorem sealedStore_unreached (ready : s.cur.life.state = .ready)
    (away : ¬ (s.reachable (sealPeer f) = true ∧ (s.peerVf s.cur.id.vf (sealPeer f)).isSome = true))
    (undecided : ∀ c ∈ s.coords, c.eid = (s.cur.slot (sealEnv f)).eid → c.decision = none) :
    ∃ t, portOp h capture [] (acceptSeal align data) s = .next t ∧ (t.cur.slot (sealEnv f)).state = 4 ∧
      (t.cur.slot (sealEnv f)).cause = 10 := by
  refine portOp_void on ready (.inl opened) undecided (by decide) ?_
  rw [acceptSeal_inside on ok mem opened inside, if_pos]
  cases reached : s.reachable (sealPeer f)
  · rfl
  · cases vf : s.peerVf s.cur.id.vf (sealPeer f)
    · rfl
    · exact absurd ⟨reached, by rw [vf]; rfl⟩ away

variable (reached : s.reachable (sealPeer f) = true ∧ (s.peerVf s.cur.id.vf (sealPeer f)).isSome = true)
include reached

theorem sealedStore_crowded (ready : s.cur.life.state = .ready)
    (full : ¬ (s.recordFree s.cur.id.vf = true ∨ ∃ c ∈ s.coords, c.eid = (s.cur.slot (sealEnv f)).eid)) :
    ∃ t, portOp h capture [] (acceptSeal align data) s = .next t ∧ (t.cur.slot (sealEnv f)).state = 4 ∧
      (t.cur.slot (sealEnv f)).cause = 9 := by
  refine portOp_void on ready (.inl opened) (fun c hc e => absurd (.inr ⟨c, hc, e⟩) full) (by decide) ?_
  rw [acceptSeal_inside on ok mem opened inside, if_neg
      (by simp [reached, Option.isSome_iff_ne_none.1 reached.2]), State.takeCoord_none full]

theorem sealedStore_sends
    (room : s.recordFree s.cur.id.vf = true ∨ ∃ c ∈ s.coords, c.eid = (s.cur.slot (sealEnv f)).eid) :
    ∃ t, portOp h capture [] (acceptSeal align data) s = .next t ∧
      t.cur.slot (sealEnv f) = (s.cur.slot (sealEnv f)).addSent (sealPeer f) (data (s.stamp (capture s.cur))).length ∧
      ∃ m, (t.packets.getLast?).map (fun p => (p.2.dst, p.2.msg)) = some (sealPeer f, .seal m) ∧
        m.eid = (s.cur.slot (sealEnv f)).eid ∧ m.writes = wholeWrites (capture s.cur).addr.toNat (data (s.stamp
            (capture s.cur))) ∧
        m.bytes = (data (s.stamp (capture s.cur))).length ∧ m.mask = (s.cur.slot (sealEnv f)).mask := by
  obtain ⟨cs, coord⟩ := State.takeCoord_some room
  have accepted := acceptSeal_inside (data := data) on ok mem opened inside
  rw [if_neg (by simp [reached, Option.isSome_iff_ne_none.1 reached.2]), coord] at accepted
  obtain ⟨u, run, cur, -, -, packets⟩ := portOp_leaves (targets := []) on accepted rfl
  obtain ⟨slot, sent⟩ := State.sendSeal_leaves { s with coords := cs } s.iss.cur (s.stamp (capture s.cur)) (sealEnv f) (sealPeer f)
    (data (s.stamp (capture s.cur)))
  exact ⟨u, run, cur ▸ slot, packets ▸ sent⟩

end
end

end Sys2Proof.Machine
open Sys2Proof Sys2Proof.Machine

/-- Settles O28, by what the acceptance of each op makes of its slot, its port and the packets. -/
theorem envelopeOps : Obligations.EnvelopeOps := by
  refine ⟨fun h f s on alive ready => ?_, fun h f s on alive ready => ?_⟩
  · have peers : ∀ devs : List Nat, (devs ≠ [] ∧ devs.length ≤ 16 ∧ ∀ d ∈ devs, (s.peerVf s.cur.id.vf d).isSome = true) ↔
        ¬ (devs.isEmpty || 16 < devs.length || devs.any fun d => (s.peerVf s.cur.id.vf d).isNone) = true := by
      intro devs
      simp [Option.isSome_iff_ne_none, and_assoc]
    refine ⟨fun closed reach => ?_, sopen_live on, fun closed away => sopen_peerless on closed (not_not.1
        ((peers _).not.1 away)),
      spost_posts on, spost_crowded on ready, spost_void on, spost_closed on, svoid_voids on ready, svoid_idle on,
      sstat_returns on alive ready, swait_returns on alive ready, swait_waits on⟩
    obtain ⟨t, run, slot⟩ := sopen_opens on closed ((peers _).1 reach)
    refine ⟨t, run, ?_, fun small free => ?_⟩
    · rw [show t.cur.slot (f.imm.extractLsb' 0 4).toNat = _ from slot]
      rfl
    · rw [show t.cur.slot (f.imm.extractLsb' 0 4).toNat = _ from slot]
      exact State.nextGen_succ _ small free
  · refine ⟨fun opened inside reached room => ⟨fun ok => ?_, fun ok => ?_⟩,
      fun void => ⟨fun ok => sealedStore_void on ok rfl void, fun ok => sealedStore_void on ok rfl void⟩,
      fun opened void => ⟨fun ok => sealedStore_closed on ok rfl opened void,
          fun ok => sealedStore_closed on ok rfl opened void⟩,
      fun opened outside => ⟨fun ok => sealedStore_outside on ok rfl opened outside,
        fun ok => sealedStore_outside on ok rfl opened outside⟩,
      fun opened inside away undecided => ⟨fun ok => sealedStore_unreached on ok rfl opened inside ready away undecided,
        fun ok => sealedStore_unreached on ok rfl opened inside ready away undecided⟩,
      fun opened inside reached full => ⟨fun ok => sealedStore_crowded on ok rfl opened inside reached ready full,
        fun ok => sealedStore_crowded on ok rfl opened inside reached ready full⟩⟩
    · obtain ⟨t, run, slot, sent⟩ := sealedStore_sends (capture := memReq (.sst h f) f sealedAddr)
        (data := fun r => natBytes 8 r.w1.toNat) on ok rfl opened inside reached room
      exact ⟨t, run, by rw [slot]; rfl, sent⟩
    · obtain ⟨t, run, slot, sent⟩ := sealedStore_sends (capture := vecReq (.svst h f) f sealedAddr)
        (data := fun r => r.vec) on ok rfl opened inside reached room
      exact ⟨t, run, by rw [slot]; rfl, sent⟩
end

section
/-!
PROOFS. Results that land in registers and control state (R32, R48, R106, R113, R154; O30).
-/
namespace Sys2Proof.Machine
open Sys2Proof

/-! ## An entry that lands alone -/

/-- A context whose due entries have been taken. -/
def Ctx.popDue (c : Ctx) : Ctx := c.onLevel fun l => { l with deferred := l.deferred.filter fun d => l.count < d.due }

/-- What a result leaves of its context: the write, then its flags, then its signal. -/
def Ctx.landed (c : Ctx) (x : Effect) (sig : Option Nat) : Ctx :=
  (((c.applyWrite x).onLevel fun l => { l with under := l.under ++ [] }).applyFlags x).completeSignal sig

theorem State.ctx_landEntries_storeless {e : Deferred} (ns : e.eff.stores = []) (s : State) (n m : Nat) :
    (s.landEntries n [e]).ctx m = if m = n then (s.ctx n).landed (s.readEffect n e.eff) e.sig else s.ctx m := by
  have one : sortKey (fun d : Deferred => 8 * d.seq + d.slot) [e] = [e] := rfl
  have none : ∀ d ∈ bySlot [e], d.eff.stores = [] := fun d m => List.mem_singleton.1 (mem_of_mem_bySlot m) ▸ ns
  have under : ∀ f : Nat × Byte → Nat × Byte, ((bySlot [e]).flatMap fun d => d.eff.stores.map f) = [] :=
    fun f => List.flatMap_eq_nil_iff.2 fun d hd => by rw [none d hd]; rfl
  simp only [State.landEntries, one, List.map_cons, List.map_nil, List.foldl_cons, List.foldl_nil, under,
    State.foldl_applyStore_none _ _ none, State.onCtx_eq, State.ctx_setCtx, if_true]
  split <;> rfl

/-- The only entry that is due lands, where nothing holds it back. -/
theorem State.landDue_single {s : State} {n : Nat} {e : Deferred} (only : (s.ctx n).level.deferred = [e])
    (due : e.due ≤ (s.ctx n).level.count) (arrived : (s.ctx n).dataArrived e = true) (tile : (s.ctx n).awaitsTile e = false)
    (array : (s.ctx n).awaitsArray e = false) (result : (s.ctx n).awaitsResult e = false) (good : s.readsBad n e = false) :
    s.landDue n = .landed ((s.onCtx n Ctx.popDue).landEntries n [e]) := by
  have now : (s.ctx n).dueNow = [e] := by simp [Ctx.dueNow, only, due]
  simp [State.landDue, now, arrived, tile, array, result, good]
  rfl

theorem State.landDue_storeless {s : State} {n : Nat} {e : Deferred} (only : (s.ctx n).level.deferred = [e])
    (due : e.due ≤ (s.ctx n).level.count) (arrived : (s.ctx n).dataArrived e = true) (tile : (s.ctx n).awaitsTile e = false)
    (array : (s.ctx n).awaitsArray e = false) (result : (s.ctx n).awaitsResult e = false) (good : s.readsBad n e = false)
    (ns : e.eff.stores = []) :
    ∃ t, s.landDue n = .landed t ∧
      t.ctx n = (s.ctx n).popDue.landed ((s.onCtx n Ctx.popDue).readEffect n e.eff) e.sig ∧
      (∀ m, m ≠ n → t.ctx m = s.ctx m) ∧ t.mem = s.mem := by
  refine ⟨_, State.landDue_single only due arrived tile array result good, ?_, fun m hm => ?_, ?_⟩
  · rw [State.ctx_landEntries_storeless ns, if_pos rfl, State.ctx_onCtx_same]
  · rw [State.ctx_landEntries_storeless ns, if_neg hm, State.onCtx_eq, State.ctx_setCtx, if_neg hm]
  · simp

/-! ## What landing leaves of each part of the context -/

section
variable (c : Ctx) (x : Effect) (sig : Option Nat)

@[simp] theorem Ctx.ctl_onLevel (f : Level → Level) : (c.onLevel f).ctl = c.ctl := by
  unfold Ctx.onLevel Ctx.setLevel
  split <;> rfl
@[simp] theorem Ctx.trap_onLevel (f : Level → Level) : (c.onLevel f).trap = c.trap := by
  unfold Ctx.onLevel Ctx.setLevel
  split <;> rfl
@[simp] theorem Ctx.port_onLevel (f : Level → Level) : (c.onLevel f).port = c.port := by
  unfold Ctx.onLevel Ctx.setLevel
  split <;> rfl
@[simp] theorem Ctx.id_onLevel (f : Level → Level) : (c.onLevel f).id = c.id := by
  unfold Ctx.onLevel Ctx.setLevel
  split <;> rfl

@[simp] theorem Ctx.regs_applyFlags : (c.applyFlags x).regs = c.regs := by cases x <;> rfl
@[simp] theorem Ctx.trap_applyFlags : (c.applyFlags x).trap = c.trap := by cases x <;> rfl
@[simp] theorem Ctx.port_applyFlags : (c.applyFlags x).port = c.port := by cases x <;> rfl
@[simp] theorem Ctx.level_applyFlags : (c.applyFlags x).level = c.level := by cases x <;> rfl
theorem Ctx.ctl_applyFlags (d : Ctx) (same : c.ctl = d.ctl) : (c.applyFlags x).ctl = (d.applyFlags x).ctl := by
  cases x <;> simp only [Ctx.applyFlags, Ctx.orFp, Ctx.orCtxst, Ctx.addDamage, same]

@[simp] theorem Ctx.ctl_completeSignal : (c.completeSignal sig).ctl = c.ctl := by cases sig <;> rfl
@[simp] theorem Ctx.trap_completeSignal : (c.completeSignal sig).trap = c.trap := by cases sig <;> rfl
@[simp] theorem Ctx.level_completeSignal : (c.completeSignal sig).level = c.level := by cases sig <;> rfl
@[simp] theorem Ctx.landings_completeSignal : (c.completeSignal sig).port.landings = c.port.landings := by cases sig <;> rfl
@[simp] theorem Ctx.regs_landed : (c.landed x sig).regs = (c.applyWrite x).regs := by simp [Ctx.landed]
@[simp] theorem Ctx.trap_landed : (c.landed x sig).trap = (c.applyWrite x).trap := by simp [Ctx.landed]
@[simp] theorem Ctx.mat_landed : (c.landed x sig).mat = (c.applyWrite x).mat := by simp [Ctx.landed]
@[simp] theorem Ctx.landings_landed : (c.landed x sig).port.landings = (c.applyWrite x).port.landings := by simp [Ctx.landed]
@[simp] theorem Ctx.ctl_landed : (c.landed x sig).ctl = ((c.applyWrite x).applyFlags x).ctl := by
  rw [Ctx.landed, Ctx.ctl_completeSignal]
  exact Ctx.ctl_applyFlags _ _ _ (Ctx.ctl_onLevel ..)
@[simp] theorem Ctx.deferred_landed : (c.landed x sig).level.deferred =
    (c.applyWrite x).level.deferred := by simp [Ctx.landed]
@[simp] theorem Ctx.loop_landed (k : Nat) : (c.landed x sig).loop k =
    (c.applyWrite x).loop k := by simp [Ctx.landed, Ctx.loop]

@[simp] theorem Ctx.regs_popDue : c.popDue.regs = c.regs := by simp [Ctx.popDue]
@[simp] theorem Ctx.ctl_popDue : c.popDue.ctl = c.ctl := by simp [Ctx.popDue]
@[simp] theorem Ctx.trap_popDue : c.popDue.trap = c.trap := by simp [Ctx.popDue]
@[simp] theorem Ctx.mat_popDue : c.popDue.mat = c.mat := by simp [Ctx.popDue]
@[simp] theorem Ctx.port_popDue : c.popDue.port = c.port := by simp [Ctx.popDue]
@[simp] theorem Ctx.id_popDue : c.popDue.id = c.id := by simp [Ctx.popDue]
@[simp] theorem Ctx.loops_popDue : c.popDue.level.loops = c.level.loops := by simp [Ctx.popDue]
theorem Ctx.deferred_popDue {e : Deferred} (only : c.level.deferred = [e]) (due : e.due ≤ c.level.count) :
    c.popDue.level.deferred = [] := by
  simp [Ctx.popDue, only, Nat.not_lt.2 due]

end

/-! ## Registers after a write -/

section
variable {c d : Ctx}

theorem Ctx.s_of_regs (same : c.regs = d.regs) (k : Nat) : c.s k = d.s k := by rw [Ctx.s, same, Ctx.s]
theorem Ctx.p_of_regs (same : c.regs = d.regs) (k : Nat) : c.p k = d.p k := by rw [Ctx.p, same, Ctx.p]
theorem Ctx.q_of_regs (same : c.regs = d.regs) (k : Nat) : c.q k = d.q k := by rw [Ctx.q, same, Ctx.q]
theorem Ctx.lane_of_regs (same : c.regs = d.regs) (k i : Nat) : c.lane k i = d.lane k i := by rw [Ctx.lane, same, Ctx.lane]

end

theorem Ctx.s_setS (c : Ctx) (d : Nat) (v : Dword) (k : Nat) :
    (c.setS d v).s k = if k = d then (if d = 0 then 0 else v) else c.s k := by
  unfold Ctx.setS
  by_cases hd : d = 0
  · subst hd
    by_cases hk : k = 0 <;> simp [Ctx.s, hk]
  · by_cases hk : k = d
    · simp [Ctx.s, hk, hd]
    · simp [Ctx.s, hk, hd]

theorem Ctx.q_setQ (c : Ctx) (d : Nat) (m v : BitVec 128) (k : Nat) :
    (c.setQ d m v).q k = if k = d then (if d = 0 then BitVec.allOnes 128 else (c.q d &&& ~~~m) ||| (v &&& m))
        else c.q k := by
  unfold Ctx.setQ
  by_cases hd : d = 0
  · subst hd
    by_cases hk : k = 0 <;> simp [Ctx.q, hk]
  · by_cases hk : k = d
    · simp [Ctx.q, hk, hd]
    · simp [Ctx.q, hk, hd]

theorem Ctx.p_setP {d k : Nat} (hd : d < 32) (hk : k < 32) (c : Ctx) (b : Bool) :
    (c.setP d b).p k = if k = d then (d == 0 || b) else c.p k := by
  unfold Ctx.setP
  by_cases zero : d = 0
  · subst zero
    by_cases hk : k = 0 <;> simp [Ctx.p, hk]
  · have bit : (1#32 <<< d).getLsbD k = decide (k = d) := by
      rw [BitVec.getLsbD_shiftLeft, BitVec.getLsbD_one]
      simp only [hk, decide_true, Bool.true_and]
      by_cases h : k = d
      · simp [h]
      · by_cases lt : k < d
        · simp [lt, h]
        · simp [lt, h]
          omega
    simp only [if_neg zero, Ctx.p, BitVec.getLsbD_or, BitVec.getLsbD_and, BitVec.getLsbD_not, bit, hk]
    by_cases h : k = d
    · cases b <;> simp [h, zero, hd]
    · cases b <;> simp [h, bit]

theorem Ctx.lane_setLane {n k i : Nat} {w : LaneWrite} (hi : i < 128) (hw : w.1 < 128) (c : Ctx) :
    (c.setLane n w).lane k i = if k = n ∧ i = w.1 then (c.lane n w.1 &&& ~~~w.2.1) ||| (w.2.2 &&& w.2.1)
        else c.lane k i := by
  have key : 128 * k + i = 128 * n + w.1 ↔ k = n ∧ i = w.1 := by omega
  simp only [Ctx.setLane, Ctx.lane, lookupD_sparseSet, key]

theorem Ctx.lane_setLanes_other {n k i : Nat} (hi : i < 128) (ws : List LaneWrite) (hw : ∀ w ∈ ws, w.1 < 128)
    (out : k ≠ n ∨ ∀ w ∈ ws, w.1 ≠ i) (c : Ctx) : (c.setLanes n ws).lane k i = c.lane k i := by
  refine List.foldlRecOn (motive := fun x : Ctx => x.lane k i = c.lane k i) ws _ rfl fun x e w hm => ?_
  rw [Ctx.lane_setLane hi (hw w hm), if_neg fun both => out.elim (fun h => h both.1) fun h => h w hm both.2.symm, e]

theorem Ctx.lane_setLanes_mem {n : Nat} (ws : List LaneWrite) (hw : ∀ w ∈ ws, w.1 < 128) (once : (ws.map (·.1)).Nodup)
    {w : LaneWrite} (hm : w ∈ ws) (c : Ctx) :
    (c.setLanes n ws).lane n w.1 = (c.lane n w.1 &&& ~~~w.2.1) ||| (w.2.2 &&& w.2.1) := by
  induction ws generalizing c with
  | nil => cases hm
  | cons x ws ih =>
    have hx := hw x List.mem_cons_self
    have rest : ∀ y ∈ ws, y.1 < 128 := fun y hy => hw y (List.mem_cons_of_mem x hy)
    obtain ⟨fresh, once⟩ := List.nodup_cons.1 once
    show ((c.setLane n x).setLanes n ws).lane n w.1 = _
    obtain rfl | hm := List.mem_cons.1 hm
    · rw [Ctx.lane_setLanes_other hx ws rest (.inr fun y hy e => fresh (List.mem_map.2 ⟨y, hy, e⟩)), Ctx.lane_setLane hx hx,
        if_pos ⟨rfl, rfl⟩]
    · rw [ih rest once hm, Ctx.lane_setLane (rest w hm) hx, if_neg fun both : n = n ∧ w.1 = x.1 => fresh
        (List.mem_map.2 ⟨w, hm, both.2⟩)]

theorem Ctx.tileByte_setTileByte {t k o : Nat} {w : Nat × Byte} (ho : o < 8192) (hw : w.1 < 8192) (c : Ctx) :
    (c.setTileByte t w).tileByte k o = if k = t ∧ o = w.1 then w.2 else c.tileByte k o := by
  have key : 8192 * k + o = 8192 * t + w.1 ↔ k = t ∧ o = w.1 := by omega
  simp only [Ctx.setTileByte, Ctx.tileByte, lookupD_sparseSet, key]

theorem Ctx.tileByte_setTileBytes_other {t k o : Nat} (ho : o < 8192) (ws : List (Nat × Byte)) (hw : ∀ w ∈ ws, w.1 < 8192)
    (out : k ≠ t ∨ ∀ w ∈ ws, w.1 ≠ o) (c : Ctx) : (c.setTileBytes t ws).tileByte k o = c.tileByte k o := by
  refine List.foldlRecOn (motive := fun x : Ctx => x.tileByte k o = c.tileByte k o) ws _ rfl fun x e w hm => ?_
  rw [Ctx.tileByte_setTileByte ho (hw w hm), if_neg fun both => out.elim (fun h => h both.1) fun h => h w hm both.2.symm, e]

theorem Ctx.tileByte_setTileBytes_mem {t : Nat} (ws : List (Nat × Byte)) (hw : ∀ w ∈ ws, w.1 < 8192)
    (once : (ws.map (·.1)).Nodup) {w : Nat × Byte} (hm : w ∈ ws) (c : Ctx) : (c.setTileBytes t ws).tileByte t w.1 = w.2 := by
  induction ws generalizing c with
  | nil => cases hm
  | cons x ws ih =>
    have hx := hw x List.mem_cons_self
    have rest : ∀ y ∈ ws, y.1 < 8192 := fun y hy => hw y (List.mem_cons_of_mem x hy)
    obtain ⟨fresh, once⟩ := List.nodup_cons.1 once
    show ((c.setTileByte t x).setTileBytes t ws).tileByte t w.1 = _
    obtain rfl | hm := List.mem_cons.1 hm
    · rw [Ctx.tileByte_setTileBytes_other hx ws rest (.inr fun y hy e => fresh (List.mem_map.2 ⟨y, hy, e⟩)),
        Ctx.tileByte_setTileByte hx hx, if_pos ⟨rfl, rfl⟩]
    · exact ih rest once hm _

@[simp] theorem Ctx.regs_setTileBytes (c : Ctx) (t : Nat) (ws : List (Nat × Byte)) : (c.setTileBytes t ws).regs = c.regs :=
  List.foldlRecOn (motive := fun x : Ctx => x.regs = c.regs) ws _ rfl fun _ e _ _ => e

@[simp] theorem Ctx.regs_writeControl (c : Ctx) (num : Nat) (v : Dword) : (c.writeControl num v).regs = c.regs := by
  unfold Ctx.writeControl
  split
  any_goals rfl
  split
  · exact Ctx.regs_onLevel ..
  · rfl

theorem toNat_addTotal (a : Dword) (n : Nat) : (addTotal a n).toNat = min (a.toNat + n) (2 ^ 64 - 1) := by
  rw [addTotal, BitVec.toNat_ofNat, Nat.mod_eq_of_lt]
  omega

/-! ## Each kind of result -/

/-- An effect that neither loads nor stores nor lands data. -/
def Effect.IsPlain (x : Effect) : Prop :=
  match x with
  | .store _ _ _ _ | .loadScalar _ _ _ | .loadLanes _ _ _ _ _ | .landing _ => False
  | _ => True

/-- It reads and stores nothing in the window, and waits for no data. -/
theorem Effect.IsPlain.parts {e : Deferred} (plain : e.eff.IsPlain) : e.eff.reads = [] ∧ e.eff.stores = [] ∧
    (∀ (s : State) n, s.readEffect n e.eff = e.eff) ∧ ∀ c : Ctx, c.dataArrived e = true := by
  obtain ⟨d, q, sl, x, sig⟩ := e
  cases x with
  | store | loadScalar | loadLanes | landing => exact plain.elim
  | _ => exact ⟨rfl, rfl, fun _ _ => rfl, fun _ => rfl⟩

section
variable {s : State} {n : Nat} {e : Deferred} (only : (s.ctx n).level.deferred = [e]) (due : e.due ≤ (s.ctx n).level.count)
include only due

/-- Data that have arrived wait for the ops of the array that write their register or read their tile. -/
theorem State.landDue_busy (arrived : (s.ctx n).dataArrived e = true)
    (waits : (s.ctx n).awaitsResult e = true ∨ (s.ctx n).awaitsArray e = true) : s.landDue n = .busy := by
  have now : (s.ctx n).dueNow = [e] := by simp [Ctx.dueNow, only, due]
  obtain w | w := waits <;> simp [State.landDue, now, arrived, w]

theorem State.landDue_plain {x : Effect} (eff : e.eff = x) (plain : x.IsPlain) (array : (s.ctx n).awaitsArray e = false)
    (result : (s.ctx n).awaitsResult e = false) :
    ∃ t, s.landDue n = .landed t ∧ t.ctx n = (s.ctx n).popDue.landed x e.sig ∧ (∀ m, m ≠ n → t.ctx m = s.ctx m) ∧
      t.mem = s.mem := by
  subst eff
  obtain ⟨reads, stores, read, arrived⟩ := plain.parts
  obtain ⟨t, landed, ctx, other, mem⟩ := State.landDue_storeless only due (arrived _) (by simp [Ctx.awaitsTile, reads]) array
    result (by simp [State.readsBad, reads]) stores
  exact ⟨t, landed, ctx.trans (congrArg (Ctx.landed _ · e.sig) (read _ n)), other, mem⟩

end

theorem State.sameRegs_of_ctx {s t : State} {n : Nat} (here : (t.ctx n).regs = (s.ctx n).regs)
    (other : ∀ m, m ≠ n → t.ctx m = s.ctx m) : s.sameRegs t := fun m => by
  by_cases h : m = n
  · rw [h, here]
  · rw [other m h]

/-- No array op waits for anything but tile bytes. -/
theorem Ctx.awaitsArray_of_eff {c : Ctx} {e : Deferred} {x : Effect} (eff : e.eff = x) (none : ∀ t ws, x ≠ .tileBytes t ws) :
    c.awaitsArray e = false := by
  unfold Ctx.awaitsArray
  rw [eff]
  split
  next t ws => exact absurd rfl (none t ws)
  next => rfl

@[simp] theorem Ctx.ctl_setS (c : Ctx) (d : Nat) (v : Dword) : (c.setS d v).ctl = c.ctl := by
  unfold Ctx.setS
  split <;> rfl
@[simp] theorem Ctx.level_setS (c : Ctx) (d : Nat) (v : Dword) : (c.setS d v).level = c.level := by
  unfold Ctx.setS
  split <;> rfl
@[simp] theorem Ctx.ctl_setLanes (c : Ctx) (d : Nat) (ws : List LaneWrite) : (c.setLanes d ws).ctl = c.ctl :=
  List.foldlRecOn (motive := fun x : Ctx => x.ctl = c.ctl) ws _ rfl fun _ e _ _ => e

theorem Ctx.loop_of_level {c d : Ctx} (same : c.level.loops = d.level.loops) (k : Nat) : c.loop k = d.loop k := by
  rw [Ctx.loop, same, Ctx.loop]

theorem Ctx.writeControl_loop {c : Ctx} {k : Nat} (hk : k < 6) (len : c.level.loops.length = 6) (v : Dword) :
    (c.writeControl (0x040 + k) v).loop k = { c.loop k with lc := v } := by
  have setLoop : c.writeControl (0x040 + k) v = c.setLoop k { c.loop k with lc := v } := by
    unfold Ctx.writeControl
    split
    any_goals omega
    rw [if_pos (by simp; omega), Nat.add_sub_cancel_left]
  rw [setLoop, Ctx.loop_setLoop_same (by omega)]

end Sys2Proof.Machine
open Sys2Proof Sys2Proof.Machine

/-- Settles O30, by what each effect writes and what landing leaves of the other parts of the context. -/
theorem registerResultsLand : Obligations.RegisterResultsLand := by
  refine ⟨fun s n e d v fl only due eff slot free => ?_,
      fun s n e only due slot arrived waits => State.landDue_busy only due arrived waits,
    fun s n e only due slot result array => ⟨fun num v eff => ?_, fun i x eff => ?_, fun i x eff => ?_,
      fun i ws eff within once => ?_, fun sat zeroed sac eff => ?_⟩,
    fun s n e only due slot result => ⟨fun d b hd eff => ?_, fun d m v fl eff => ?_, fun d ws fl eff within once => ?_⟩⟩
  · obtain ⟨t, landed, ctx, other, mem⟩ := State.landDue_plain only due eff trivial (Ctx.awaitsArray_of_eff eff nofun) free
    have s' : ∀ k, (t.ctx n).s k = if k = d then (if d = 0 then 0 else v) else (s.ctx n).s k := fun k => by
      rw [ctx, Ctx.s_of_regs (Ctx.regs_landed ..), Ctx.applyWrite, Ctx.s_setS, Ctx.s_of_regs (Ctx.regs_popDue _)]
    refine ⟨t, landed, by rw [s', if_pos rfl], fun k hk => by rw [s', if_neg hk], ?_, ?_, State.sameMemory_of_mem mem⟩
    · rw [ctx, Ctx.ctl_landed]
      show ((s.ctx n).popDue.setS d v).ctl.ctxst ||| fl = _
      rw [Ctx.ctl_setS, Ctx.ctl_popDue]
    · rw [ctx, Ctx.deferred_landed, Ctx.applyWrite, Ctx.level_setS, Ctx.deferred_popDue _ only due]
  · obtain ⟨t, landed, ctx, other, mem⟩ := State.landDue_plain only due eff trivial array result
    have trap : (t.ctx n).trap = ((s.ctx n).popDue.writeControl num v).trap := by rw [ctx, Ctx.trap_landed, Ctx.applyWrite]
    have ctl : (t.ctx n).ctl = ((s.ctx n).popDue.writeControl num v).ctl :=
      (congrArg Ctx.ctl ctx).trans (Ctx.ctl_landed ..)
    refine ⟨t, landed, State.sameRegs_of_ctx
        (by rw [ctx, Ctx.regs_landed, Ctx.applyWrite, Ctx.regs_writeControl, Ctx.regs_popDue]) other,
      State.sameMemory_of_mem mem, ?_⟩
    refine ⟨?_, ?_, ?_, ?_, ?_, ?_, ?_, ?_, ?_, ?_, ?_, fun k hk len e => ?_⟩
    case refine_12 =>
      subst e
      rw [ctx, Ctx.loop_landed, Ctx.applyWrite, Ctx.writeControl_loop hk
          (by rw [Ctx.loops_popDue, len]), Ctx.loop_of_level (Ctx.loops_popDue _)]
    all_goals
      rintro rfl
      simp only [ctl, trap]
      rfl
  · obtain ⟨t, landed, ctx, other, mem⟩ := State.landDue_plain only due eff trivial array result
    have tctl : ∀ k, (t.ctx n).tctl k = if k = i then x else (s.ctx n).tctl k := fun k => by
      rw [ctx, Ctx.tctl, Ctx.ctl_landed]
      simp [Ctx.applyWrite, Ctx.applyFlags, Ctx.tctl]
    exact ⟨t, landed, by rw [tctl, if_pos rfl], fun k hk => by rw [tctl, if_neg hk],
      State.sameRegs_of_ctx (by rw [ctx, Ctx.regs_landed, Ctx.applyWrite, Ctx.regs_popDue]) other⟩
  · obtain ⟨t, landed, ctx, other, mem⟩ := State.landDue_plain only due eff trivial array result
    have desc : ∀ k, lookup? k (t.ctx n).ctl.desc = if k = i then some x else lookup? k (s.ctx n).ctl.desc := fun k => by
      rw [ctx, Ctx.ctl_landed]
      simp [Ctx.applyWrite, Ctx.applyFlags]
    exact ⟨t, landed, by rw [desc, if_pos rfl], fun k hk => by rw [desc, if_neg hk],
      State.sameRegs_of_ctx (by rw [ctx, Ctx.regs_landed, Ctx.applyWrite, Ctx.regs_popDue]) other⟩
  · obtain ⟨t, landed, ctx, other, mem⟩ := State.landDue_plain only due eff trivial array result
    have tile : ∀ k o, (t.ctx n).tileByte k o = ((s.ctx n).popDue.setTileBytes i ws).tileByte k o := fun k o => by
      rw [ctx, Ctx.tileByte, Ctx.mat_landed, Ctx.applyWrite, Ctx.tileByte]
    refine ⟨t, landed, fun w hw => by rw [tile, Ctx.tileByte_setTileBytes_mem ws within once hw], fun k o ho out => ?_,
      State.sameRegs_of_ctx (by rw [ctx, Ctx.regs_landed, Ctx.applyWrite, Ctx.regs_setTileBytes, Ctx.regs_popDue]) other⟩
    rw [tile, Ctx.tileByte_setTileBytes_other ho ws within out, Ctx.tileByte, Ctx.mat_popDue, Ctx.tileByte]
  · obtain ⟨t, landed, ctx, other, mem⟩ := State.landDue_plain only due eff trivial array result
    have ctl : (t.ctx n).ctl = ((s.ctx n).popDue.addDamage sat zeroed sac).ctl :=
      (congrArg Ctx.ctl ctx).trans (Ctx.ctl_landed ..)
    refine ⟨t, landed, State.sameRegs_of_ctx (by rw [ctx, Ctx.regs_landed, Ctx.applyWrite, Ctx.regs_popDue])
        other, ?_, ?_, ?_⟩
    all_goals
      rw [ctl, ← Ctx.ctl_popDue (s.ctx n)]
      exact toNat_addTotal ..
  · obtain ⟨t, landed, ctx, -⟩ := State.landDue_plain only due eff trivial (Ctx.awaitsArray_of_eff eff nofun) result
    have p : ∀ k, k < 32 → (t.ctx n).p k = if k = d then (d == 0 || b) else (s.ctx n).p k := fun k hk => by
      rw [ctx, Ctx.p_of_regs (Ctx.regs_landed ..), Ctx.applyWrite, Ctx.p_setP hd hk, Ctx.p_of_regs (Ctx.regs_popDue _)]
    exact ⟨t, landed, by rw [p d hd, if_pos rfl], fun k hk ne => by rw [p k hk, if_neg ne]⟩
  · obtain ⟨t, landed, ctx, -⟩ := State.landDue_plain only due eff trivial (Ctx.awaitsArray_of_eff eff nofun) result
    have q : ∀ k, (t.ctx n).q k = if k = d then (if d = 0 then BitVec.allOnes 128 else ((s.ctx n).q d &&& ~~~m) |||
        (v &&& m))
        else (s.ctx n).q k := fun k => by
      rw [ctx, Ctx.q_of_regs (Ctx.regs_landed ..), Ctx.applyWrite, Ctx.q_setQ, Ctx.q_of_regs (Ctx.regs_popDue _),
        Ctx.q_of_regs (Ctx.regs_popDue _)]
    exact ⟨t, landed, by rw [q, if_pos rfl], fun k ne => by rw [q, if_neg ne]⟩
  · obtain ⟨t, landed, ctx, -⟩ := State.landDue_plain only due eff trivial (Ctx.awaitsArray_of_eff eff nofun) result
    have lane : ∀ k i, (t.ctx n).lane k i = ((s.ctx n).popDue.setLanes d ws).lane k i := fun k i => by
      rw [ctx, Ctx.lane_of_regs (Ctx.regs_landed ..), Ctx.applyWrite]
    refine ⟨t, landed, fun w hw => ?_, fun k i hi out => ?_, ?_⟩
    · rw [lane, Ctx.lane_setLanes_mem ws within once hw, Ctx.lane_of_regs (Ctx.regs_popDue _)]
    · rw [lane, Ctx.lane_setLanes_other hi ws within out, Ctx.lane_of_regs (Ctx.regs_popDue _)]
    · rw [ctx, Ctx.ctl_landed]
      show ((s.ctx n).popDue.setLanes d ws).ctl.fpstat ||| fl = _
      rw [Ctx.ctl_setLanes, Ctx.ctl_popDue]
end

section
/-!
PROOFS. Scratchpad accesses and landed data at their due bundle (R190, R201; O31).
-/
namespace Sys2Proof.Machine
open Sys2Proof

/-! ## Bytes of the window after a store -/

theorem State.spByte_setSpByte (s : State) (n : Nat) (w : Nat × Byte) (x : Nat) :
    (s.setSpByte n w).spByte n x = if x = w.1 then w.2 else s.spByte n x := by
  have key : (s.ctx n).id.spBase + x = (s.ctx n).id.spBase + w.1 ↔ x = w.1 := by omega
  have kept : ((s.setSpByte n w).ctx n) = s.ctx n := rfl
  simp only [State.spByte, kept]
  simp only [State.setSpByte, State.onCore_eq, State.core_setCore, if_true, lookupD_sparseSet, key]

theorem State.spByte_setSpBytes_other {n x : Nat} (ws : List (Nat × Byte)) (out : ∀ w ∈ ws, w.1 ≠ x) (s : State) :
    (s.setSpBytes n ws).spByte n x = s.spByte n x :=
  List.foldlRecOn (motive := fun t : State => t.spByte n x = s.spByte n x) ws _ rfl fun t e w hw => by
    rw [State.spByte_setSpByte, if_neg (out w hw).symm, e]

/-- Of several writes of a byte the last one stands. -/
theorem State.spByte_setSpBytes_last {n : Nat} (old new : List (Nat × Byte)) (w : Nat × Byte) (last : ∀ y ∈ new, y.1 ≠ w.1)
    (s : State) : (s.setSpBytes n (old ++ w :: new)).spByte n w.1 = w.2 := by
  have split : s.setSpBytes n (old ++ w :: new) = ((s.setSpBytes n old).setSpByte n w).setSpBytes n new := by
    simp [State.setSpBytes, List.foldl_append]
  rw [split, State.spByte_setSpBytes_other new last, State.spByte_setSpByte, if_pos rfl]

theorem length_storeBytes (a n v : Nat) : (storeBytes a n v).length = n := by simp [storeBytes, natBytes]

theorem getElem_storeBytes {a n v i : Nat} (hi : i < (storeBytes a n v).length) :
    (storeBytes a n v)[i] = (a + i, (natBytes n v).getD i 0) := by
  have small : i < n := length_storeBytes a n v ▸ hi
  simp [storeBytes, natBytes, small, List.getD_eq_getElem?_getD]

theorem mem_storeBytes {a n v : Nat} {w : Nat × Byte} (hw : w ∈ storeBytes a n v) : ∃ i, i < n ∧ w.1 = a + i := by
  obtain ⟨i, hi, rfl⟩ := List.getElem_of_mem hw
  exact ⟨i, length_storeBytes a n v ▸ hi, by rw [getElem_storeBytes]⟩

/-- The writes of a store up to one of its bytes, that byte, and the writes of other bytes. -/
theorem storeBytes_split {n i : Nat} (hi : i < n) (a v : Nat) : ∃ old new,
    storeBytes a n v = old ++ (a + i, (natBytes n v).getD i 0) :: new ∧ ∀ y ∈ new, y.1 ≠ a + i := by
  have len : i < (storeBytes a n v).length := by rwa [length_storeBytes]
  refine ⟨(storeBytes a n v).take i, (storeBytes a n v).drop (i + 1), ?_, fun y hy => ?_⟩
  · rw [← getElem_storeBytes len, ← List.drop_eq_getElem_cons len, List.take_append_drop]
  · obtain ⟨j, hj, rfl⟩ := List.getElem_of_mem hy
    rw [List.getElem_drop, getElem_storeBytes]
    show a + (i + 1 + j) ≠ a + i
    omega

/-! ## A store that is due -/

theorem bySlot_singleton {e : Deferred} (slot : e.slot < 7) : bySlot [e] = [e] := by
  have cases : e.slot = 0 ∨ e.slot = 1 ∨ e.slot = 2 ∨ e.slot = 3 ∨ e.slot = 4 ∨ e.slot = 5 ∨ e.slot = 6 := by omega
  rcases cases with h | h | h | h | h | h | h <;> simp [bySlot, h, List.range_succ]

theorem State.spByte_onCtx {f : Ctx → Ctx} (keep : ∀ c, (f c).id = c.id) (s : State) (n m x : Nat) :
    (s.onCtx n f).spByte m x = s.spByte m x := by
  have id : ((s.onCtx n f).ctx m).id = (s.ctx m).id := by
    rw [State.onCtx_eq, State.ctx_setCtx]
    split
    next h => rw [keep, h]
    next => rfl
  rw [State.spByte, id]
  rfl

theorem Ctx.id_completeSignal (c : Ctx) (sig : Option Nat) : (c.completeSignal sig).id = c.id := by cases sig <;> rfl

theorem Ctx.regs_shadowStores (c : Ctx) (lvl : Bool) (d : Deferred) (ws : List (Nat × Byte)) :
    (c.shadowStores lvl d ws).regs = c.regs := rfl

theorem State.regs_applyStore (s : State) (n : Nat) (lvl : Bool) (e : Deferred) (m : Nat) :
    ((s.applyStore n lvl e).ctx m).regs = (s.ctx m).regs := by
  unfold State.applyStore
  split
  next => rfl
  next =>
    rw [State.regs_onCtx _ _ _ fun c => Ctx.regs_shadowStores c _ _ _, State.ctx_setSpBytes]

theorem State.spByte_applyStore (s : State) (n : Nat) (lvl : Bool) (e : Deferred) (x : Nat) :
    (s.applyStore n lvl e).spByte n x = (s.setSpBytes n e.eff.stores).spByte n x := by
  unfold State.applyStore
  split
  next none => rw [none]; rfl
  next =>
    rw [State.spByte_onCtx]
    exact fun c => rfl

theorem State.spByte_setSpBytes_congr {s t : State} {n : Nat} (same : ∀ x, t.spByte n x = s.spByte n x) (ws : List
    (Nat × Byte))
    (x : Nat) : (t.setSpBytes n ws).spByte n x = (s.setSpBytes n ws).spByte n x := by
  induction ws generalizing s t with
  | nil => exact same x
  | cons w ws ih => exact ih fun y => by rw [State.spByte_setSpByte, State.spByte_setSpByte, same]

/-- What a store that lands alone leaves: its bytes in the window, and every register. -/
theorem State.landEntries_store {e : Deferred} {ents size ea : Nat} {ws : List (Nat × Nat × Nat)} (slot : e.slot < 7)
    (eff : e.eff = .store ents size ea ws) (s : State) (n : Nat) :
    s.sameRegs (s.landEntries n [e]) ∧
      ∀ x, (s.landEntries n [e]).spByte n x = (s.setSpBytes n e.eff.stores).spByte n x := by
  have one : sortKey (fun d : Deferred => 8 * d.seq + d.slot) [e] = [e] := rfl
  have read : s.readEffect n e.eff = e.eff := by rw [eff]; rfl
  have write : ∀ c : Ctx, c.applyWrite e.eff = c := fun c => by rw [eff]; rfl
  have flags : ∀ c : Ctx, c.applyFlags e.eff = c := fun c => by rw [eff]; rfl
  simp only [State.landEntries, one, bySlot_singleton slot, List.map_cons, List.map_nil, List.foldl_cons, List.foldl_nil, read,
    write, flags]
  refine ⟨fun m => ?_, fun x => ?_⟩
  · rw [State.regs_onCtx _ _ _ fun c => Ctx.regs_completeSignal c _, State.regs_onCtx _ _ _
      fun c => rfl, State.regs_applyStore,
      State.regs_onCtx _ _ _ fun c => Ctx.regs_onLevel c _, State.regs_onCtx _ _ _ fun c => rfl]
  · rw [State.spByte_onCtx fun c => Ctx.id_completeSignal c _, State.spByte_onCtx fun c => rfl, State.spByte_applyStore]
    refine State.spByte_setSpBytes_congr (fun x => ?_) _ x
    rw [State.spByte_onCtx fun c => Ctx.id_onLevel c _, State.spByte_onCtx fun c => rfl]

section
variable {s : State} {n : Nat} {e : Deferred} (only : (s.ctx n).level.deferred = [e]) (due : e.due ≤ (s.ctx n).level.count)
include only due

theorem State.landDue_store {ents size ea : Nat} {ws : List (Nat × Nat × Nat)} (slot : e.slot < 7)
    (eff : e.eff = .store ents size ea ws) :
    ∃ t, s.landDue n = .landed t ∧ s.sameRegs t ∧ ∀ x, t.spByte n x = (s.setSpBytes n e.eff.stores).spByte n x := by
  have reads : e.eff.reads = [] := by rw [eff]; rfl
  obtain ⟨regs, bytes⟩ := State.landEntries_store slot eff (s.onCtx n Ctx.popDue) n
  refine ⟨_, State.landDue_single only due (by rw [Ctx.dataArrived, eff]) (by simp [Ctx.awaitsTile, reads])
    (Ctx.awaitsArray_of_eff eff nofun) (by simp [Ctx.awaitsResult, eff, Effect.target]) (by simp [State.readsBad, reads]),
    fun m => ?_, fun x => ?_⟩
  · rw [regs, State.regs_onCtx _ _ _ Ctx.regs_popDue]
  · rw [bytes]
    exact State.spByte_setSpBytes_congr (fun x => State.spByte_onCtx Ctx.id_popDue ..) _ x

/-- A load that is due reads the window as it stands. -/
theorem State.landDue_load {x : Effect} (idle : (s.ctx n).mat.queue = [])
    (load : (∃ d ty a, e.eff = .loadScalar d ty a) ∨ ∃ ents ea d ty as, e.eff = .loadLanes ents ea d ty as)
    (good : ∀ a ∈ e.eff.reads, s.spBad n a = false) (read : s.readEffect n e.eff = x) :
    ∃ t, s.landDue n = .landed t ∧ (t.ctx n).regs = ((s.ctx n).popDue.applyWrite x).regs := by
  have free : (s.ctx n).arrayTargets = [] := by simp [Ctx.arrayTargets, idle]
  have kept : (s.onCtx n Ctx.popDue).readEffect n e.eff = s.readEffect n e.eff := by
    have bytes : ∀ a len, (s.onCtx n Ctx.popDue).spBytes n a len = s.spBytes n a len := fun a len => by
      simp only [State.spBytes, State.spByte_onCtx Ctx.id_popDue]
    cases e.eff with
    | loadScalar | loadLanes => simp only [State.readEffect, bytes]
    | _ => rfl
  have plain : (s.ctx n).dataArrived e = true ∧ (s.ctx n).awaitsArray e = false ∧ e.eff.stores = [] := by
    obtain ⟨d, ty, a, eff⟩ | ⟨ents, ea, d, ty, as, eff⟩ := load
    all_goals exact ⟨by rw [Ctx.dataArrived, eff], Ctx.awaitsArray_of_eff eff nofun, by rw [eff]; rfl⟩
  obtain ⟨arrived, array, stores⟩ := plain
  obtain ⟨t, landed, ctx, -⟩ := State.landDue_storeless only due arrived (by simp [Ctx.awaitsTile, idle]) array
    (by simp [Ctx.awaitsResult, free]) (by simpa [State.readsBad] using good) stores
  exact ⟨t, landed, by rw [ctx, Ctx.regs_landed, kept, read]⟩

end

/-- The lanes that a load writes. -/
def State.loadWrites (s : State) (n ty : Nat) (as : List (Nat × Nat)) : List LaneWrite :=
  as.map fun p => (p.1, 0xFFFFFFFF, (loadedValue ty (s.spBytes n p.2 (typeBytes ty))).extractLsb' 0 32)

theorem whole_lane (x y : Word) : (x &&& ~~~(0xFFFFFFFF : Word)) ||| (y &&& (0xFFFFFFFF : Word)) = y := by
  show (x &&& ~~~BitVec.allOnes 32) ||| (y &&& BitVec.allOnes 32) = y
  rw [BitVec.not_allOnes, BitVec.and_zero, BitVec.and_allOnes, BitVec.zero_or]

end Sys2Proof.Machine
open Sys2Proof Sys2Proof.Machine

/-- Settles O31. -/
theorem dueAccessesLand : Obligations.DueAccessesLand := by
  refine ⟨⟨fun s n e ents size ea ws only due slot eff => ?_, fun s n e d ty a only due slot idle eff good => ?_⟩,
    fun s n e ents ea d ty as only due slot idle eff within once good => ?_,
    fun s n e l d v only due slot eff landings words vector free => ⟨fun away => ?_, fun here => ?_⟩⟩
  · obtain ⟨t, landed, regs, bytes⟩ := State.landDue_store only due slot eff
    have stores : e.eff.stores = ws.flatMap fun w => storeBytes w.2.1 size w.2.2 := by rw [eff]; rfl
    refine ⟨t, landed, regs, fun x out => ?_, fun old w new i split hi last => ?_⟩
    · rw [bytes, State.spByte_setSpBytes_other]
      intro y hy
      obtain ⟨w, hw, hy⟩ := List.mem_flatMap.1 (stores ▸ hy)
      obtain ⟨i, hi, e⟩ := mem_storeBytes hy
      exact fun h => out w hw ⟨by omega, by omega⟩
    · obtain ⟨first, rest, bytesSplit, once⟩ := storeBytes_split hi w.2.1 w.2.2
      have writes : e.eff.stores = (old.flatMap (fun w => storeBytes w.2.1 size w.2.2) ++ first) ++
          (w.2.1 + i, (natBytes size w.2.2).getD i 0) :: (rest ++ new.flatMap fun w => storeBytes w.2.1 size w.2.2) := by
        simp [stores, split, bytesSplit]
      rw [bytes, writes]
      refine State.spByte_setSpBytes_last _ _ _ (fun y hy => ?_) s
      obtain hy | hy := List.mem_append.1 hy
      · exact once y hy
      · obtain ⟨z, hz, hy⟩ := List.mem_flatMap.1 hy
        obtain ⟨j, hj, e⟩ := mem_storeBytes hy
        exact fun h => last z hz ⟨by omega, by omega⟩
  · have readable : ∀ x ∈ e.eff.reads, s.spBad n x = false := fun x hx => by
      rw [eff] at hx
      obtain ⟨i, hi, rfl⟩ := List.mem_map.1 hx
      exact good i (List.mem_range.1 hi)
    obtain ⟨t, landed, regs⟩ := State.landDue_load only due idle (.inl ⟨d, ty, a, eff⟩)
      (x := .scalar d (loadedValue ty (s.spBytes n a (typeBytes ty))) 0) readable (by rw [eff]; rfl)
    refine ⟨t, landed, ?_, fun k hk => ?_⟩
    · rw [Ctx.s_of_regs regs, Ctx.applyWrite, Ctx.s_setS, if_pos rfl]
      rfl
    · rw [Ctx.s_of_regs regs, Ctx.applyWrite, Ctx.s_setS, if_neg hk, Ctx.s_of_regs (Ctx.regs_popDue _)]
  · have readable : ∀ x ∈ e.eff.reads, s.spBad n x = false := fun x hx => by
      rw [eff] at hx
      obtain ⟨p, hp, hx⟩ := List.mem_flatMap.1 hx
      obtain ⟨i, hi, rfl⟩ := List.mem_map.1 hx
      exact good p hp i (List.mem_range.1 hi)
    obtain ⟨t, landed, regs⟩ := State.landDue_load only due idle (.inr ⟨ents, ea, d, ty, as, eff⟩)
      (x := .vector d (s.loadWrites n ty as) 0) readable (by rw [eff]; rfl)
    have lane : ∀ k i, (t.ctx n).lane k i = ((s.ctx n).popDue.setLanes d (s.loadWrites n ty as)).lane k i :=
      fun k i => Ctx.lane_of_regs regs k i
    have inside : ∀ w ∈ s.loadWrites n ty as, w.1 < 128 := fun w hw => by
      obtain ⟨p, hp, rfl⟩ := List.mem_map.1 hw
      exact within p hp
    refine ⟨t, landed, fun p hp => ?_, fun k i hi out => ?_⟩
    · have mem : (p.1, (0xFFFFFFFF : Word), _) ∈ s.loadWrites n ty as := List.mem_map.2 ⟨p, hp, rfl⟩
      rw [lane, Ctx.lane_setLanes_mem _ inside (by simpa [State.loadWrites, Function.comp_def] using once) mem]
      exact whole_lane _ _
    · rw [lane, Ctx.lane_setLanes_other hi _ inside (out.imp_right fun h w hw => ?_), Ctx.lane_of_regs (Ctx.regs_popDue _)]
      obtain ⟨p, hp, rfl⟩ := List.mem_map.1 hw
      exact h p hp
  · have now : (s.ctx n).dueNow = [e] := by simp [Ctx.dueNow, only, due]
    simp [State.landDue, now, Ctx.dataArrived, eff, landings, away]
  · obtain ⟨t, landed, ctx, -⟩ := State.landDue_storeless only due (by simp [Ctx.dataArrived, eff, landings, here])
      (by simp [Ctx.awaitsTile, eff, Effect.reads]) (Ctx.awaitsArray_of_eff eff nofun) free
      (by simp [State.readsBad, eff, Effect.reads]) (by rw [eff]; rfl)
    have write : (s.ctx n).popDue.applyWrite (.landing l.id) =
        { (s.ctx n).popDue.setS d v with port := { (s.ctx n).popDue.port with landings := [] } } := by
      simp [Ctx.applyWrite, landings, Ctx.writeLanding, words, vector]
    have read : (s.onCtx n Ctx.popDue).readEffect n e.eff = .landing l.id := by rw [eff]; rfl
    rw [read] at ctx
    refine ⟨t, landed, ?_, ?_⟩
    · rw [ctx, Ctx.s_of_regs (Ctx.regs_landed ..), write]
      exact (Ctx.s_setS ..).trans (if_pos rfl)
    · rw [ctx, Ctx.landings_landed, write]
end

section
/-!
PROOFS. An access that is the only work of its port: how it begins, and what its completion leaves (R43, R195, R200, R243;
O35 to O37, O41).
-/
namespace Sys2Proof.Machine
open Sys2Proof

variable {s : State} {n pa : Nat} {r : PortReq} {emb : Bool}

/-! ## The beginning of an access -/

/-- The entry of a request that has been sent. -/
def PortReq.sent (r : PortReq) : PortReq := { r with landing := r.slots != 0 }

/-- `t` is `s` with `q` as the one entry of the port of `n`, but for lines of L1 caches, of which the core of `n` has none, and
what the port has acquired. -/
structure State.Begun (s t : State) (n : Nat) (q : PortReq) : Prop where
  parts : ∃ cs ks, t = { s with ctxs := cs, cores := ks }
  ctx   : ∃ acq, t.ctx n = { s.ctx n with port := { (s.ctx n).port with queue := [q], acquired := acq } }
  tlb   : ∀ m, (t.core m).tlb = (s.core m).tlb
  l1    : (t.core (coreOf n)).l1 = []
  waits : ∀ k, t.waitsAt k ≤ s.waitsAt k

theorem State.quiet.entry (quiet : s.quiet n r) : s.entry n r.id = some r := by
  obtain ⟨queue, -⟩ := quiet
  simp [State.entry, queue]

theorem State.quiet.mayPerform (quiet : s.quiet n r) : s.mayPerform n r = true := by
  obtain ⟨queue, list, state, mute, landings, lv0, lv1, stage, landing, done, fails, walks, dests, waiters, l1⟩ := quiet
  have parked : s.isParked (.port n r.id) = false := by simp [State.isParked, walks]
  have free : s.isBlocked n r = false := by
    simp [State.isBlocked, Ctx.issuedBefore, Ctx.before, queue, list]
  have reserves : r.reserves ≤ 16 := by
    unfold PortReq.reserves
    split
    · omega
    · split <;> omega
  have slots : r.slots ≤ 8 := by
    unfold PortReq.slots
    split <;> omega
  have room : (s.ctx n).landingRoom r.slots = true := by
    simp [Ctx.landingRoom, Ctx.landingUsed, Ctx.landingReserved, Ctx.allDeferred, queue, list, landings, lv0, lv1, landing, sumOf]
    omega
  simp [State.mayPerform, state, stage, parked, free, room]

theorem State.covers_of_tlbHit {p : Path} {vf va : Nat} {e : TlbEntry} (hit : s.tlbHit p vf va = some e) :
    e.covers vf va = true := by
  obtain h | ⟨-, h⟩ := Option.or_eq_some_iff.1 hit
  · simpa using List.find?_some h
  · simpa using List.find?_some h

/-- A byte of the access is translated. -/
theorem State.mapsTo.xlate (maps : s.mapsTo n r pa emb) {off : Nat} (ho : off < r.size) :
    s.xlatePort n r off = .ok (pa + off) emb := by
  obtain ⟨pos, e, allowed, at', hits⟩ := maps
  obtain ⟨hit, region⟩ := hits off ho
  have below : e.va ≤ r.addr.toNat := by
    have covers := State.covers_of_tlbHit (hits 0 pos).1
    simp [TlbEntry.covers] at covers
    omega
  have shifted : e.pa + (r.addr.toNat + off - e.va) = pa + off := by omega
  simp only [State.xlatePort, State.xlate, hit, allowed, region, shifted]

/-- Translation reads the translation buffers and the regions of the VF. -/
theorem State.Begun.xlatePort {t : State} {q : PortReq} (begun : s.Begun t n q) (addr : q.addr = r.addr) (need :
    q.need = r.need)
    (off : Nat) : t.xlatePort n q off = s.xlatePort n r off := by
  obtain ⟨⟨cs, ks, rfl⟩, ⟨acq, ctx⟩, tlb, -⟩ := begun
  have micro : ∀ p, State.micro { s with ctxs := cs, cores := ks } p = s.micro p := fun p => by
    unfold State.micro
    cases p.core with
    | none => rfl
    | some c => exact tlb c
  have id : (State.ctx { s with ctxs := cs, cores := ks } n).id = (s.ctx n).id := by rw [ctx]
  have region : ∀ vf va, State.region { s with ctxs := cs, cores := ks } vf va = s.region vf va := fun _ _ => rfl
  have shared : ∀ p, State.shared { s with ctxs := cs, cores := ks } p = s.shared p := fun _ => rfl
  simp only [State.xlatePort, State.xlate, State.tlbHit, micro, id, region, shared, addr, need]

/-- The waits of a context at a slice. -/
def Ctx.waitsAt (c : Ctx) (k : Nat) : Nat := (c.port.queue.filter fun r => r.isWaitingWta && sliceOf r.pa == k).length

theorem State.waitsAt_eq (s : State) (k : Nat) : s.waitsAt k = (s.ctxs.map fun p => p.2.waitsAt k).sum :=
  List.sum_eq_foldl_nat.symm

theorem sum_putPair {α : Type} (g : α → Nat) (k : Nat) (v : α) (l : List (Nat × α)) :
    ((putPair k v l).map fun p => g p.2).sum = g v + (l.map fun p => g p.2).sum := by
  induction l with
  | nil => rfl
  | cons p l ih =>
    rw [putPair]
    split
    · rfl
    · simp only [List.map_cons, List.sum_cons, ih]
      omega

/-- A context that waits nowhere adds no waits. -/
theorem State.waitsAt_setCtx (s : State) (n k : Nat) {c : Ctx} (idle : c.waitsAt k = 0) :
    (s.setCtx n c).waitsAt k ≤ s.waitsAt k := by
  rw [State.waitsAt_eq, State.waitsAt_eq]
  refine (sum_putPair (fun c => c.waitsAt k) n c (dropKey n s.ctxs)).le.trans ?_
  rw [idle, Nat.zero_add]
  exact (List.filter_sublist.map _).sum_le_sum fun a _ => Nat.zero_le a

theorem Ctx.waitsAt_only {c : Ctx} {q : PortReq} (queue : c.port.queue = [q]) (idle : q.isWaitingWta = false) (k : Nat) :
    c.waitsAt k = 0 := by
  simp [Ctx.waitsAt, queue, idle]

theorem State.quiet.begun (quiet : s.quiet n r) : s.Begun ((s.beginAccess n).sendEntry n r.id) n r.sent := by
  obtain ⟨queue, list, state, mute, landings, lv0, lv1, stage, landing, done, fails, walks, dests, waiters, l1⟩ := quiet
  have one : ∀ p : Port, p.queue = [r] → (p.change r.id fun q => { q with landing := q.slots != 0 }) =
      { p with queue := [r.sent] } := fun p h => by simp [Port.change, h, PortReq.sent]
  have core : ∀ m, ((s.acquire n).core m).tlb = (s.core m).tlb ∧ ((s.acquire n).core (coreOf n)).l1 = [] := fun m => by
    simp only [State.acquire, State.onCore_eq, State.core_setCore, if_true, Core.staleIf, l1, List.map_nil, and_true]
    split
    next h => rw [h]
    next => rfl
  have idle : ∀ q : PortReq, q.stage = .pending → q.isWaitingWta = false := fun q h => by simp [PortReq.isWaitingWta, h]
  unfold State.beginAccess State.sendEntry
  split
  next acquired =>
    refine ⟨⟨_, _, rfl⟩, ⟨false, ?_⟩, fun m => (core m).1, (core 0).2, fun k => ?_⟩
    · rw [State.ctx_onCtx_same, State.ctx_onCtx_same]
      exact congrArg (fun p => { s.ctx n with port := p }) (one { (s.ctx n).port with acquired := false } queue)
    · refine (State.waitsAt_setCtx _ n k (Ctx.waitsAt_only (q := r.sent) ?_ (idle _ stage) k)).trans
        (State.waitsAt_setCtx (s.acquire n) n k (Ctx.waitsAt_only (q := r) queue (idle _ stage) k))
      rw [State.ctx_onCtx_same]
      exact congrArg Port.queue (one { (s.ctx n).port with acquired := false } queue)
  next open' =>
    refine ⟨⟨_, _, rfl⟩, ⟨(s.ctx n).port.acquired, ?_⟩, fun m => rfl, l1, fun k => ?_⟩
    · rw [State.ctx_onCtx_same]
      exact congrArg (fun p => { s.ctx n with port := p }) (one _ queue)
    · exact State.waitsAt_setCtx s n k (Ctx.waitsAt_only (q := r.sent) (congrArg Port.queue (one _ queue)) (idle _ stage) k)

/-! ## An access that is performed -/

/-- What uses of translations and visits of the L2 leave: all but cores, translation buffers and the L2. -/
def State.FinishedAs (t u : State) : Prop := ∃ cs ts l, u = { t with cores := cs, tlbs := ts, l2 := l }

theorem State.performing_quiet (quiet : s.quiet n r) (maps : s.mapsTo n r pa emb) (k : PortReq → State → State)
    (settled : ∀ t, s.Begun t n r.sent → ∀ q ∈ ((k r t).ctx n).port.queue, q.fence? = none) :
    ∃ t u, s.Begun t n r.sent ∧ s.performing n r.id k = .next u ∧ (k r t).FinishedAs u ∧
      u.l2 = (k r t).l2 := by
  have last : r.size - 1 < r.size := Nat.sub_lt maps.1 Nat.one_pos
  have missing : s.missingPort n r = none := by
    simp [State.missingPort, maps.xlate maps.1, maps.xlate last]
  have violation : s.violationPort n r = none := by
    simp [State.violationPort, maps.xlate maps.1, maps.xlate last]
  obtain ⟨cs, ts, touched⟩ := State.touchAll_eq (k r ((s.beginAccess n).sendEntry n r.id)) (corePath (coreOf n))
      (s.ctx n).id.vf
    [r.addr.toNat, r.addr.toNat + r.size - 1]
  refine ⟨_, { k r ((s.beginAccess n).sendEntry n r.id) with cores := cs, tlbs := ts }, quiet.begun, ?_,
    ⟨cs, ts, _, rfl⟩, rfl⟩
  simp only [State.performing, quiet.entry, quiet.mayPerform, missing, violation, touched]
  exact congrArg Host.Outcome.next (State.settlePort_eq (settled _ quiet.begun))

/-! ## An operation of the home agent -/

theorem State.releaseFirst_empty {t : State} (l1 : (t.core (coreOf n)).l1 = []) : t.releaseFirst n r = t := by
  unfold State.releaseFirst State.flushCtx State.writeBackIf
  rw [l1]
  split <;> rfl

theorem State.syncLine_empty {t : State} (l1 : (t.core (coreOf n)).l1 = []) : t.syncLine n pa = t := by
  simp [State.syncLine, Core.l1Line, l1]

theorem State.quiet.releaseReady (quiet : s.quiet n r) : s.releaseReady n r = true := by
  obtain ⟨-, -, -, -, -, -, -, -, -, -, -, -, -, -, l1⟩ := quiet
  simp [State.releaseReady, State.canFlush, State.canWriteBack, l1]

theorem State.isHeld_of_none {t : State} (dests : t.dests = []) (len : Nat) : t.isHeld pa len = false := by
  simp [State.isHeld, dests]

/-- Lines of an L1 without lines dropped: the access stays begun. -/
theorem State.Begun.onCore {t : State} {q : PortReq} (begun : s.Begun t n q) {f : Core → Core} (tlb : ∀ k, (f k).tlb = k.tlb)
    (l1 : ∀ k, k.l1 = [] → (f k).l1 = []) : s.Begun (t.onCore (coreOf n) f) n q := by
  obtain ⟨⟨cs, ks, parts⟩, ctx, tlb', l1', waits⟩ := begun
  refine ⟨⟨cs, _, by rw [parts]; rfl⟩, ctx, fun m => ?_, ?_, waits⟩
  · rw [State.onCore_eq, State.core_setCore]
    split
    next h => rw [tlb, h, tlb']
    next => exact tlb' m
  · rw [State.onCore_eq, State.core_setCore, if_pos rfl]
    exact l1 _ l1'

theorem State.Begun.purgeLine {t : State} {q : PortReq} (begun : s.Begun t n q) (pa : Nat) : s.Begun
    (t.purgeLine n pa) n q := by
  rw [State.purgeLine, State.syncLine_empty begun.l1]
  exact begun.onCore (fun k => rfl) fun k e => by rw [e]; rfl

theorem State.Begun.isBad {t : State} {q : PortReq} (begun : s.Begun t n q) (pa len : Nat) :
    t.isBad pa len = s.isBad pa len := by
  obtain ⟨cs, ks, rfl⟩ := begun.parts
  rfl

/-- What the home agent does for an access on an ordinary page: ECC where its data hold an uncorrectable error. -/
theorem State.atHome_quiet (quiet : s.quiet n r) (maps : s.mapsTo n r pa false) (k : PortReq → Nat → State → State)
    {bad : Bool}
    (isBad : s.isBad pa r.size = bad)
    (settled : ∀ t, s.Begun t n r.sent → ∀ q ∈
        ((if bad then t.portFault n r.id ⟨.ecc, 0⟩ else k r pa t).ctx n).port.queue, q.fence? = none) :
    ∃ t u, s.Begun t n r.sent ∧ s.atHome n r.id k = .next u ∧
      (if bad then t.portFault n r.id ⟨.ecc, 0⟩ else k r pa t).FinishedAs u := by
  have dests : s.dests = [] := by
    obtain ⟨-, -, -, -, -, -, -, -, -, -, -, -, dests, -, -⟩ := quiet
    exact dests
  have here : s.xlatePort n r 0 = .ok pa false := maps.xlate maps.1
  have body : ∀ t, s.Begun t n r.sent → (match t.xlatePort n r 0 with
      | .ok _ true => t.portFault n r.id (permInfo 0x20)
      | .ok pa false =>
        let t := (t.releaseFirst n r).purgeLine n pa
        t.visitOp (if t.isBad pa r.size then t.portFault n r.id ⟨.ecc, 0⟩ else k r pa t) n r pa
      | _ => t) = (t.purgeLine n pa).visitOp (if bad then (t.purgeLine n pa).portFault n r.id ⟨.ecc, 0⟩
        else k r pa (t.purgeLine n pa)) n r pa := fun t begun => by
    have there : t.xlatePort n r 0 = .ok pa false := (begun.xlatePort rfl rfl 0).trans here
    simp only [there, State.releaseFirst_empty begun.l1, (begun.purgeLine pa).isBad, isBad]
  obtain ⟨t, u, begun, run, finished, -⟩ := State.performing_quiet quiet maps (fun q s => match s.xlatePort n q 0 with
    | .ok _ true => s.portFault n r.id (permInfo 0x20)
    | .ok pa false =>
      let s := (s.releaseFirst n q).purgeLine n pa
      s.visitOp (if s.isBad pa q.size then s.portFault n r.id ⟨.ecc, 0⟩ else k q pa s) n q pa
    | _ => s) (fun t begun => by
      rw [body t begun]
      exact settled _ (begun.purgeLine pa))
  refine ⟨t.purgeLine n pa, u, begun.purgeLine pa, ?_, ?_⟩
  · rw [← run]
    simp only [State.atHome, quiet.entry, quiet.releaseReady, here, State.isHeld_of_none dests]
    rfl
  · rw [body t begun] at finished
    obtain ⟨cs, ts, l, rfl⟩ := finished
    exact ⟨cs, ts, l, rfl⟩

/-! ## Answers -/

theorem Ctx.acquiredBy_keeps (c : Ctx) (r : PortReq) (emb : Bool) :
    (c.acquiredBy r emb).regs = c.regs ∧ (c.acquiredBy r emb).port.queue = c.port.queue ∧
      (c.acquiredBy r emb).port.landings = c.port.landings := by
  unfold Ctx.acquiredBy
  dsimp only
  generalize (r.acquires emb && ((match r.work with
    | .op (.wta _ _) => true
    | _ => emb) || decide (2 ≤ r.scope))) = b
  cases b <;> exact ⟨rfl, rfl, rfl⟩

/-- The answer to the one entry of a port that holds a landing entry. -/
theorem Ctx.respond_only {c : Ctx} {q : PortReq} {l : Landing} (queue : c.port.queue = [q]) (id : q.id = l.id)
    (held : q.landing = true) (landings : c.port.landings = []) (alive : c.life.mute = false) (kept :
        c.life.state ≠ .draining) :
    c.respond l = { c with port := { c.port with queue := [], landings := [{ l with wta := q.isWta }] } } := by
  simp [Ctx.respond, queue, id, held, landings, alive, kept]

/-- The answer to an access, and what its context keeps. -/
theorem State.respondWord_only {t : State} {q : PortReq} (queue : (t.ctx n).port.queue = [q]) (id : q.id = r.id)
    (held : q.landing = true) (wta : q.isWta = r.isWta) (landings : (t.ctx n).port.landings = [])
    (alive : (t.ctx n).life.mute = false) (kept : (t.ctx n).life.state ≠ .draining) (v : Dword) :
    t.answered (t.respondWord n r v) n r [(r.dest, v)] := by
  obtain ⟨regs, queue', landings'⟩ := Ctx.acquiredBy_keeps ((t.ctx n).respond { id := r.id, words := [(r.dest, v)] }) r false
  have answer := Ctx.respond_only (l := { id := r.id, words := [(r.dest, v)] }) queue id held landings alive kept
  unfold State.answered State.respondWord
  rw [State.ctx_onCtx_same, queue', landings', regs, answer, wta]
  exact ⟨rfl, rfl, rfl⟩

theorem Ctx.wakeWta_idle {c : Ctx} (idle : ∀ e ∈ c.port.queue, e.isWaitingWta = false) (hit : Nat → Bool) (read :
    Nat → Dword) :
    c.wakeWta hit read = c := by
  refine List.foldlRecOn (motive := fun x : Ctx => x = c) _ _ rfl fun x h e he => ?_
  rw [idle e he, h]
  rfl

/-- A write at a home agent leaves a context that waits nowhere as it was. -/
theorem State.ctx_homeWrite {t : State} (idle : ∀ e ∈ (t.ctx n).port.queue, e.isWaitingWta = false) (pa : Nat) (bs :
    List Byte) :
    (t.homeWrite pa bs).ctx n = t.ctx n := by
  unfold State.homeWrite
  split
  · rfl
  · exact (State.ctx_mapCtxs (g := fun c => c.wakeWta _ _) rfl _ n).trans (Ctx.wakeWta_idle idle _ _)

section
variable {t : State} (begun : s.Begun t n r.sent)
include begun

theorem State.Begun.mem : t.mem = s.mem := by
  obtain ⟨⟨cs, ks, rfl⟩, -⟩ := begun
  rfl

theorem State.Begun.queue : (t.ctx n).port.queue = [r.sent] := by
  obtain ⟨-, ⟨acq, ctx⟩, -⟩ := begun
  rw [ctx]

theorem State.Begun.bytes (a len : Nat) : t.bytes a len = s.bytes a len := by rw [State.bytes, begun.mem, State.bytes]

variable (quiet : s.quiet n r)
include quiet

/-- An access that is answered at once, its write made or not. -/
theorem State.Begun.respondWord {w : State} (same : w.ctx n = t.ctx n) (slots : r.slots ≠ 0) (v : Dword) :
    s.answered (w.respondWord n r v) n r [(r.dest, v)] := by
  obtain ⟨-, -, state, mute, landings, -⟩ := quiet
  obtain ⟨-, ⟨acq, ctx⟩, -⟩ := begun
  have ctx := same.trans ctx
  have answered := State.respondWord_only (t := w) (q := r.sent) (r := r) (by rw [ctx]) rfl
      (by simp [PortReq.sent, slots]) rfl
    (by rw [ctx, landings]) (by rw [ctx, mute]) (by rw [ctx, state]; decide) v
  unfold State.answered at answered ⊢
  rw [ctx] at answered
  exact answered

theorem State.Begun.homeWrite_ctx (pa : Nat) (bs : List Byte) : (t.homeWrite pa bs).ctx n = t.ctx n := by
  obtain ⟨-, -, -, -, -, -, -, stage, -⟩ := quiet
  refine State.ctx_homeWrite (fun e he => ?_) pa bs
  rw [begun.queue] at he
  simp [List.mem_singleton.1 he, PortReq.isWaitingWta, PortReq.sent, stage]

end

theorem State.answered.finished {t u : State} {ws : List (Nat × Dword)} (answered : s.answered t n r ws) (f :
    t.FinishedAs u) :
    s.answered u n r ws := by
  obtain ⟨cs, ts, l, rfl⟩ := f
  exact answered

theorem State.answered.settled {t : State} {ws : List (Nat × Dword)} (answered : s.answered t n r ws) :
    ∀ q ∈ (t.ctx n).port.queue, q.fence? = none := by
  obtain ⟨queue, -⟩ := answered
  simp [queue]

theorem State.FinishedAs.mem {t u : State} (f : t.FinishedAs u) : u.mem = t.mem := by
  obtain ⟨cs, ts, l, rfl⟩ := f
  rfl

theorem State.FinishedAs.ctx {t u : State} (f : t.FinishedAs u) (m : Nat) : u.ctx m = t.ctx m := by
  obtain ⟨cs, ts, l, rfl⟩ := f
  rfl

/-! ## Atomics (R246, R247, R250) -/

/-- An operation of the home agent that writes bytes or none, and answers. -/
theorem State.atHome_answers (quiet : s.quiet n r) (maps : s.mapsTo n r pa false) (good : s.isBad pa r.size = false)
    (slots : r.slots ≠ 0) {k : PortReq → Nat → State → State} {w : State → State} {v : Dword}
    (step : ∀ t, s.Begun t n r.sent → k r pa t = (w t).respondWord n r v)
    (same : ∀ t, s.Begun t n r.sent → (w t).ctx n = t.ctx n) :
    ∃ t u, s.Begun t n r.sent ∧ s.atHome n r.id k = .next u ∧ s.answered u n r [(r.dest, v)] ∧ u.mem = (w t).mem := by
  have answers : ∀ t, s.Begun t n r.sent → s.answered (k r pa t) n r [(r.dest, v)] := fun t begun => by
    rw [step t begun]
    exact begun.respondWord quiet (same t begun) slots v
  obtain ⟨t, u, begun, run, finished⟩ := State.atHome_quiet quiet maps k good fun t begun => (answers t begun).settled
  refine ⟨t, u, begun, run, (answers t begun).finished finished, ?_⟩
  rw [finished.mem]
  exact (congrArg State.mem (step t begun)).trans rfl

section
variable {h : Hdr} {f : MemF}

/-- The new value that an `amo` or a `red` gives a location. -/
def State.atomicBytes (s : State) (r : PortReq) (h : Hdr) (f : MemF) (pa : Nat) : List Byte :=
  natBytes r.size (atomicNew h.typ f.aop (natOfBytes (s.bytes pa r.size)) (r.w1.toNat % 2 ^ (8 * r.size)))

section
variable (quiet : s.quiet n r) (maps : s.mapsTo n r pa false) (good : s.isBad pa r.size = false)
include quiet maps good

theorem amoPerform_replaces (work : r.work = .op (.amo h f)) :
    ∃ t, execAmoPerform n r.id s = .next t ∧ t.bytes pa r.size = s.atomicBytes r h f pa ∧ s.sameOutside t pa r.size ∧
      s.answered t n r [(f.d.toNat, extendTyped h.typ (natOfBytes (s.bytes pa r.size)))] := by
  obtain ⟨t, u, begun, run, answered, mem⟩ := State.atHome_answers quiet maps good (by simp [PortReq.slots, work])
    (k := fun r pa s => match r.work with
      | .op (.amo h f) =>
        let m := natOfBytes (s.bytes pa r.size)
        let v := r.w1.toNat % 2 ^ (8 * r.size)
        (s.homeWrite pa (natBytes r.size (atomicNew h.typ f.aop m v))).respondWord n r (extendTyped h.typ m)
      | _ => s)
    (w := fun t => t.homeWrite pa (s.atomicBytes r h f pa)) (v := extendTyped h.typ (natOfBytes (s.bytes pa r.size)))
    (fun t begun => by simp only [work, begun.bytes, State.atomicBytes]) fun t begun => begun.homeWrite_ctx quiet pa _
  have mem : u.mem = (s.setBytes pa (s.atomicBytes r h f pa)).mem := by
    rw [mem, State.homeWrite_mem, State.setBytes, begun.mem, State.setBytes]
  refine ⟨u, run, State.bytes_of_mem mem (natBytes_length ..), State.sameOutside_of_mem mem (natBytes_length ..), ?_⟩
  rwa [show r.dest = f.d.toNat by simp [PortReq.dest, work, Instr.op?]] at answered

theorem casPerform_compares (work : r.work = .op (.cas h f)) :
    ∃ t, execCasPerform n r.id s = .next t ∧
      t.bytes pa r.size = (if natOfBytes (s.bytes pa r.size) = r.w1.toNat % 2 ^ (8 * r.size) then
        natBytes r.size (r.w2.toNat % 2 ^ (8 * r.size)) else s.bytes pa r.size) ∧ s.sameOutside t pa r.size ∧
      s.answered t n r [(f.d.toNat, extendTyped h.typ (natOfBytes (s.bytes pa r.size)))] := by
  let matched := natOfBytes (s.bytes pa r.size) = r.w1.toNat % 2 ^ (8 * r.size)
  obtain ⟨t, u, begun, run, answered, mem⟩ := State.atHome_answers quiet maps good (by simp [PortReq.slots, work])
    (k := fun r pa s => match r.work with
      | .op (.cas h _) =>
        let k := 2 ^ (8 * r.size)
        let m := natOfBytes (s.bytes pa r.size)
        let s := if m = r.w1.toNat % k then s.homeWrite pa (natBytes r.size (r.w2.toNat % k)) else s
        s.respondWord n r (extendTyped h.typ m)
      | _ => s)
    (w := fun t => if matched then t.homeWrite pa (natBytes r.size (r.w2.toNat % 2 ^ (8 * r.size))) else t)
    (v := extendTyped h.typ (natOfBytes (s.bytes pa r.size)))
    (fun t begun => by simp only [work, begun.bytes]; rfl) fun t begun => by
      split
      · exact begun.homeWrite_ctx quiet pa _
      · rfl
  rw [show r.dest = f.d.toNat by simp [PortReq.dest, work, Instr.op?]] at answered
  refine ⟨u, run, ?_, ?_, answered⟩
  all_goals split at mem
  next yes =>
    rw [State.homeWrite_mem, State.setBytes, begun.mem] at mem
    rw [if_pos yes]
    exact State.bytes_of_mem (s := s) mem (natBytes_length ..)
  next no => rw [if_neg no, State.bytes, mem, begun.mem, State.bytes]
  next yes =>
    rw [State.homeWrite_mem, State.setBytes, begun.mem] at mem
    exact State.sameOutside_of_mem (s := s) mem (natBytes_length ..)
  next no => exact fun x _ => State.sameMemory_of_mem (mem.trans begun.mem) x

theorem redPerform_replaces (work : r.work = .op (.red h f)) :
    ∃ t, execRedPerform n r.id s = .next t ∧ t.bytes pa r.size = s.atomicBytes r h f pa ∧ s.sameOutside t pa r.size ∧
      (t.ctx n).port.queue = [] := by
  have step : ∀ t, s.Begun t n r.sent → (match r.work with
      | .op (.red h f) =>
        let m := natOfBytes (t.bytes pa r.size)
        let v := r.w1.toNat % 2 ^ (8 * r.size)
        (t.homeWrite pa (natBytes r.size (atomicNew h.typ f.aop m v))).onCtx n fun c =>
          { c with port := { c.port with queue := c.port.queue.filter fun q => q.id != r.id } }.completeSignal r.sig
      | _ => t) = (t.homeWrite pa (s.atomicBytes r h f pa)).onCtx n fun c =>
          { c with port := { c.port with queue := c.port.queue.filter fun q => q.id != r.id } }.completeSignal r.sig :=
    fun t begun => by simp only [work, begun.bytes, State.atomicBytes]
  have left : ∀ t, s.Begun t n r.sent → (((t.homeWrite pa (s.atomicBytes r h f pa)).onCtx n fun c =>
      { c with port := { c.port with queue := c.port.queue.filter fun q => q.id != r.id } }.completeSignal r.sig).ctx n).port.queue =
        [] := fun t begun => by
    rw [State.ctx_onCtx_same, begun.homeWrite_ctx quiet]
    cases r.sig <;> simp [Ctx.completeSignal, begun.queue, PortReq.sent, Port.change]
  obtain ⟨t, u, begun, run, finished⟩ := State.atHome_quiet quiet maps (fun q pa s => match q.work with
      | .op (.red h f) =>
        let m := natOfBytes (s.bytes pa q.size)
        let v := q.w1.toNat % 2 ^ (8 * q.size)
        (s.homeWrite pa (natBytes q.size (atomicNew h.typ f.aop m v))).onCtx n fun c =>
          { c with port := { c.port with queue := c.port.queue.filter fun x => x.id != r.id } }.completeSignal q.sig
      | _ => s) good fun t begun => by
    refine fun q hq => ?_
    rw [if_neg (by decide), step t begun, left t begun] at hq
    cases hq
  rw [if_neg (by decide), step t begun] at finished
  have mem : u.mem = (s.setBytes pa (s.atomicBytes r h f pa)).mem := by
    rw [finished.mem]
    exact (State.homeWrite_mem ..).trans (by rw [State.setBytes, begun.mem, State.setBytes])
  refine ⟨u, run, State.bytes_of_mem mem (natBytes_length ..), State.sameOutside_of_mem mem (natBytes_length ..), ?_⟩
  rw [finished.ctx, left t begun]

/-! ## Waiting on an address (R253, R255) -/

theorem wtaArrival_returns (work : r.work = .op (.wta h f)) (now : s.dword pa ≠ r.w1 ∨ r.w2 = 0) :
    ∃ t, execWtaArrival n r.id s = .next t ∧ s.answered t n r [(f.d.toNat, s.dword pa)] ∧ s.sameMemory t := by
  have step : ∀ t, s.Begun t n r.sent → (match r.work with
      | .op (.wta _ _) =>
        let v := t.dword pa
        if v ≠ r.w1 ∨ r.w2 = 0 ∨ 1024 ≤ t.waitsAt (sliceOf pa) then t.respondWord n r v
        else t.onCtx n fun c => { c with port := c.port.change r.id fun q => { q with stage := .waiting, pa := pa } }
      | _ => t) = t.respondWord n r (s.dword pa) := fun t begun => by
    have read : t.dword pa = s.dword pa := by rw [State.dword, begun.bytes, State.dword]
    simp only [work, read]
    rw [if_pos (now.elim .inl fun zero => .inr (.inl zero))]
  obtain ⟨t, u, begun, run, answered, mem⟩ := State.atHome_answers quiet maps good (by simp [PortReq.slots, work])
    (k := fun q pa s => match q.work with
      | .op (.wta _ _) =>
        let v := s.dword pa
        if v ≠ q.w1 ∨ q.w2 = 0 ∨ 1024 ≤ s.waitsAt (sliceOf pa) then s.respondWord n q v
        else s.onCtx n fun c => { c with port := c.port.change r.id fun q => { q with stage := .waiting, pa := pa } }
      | _ => s)
    (w := id) step fun t begun => rfl
  rw [show r.dest = f.d.toNat by simp [PortReq.dest, work, Instr.op?]] at answered
  exact ⟨u, run, answered, State.sameMemory_of_mem (mem.trans begun.mem)⟩

theorem wtaArrival_waits (work : r.work = .op (.wta h f)) (equal : s.dword pa = r.w1) (timeout : r.w2 ≠ 0)
    (room : ∀ k, s.waitsAt k < 1024) :
    ∃ t, execWtaArrival n r.id s = .next t ∧
      (t.ctx n).port.queue = [{ r with stage := .waiting, landing := true, pa := pa }] ∧ s.sameMemory t := by
  have step : ∀ t, s.Begun t n r.sent → (match r.work with
      | .op (.wta _ _) =>
        let v := t.dword pa
        if v ≠ r.w1 ∨ r.w2 = 0 ∨ 1024 ≤ t.waitsAt (sliceOf pa) then t.respondWord n r v
        else t.onCtx n fun c => { c with port := c.port.change r.id fun q => { q with stage := .waiting, pa := pa } }
      | _ => t) = t.onCtx n fun c => { c with port := c.port.change r.id fun q => { q with stage := .waiting, pa := pa } } :=
    fun t begun => by
      have read : t.dword pa = s.dword pa := by rw [State.dword, begun.bytes, State.dword]
      have free : ¬ 1024 ≤ t.waitsAt (sliceOf pa) := Nat.not_le.2 ((begun.waits _).trans_lt (room _))
      simp only [work, read, equal, ne_eq, not_true_eq_false, timeout, free, or_self, if_false]
  have left : ∀ t, s.Begun t n r.sent → ((t.onCtx n fun c =>
      { c with port := c.port.change r.id fun q => { q with stage := .waiting, pa := pa } }).ctx n).port.queue =
        [{ r with stage := .waiting, landing := true, pa := pa }] := fun t begun => by
    rw [State.ctx_onCtx_same]
    simp [Port.change, begun.queue, PortReq.sent, PortReq.slots, work]
  obtain ⟨t, u, begun, run, finished⟩ := State.atHome_quiet quiet maps (fun q pa s => match q.work with
      | .op (.wta _ _) =>
        let v := s.dword pa
        if v ≠ q.w1 ∨ q.w2 = 0 ∨ 1024 ≤ s.waitsAt (sliceOf pa) then s.respondWord n q v
        else s.onCtx n fun c => { c with port := c.port.change r.id fun q => { q with stage := .waiting, pa := pa } }
      | _ => s) good fun t begun => by
    refine fun q hq => ?_
    rw [if_neg (by decide), step t begun, left t begun] at hq
    rw [List.mem_singleton.1 hq]
    simp [PortReq.fence?, work]
  rw [if_neg (by decide), step t begun] at finished
  refine ⟨u, run, by rw [finished.ctx, left t begun], State.sameMemory_of_mem ?_⟩
  rw [finished.mem]
  exact begun.mem

end

theorem wtaTimeout_returns (work : r.work = .op (.wta h f)) (queue : (s.ctx n).port.queue = [r]) (stage : r.stage = .waiting)
    (held : r.landing = true) (landings : (s.ctx n).port.landings = []) (alive : (s.ctx n).life.mute = false)
    (stalled : (s.ctx n).life.state = .stalled) (free : s.isHeld r.pa 8 = false)
    (late : r.deadline ≤ (s.core (coreOf n)).cycle.toNat) :
    ∃ t, execWtaTimeout n r.id s = .next t ∧ s.answered t n r [(f.d.toNat, s.dword r.pa)] := by
  have entry : s.entry n r.id = some r := by simp [State.entry, queue]
  have answered := State.respondWord_only (r := r) queue rfl held rfl landings alive (by rw [stalled]; decide) (s.dword r.pa)
  have waiting : r.isWaitingWta = true := by simp [PortReq.isWaitingWta, stage, PortReq.isWta, work]
  rw [show r.dest = f.d.toNat by simp [PortReq.dest, work, Instr.op?]] at answered
  refine ⟨_, ?_, answered⟩
  simp only [execWtaTimeout, entry, waiting, free, late]
  exact congrArg Host.Outcome.next (State.settlePort_eq answered.settled)

end

end Sys2Proof.Machine
open Sys2Proof Sys2Proof.Machine

/-- Settles O36, by what the home agent does for an access that is alone in its port. -/
theorem atomicsAndWaitsPerform : Obligations.AtomicsAndWaitsPerform :=
  ⟨fun s n pa r h f quiet maps good => ⟨amoPerform_replaces quiet maps good, casPerform_compares quiet maps good,
      redPerform_replaces quiet maps good⟩,
    fun s n pa r h f work => ⟨fun quiet maps good now => wtaArrival_returns quiet maps
        (by rwa [show r.size = 8 by simp [PortReq.size, work]]) work now,
      fun quiet maps good equal timeout room => wtaArrival_waits quiet maps
        (by rwa [show r.size = 8 by simp [PortReq.size, work]]) work equal timeout room,
      fun queue stage held landings alive stalled free late =>
        wtaTimeout_returns work queue stage held landings alive stalled free late⟩⟩
end

section
/-!
PROOFS. Far loads and stores at device scope, piece by piece (R41, R195, R198, R209; O37).
-/
namespace Sys2Proof.Machine
open Sys2Proof

variable {s t : State} {n pa : Nat} {r q : PortReq}

/-! ## The pieces of an access -/

/-- `q` is `r` as far as its performance has come: which pieces are done, and which have failed. -/
structure PortReq.Progress (r q : PortReq) : Prop where
  id   : q.id = r.id
  addr : q.addr = r.addr
  work : q.work = r.work
  busy : q.stage = .pending
  held : q.landing = (r.slots != 0)
  vec  : q.vec = r.vec
  w1   : q.w1 = r.w1

theorem PortReq.Progress.sent (stage : r.stage = .pending) : r.Progress r.sent := ⟨rfl, rfl, rfl, stage, rfl, rfl, rfl⟩

theorem PortReq.Progress.size (p : r.Progress q) : q.size = r.size := by rw [PortReq.size, p.work, PortReq.size]
theorem PortReq.Progress.need (p : r.Progress q) : q.need = r.need := by rw [PortReq.need, p.work, PortReq.need]
theorem PortReq.Progress.scope (p : r.Progress q) : q.scope = r.scope := by
  rw [PortReq.scope, PortReq.mem, p.work, PortReq.scope, PortReq.mem]
theorem PortReq.Progress.units (p : r.Progress q) : q.units = r.units := by rw [PortReq.units, p.size, PortReq.units]
theorem PortReq.Progress.isWta (p : r.Progress q) : q.isWta = r.isWta := by rw [PortReq.isWta, p.work, PortReq.isWta]
theorem PortReq.Progress.data (p : r.Progress q) : q.data = r.data := by
  rw [PortReq.data, p.work, p.vec, p.size, p.w1, PortReq.data]

theorem State.Begun.only (begun : s.Begun t n q) : (t.ctx n).port.queue = [q] := by
  obtain ⟨acq, ctx⟩ := begun.ctx
  rw [ctx]

theorem State.Begun.entry (begun : s.Begun t n q) : t.entry n q.id = some q := by simp [State.entry, begun.only]

/-- The entry changed: the access stays begun. -/
theorem State.Begun.change (begun : s.Begun t n q) (f : PortReq → PortReq) (idle : (f q).isWaitingWta = false) :
    s.Begun (t.onCtx n fun c => { c with port := c.port.change q.id f }) n (f q) := by
  obtain ⟨⟨cs, ks, parts⟩, ⟨acq, ctx⟩, tlb, l1, waits⟩ := begun
  have one : ({ (s.ctx n).port with queue := [q], acquired := acq } : Port).change q.id f =
      { (s.ctx n).port with queue := [f q], acquired := acq } := by simp [Port.change]
  refine ⟨⟨_, ks, by rw [parts]; rfl⟩, ⟨acq, ?_⟩, tlb, l1, fun k => ?_⟩
  · rw [State.ctx_onCtx_same, ctx]
    exact congrArg (fun p => { s.ctx n with port := p }) one
  · refine (State.waitsAt_setCtx t n k (Ctx.waitsAt_only (q := f q) ?_ idle k)).trans (waits k)
    rw [ctx]
    exact congrArg Port.queue one

theorem State.Begun.dests (begun : s.Begun t n q) : t.dests = s.dests := by
  obtain ⟨cs, ks, rfl⟩ := begun.parts
  rfl

theorem State.Begun.read (begun : s.Begun t n q) (a len : Nat) : t.bytes a len = s.bytes a len := by
  obtain ⟨cs, ks, rfl⟩ := begun.parts
  rfl

/-! ## Loads -/

/-- What a piece of a load leaves of its entry: its bytes, or ECC where they hold an uncorrectable error. -/
def PortReq.loaded (q : PortReq) (s : State) (pa off : Nat) : PortReq :=
  if s.isBad (pa + off) (min 8 q.size) then { q with fails := q.fails ++ [(off, ⟨.ecc, 0⟩)] }
  else q.take (q.addr.toNat + off) (s.bytes (pa + off) (min 8 q.size))

theorem PortReq.Progress.loaded (p : r.Progress q) (s : State) (pa off : Nat) : r.Progress (q.loaded s pa off) := by
  unfold PortReq.loaded
  split
  · exact ⟨p.id, p.addr, p.work, p.busy, p.held, p.vec, p.w1⟩
  · exact ⟨p.id, p.addr, p.work, p.busy, p.held, p.vec, p.w1⟩

theorem PortReq.Progress.idle (p : r.Progress q) : q.isWaitingWta = false := by simp [PortReq.isWaitingWta, p.busy]

theorem State.Begun.loadPiece (begun : s.Begun t n q) (p : r.Progress q) (maps : s.mapsTo n r pa false) (dests :
    s.dests = [])
    (device : 2 ≤ r.scope) {off : Nat} (ho : off < r.size) (fresh : ∀ x ∈ q.done, x.1 ≠ off) :
    s.Begun (t.loadPiece n r.id off) n (q.loaded s pa off) := by
  have here : t.xlatePort n q off = .ok (pa + off) false := (begun.xlatePort p.addr p.need off).trans (maps.xlate ho)
  have none : (q.done.any fun p => p.1 == off) = false := by simpa using fresh
  have free : t.isHeld (pa + off) (min 8 q.size) = false := State.isHeld_of_none (begun.dests.trans dests) _
  have stale : s.Begun (t.staleLine n (pa + off)) n q :=
    begun.onCore (f := fun k => k.staleIf fun l => l.vf == (t.ctx n).id.vf && l.line == (pa + off) / 64) (fun k => rfl)
      fun k e => by simp [Core.staleIf, e]
  have far : ¬ q.scope < 2 := Nat.not_lt.2 (p.scope ▸ device)
  have bytes : ∀ a len, (t.staleLine n a).bytes (pa + off) len = s.bytes (pa + off) len := fun a len => begun.read _ _
  have length : ∀ len, (s.bytes (pa + off) len).length = len := fun len => by simp [State.bytes, lookupList]
  have bad : ∀ len, (t.staleLine n (pa + off)).isBad (pa + off) len = s.isBad (pa + off) len := stale.isBad _
  have result := stale.change (fun x => if s.isBad (pa + off) (min 8 q.size) then { x with fails := x.fails ++ [(off, ⟨.ecc, 0⟩)] }
    else x.take (q.addr.toNat + off) (s.bytes (pa + off) (min 8 q.size))) (p.loaded s pa off).idle
  rw [← p.id, State.loadPiece, begun.entry]
  simp only [here, none, State.loadBytes, if_neg far, free, State.syncLine_empty begun.l1, State.loadBad, bytes, bad, length,
    Bool.false_eq_true, if_false]
  exact result

theorem State.isBad_part {a b len size : Nat} (good : s.isBad a size = false) (low : a ≤ b) (high : b + len ≤ a + size) :
    s.isBad b len = false := by
  simp only [State.isBad, List.any_eq_false, Bool.and_eq_true, decide_eq_true_eq, not_and] at good ⊢
  intro x hx lo hi
  exact good x hx (by omega) (by omega)

theorem length_bytes (s : State) (a len : Nat) : (s.bytes a len).length = len := by simp [State.bytes, lookupList]

theorem PortReq.loaded_good {off : Nat} (q : PortReq) (good : s.isBad (pa + off) (min 8 q.size) = false)
    (ho : off + min 8 q.size ≤ q.size) :
    q.loaded s pa off = { q with done := q.done ++ [(off, s.bytes (pa + off) (min 8 q.size))] } := by
  have low : max q.addr.toNat (q.addr.toNat + off) = q.addr.toNat + off := by omega
  have high : min (q.addr.toNat + q.size) (q.addr.toNat + off + min 8 q.size) - (q.addr.toNat + off)
      = min 8 q.size := by omega
  have whole : (s.bytes (pa + off) (min 8 q.size)).take (min 8 q.size) = s.bytes (pa + off) (min 8 q.size) :=
    List.take_of_length_le (length_bytes ..).le
  simp only [PortReq.loaded, good, PortReq.take, length_bytes, low, high, Nat.sub_self, List.drop_zero, whole,
    Nat.add_sub_cancel_left, Bool.false_eq_true, if_false]

/-- The bytes of the pieces at some offsets. -/
def State.pieces (s : State) (pa size : Nat) (offs : List Nat) : List (Nat × List Byte) :=
  offs.map fun o => (o, s.bytes (pa + o) (min 8 size))

/-- Pieces without errors are loaded one after the other. -/
theorem State.Begun.loadPieces (maps : s.mapsTo n r pa false) (dests : s.dests = []) (device : 2 ≤ r.scope)
    (good : s.isBad pa r.size = false) (offs : List Nat) (inside : ∀ o ∈ offs, o + min 8 r.size ≤ r.size) (once : offs.Nodup)
    (begun : s.Begun t n q) (p : r.Progress q) (fresh : ∀ x ∈ q.done, x.1 ∉ offs) : ∃ q',
    s.Begun (offs.foldl (fun s o => s.loadPiece n r.id o) t) n q' ∧ r.Progress q' ∧ q'.fails = q.fails ∧
      q'.done = q.done ++ s.pieces pa r.size offs := by
  induction offs generalizing t q with
  | nil => exact ⟨q, begun, p, rfl, (List.append_nil _).symm⟩
  | cons o offs ih =>
    obtain ⟨out, once⟩ := List.nodup_cons.1 once
    have ho := inside o List.mem_cons_self
    have pos := maps.1
    have step := begun.loadPiece p maps dests device (off := o) (by omega)
      fun x hx h => fresh x hx (h ▸ List.mem_cons_self)
    have loaded := PortReq.loaded_good q (pa := pa) (off := o) (s := s)
      (by rw [p.size]; exact State.isBad_part good (Nat.le_add_right ..) (by omega)) (by rw [p.size]; exact ho)
    have progress := p.loaded s pa o
    rw [loaded] at step progress
    obtain ⟨q', begun', p', fails, done⟩ := ih (fun x hx => inside x (List.mem_cons_of_mem o hx)) once step progress
      fun x hx => by
        obtain hx | hx := List.mem_append.1 hx
        · exact fun h => fresh x hx (List.mem_cons_of_mem o h)
        · rw [List.mem_singleton.1 hx]
          exact out
    refine ⟨q', begun', p', fails, done.trans ?_⟩
    simp [State.pieces, p.size]

/-! ## The pieces together -/

theorem overwrite_append {b' : Byte} (a c : List Byte) (k : Nat) (len : c.length ≤ k) :
    overwrite (a ++ List.replicate k b') a.length c = (a ++ c) ++ List.replicate (k - c.length) b' := by
  simp [overwrite, List.drop_append]

theorem bytes_append (s : State) (a m k : Nat) : s.bytes a (m + k) = s.bytes a m ++ s.bytes (a + m) k := by
  simp [State.bytes, lookupList, List.range_add, Nat.add_assoc, Function.comp_def]

/-- Pieces of eight bytes in order are the whole. -/
theorem joinPieces_eights (s : State) (pa m k : Nat) :
    ((List.range m).map fun i => (8 * i, s.bytes (pa + 8 * i) 8)).foldl (fun bs p => overwrite bs p.1 p.2)
      (List.replicate (8 * (m + k)) 0) = s.bytes pa (8 * m) ++ List.replicate (8 * k) 0 := by
  induction m generalizing k with
  | zero => simp [State.bytes, lookupList]
  | succ m ih =>
    have more : 8 * (m + 1 + k) = 8 * (m + (k + 1)) := by omega
    rw [List.range_succ, List.map_append, List.foldl_append, more, ih]
    have step := overwrite_append (b' := 0) (s.bytes pa (8 * m)) (s.bytes (pa + 8 * m) 8) (8 * (k + 1))
        (by rw [length_bytes]; omega)
    rw [length_bytes, length_bytes] at step
    simp only [List.map_cons, List.map_nil, List.foldl_cons, List.foldl_nil, step, ← bytes_append]
    congr 2

end Sys2Proof.Machine
end
section
namespace Sys2Proof.Machine
open Sys2Proof

variable {s t : State} {n pa : Nat} {r q : PortReq}

theorem State.quiet.dests (quiet : s.quiet n r) : s.dests = [] := by
  obtain ⟨-, -, -, -, -, -, -, -, -, -, -, -, dests, -⟩ := quiet
  exact dests

theorem State.quiet.unsent (quiet : s.quiet n r) : r.stage = .pending ∧ r.done = [] ∧ r.fails = [] := by
  obtain ⟨-, -, -, -, -, -, -, stage, -, done, fails, -⟩ := quiet
  exact ⟨stage, done, fails⟩

/-! ## A load whose pieces are all there -/

/-- Every unit of an access is a piece, all of one length, and together they are the access. -/
def PortReq.InPieces (r : PortReq) : Prop := 0 < r.size ∧ r.size = min 8 r.size * r.units.length

theorem mem_units {o : Nat} (h : o ∈ r.units) : ∃ i < (r.size + 7) / 8, o = 8 * i := by
  obtain ⟨i, hi, rfl⟩ := List.mem_map.1 h
  exact ⟨i, List.mem_range.1 hi, rfl⟩

theorem PortReq.InPieces.inside (whole : r.InPieces) : ∀ o ∈ r.units, o + min 8 r.size ≤ r.size := by
  obtain ⟨pos, sizes⟩ := whole
  intro o ho
  obtain ⟨i, hi, rfl⟩ := mem_units ho
  simp only [PortReq.units, List.length_map, List.length_range] at sizes
  obtain small | big := Nat.le_total 8 r.size
  · rw [Nat.min_eq_left small] at sizes ⊢
    omega
  · rw [Nat.min_eq_right big] at *
    omega

theorem nodup_units (r : PortReq) : r.units.Nodup :=
  List.nodup_range.map fun a b h => by simpa using h

theorem foldl_lengths (ps : List (Nat × List Byte)) (k m : Nat) (same : ∀ p ∈ ps, p.2.length = k) :
    ps.foldl (fun n p => n + p.2.length) m = m + k * ps.length := by
  induction ps generalizing m with
  | nil => rfl
  | cons p ps ih =>
    rw [List.foldl_cons, same p List.mem_cons_self, ih _ fun x hx => same x (List.mem_cons_of_mem p hx), List.length_cons]
    ring

/-- The pieces of every unit leave nothing of the access undone. -/
theorem PortReq.InPieces.doneBelow (whole : r.InPieces) {f : Nat → List Byte}
    (length : ∀ o ∈ r.units, (f o).length = min 8 r.size) (done : q.done = r.units.map fun o => (o, f o)) :
    q.doneBelow r.size = true := by
  have all : (q.done.filter fun p => p.1 < r.size) = q.done := by
    rw [done, List.filter_eq_self]
    intro p hp
    obtain ⟨o, ho, rfl⟩ := List.mem_map.1 hp
    have := whole.inside o ho
    have := whole.1
    simp only [decide_eq_true_eq]
    omega
  have sum := foldl_lengths q.done (min 8 r.size) 0 (by
    rw [done]
    intro p hp
    obtain ⟨o, ho, rfl⟩ := List.mem_map.1 hp
    exact length o ho)
  rw [PortReq.doneBelow, all, sum, done, List.length_map, Nat.zero_add, ← whole.2, beq_self_eq_true]

theorem State.loadSent_done {id : Nat} (entry : t.entry n id = some q)
    (done : ∀ u ∈ q.units, ∃ p ∈ q.done, p.1 ≤ u ∧ u < p.1 + p.2.length) : t.loadSent n id = t := by
  have all : (q.units.all fun u => q.done.any fun p => p.1 ≤ u && u < p.1 + p.2.length) = true := by simpa using done
  unfold State.loadSent
  rw [entry]
  simp only [all, Bool.not_true, Bool.and_false, Bool.false_and, Bool.false_eq_true, if_false]

/-- The answer to a load all of whose bytes are there. -/
theorem State.settleLoad_done {id : Nat} (entry : t.entry n id = some q) (fails : q.fails = []) (done :
    q.doneBelow q.size = true) :
    t.settleLoad n id = t.onCtx n fun c =>
      (c.respond (q.loadLanding (joinPieces q.size q.done))).acquiredBy q (t.meetsRegion n q) := by
  have entry : (t.ctx n).port.queue.find? (fun r => r.id == id) = some q := entry
  unfold State.settleLoad
  rw [entry]
  simp only [fails, List.foldl_nil, done, if_true]

/-- A load all of whose pieces are there is answered with them, whatever the L2 holds. -/
theorem State.Begun.loaded (begun : s.Begun t n q) (p : r.Progress q) (quiet : s.quiet n r) (whole : r.InPieces)
    (slots : r.slots ≠ 0)
    (id : (r.loadLanding (joinPieces r.size q.done)).id = r.id)
    (fails : q.fails = []) (done : q.done = s.pieces pa r.size r.units) (l : L2) :
    ∃ w, ((State.loadSent { t with l2 := l } n r.id).settleLoad n r.id) = w ∧ (w.ctx n).port.queue = [] ∧
      (w.ctx n).port.landings = [{ r.loadLanding (joinPieces r.size q.done) with wta := r.isWta }] ∧
      (w.ctx n).regs = (s.ctx n).regs ∧ w.mem = s.mem ∧ w.l2 = l := by
  obtain ⟨-, -, state, mute, landings, -⟩ := quiet
  have entry : State.entry { t with l2 := l } n r.id = some q := by rw [← p.id]; exact begun.entry
  have there : ∀ u ∈ q.units, ∃ p ∈ q.done, p.1 ≤ u ∧ u < p.1 + p.2.length := fun u hu => by
    rw [p.units] at hu
    refine ⟨(u, s.bytes (pa + u) (min 8 r.size)), by rw [done]; exact List.mem_map_of_mem hu, le_rfl, ?_⟩
    rw [length_bytes]
    have := whole.1
    omega
  have below : q.doneBelow q.size = true := by
    rw [p.size]
    exact whole.doneBelow (fun o ho => length_bytes ..) done
  have landing : q.loadLanding = r.loadLanding := by
    funext bs
    rw [PortReq.loadLanding, p.work, p.id, PortReq.loadLanding]
  obtain ⟨acq, ctx⟩ := begun.ctx
  obtain ⟨cs, ks, rfl⟩ := begun.parts
  have ctx' : State.ctx { { s with ctxs := cs, cores := ks } with l2 := l } n =
    { s.ctx n with port := { (s.ctx n).port with queue := [q], acquired := acq } } := ctx
  refine ⟨_, rfl, ?_⟩
  rw [State.loadSent_done entry there, State.settleLoad_done entry fails below, State.ctx_onCtx_same, landing, p.size]
  generalize State.meetsRegion _ n q = emb
  obtain ⟨regs, queue', landings'⟩ := Ctx.acquiredBy_keeps
    ((State.ctx { { s with ctxs := cs, cores := ks } with l2 := l } n).respond (r.loadLanding (joinPieces r.size q.done))) q emb
  have answer := Ctx.respond_only (c := State.ctx { { s with ctxs := cs, cores := ks } with l2 := l } n) (q := q)
    (l := r.loadLanding (joinPieces r.size q.done)) (by rw [ctx']) (p.id.trans id.symm)
    (by rw [p.held]; simp [slots]) (by rw [ctx']; exact landings) (by rw [ctx']; exact mute)
        (by rw [ctx']; rw [state]; decide)
  refine ⟨?_, ?_, ?_, rfl, rfl⟩
  · rw [queue', answer]
  · rw [landings', answer, p.isWta]
  · rw [regs, answer, ctx']

/-- A far load at device scope of bytes without errors. -/
theorem State.farLoad (quiet : s.quiet n r) (maps : s.mapsTo n r pa false) (device : 2 ≤ r.scope) (good :
    s.isBad pa r.size = false)
    (whole : r.InPieces) (short : r.size ≤ 512) (slots : r.slots ≠ 0) {i : Instr} (work : r.work = .op i)
    (load : (∃ h f, i = .ldf h f) ∨ ∃ h f, i = .vldf h f) :
    ∃ t, exec (.farLoadPerform n r.id (List.range 64)) s = .next t ∧ (t.ctx n).port.queue = [] ∧
      (t.ctx n).port.landings = [{ r.loadLanding (joinPieces r.size (s.pieces pa r.size r.units)) with wta := r.isWta }] ∧
      (t.ctx n).regs = (s.ctx n).regs ∧ t.mem = s.mem ∧
      ∃ b b', s.Begun b n r.sent ∧ b'.l2 = s.l2 ∧ t.l2 = (b.visitUnits b' n r r.units).l2 := by
  obtain ⟨stage, none, good'⟩ := quiet.unsent
  have units : (r.units.filter fun o => (List.range 64).contains (o / 8)) = r.units := by
    rw [List.filter_eq_self]
    intro o ho
    obtain ⟨i, hi, rfl⟩ := mem_units ho
    simp only [List.contains_eq_mem, List.mem_range, decide_eq_true_eq]
    omega
  have id : (r.loadLanding (joinPieces r.size (s.pieces pa r.size r.units))).id = r.id := by
    obtain ⟨h, f, rfl⟩ | ⟨h, f, rfl⟩ := load <;> rw [PortReq.loadLanding, work]
  let k : PortReq → State → State := fun q b =>
    ((b.visitUnits ((q.units.filter fun o => (List.range 64).contains (o / 8)).foldl (fun s o => s.loadPiece n r.id o) b) n q
      (q.units.filter fun o => (List.range 64).contains (o / 8))).loadSent n r.id).settleLoad n r.id
  have body : ∀ b, s.Begun b n r.sent → ∃ b' w, k r b = w ∧ b'.l2 = s.l2 ∧ (w.ctx n).port.queue = [] ∧
      (w.ctx n).port.landings = [{ r.loadLanding (joinPieces r.size (s.pieces pa r.size r.units)) with wta := r.isWta }] ∧
      (w.ctx n).regs = (s.ctx n).regs ∧ w.mem = s.mem ∧ w.l2 = (b.visitUnits b' n r r.units).l2 := fun b begun => by
    obtain ⟨q, begun', p, fails, done⟩ := State.Begun.loadPieces maps quiet.dests device good r.units whole.inside
        (nodup_units r) begun
      (PortReq.Progress.sent stage) (by simp [PortReq.sent, none])
    have done : q.done = s.pieces pa r.size r.units := done.trans (by simp [PortReq.sent, none])
    obtain ⟨cs, ks, parts⟩ := begun'.parts
    obtain ⟨w, run, queue, landings, regs, mem, l2⟩ := begun'.loaded p quiet whole slots (by rw [done]; exact id)
      (fails.trans good') done (b.visitUnits (r.units.foldl (fun s o => s.loadPiece n r.id o) b) n r r.units).l2
    refine ⟨_, w, ?_, ?_, queue, by rw [← done]; exact landings, regs, mem, l2⟩
    · simp only [k, units]
      exact run
    · rw [parts]
  obtain ⟨b, u, begun, run, finished, l2⟩ := State.performing_quiet quiet maps k (fun b begun => by
    obtain ⟨b', w, rfl, -, queue, -⟩ := body b begun
    simp [queue])
  obtain ⟨b', w, rfl, same, queue, landings, regs, mem, after⟩ := body b begun
  refine ⟨u, ?_, (finished.ctx n).symm ▸ queue, (finished.ctx n).symm ▸ landings, (finished.ctx n).symm ▸ regs,
    finished.mem.trans mem, b, b', begun, same, l2.trans after⟩
  rw [← run]
  obtain ⟨h, f, rfl⟩ | ⟨h, f, rfl⟩ := load
  · show execFarLoadPerform n r.id _ s = _
    rw [execFarLoadPerform, quiet.entry]
    simp only [work]
    rfl
  · show execFarLoadPerform n r.id _ s = _
    rw [execFarLoadPerform, quiet.entry]
    simp only [work]
    rfl

/-- In HINT mode a load with the hint `none` leaves the L2 without its line. -/
theorem State.visitUnits_unheld {b b' : State} (begun : s.Begun b n r.sent) (same : b'.l2 = s.l2) (maps :
    s.mapsTo n r pa false)
    (units : r.units = [0]) (mode : (s.part (partOf (s.ctx n).id.vf)).hint = true) (hint : r.hint = 3)
    (absent : ∀ x ∈ s.l2.lines, x.line ≠ pa / 64) : (b.visitUnits b' n r r.units).l2 = s.l2 := by
  obtain ⟨acq, ctx⟩ := begun.ctx
  have id : (b.ctx n).id = (s.ctx n).id := by rw [ctx]
  have none : s.l2.lines.find? (fun x => x.line == pa / 64) = none := by simpa using absent
  have kept : ∀ va, b.l2After s.l2 (s.ctx n).id.vf (some va) pa r.hint = s.l2 := fun va => by
    have mode : (b.part (partOf (s.ctx n).id.vf)).hint = true := by
      obtain ⟨cs, ks, rfl⟩ := begun.parts
      exact mode
    simp [State.l2After, mode, L2.access, none, hint, hintRrpv]
  have here : b.xlatePort n r 0 = .ok pa false := (begun.xlatePort (q := r.sent) rfl rfl 0).trans (maps.xlate maps.1)
  unfold State.visitUnits
  refine List.foldlRecOn (motive := fun l : L2 => l = s.l2) _ _ same fun l h o ho => ?_
  have zero : o = 0 := by
    have := List.mem_of_mem_filter (List.mem_of_mem_filter ho)
    rwa [units, List.mem_singleton] at this
  subst zero
  rw [h, here]
  simp only [id, kept, ite_self]

/-! ## Stores -/

theorem Ctx.wakeWta_sublist (c : Ctx) (hit : Nat → Bool) (read : Nat → Dword) :
    (c.wakeWta hit read).port.queue.Sublist c.port.queue := by
  refine List.foldlRecOn (motive := fun x : Ctx => x.port.queue.Sublist c.port.queue) _ _ (List.Sublist.refl _)
      fun x h e _ => ?_
  have answered : ∀ l, (x.respond l).port.queue.Sublist x.port.queue := fun l => by
    unfold Ctx.respond
    dsimp only
    split <;> exact List.filter_sublist
  split
  · exact (answered _).trans h
  · exact h

theorem State.waitsAt_wakeLines (t : State) (hit : Nat → Bool) (k : Nat) : (t.wakeLines hit).waitsAt k ≤ t.waitsAt k := by
  rw [State.waitsAt_eq, State.waitsAt_eq, State.wakeLines, List.map_map]
  exact List.sum_le_sum fun p _ => ((Ctx.wakeWta_sublist p.2 ..).filter _).length_le

/-- A write at a home agent, for an access that has begun. -/
theorem State.Begun.homeWrite (begun : s.Begun t n q) (idle : q.isWaitingWta = false) (a : Nat) {bs : List Byte}
    (some : bs ≠ []) :
    (s.setBytes a bs).Begun (t.homeWrite a bs) n q := by
  have kept : (t.homeWrite a bs).ctx n = t.ctx n := State.ctx_homeWrite (fun e he => by
    rw [begun.only, List.mem_singleton] at he
    rw [he, idle]) a bs
  have written : t.homeWrite a bs = (t.setBytes a bs).wakeLines fun l => a / 64 ≤ l && l ≤ (a + bs.length - 1) / 64 := by
    rw [State.homeWrite, if_neg (by simpa using some)]
  obtain ⟨⟨cs, ks, parts⟩, ctx, tlb, l1, waits⟩ := begun
  refine ⟨?_, kept ▸ ctx, ?_, ?_, fun k => ?_⟩
  · rw [written, parts]
    exact ⟨_, _, rfl⟩
  · rw [written]
    exact tlb
  · rw [written]
    exact l1
  · rw [written]
    exact (State.waitsAt_wakeLines ..).trans (waits k)

/-- The bytes of a store at an offset. -/
def PortReq.dataAt (r : PortReq) (off : Nat) : List Byte := (r.data.drop off).take (min 8 r.size)

theorem PortReq.Progress.dataAt (p : r.Progress q) (off : Nat) : q.dataAt off = r.dataAt off := by
  rw [PortReq.dataAt, p.data, p.size, PortReq.dataAt]

/-- What a piece of a store leaves of its entry. -/
def PortReq.stored (q : PortReq) (off : Nat) : PortReq := { q with done := q.done ++ [(off, q.dataAt off)] }

theorem PortReq.Progress.stored (p : r.Progress q) (off : Nat) : r.Progress (q.stored off) :=
  ⟨p.id, p.addr, p.work, p.busy, p.held, p.vec, p.w1⟩

theorem State.Begun.storePiece (begun : s.Begun t n q) (p : r.Progress q) (maps : s.mapsTo n r pa false) (dests :
    s.dests = [])
    (device : 2 ≤ r.scope) {off : Nat} (ho : off < r.size) (some : r.dataAt off ≠ []) (fresh : ∀ x ∈ q.done, x.1 ≠ off) :
    (s.setBytes (pa + off) (r.dataAt off)).Begun (t.storePiece n r.id off) n (q.stored off) := by
  have here : t.xlatePort n q off = .ok (pa + off) false := (begun.xlatePort p.addr p.need off).trans (maps.xlate ho)
  have none : (q.done.any fun p => p.1 == off) = false := by simpa using fresh
  have free : t.isHeld (pa + off) 1 = false := State.isHeld_of_none (begun.dests.trans dests) _
  have far : ¬ q.scope < 2 := Nat.not_lt.2 (p.scope ▸ device)
  have write := begun.homeWrite p.idle (pa + off) some
  have line : ((t.homeWrite (pa + off) (r.dataAt off)).core (coreOf n)).l1Line
      (((t.homeWrite (pa + off) (r.dataAt off)).ctx n).id.vf) ((pa + off) / 64) = .none := by
    rw [Core.l1Line, write.l1]
    rfl
  have result := write.change (fun x => { x with done := x.done ++ [(off, r.dataAt off)] }) (p.stored off).idle
  have piece : (q.data.drop off).take (min 8 q.size) = r.dataAt off := by rw [p.data, p.size, PortReq.dataAt]
  rw [← p.dataAt, PortReq.stored, p.dataAt]
  rw [← p.id, State.storePiece, begun.entry]
  simp only [here, none, if_neg far, free, State.deviceStore, State.syncLine_empty begun.l1, piece, line,
    Bool.false_eq_true, if_false]
  exact result

/-- Pieces are stored one after the other. -/
theorem State.Begun.storePieces (device : 2 ≤ r.scope) (offs : List Nat)
    (maps : s.mapsTo n r pa false) (dests : s.dests = []) (inside : ∀ o ∈ offs, o < r.size) (some :
        ∀ o ∈ offs, r.dataAt o ≠ [])
    (once : offs.Nodup) (begun : s.Begun t n q) (p : r.Progress q) (fresh : ∀ x ∈ q.done, x.1 ∉ offs) : ∃ q',
    State.Begun (offs.foldl (fun s o => s.setBytes (pa + o) (r.dataAt o)) s) (offs.foldl
        (fun s o => s.storePiece n r.id o) t) n q' ∧
      r.Progress q' ∧ q'.fails = q.fails ∧ q'.done = q.done ++ offs.map fun o => (o, r.dataAt o) := by
  induction offs generalizing s t q with
  | nil => exact ⟨q, begun, p, rfl, (List.append_nil _).symm⟩
  | cons o offs ih =>
    obtain ⟨out, once⟩ := List.nodup_cons.1 once
    have step := begun.storePiece p maps dests device (inside o List.mem_cons_self) (some o List.mem_cons_self)
      fun x hx h => fresh x hx (h ▸ List.mem_cons_self)
    obtain ⟨q', begun', p', fails, done⟩ := ih (s := s.setBytes (pa + o) (r.dataAt o)) maps dests
        (fun x hx => inside x (List.mem_cons_of_mem o hx))
      (fun x hx => some x (List.mem_cons_of_mem o hx)) once step (p.stored o) fun x hx => by
        obtain hx | hx := List.mem_append.1 hx
        · exact fun h => fresh x hx (List.mem_cons_of_mem o h)
        · rw [List.mem_singleton.1 hx]
          exact out
    refine ⟨q', begun', p', fails, done.trans ?_⟩
    simp [PortReq.stored, p.dataAt]

/-- Bytes written piece by piece: each is in its piece. -/
theorem byte_foldl_setBytes (data : List Byte) (offs : List Nat) (k x : Nat) (part : Nat → List Byte)
    (parts : ∀ o ∈ offs, part o = (data.drop o).take k ∧ o + k ≤ data.length) :
    (offs.foldl (fun s o => s.setBytes (pa + o) (part o)) s).byte x =
      if ∃ o ∈ offs, pa + o ≤ x ∧ x < pa + o + k then data.getD (x - pa) 0 else s.byte x := by
  induction offs generalizing s with
  | nil => simp
  | cons o offs ih =>
    obtain ⟨piece, inside⟩ := parts o List.mem_cons_self
    have length : ((data.drop o).take k).length = k := by simp; omega
    rw [List.foldl_cons, ih fun x hx => parts x (List.mem_cons_of_mem o hx), State.byte_setBytes, piece, length]
    by_cases later : ∃ o ∈ offs, pa + o ≤ x ∧ x < pa + o + k
    · rw [if_pos later, if_pos (by obtain ⟨o', h, h'⟩ := later; exact ⟨o', List.mem_cons_of_mem o h, h'⟩)]
    · rw [if_neg later]
      by_cases now : pa + o ≤ x ∧ x < pa + o + k
      · rw [if_pos now, if_pos ⟨o, List.mem_cons_self, now⟩]
        have lt : x - (pa + o) < k := by omega
        have at' : o + (x - (pa + o)) = x - pa := by omega
        simp [List.getD_eq_getElem?_getD, lt, at']
      · rw [if_neg now, if_neg]
        rintro ⟨o', h, h'⟩
        obtain rfl | h := List.mem_cons.1 h
        · exact now h'
        · exact later ⟨o', h, h'⟩

/-- The units of an access in pieces are its bytes. -/
theorem PortReq.InPieces.covers (whole : r.InPieces) (x : Nat) :
    (∃ o ∈ r.units, pa + o ≤ x ∧ x < pa + o + min 8 r.size) ↔ pa ≤ x ∧ x < pa + r.size := by
  refine ⟨fun ⟨o, ho, h⟩ => ?_, fun h => ?_⟩
  · have := whole.inside o ho
    omega
  · obtain ⟨pos, sizes⟩ := whole
    refine ⟨8 * ((x - pa) / 8), List.mem_map_of_mem (List.mem_range.2 (by omega)), ?_⟩
    simp only [PortReq.units, List.length_map, List.length_range] at sizes
    obtain small | big := Nat.le_total 8 r.size
    · omega
    · omega

theorem State.settleStore_done {id : Nat} (entry : t.entry n id = some q) (fails : q.fails = []) (done :
    q.doneBelow q.size = true) :
    t.settleStore n id = t.onCtx n fun c => { c with port := c.port.change id fun q => { q with stage := .performed } } := by
  unfold State.settleStore
  rw [entry]
  simp only [fails, List.foldl_nil, done, if_true]

/-- A far store at device scope. -/
theorem State.farStore (quiet : s.quiet n r) (maps : s.mapsTo n r pa false) (device : 2 ≤ r.scope) (whole : r.InPieces)
    (length : r.data.length = r.size) (short : r.size ≤ 512) {i : Instr} (work : r.work = .op i)
    (store : (∃ h f, i = .stf h f) ∨ ∃ h f, i = .vstf h f) :
    ∃ t, exec (.farStorePerform n r.id (List.range 64)) s = .next t ∧ t.bytes pa r.size = r.data ∧
      s.sameOutside t pa r.size ∧ (t.entry n r.id).any (fun q => q.stage == .performed) = true := by
  obtain ⟨stage, none, good⟩ := quiet.unsent
  have units : (r.units.filter fun o => (List.range 64).contains (o / 8)) = r.units := by
    rw [List.filter_eq_self]
    intro o ho
    obtain ⟨i, hi, rfl⟩ := mem_units ho
    simp only [List.contains_eq_mem, List.mem_range, decide_eq_true_eq]
    omega
  have parts : ∀ o ∈ r.units, (r.dataAt o).length = min 8 r.size := fun o ho => by
    have := whole.inside o ho
    rw [PortReq.dataAt, List.length_take, List.length_drop, length]
    omega
  have pos := whole.1
  let k : PortReq → State → State := fun q b =>
    ((b.releaseFirst n q).visitUnits ((q.units.filter fun o => (List.range 64).contains (o / 8)).foldl
      (fun s o => s.storePiece n r.id o) (b.releaseFirst n q)) n q
      (q.units.filter fun o => (List.range 64).contains (o / 8))).settleStore n r.id
  have body : ∀ b, s.Begun b n r.sent → ∃ w q, k r b = w ∧ (w.ctx n).port.queue = [q] ∧ q.id = r.id ∧ q.stage = .performed ∧
      q.fence? = .none ∧ w.mem = (r.units.foldl (fun s o => s.setBytes (pa + o) (r.dataAt o)) s).mem := fun b begun => by
    obtain ⟨q, begun', p, fails, done⟩ := State.Begun.storePieces device r.units maps quiet.dests
      (fun o ho => by have := whole.inside o ho; omega)
      (fun o ho => List.ne_nil_of_length_pos (by rw [parts o ho]; omega)) (nodup_units r) begun
      (PortReq.Progress.sent stage) (by simp [PortReq.sent, none])
    have done : q.done = r.units.map fun o => (o, r.dataAt o) := done.trans (by simp [PortReq.sent, none])
    have below : q.doneBelow q.size = true := by
      rw [p.size]
      exact whole.doneBelow parts done
    have entry : State.entry (b.visitUnits (r.units.foldl (fun s o => s.storePiece n r.id o) b) n r r.units)
        n r.id = some q := by
      have := begun'.entry
      rwa [p.id] at this
    have fence : q.fence? = .none := by
      obtain ⟨h, f, rfl⟩ | ⟨h, f, rfl⟩ := store <;> rw [PortReq.fence?, p.work, work]
    refine ⟨_, { q with stage := .performed }, rfl, ?_, p.id, rfl, fence, ?_⟩
    · simp only [k, units, State.releaseFirst_empty begun.l1]
      rw [State.settleStore_done (q := q) entry (fails.trans good) below, State.ctx_onCtx_same]
      refine (congrArg (fun l => (List.map _ l)) begun'.only).trans ?_
      simp [p.id]
    · simp only [k, units, State.releaseFirst_empty begun.l1]
      rw [State.settleStore_done (q := q) entry (fails.trans good) below]
      obtain ⟨cs, ks, parts⟩ := begun'.parts
      have mem := congrArg State.mem parts
      exact mem
  obtain ⟨b, u, begun, run, finished, -⟩ := State.performing_quiet quiet maps k (fun b begun => by
    obtain ⟨w, q, rfl, queue, -, -, fence, -⟩ := body b begun
    rw [queue]
    simpa using fence)
  obtain ⟨w, q, rfl, queue, id, performed, -, mem⟩ := body b begun
  have mem := finished.mem.trans mem
  have byte : ∀ x, u.byte x = if pa ≤ x ∧ x < pa + r.size then r.data.getD (x - pa) 0 else s.byte x := fun x => by
    have := byte_foldl_setBytes (s := s) (pa := pa) r.data r.units (min 8 r.size) x r.dataAt fun o ho =>
      ⟨rfl, length ▸ whole.inside o ho⟩
    simp only [whole.covers] at this
    rw [← this, State.byte, mem, State.byte]
  refine ⟨u, ?_, ?_, fun x hx => ?_, ?_⟩
  · rw [← run]
    obtain ⟨h, f, rfl⟩ | ⟨h, f, rfl⟩ := store
    · show execFarStorePerform n r.id _ s = _
      rw [execFarStorePerform, quiet.entry]
      simp only [work, quiet.releaseReady, if_true]
      rfl
    · show execFarStorePerform n r.id _ s = _
      rw [execFarStorePerform, quiet.entry]
      simp only [work, quiet.releaseReady, if_true]
      rfl
  · refine List.ext_getElem (by rw [length_bytes, length]) fun i h h' => ?_
    have := byte (pa + i)
    rw [length_bytes] at h
    rw [if_pos (by omega), Nat.add_sub_cancel_left, List.getD_eq_getElem _ _ h'] at this
    rw [← this]
    simp [State.bytes, lookupList, State.byte]
  · rw [byte, if_neg (by omega)]
  · rw [State.entry, finished.ctx, queue]
    simp [id, performed]

end Sys2Proof.Machine

open Sys2Proof Sys2Proof.Machine

/-- Settles O37, through the pieces of the access, of eight bytes each. -/
theorem farAccessesPerform : Obligations.FarAccessesPerform := by
  intro s n pa r h f quiet maps device
  have inPieces : r.size ≤ 8 → r.InPieces := fun short => by
    have := maps.1
    refine ⟨this, ?_⟩
    have : (r.size + 7) / 8 = 1 := by omega
    rw [PortReq.units, List.length_map, List.length_range, this]
    omega
  have units : r.size ≤ 8 → r.units = [0] := fun short => by
    have := maps.1
    have : (r.size + 7) / 8 = 1 := by omega
    rw [PortReq.units, this]
    rfl
  refine ⟨fun work short good => ?_, fun work good => ?_, fun work short => ?_, fun work length => ?_⟩
  · have scope : r.scope = f.scope := by rw [PortReq.scope, PortReq.mem, work]; rfl
    obtain ⟨t, run, queue, landings, regs, mem, b, b', begun, same, l2⟩ := State.farLoad quiet maps (scope ▸ device) good
      (inPieces short) (by omega) (by rw [PortReq.slots, work]; exact Nat.one_ne_zero) work (.inl ⟨h, f, rfl⟩)
    refine ⟨t, run, ⟨queue, landings.trans ?_, regs⟩, State.sameMemory_of_mem mem, fun mode hint absent => l2.trans ?_⟩
    · have one : joinPieces r.size (s.pieces pa r.size r.units) = s.bytes pa r.size := by
        rw [units short]
        simp [State.pieces, joinPieces, overwrite, length_bytes, Nat.min_eq_right short]
      rw [one, PortReq.loadLanding, work]
    · exact State.visitUnits_unheld begun same maps (units short) mode (by rw [PortReq.hint, work]; exact hint) absent
  · have scope : r.scope = f.scope := by rw [PortReq.scope, PortReq.mem, work]; rfl
    have size : r.size = 512 := by rw [PortReq.size, work]
    have whole : r.InPieces := ⟨by omega, by rw [PortReq.units, List.length_map, List.length_range, size]; rfl⟩
    obtain ⟨t, run, queue, landings, -, mem, -⟩ := State.farLoad quiet maps (scope ▸ device) (size ▸ good)
      whole (by omega) (by rw [PortReq.slots, work]; exact Nat.succ_ne_zero 7) work (.inr ⟨h, f, rfl⟩)
    refine ⟨t, run, queue, landings.trans ?_, State.sameMemory_of_mem mem⟩
    have one : joinPieces r.size (s.pieces pa r.size r.units) = s.bytes pa 512 := by
      have := joinPieces_eights s pa 64 0
      simp only [List.replicate_zero, List.append_nil, Nat.mul_zero, Nat.add_zero, Nat.reduceMul] at this
      simp only [State.pieces, joinPieces, size, PortReq.units, Nat.reduceAdd, Nat.reduceDiv, Nat.reduceLeDiff, Nat.min_eq_left,
        List.map_map]
      exact this
    rw [one, PortReq.loadLanding, work, PortReq.isWta, work]
  · have scope : r.scope = f.scope := by rw [PortReq.scope, PortReq.mem, work]; rfl
    have data : r.data = natBytes r.size r.w1.toNat := by rw [PortReq.data, work]
    rw [← data]
    exact State.farStore quiet maps (scope ▸ device) (inPieces short) (by rw [data, natBytes_length]) (by omega)
        work (.inl ⟨h, f, rfl⟩)
  · have scope : r.scope = f.scope := by rw [PortReq.scope, PortReq.mem, work]; rfl
    have size : r.size = 512 := by rw [PortReq.size, work]
    have whole : r.InPieces := ⟨by omega, by rw [PortReq.units, List.length_map, List.length_range, size]; rfl⟩
    have data : r.data = r.vec := by rw [PortReq.data, work]
    rw [← data, ← size]
    exact State.farStore quiet maps (scope ▸ device) whole (by rw [data, length, size]) (by omega) work (.inr ⟨h, f, rfl⟩)

end

section
/-!
PROOFS. Data with an uncorrectable error (R191, R202, R249, R281; O35).
-/
namespace Sys2Proof.Machine
open Sys2Proof

/-- The part of a context that its array ops work on, and what its ops still owe. -/
def Ctx.array (c : Ctx) : MatSt × Level × Level := (c.mat, c.lv0, c.lv1)
@[simp] theorem State.onCtx_array {f : Ctx → Ctx} (s : State) (n m : Nat) (keep : ∀ c, (f c).array = c.array) :
    ((s.onCtx n f).ctx m).array = (s.ctx m).array := by
  rw [State.onCtx_eq, State.ctx_setCtx]
  split
  next e => rw [keep, e]
  next => rfl
@[simp] theorem State.array_onCore (s : State) (n : Nat) (f : Core → Core) (m : Nat) :
    ((s.onCore n f).ctx m).array = (s.ctx m).array := (rfl)
@[simp] theorem State.array_onJob (s : State) (n : Nat) (f : Job → Job) (m : Nat) : ((s.onJob n f).ctx m).array =
    (s.ctx m).array := (rfl)
@[simp] theorem Ctx.array_port (c : Ctx) (p : Port) : ({ c with port := p } : Ctx).array = c.array := (rfl)
@[simp] theorem Ctx.array_bb (c : Ctx) (b : Assoc (BitVec 48)) : ({ c with bb := b } : Ctx).array = c.array := (rfl)
@[simp] theorem Ctx.array_respond (c : Ctx) (l : Landing) : (c.respond l).array = c.array := (rfl)
@[simp] theorem Ctx.array_acquiredBy (c : Ctx) (r : PortReq) (emb : Bool) : (c.acquiredBy r emb).array = c.array := by
  unfold Ctx.acquiredBy
  dsimp only
  generalize (r.acquires emb && _) = b
  cases b <;> rfl
@[simp] theorem Ctx.array_wakeSwait (c : Ctx) (eid : Nat) (e : EnvSlot) : (c.wakeSwait eid e).array = c.array :=
  List.foldlRecOn (motive := fun x : Ctx => x.array = c.array) _ _ rfl fun x h r _ => by
    refine Eq.trans ?_ h
    dsimp only
    split <;> rfl
@[simp] theorem Ctx.array_outcome (c : Ctx) (eid st cause : Nat) : (c.outcome eid st cause).array = c.array :=
  List.foldlRecOn (motive := fun x : Ctx => x.array = c.array) _ _ rfl fun x h r _ => (Ctx.array_wakeSwait _ _ _).trans h
@[simp] theorem Ctx.array_completeSignal (c : Ctx) (k : Option Nat) : (c.completeSignal k).array = c.array := by
  cases k <;> rfl

@[simp] theorem Ctx.array_subCounter (c : Ctx) (bb : Option Nat) (n : Nat) : (c.subCounter bb n).array = c.array := by
  have woken : ∀ (d : Ctx) (k : Nat), (d.wakeBbw k).array = d.array := by
    intro d k
    unfold Ctx.wakeBbw
    split
    · rfl
    · exact List.foldlRecOn (motive := fun x : Ctx => x.array = d.array) _ _ rfl fun x e r _ => e
  unfold Ctx.subCounter
  split
  · rfl
  · exact (woken _ _).trans rfl

@[simp] theorem Ctx.array_addDamage (c : Ctx) (a b d : Nat) : (c.addDamage a b d).array = c.array := (rfl)

@[simp] theorem State.array_foldl {α : Type} {f : State → α → State} (l : List α) (s : State) (m : Nat)
    (keep : ∀ s a, ((f s a).ctx m).array = (s.ctx m).array) : ((l.foldl f s).ctx m).array = (s.ctx m).array :=
  List.foldlRecOn (motive := fun t : State => (t.ctx m).array = (s.ctx m).array) l f rfl fun t e a _ => (keep t a).trans e

@[simp] theorem State.array_addPending (s : State) (n : Nat) (p : Pending) (k : Nat) :
    ((s.addPending n p).ctx k).array = (s.ctx k).array := by
  unfold State.addPending
  split <;> rfl

@[simp] theorem State.array_setOutcome (s : State) (eid st cause : Nat) (m : Nat) :
    ((s.setOutcome eid st cause).ctx m).array = (s.ctx m).array := by
  have owed := State.array_foldl (f := fun (s : State) (p : Nat × Ctx) => s.addPending p.1 (.envelope eid st cause))
    (s.ctxs.filter fun p => p.2.life.state == .saved && p.2.env.any fun p => p.2.eid == eid &&
        (p.2.state == 1 || p.2.state == 2))
    s m fun s a => State.array_addPending ..
  unfold State.setOutcome
  refine Eq.trans (congrArg Ctx.array
    (State.ctx_mapCtxs (g := fun c => if c.life.state != .saved then c.outcome eid st cause else c) rfl _ m)) ?_
  rw [apply_ite Ctx.array, Ctx.array_outcome, ite_self]
  exact owed

@[simp] theorem State.array_onCoord (s : State) (eid : Nat) (f : Coord → Coord) (k : Nat) :
    ((s.onCoord eid f).ctx k).array = (s.ctx k).array := (rfl)

@[simp] theorem State.array_send (s : State) (dst : Nat) (m : Msg) (k : Nat) :
    ((s.send dst m).ctx k).array = (s.ctx k).array := (rfl)

@[simp] theorem State.array_setSem (s : State) (n h v k : Nat) :
    ((s.setSem n h v).ctx k).array = (s.ctx k).array := (rfl)

@[simp] theorem State.array_addSem (s : State) (n h v k : Nat) :
    ((s.addSem n h v).ctx k).array = (s.ctx k).array := (rfl)

@[simp] theorem State.array_raiseSem (s : State) (n h v k : Nat) :
    ((s.raiseSem n h v).ctx k).array = (s.ctx k).array := by
  unfold State.raiseSem
  split <;> simp

@[simp] theorem State.array_completionIncrement (s : State) (j : Job) (m : Nat) :
    ((s.completionIncrement j).ctx m).array = (s.ctx m).array := by
  unfold State.completionIncrement
  dsimp only
  repeat' split
  case isFalse.isFalse.isTrue =>
    refine State.array_foldl _ _ _ fun t n => ?_
    split <;> simp
  all_goals simp

@[simp] theorem State.array_fireSignal (s : State) (n : Nat) (sig : Option Nat) (m : Nat) :
    ((s.fireSignal n sig).ctx m).array = (s.ctx m).array := by
  unfold State.fireSignal
  dsimp only
  repeat' split
  all_goals simp

@[simp] theorem State.array_completeJob (s : State) (j : Job) (m : Nat) : ((s.completeJob j).ctx m).array =
    (s.ctx m).array := by
  have kept : ∀ t : State, (State.ctx
      { t.onCore (coreOf j.ctx) (fun k => { k with board := k.board.filter fun e => e.job != j.id }) with
        jobs := t.jobs.filter fun k => k.id != j.id } m).array = (t.ctx m).array := fun t => rfl
  unfold State.completeJob
  obtain ⟨a, b, d⟩ := j.damage
  refine (kept _).trans ?_
  repeat' split
  all_goals simp

@[simp] theorem State.array_subBytes (s : State) (j : Job) (n k : Nat) :
    ((s.subBytes j n).ctx k).array = (s.ctx k).array := by
  unfold State.subBytes
  dsimp only
  (repeat' split) <;> simp

@[simp] theorem State.array_dropSealed (s : State) (eid k : Nat) :
    ((s.dropSealed eid).ctx k).array = (s.ctx k).array := by
  simp [State.dropSealed]

@[simp] theorem State.array_decideEnvelope (s : State) (eid cause k : Nat) :
    ((s.decideEnvelope eid cause).ctx k).array = (s.ctx k).array := by
  unfold State.decideEnvelope
  dsimp only
  (repeat' split) <;> simp

@[simp] theorem State.array_voidOpen (s : State) (n cause k : Nat) :
    ((s.voidOpen n cause).ctx k).array = (s.ctx k).array := by
  simp [State.voidOpen]

@[simp] theorem State.array_cancelJob (s : State) (j : Job) (m : Nat) : ((s.cancelJob j).ctx m).array = (s.ctx m).array :=
  State.onCtx_array s j.ctx m fun c => Ctx.array_subCounter ..

@[simp] theorem State.array_endJobs (s : State) (n m : Nat) : ((s.endJobs n).ctx m).array = (s.ctx m).array :=
  State.array_foldl _ s m fun s j => State.array_cancelJob ..

@[simp] theorem State.array_postRecord (s : State) (vf : Nat) (r : List Byte) (k : Nat) :
    ((s.postRecord vf r).ctx k).array = (s.ctx k).array := (rfl)

@[simp] theorem State.array_withdraw (s : State) (n k : Nat) :
    ((s.withdraw n).ctx k).array = (s.ctx k).array := (rfl)

@[simp] theorem State.array_leaveSets (s : State) (n k : Nat) :
    ((s.leaveSets n).ctx k).array = (s.ctx k).array := (rfl)

@[simp] theorem State.array_setCause (s : State) (cell cause k : Nat) :
    ((s.setCause cell cause).ctx k).array = (s.ctx k).array := (rfl)

@[simp] theorem State.array_setTag (s : State) (cell t k : Nat) :
    ((s.setTag cell t).ctx k).array = (s.ctx k).array := (rfl)

@[simp] theorem State.array_portFault (s : State) (n id : Nat) (t : Trapped) (m : Nat) :
    ((s.portFault n id t).ctx m).array = (s.ctx m).array :=
  State.onCtx_array s n m fun c => by split <;> rfl

@[simp] theorem State.array_settleLoad (s : State) (n id : Nat) (m : Nat) :
    ((s.settleLoad n id).ctx m).array = (s.ctx m).array := by
  unfold State.settleLoad
  dsimp only
  repeat' split
  case h_1.isTrue => exact State.array_portFault ..
  case h_2.isTrue => exact State.onCtx_array _ _ _ fun c => (Ctx.array_acquiredBy ..).trans (Ctx.array_respond ..)
  all_goals rfl

@[simp] theorem State.array_answer (s : State) (w : EmbWaiter) (r : Except Trapped (List Byte)) (m : Nat) :
    ((s.answer w r).ctx m).array = (s.ctx m).array := by
  unfold State.answer
  split
  · exact (State.array_settleLoad ..).trans (State.onCtx_array _ _ _ fun c => rfl)
  · rfl
  · rfl

@[simp] theorem State.array_answerAll (s : State) (cell : Nat) (r : Nat → Except Trapped (List Byte)) (m : Nat) :
    ((s.answerAll cell r).ctx m).array = (s.ctx m).array :=
  State.array_foldl _ _ m fun s w => State.array_answer ..

@[simp] theorem State.array_failCell (s : State) (cell cause : Nat) (m : Nat) :
    ((s.failCell cell cause).ctx m).array = (s.ctx m).array := by
  unfold State.failCell
  refine (State.array_answerAll ..).trans ?_
  show (((s.setTag cell 3).setCause cell cause).ctx m).array = _
  rw [State.array_setCause, State.array_setTag]

@[simp] theorem State.array_abandon (s : State) (n k : Nat) :
    ((s.abandon n).ctx k).array = (s.ctx k).array := by
  unfold State.abandon
  split <;> simp

@[simp] theorem State.array_abandonDone (s : State) (n k : Nat) :
    ((s.abandonDone n).ctx k).array = (s.ctx k).array := by
  unfold State.abandonDone
  dsimp only
  (repeat' split) <;> simp

@[simp] theorem State.array_onSel (s : State) (core : Nat) (f : Selector → Selector) (k : Nat) :
    ((s.onSel core f).ctx k).array = (s.ctx k).array := (rfl)

@[simp] theorem State.array_settleRound (s : State) (core k : Nat) :
    ((s.settleRound core).ctx k).array = (s.ctx k).array := by
  unfold State.settleRound
  split <;> simp

@[simp] theorem State.array_leaveTurn (s : State) (n k : Nat) :
    ((s.leaveTurn n).ctx k).array = (s.ctx k).array := by
  simp [State.leaveTurn]

@[simp] theorem State.array_meetNeeds (s : State) (n k : Nat) :
    ((s.meetNeeds n).ctx k).array = (s.ctx k).array := (rfl)

@[simp] theorem State.array_dropFetches (s : State) (n k : Nat) :
    ((s.dropFetches n).ctx k).array = (s.ctx k).array := (rfl)

end Sys2Proof.Machine
end
section
namespace Sys2Proof.Machine
open Sys2Proof

variable {s t : State} {n pa : Nat} {r q : PortReq}

/-! ## Errors in the scratchpad -/

theorem State.spBad_setSpByte (s : State) (n : Nat) (w : Nat × Byte) (x : Nat) :
    (s.setSpByte n w).spBad n x = (x != w.1 && s.spBad n x) := by
  have key : ((s.ctx n).id.spBase + x != (s.ctx n).id.spBase + w.1) = (x != w.1) := by
    rw [Bool.eq_iff_iff]
    simp
  have kept : ((s.setSpByte n w).ctx n) = s.ctx n := rfl
  simp only [State.spBad, kept]
  rw [State.setSpByte, State.onCore_eq, State.core_setCore, if_pos rfl, Bool.eq_iff_iff]
  simp only [List.contains_iff_mem, List.mem_filter, key, Bool.and_eq_true]
  exact and_comm

/-- A byte that is written holds no error. -/
theorem State.spBad_setSpBytes {n x : Nat} (ws : List (Nat × Byte)) (s : State) :
    (s.setSpBytes n ws).spBad n x = (ws.all (fun w => x != w.1) && s.spBad n x) := by
  induction ws generalizing s with
  | nil => simp [State.setSpBytes]
  | cons w ws ih =>
    rw [State.setSpBytes, List.foldl_cons, ← State.setSpBytes, ih, State.spBad_setSpByte, List.all_cons, Bool.and_left_comm,
      Bool.and_assoc]

theorem State.spBad_onCtx {f : Ctx → Ctx} (keep : ∀ c, (f c).id = c.id) (s : State) (n m x : Nat) :
    (s.onCtx n f).spBad m x = s.spBad m x := by
  have id : ((s.onCtx n f).ctx m).id = (s.ctx m).id := by
    rw [State.onCtx_eq, State.ctx_setCtx]
    split
    next h => rw [keep, h]
    next => rfl
  rw [State.spBad, id]
  rfl

theorem State.spBad_applyStore (s : State) (n : Nat) (lvl : Bool) (e : Deferred) (x : Nat) :
    (s.applyStore n lvl e).spBad n x = (s.setSpBytes n e.eff.stores).spBad n x := by
  unfold State.applyStore
  split
  next none => rw [none]; rfl
  next =>
    rw [State.spBad_onCtx]
    exact fun c => rfl

theorem State.spBad_landEntries {e : Deferred} {ents size ea : Nat} {ws : List (Nat × Nat × Nat)} (slot : e.slot < 7)
    (eff : e.eff = .store ents size ea ws) (s : State) (n x : Nat) :
    (s.landEntries n [e]).spBad n x = (e.eff.stores.all (fun w => x != w.1) && s.spBad n x) := by
  have one : sortKey (fun d : Deferred => 8 * d.seq + d.slot) [e] = [e] := rfl
  have read : s.readEffect n e.eff = e.eff := by rw [eff]; rfl
  have write : ∀ c : Ctx, c.applyWrite e.eff = c := fun c => by rw [eff]; rfl
  have flags : ∀ c : Ctx, c.applyFlags e.eff = c := fun c => by rw [eff]; rfl
  simp only [State.landEntries, one, bySlot_singleton slot, List.map_cons, List.map_nil, List.foldl_cons, List.foldl_nil, read,
    write, flags]
  rw [State.spBad_onCtx fun c => Ctx.id_completeSignal c _, State.spBad_onCtx fun c => rfl, State.spBad_applyStore,
    State.spBad_setSpBytes, State.spBad_onCtx fun c => Ctx.id_onLevel c _, State.spBad_onCtx fun c => rfl]

section
variable {e : Deferred} (only : (s.ctx n).level.deferred = [e]) (due : e.due ≤ (s.ctx n).level.count)
include only due

/-- A store that is due clears the errors of the bytes it writes. -/
theorem State.landDue_clears {ents size ea : Nat} {ws : List (Nat × Nat × Nat)} (slot : e.slot < 7)
    (eff : e.eff = .store ents size ea ws) :
    ∃ t, s.landDue n = .landed t ∧ ∀ w ∈ e.eff.stores, t.spBad n w.1 = false := by
  have reads : e.eff.reads = [] := by rw [eff]; rfl
  refine ⟨_, State.landDue_single only due (by rw [Ctx.dataArrived, eff]) (by simp [Ctx.awaitsTile, reads])
    (Ctx.awaitsArray_of_eff eff nofun) (by simp [Ctx.awaitsResult, eff, Effect.target]) (by simp [State.readsBad, reads]),
    fun w hw => ?_⟩
  have written : (e.eff.stores.all fun y => w.1 != y.1) = false := by
    rw [List.all_eq_false]
    exact ⟨w, hw, by simp⟩
  rw [State.spBad_landEntries slot eff, written, Bool.false_and]

/-- A load that is due of bytes with an error does not land. -/
theorem State.landDue_broken (idle : (s.ctx n).mat.queue = []) {d ty a : Nat} (eff : e.eff = .loadScalar d ty a)
    (bad : ∃ x ∈ e.eff.reads, s.spBad n x = true) : s.landDue n = .broken := by
  have now : (s.ctx n).dueNow = [e] := by simp [Ctx.dueNow, only, due]
  have arrived : (s.ctx n).dataArrived e = true := by rw [Ctx.dataArrived, eff]
  have tile : (s.ctx n).awaitsTile e = false := by simp [Ctx.awaitsTile, idle]
  have array : (s.ctx n).awaitsArray e = false := Ctx.awaitsArray_of_eff eff nofun
  have free : (s.ctx n).arrayTargets = [] := by simp [Ctx.arrayTargets, idle]
  have result : (s.ctx n).awaitsResult e = false := by simp [Ctx.awaitsResult, free]
  have reads : s.readsBad n e = true := by simpa [State.readsBad] using bad
  simp [State.landDue, now, arrived, tile, array, result, reads]

end

/-! ## Errors in the data of far accesses -/

/-- A later fault of the one access of a port. -/
theorem State.portFault_only (only : ∃ acq, t.ctx n = { s.ctx n with port := { (s.ctx n).port with queue := [q], acquired := acq } })
    (id : q.id = r.id) (quiet : s.quiet n r) (x : Trapped) :
    (t.portFault n r.id x).faults n r x ∧ (∀ p ∈ ((t.portFault n r.id x).ctx n).port.queue, p.work = q.work) := by
  obtain ⟨-, -, -, mute, -⟩ := quiet
  obtain ⟨acq, ctx⟩ := only
  have after : (t.portFault n r.id x).ctx n = { s.ctx n with port := { (s.ctx n).port with
      queue := [{ q with stage := .faulted, done := [], fails := [] }], acquired := acq,
      faults := (s.ctx n).port.faults ++ [⟨r.id, x⟩] } } := by
    rw [State.portFault, State.ctx_onCtx_same, ctx]
    simp [mute, Port.change, id]
  refine ⟨⟨?_, ?_⟩, fun p hp => ?_⟩
  · rw [after]
    exact List.getLast?_concat
  · rw [State.entry, after]
    simp [id]
  · rw [after, List.mem_singleton] at hp
    rw [hp]

/-- An operation of the home agent on data with an uncorrectable error. -/
theorem State.atHome_bad (quiet : s.quiet n r) (maps : s.mapsTo n r pa false) (bad : s.isBad pa r.size = true)
    (k : PortReq → Nat → State → State) (fence : r.fence? = none) :
    ∃ u, s.atHome n r.id k = .next u ∧ u.faults n r ⟨.ecc, 0⟩ ∧ s.sameMemory u := by
  have fault : ∀ t, s.Begun t n r.sent → (t.portFault n r.id ⟨.ecc, 0⟩).faults n r ⟨.ecc, 0⟩ ∧
      (∀ p ∈ ((t.portFault n r.id ⟨.ecc, 0⟩).ctx n).port.queue, p.work = r.work) := fun t begun =>
      State.portFault_only (r := r) begun.ctx rfl quiet _
  obtain ⟨t, u, begun, run, finished⟩ := State.atHome_quiet quiet maps k bad fun t begun p hp => by
    rw [PortReq.fence?, (fault t begun).2 p hp]
    exact fence
  obtain ⟨last, stage⟩ := (fault t begun).1
  refine ⟨u, run, ⟨?_, ?_⟩, State.sameMemory_of_mem (finished.mem.trans begun.mem)⟩
  · rw [finished.ctx]
    exact last
  · rw [State.entry, finished.ctx]
    exact stage

/-- A load of one unit that has failed is sent. -/
theorem State.loadSent_failed {id : Nat} {x : Trapped} (entry : t.entry n id = some q) (busy : q.stage = .pending)
    (units : q.units = [0])
    (empty : q.done = []) (fails : q.fails = [(0, x)]) : t.loadSent n id =
      t.onCtx n fun c => { c with port := c.port.change id fun q => { q with stage := .emberWait } } := by
  unfold State.loadSent
  rw [entry]
  simp [busy, units, empty, fails]

/-- A load whose lowest unit has failed faults. -/
theorem State.settleLoad_failed {id : Nat} {x : Trapped} (entry : t.entry n id = some q) (empty : q.done = [])
    (fails : q.fails = [(0, x)]) : t.settleLoad n id =
      State.portFault { t with waiters := t.waiters.filter fun y => y.loader != Loader.port n id } n id x := by
  have entry : (t.ctx n).port.queue.find? (fun q => q.id == id) = some q := entry
  unfold State.settleLoad
  rw [entry]
  simp [fails, PortReq.doneBelow, empty]

/-- A load of one piece whose data hold an error. -/
theorem State.farLoad_bad (quiet : s.quiet n r) (maps : s.mapsTo n r pa false) (device : 2 ≤ r.scope) (bad :
    s.isBad pa r.size = true)
    (short : r.size ≤ 8) {h : Hdr} {f : MemF} (work : r.work = .op (.ldf h f)) :
    ∃ u, exec (.farLoadPerform n r.id (List.range 64)) s = .next u ∧ u.faults n r ⟨.ecc, 0⟩ ∧ s.sameMemory u := by
  obtain ⟨stage, none, good⟩ := quiet.unsent
  have units : r.units = [0] := by
    have := maps.1
    have : (r.size + 7) / 8 = 1 := by omega
    rw [PortReq.units, this]
    rfl
  have offs : (r.units.filter fun o => (List.range 64).contains (o / 8)) = [0] := by rw [units]; rfl
  let k : PortReq → State → State := fun q b =>
    ((b.visitUnits ((q.units.filter fun o => (List.range 64).contains (o / 8)).foldl (fun s o => s.loadPiece n r.id o) b) n q
      (q.units.filter fun o => (List.range 64).contains (o / 8))).loadSent n r.id).settleLoad n r.id
  let failed : PortReq := { r.sent with fails := [(0, ⟨.ecc, 0⟩)] }
  have loaded : r.sent.loaded s pa 0 = failed := by
    have all : min 8 r.sent.size = r.size := Nat.min_eq_right short
    rw [PortReq.loaded, all, Nat.add_zero, if_pos bad, PortReq.sent, good]
    rfl
  have body : ∀ b, s.Begun b n r.sent → (k r b).faults n r ⟨.ecc, 0⟩ ∧ (∀ p ∈ ((k r b).ctx n).port.queue, p.work = r.work) ∧
      (k r b).mem = s.mem := fun b begun => by
    have piece := begun.loadPiece (off := 0) (PortReq.Progress.sent stage) maps quiet.dests device maps.1
        (by simp [PortReq.sent, none])
    rw [loaded] at piece
    have waits := piece.change (fun q => { q with stage := .emberWait }) (by simp [PortReq.isWaitingWta])
    let w := (State.onCtx (b.visitUnits (b.loadPiece n r.id 0) n r [0]) n fun c =>
      { c with port := c.port.change r.id fun q => { q with stage := .emberWait } })
    have sent : (b.visitUnits (b.loadPiece n r.id 0) n r [0]).loadSent n r.id = w :=
      State.loadSent_failed (q := failed) piece.entry stage units none rfl
    have settled : w.settleLoad n r.id =
        State.portFault { w with waiters := w.waiters.filter fun x => x.loader != Loader.port n r.id } n r.id ⟨.ecc, 0⟩ :=
      State.settleLoad_failed (q := { failed with stage := .emberWait }) waits.entry none rfl
    have run : k r b = w.settleLoad n r.id := by
      simp only [k, offs]
      exact congrArg (fun t => State.settleLoad t n r.id) sent
    rw [run, settled]
    obtain ⟨faults, works⟩ := State.portFault_only (r := r) (t := { w with waiters := w.waiters.filter fun x => x.loader != Loader.port n r.id })
      waits.ctx rfl quiet ⟨.ecc, 0⟩
    refine ⟨faults, works, ?_⟩
    obtain ⟨cs, ks, parts⟩ := piece.parts
    have mem := congrArg State.mem parts
    exact mem
  obtain ⟨b, u, begun, run, finished, -⟩ := State.performing_quiet quiet maps k fun b begun p hp => by
    rw [PortReq.fence?, (body b begun).2.1 p hp, work]
  obtain ⟨⟨last, stage⟩, -, mem⟩ := body b begun
  refine ⟨u, ?_, ⟨?_, ?_⟩, State.sameMemory_of_mem (finished.mem.trans mem)⟩
  · rw [← run]
    show execFarLoadPerform n r.id _ s = _
    rw [execFarLoadPerform, quiet.entry]
    simp only [work]
    rfl
  · rw [finished.ctx]
    exact last
  · rw [State.entry, finished.ctx]
    exact stage

/-! ## The end of a context -/

theorem State.mat_of_array (h : ((t.ctx n).array = (s.ctx n).array)) : (t.ctx n).mat = (s.ctx n).mat := congrArg Prod.fst h

theorem State.owed_of_array (h : ((t.ctx n).array = (s.ctx n).array)) : (t.ctx n).allDeferred = (s.ctx n).allDeferred :=
  congrArg (fun x => x.2.1.deferred ++ x.2.2.deferred) h

/-- What one entry still owed to a window or a tile leaves as a context ends (the step of `State.landStores`). -/
def State.landStore (n : Nat) (lvl : Bool) (s : State) (d : Deferred) : State :=
  if (s.ctx n).awaitsArray d then s
  else match d.eff with
  | .store _ _ _ _ => (s.applyStore n lvl d).onCtx n fun c => c.completeSignal d.sig
  | .tileBytes t ws => s.onCtx n fun c => (c.setTileBytes t ws).completeSignal d.sig
  | _ => s

theorem Ctx.acc_setTileBytes (c : Ctx) (i : Nat) (ws : List (Nat × Byte)) : (c.setTileBytes i ws).mat.acc = c.mat.acc :=
  List.foldlRecOn (motive := fun x : Ctx => x.mat.acc = c.mat.acc) ws _ rfl fun _ e _ _ => e

theorem State.mat_applyStore (s : State) (n : Nat) (lvl : Bool) (d : Deferred) :
    ((s.applyStore n lvl d).ctx n).mat.acc = (s.ctx n).mat.acc ∧ ((s.applyStore n lvl d).ctx n).mat.tiles =
        (s.ctx n).mat.tiles := by
  unfold State.applyStore
  split
  · exact ⟨rfl, rfl⟩
  · rw [State.ctx_onCtx_same, State.ctx_setSpBytes]
    exact ⟨rfl, rfl⟩

/-- It leaves the accumulators, and the tiles where it is no tile write. -/
theorem State.landStore_keeps (s : State) (n : Nat) (lvl : Bool) (d : Deferred) :
    ((s.landStore n lvl d).ctx n).mat.acc = (s.ctx n).mat.acc ∧
      ((∀ i ws, d.eff ≠ .tileBytes i ws) → ((s.landStore n lvl d).ctx n).mat.tiles = (s.ctx n).mat.tiles) := by
  unfold State.landStore
  split
  · exact ⟨rfl, fun _ => rfl⟩
  · split
    · obtain ⟨acc, tiles⟩ := State.mat_applyStore s n lvl d
      rw [State.ctx_onCtx_same, Ctx.mat_completeSignal]
      exact ⟨acc, fun _ => tiles⟩
    next i ws eff =>
      rw [State.ctx_onCtx_same, Ctx.mat_completeSignal]
      exact ⟨Ctx.acc_setTileBytes .., fun h => absurd eff (h i ws)⟩
    · exact ⟨rfl, fun _ => rfl⟩

theorem mem_byDue {d : Deferred} {ds : List Deferred} (h : d ∈ byDue ds) : d ∈ ds := by
  obtain ⟨k, -, hd⟩ := List.mem_flatMap.1 h
  exact List.mem_of_mem_filter (mem_of_mem_bySlot hd)

/-- The stores that a context's end still makes leave the accumulators, and the tiles where no tile write is owed. -/
theorem State.landStores_keeps (s : State) (n : Nat) :
    ((s.landStores n).ctx n).mat.acc = (s.ctx n).mat.acc ∧
      ((∀ d ∈ (s.ctx n).allDeferred, ∀ i ws, d.eff ≠ .tileBytes i ws) →
        ((s.landStores n).ctx n).mat.tiles = (s.ctx n).mat.tiles) := by
  have folded : ∀ (lvl : Bool) (ds : List Deferred) (t : State), (((byDue ds).foldl (State.landStore n lvl)
      t).ctx n).mat.acc = (t.ctx n).mat.acc ∧
      ((∀ d ∈ ds, ∀ i ws, d.eff ≠ .tileBytes i ws) →
        (((byDue ds).foldl (State.landStore n lvl) t).ctx n).mat.tiles = (t.ctx n).mat.tiles) := fun lvl ds t =>
    List.foldlRecOn (motive := fun u : State => (u.ctx n).mat.acc = (t.ctx n).mat.acc ∧
      ((∀ d ∈ ds, ∀ i ws, d.eff ≠ .tileBytes i ws) → (u.ctx n).mat.tiles = (t.ctx n).mat.tiles)) _ _ ⟨rfl, fun _ => rfl⟩
      fun u ⟨acc, tiles⟩ d hd => by
        obtain ⟨acc', tiles'⟩ := State.landStore_keeps u n lvl d
        exact ⟨acc'.trans acc, fun h => (tiles' (h d (mem_byDue hd))).trans (tiles h)⟩
  obtain ⟨acc, tiles⟩ := folded true (s.ctx n).lv1.deferred s
  obtain ⟨acc', tiles'⟩ := folded false (s.ctx n).lv0.deferred ((byDue (s.ctx n).lv1.deferred).foldl
      (State.landStore n true) s)
  exact ⟨acc'.trans acc, fun h => (tiles' fun d hd => h d (List.mem_append_left _ hd)).trans
    (tiles fun d hd => h d (List.mem_append_right _ hd))⟩

/-- A context that ends keeps its accumulators, and its tiles where no tile write is owed. -/
theorem State.endContext_keeps (s : State) (n : Nat) (mute : Bool) :
    ((s.endContext n mute).ctx n).mat.acc = (s.ctx n).mat.acc ∧
      ((∀ d ∈ (s.ctx n).allDeferred, ∀ i ws, d.eff ≠ .tileBytes i ws) →
        ((s.endContext n mute).ctx n).mat.tiles = (s.ctx n).mat.tiles) := by
  have array : ∀ u : State, ((((u.withdraw n).leaveSets n).abandonDone n).leaveTurn n |>.ctx n).array =
      (u.ctx n).array := fun u => by
    rw [State.array_leaveTurn, State.array_abandonDone, State.array_leaveSets, State.array_withdraw]
  let v := if mute then (s.voidOpen n (if mute then 7 else 6)).endJobs n else s.voidOpen n (if mute then 7 else 6)
  let w := if (v.ctx n).life.state = .saved then v else v.landStores n
  have before : (v.ctx n).array = (s.ctx n).array := by
    simp only [v]
    split
    · rw [State.array_endJobs, State.array_voidOpen]
    · rw [State.array_voidOpen]
  have owed : (v.ctx n).allDeferred = (s.ctx n).allDeferred := State.owed_of_array before
  have mat : (v.ctx n).mat = (s.ctx n).mat := State.mat_of_array before
  have landed : (w.ctx n).mat.acc = (s.ctx n).mat.acc ∧
      ((∀ d ∈ (s.ctx n).allDeferred, ∀ i ws, d.eff ≠ .tileBytes i ws) → (w.ctx n).mat.tiles = (s.ctx n).mat.tiles) := by
    rw [← mat, ← owed]
    simp only [w]
    split
    · exact ⟨rfl, fun _ => rfl⟩
    · exact State.landStores_keeps v n
  have ended : ((s.endContext n mute).ctx n).mat = (w.ctx n).mat := by
    refine (State.mat_of_array (array _)).trans ?_
    rw [State.ctx_onCtx_same]
    exact State.mat_of_array (State.array_dropFetches w n n)
  rw [ended]
  exact landed

/-- A fatal cause keeps the accumulators, and the tiles where no tile write is owed. -/
theorem State.retireFatal_keeps (s : State) (n : Nat) (x : Trapped) (pc : Dword) (extra : Nat) :
    ((s.retireFatal n x pc extra).ctx n).mat.acc = (s.ctx n).mat.acc ∧
      ((∀ d ∈ (s.ctx n).allDeferred, ∀ i ws, d.eff ≠ .tileBytes i ws) →
        ((s.retireFatal n x pc extra).ctx n).mat.tiles = (s.ctx n).mat.tiles) := by
  have pc : ((s.onCtx n fun c => { c with trap := { c.trap with pc := pc } }).ctx n).array = (s.ctx n).array :=
    State.onCtx_array s n n (f := fun c => { c with trap := { c.trap with pc := pc } }) fun c => rfl
  unfold State.retireFatal
  generalize hu : (s.onCtx n fun c => { c with trap := { c.trap with pc := _ } }) = u at pc ⊢
  have kept : ∀ (vf : Nat) (bs : List Byte), ((u.postRecord vf bs).ctx n).array = (s.ctx n).array := fun vf bs =>
    (State.array_postRecord ..).trans pc
  have owed : ∀ vf bs, ((u.postRecord vf bs).ctx n).allDeferred = (s.ctx n).allDeferred :=
      fun vf bs => State.owed_of_array (kept vf bs)
  have mat : ∀ vf bs, ((u.postRecord vf bs).ctx n).mat = (s.ctx n).mat := fun vf bs => State.mat_of_array (kept vf bs)
  have ends : ∀ vf bs, (((u.postRecord vf bs).endContext n true).ctx n).mat.acc = (s.ctx n).mat.acc ∧
      ((∀ d ∈ (s.ctx n).allDeferred, ∀ i ws, d.eff ≠ .tileBytes i ws) →
        (((u.postRecord vf bs).endContext n true).ctx n).mat.tiles = (s.ctx n).mat.tiles) := fun vf bs => by
    have ends := State.endContext_keeps (u.postRecord vf bs) n true
    rwa [owed, mat] at ends
  dsimp only
  exact ends _ _

/-- An array op that reads an error ends a context that runs. -/
theorem execArrayOpPerform_bad {x : ArrayOp} {rest : List ArrayOp} {u : State} (queue : (s.ctx n).mat.queue = x :: rest)
    (served : s.isServed n x = true) (after : (s.onCtx n fun c => { c with mat := { c.mat with queue := rest } }) = u)
    (read : (u.ctx n).mat.bad.any x.isRead = true) (alive : (u.ctx n).life.state = .ready) :
    execArrayOpPerform n s = .next (u.retireFatal n ⟨.ecc, 0⟩ (u.ctx n).pc 0) := by
  unfold execArrayOpPerform
  rw [queue]
  simp only [served, after, read, alive, Bool.not_true, Bool.or_true, Bool.false_eq_true, if_false, if_true, beq_self_eq_true,
    Bool.true_or]

end Sys2Proof.Machine

open Sys2Proof Sys2Proof.Machine

/-- Settles O35. -/
theorem uncorrectableErrors : Obligations.UncorrectableErrors := by
  refine ⟨fun s n e x only due slot => ⟨fun d ty a eff idle ⟨i, hi, bad⟩ => ?_, fun size lane a v eff => ?_,
      fun cause => ?_⟩,
    fun s n pa r h f quiet maps device bad => ⟨fun work short => ?_, fun work => ?_, fun work => ?_⟩,
    fun s n q rest k queue served ready hk read => ?_⟩
  · refine State.landDue_broken only due idle eff ⟨a + i, ?_, bad⟩
    rw [eff]
    exact List.mem_map_of_mem (List.mem_range.2 hi)
  · obtain ⟨t, landed, clear⟩ := State.landDue_clears only due slot eff
    refine ⟨t, landed, fun i hi => ?_⟩
    have small : i < (storeBytes a size v).length := by rwa [length_storeBytes]
    have byte := clear (storeBytes a size v)[i] (by
      rw [eff]
      simp [Effect.stores])
    rwa [getElem_storeBytes] at byte
  · obtain ⟨y, extra, retired⟩ := State.takeTrap_retires (s := s) (n := n) (x := x) (.inl (by rw [cause]; rfl)) (s.ctx n).pc
    rw [retired]
    exact (State.retireFatal_life ..).1
  · have scope : r.scope = f.scope := by rw [PortReq.scope, PortReq.mem, work]; rfl
    obtain ⟨t, run, faults, same⟩ := State.farLoad_bad quiet maps (scope ▸ device) bad short work
    exact ⟨t, _, run, rfl, faults, same⟩
  · have run : ∃ t, execAmoPerform n r.id s = .next t ∧ t.faults n r ⟨.ecc, 0⟩ ∧ s.sameMemory t := by
      unfold execAmoPerform
      exact State.atHome_bad quiet maps bad _ (by rw [PortReq.fence?, work])
    obtain ⟨t, run, faults, same⟩ := run
    exact ⟨t, _, run, rfl, faults, same⟩
  · have run : ∃ t, execRedPerform n r.id s = .next t ∧ t.faults n r ⟨.ecc, 0⟩ ∧ s.sameMemory t := by
      unfold execRedPerform
      exact State.atHome_bad quiet maps bad _ (by rw [PortReq.fence?, work])
    obtain ⟨t, run, faults, same⟩ := run
    exact ⟨t, _, run, rfl, faults, same⟩
  · let u := s.onCtx n fun c => { c with mat := { c.mat with queue := rest } }
    have here : u.ctx n = { s.ctx n with mat := { (s.ctx n).mat with queue := rest } } := State.ctx_onCtx_same ..
    have read : ((u.ctx n).mat.bad.any q.isRead) = true := by
      rw [here]
      exact List.any_eq_true.2 ⟨k, hk, read⟩
    have alive : (u.ctx n).life.state = .ready := by
      rw [here]
      exact ready
    obtain ⟨acc, tiles⟩ := State.retireFatal_keeps u n ⟨.ecc, 0⟩ (u.ctx n).pc 0
    refine ⟨u.retireFatal n ⟨.ecc, 0⟩ (u.ctx n).pc 0, ?_, (State.retireFatal_life ..).1, ?_, fun none => ?_⟩
    · exact execArrayOpPerform_bad queue served rfl read alive
    · rw [acc, here]
    · rw [tiles, here]
      rw [here]
      exact none

end

section
/-!
PROOFS. The ember ops at their cell, the loads that wait there, and the end of an evaluation (R319, R324-R328; O41).
-/
namespace Sys2Proof.Machine
open Sys2Proof

variable {s t : State} {n pa : Nat} {r q : PortReq}

/-! ## Tags and CTRL of a cell -/

theorem State.tag_setTag (s : State) (cell : Nat) {x : Nat} (hx : x < 4) : (s.setTag cell x).tag cell = x := by
  simp only [State.tag, State.setTag, lookupD_sparseSet, if_true, BitVec.toNat_ofNat]
  omega

theorem State.tag_of_set {u : State} {cell x : Nat} (small : x < 4) (tags : u.tags = (t.setTag cell x).tags) :
    u.tag cell = x :=
  Eq.trans (by rw [State.tag, tags, State.tag]) (State.tag_setTag t cell small)

theorem natOfBytes_natBytes (len v : Nat) : natOfBytes (natBytes len v) = v % 2 ^ (8 * len) := by
  induction len generalizing v with
  | zero => simp [natBytes, natOfBytes, Nat.mod_one]
  | succ len ih =>
    have rest : (natBytes (len + 1) v) = BitVec.ofNat 8 v :: natBytes len (v / 256) := by
      simp only [natBytes, List.range_succ_eq_map, List.map_cons, List.map_map, Nat.mul_zero, Nat.pow_zero, Nat.div_one]
      congr 1
      refine List.map_congr_left fun i _ => ?_
      rw [Function.comp, Nat.div_div_eq_div_mul, show 8 * i.succ = 8 + 8 * i by omega, Nat.pow_add]
    rw [rest, natOfBytes, ih, BitVec.toNat_ofNat, show 8 * (len + 1) = 8 + 8 * len by omega, Nat.pow_add]
    exact (Nat.mod_mul (x := v) (a := 256)).symm

theorem bytesLE_eq_natBytes {w : Nat} (len : Nat) (v : BitVec w) : bytesLE len v = natBytes len v.toNat := by
  refine List.map_congr_left fun i _ => BitVec.eq_of_toNat_eq ?_
  rw [BitVec.extractLsb'_toNat, Nat.shiftRight_eq_div_pow, BitVec.toNat_ofNat]

theorem length_bytesLE {w : Nat} (len : Nat) (v : BitVec w) : (bytesLE len v).length = len := by simp [bytesLE]

/-- A dword that has been written. -/
theorem State.dword_of_mem {a : Nat} {v : Dword} (mem : t.mem = (s.setBytes a (bytesLE 8 v)).mem) : t.dword a = v := by
  rw [State.dword, State.bytes_of_mem mem (length_bytesLE ..), bytesLE_eq_natBytes, natOfBytes_natBytes]
  refine BitVec.eq_of_toNat_eq ?_
  rw [BitVec.toNat_ofNat, Nat.mod_eq_of_lt (a := v.toNat) (by omega), Nat.mod_eq_of_lt v.isLt]

/-- CAUSE of a cell that has been set, and what stays. -/
theorem State.cause_of_mem {cell cause : Nat} (small : cause < 16)
    (mem : t.mem = (s.setCause cell cause).mem) : ctrlCause (t.cellCtrl cell) = cause ∧ s.sameOutside t (cell + 8) 8 := by
  refine ⟨?_, State.sameOutside_of_mem mem (length_bytesLE ..)⟩
  rw [State.cellCtrl, State.dword_of_mem mem, ctrlCause]
  have top : ((BitVec.ofNat 4 cause) ++ (s.cellCtrl cell).extractLsb' 0 60).extractLsb' 60 4 = BitVec.ofNat 4 cause :=
    BitVec.extractLsb'_append_eq_left
  refine (congrArg BitVec.toNat top).trans ?_
  rw [BitVec.toNat_ofNat]
  omega

/-! ## An op at its cell -/

theorem State.flushCtx_empty {t : State} (l1 : (t.core (coreOf n)).l1 = []) : t.flushCtx n = t := by
  rw [State.flushCtx, State.writeBackIf, l1]
  rfl

theorem State.quiet.canFlush (quiet : s.quiet n r) : s.canFlush n = true := by
  obtain ⟨-, -, -, -, -, -, -, -, -, -, -, -, -, -, l1⟩ := quiet
  simp [State.canFlush, State.canWriteBack, l1]

/-- What an ember op that writes does at its cell once its port is otherwise quiet. -/
theorem State.atCell_quiet (quiet : s.quiet n r) (maps : s.mapsTo n r pa true) (k : PortReq → Nat → State → State)
    (settled : ∀ t, s.Begun t n r.sent → ∀ q ∈ ((k r pa t).ctx n).port.queue, q.fence? = none) :
    ∃ t u, s.Begun t n r.sent ∧ s.atCell n r.id k = .next u ∧ (k r pa t).FinishedAs u := by
  have here : s.xlatePort n r 0 = .ok pa true := maps.xlate maps.1
  let perform : PortReq → State → State := fun q b =>
    let b := if q.holdsAll then b.flushCtx n else b.releaseFirst n q
    match b.xlatePort n q 0 with
    | .ok pa true => b.visitOp (k q pa b) n q pa
    | .ok _ false => b.portFault n r.id (permInfo 0x30)
    | _ => b
  have body : ∀ t, s.Begun t n r.sent → perform r t = t.visitOp (k r pa t) n r pa := fun t begun => by
    have there : t.xlatePort n r 0 = .ok pa true := (begun.xlatePort (q := r.sent) rfl rfl 0).trans here
    simp only [perform, State.flushCtx_empty begun.l1, State.releaseFirst_empty begun.l1, ite_self, there]
  obtain ⟨t, u, begun, run, finished, -⟩ := State.performing_quiet quiet maps perform fun t begun => by
    rw [body t begun]
    exact settled t begun
  refine ⟨t, u, begun, ?_, ?_⟩
  · rw [← run]
    simp only [State.atCell, quiet.entry, here, quiet.releaseReady, State.isHeld_of_none quiet.dests, quiet.canFlush, Bool.not_true,
      Bool.and_false, Bool.or_self, Bool.false_eq_true, if_false]
    rfl
  · rw [body t begun] at finished
    obtain ⟨cs, ts, l, rfl⟩ := finished
    exact ⟨cs, ts, l, rfl⟩

/-- An ember op that succeeded leaves its port empty. -/
theorem State.queue_emberDone {w : State} (queue : (w.ctx n).port.queue = [q]) (id : q.id = r.id) :
    ((w.emberDone n r).ctx n).port.queue = [] := by
  have gone : ∀ c : Ctx, c.port.queue = [] → ∀ sig, (c.completeSignal sig).port.queue = [] := fun c h sig => by
    cases sig with
    | none => exact h
    | some k => simp [Ctx.completeSignal, Port.change, h]
  rw [State.emberDone, State.ctx_onCtx_same]
  exact gone _ (by simp [queue, id]) _

/-- An ember op that changes the memory and its cell and succeeds. -/
theorem State.atCell_done (quiet : s.quiet n r) (maps : s.mapsTo n r pa true)
    {o : Host.Outcome State Fault Refusal} {k : PortReq → Nat → State → State} (op : o = s.atCell n r.id k) {w :
        State → State}
    (step : ∀ t, s.Begun t n r.sent → k r pa t = (w t).emberDone n r)
    (same : ∀ t, s.Begun t n r.sent → (w t).ctx n = t.ctx n) :
    ∃ t u, s.Begun t n r.sent ∧ o = .next u ∧ (u.ctx n).port.queue = [] ∧ u.mem = (w t).mem ∧
      u.tags = (w t).tags ∧ u.hearths = (w t).hearths := by
  have queue : ∀ t, s.Begun t n r.sent → ((k r pa t).ctx n).port.queue = [] := fun t begun => by
    rw [step t begun]
    exact State.queue_emberDone (q := r.sent) (by rw [same t begun, begun.only]) rfl
  obtain ⟨t, u, begun, run, finished⟩ := State.atCell_quiet quiet maps k fun t begun q hq => by
    rw [queue t begun] at hq
    cases hq
  have done := queue t begun
  rw [step t begun] at finished done
  refine ⟨t, u, begun, op.trans run, by rw [finished.ctx, done], finished.mem, ?_⟩
  obtain ⟨cs, ts, l, rfl⟩ := finished
  exact ⟨rfl, rfl⟩

/-- An ember op that faults at its cell. -/
theorem State.atCell_faults (quiet : s.quiet n r) (maps : s.mapsTo n r pa true)
    {o : Host.Outcome State Fault Refusal} {k : PortReq → Nat → State → State} (op : o = s.atCell n r.id k) {x : Trapped}
    (step : ∀ t, s.Begun t n r.sent → k r pa t = t.portFault n r.id x) (fence : r.fence? = none) :
    ∃ u, o = .next u ∧ u.faults n r x ∧ s.sameMemory u := by
  have fault : ∀ t, s.Begun t n r.sent → (t.portFault n r.id x).faults n r x ∧
      (∀ p ∈ ((t.portFault n r.id x).ctx n).port.queue, p.work = r.work) := fun t begun =>
    State.portFault_only (r := r) begun.ctx rfl quiet _
  obtain ⟨t, u, begun, run, finished⟩ := State.atCell_quiet quiet maps k fun t begun p hp => by
    rw [step t begun] at hp
    rw [PortReq.fence?, (fault t begun).2 p hp]
    exact fence
  rw [step t begun] at finished
  obtain ⟨last, stage⟩ := (fault t begun).1
  refine ⟨u, op.trans run, ⟨?_, ?_⟩, State.sameMemory_of_mem (finished.mem.trans begun.mem)⟩
  · rw [finished.ctx]
    exact last
  · rw [State.entry, finished.ctx]
    exact stage

theorem State.mem_setBytes_congr {a b : State} (same : a.mem = b.mem) (pa : Nat) (bs : List Byte) :
    (a.setBytes pa bs).mem = (b.setBytes pa bs).mem := by
  rw [State.setBytes, State.setBytes, same]

theorem State.tag_of_tags (same : t.tags = s.tags) (cell : Nat) : t.tag cell = s.tag cell := by
  rw [State.tag, same, State.tag]

theorem State.cellCtrl_of_mem (same : t.mem = s.mem) (cell : Nat) : t.cellCtrl cell = s.cellCtrl cell := by
  rw [State.cellCtrl, State.dword, State.bytes, same, State.cellCtrl, State.dword, State.bytes]

theorem State.mem_setCause_congr {a b : State} (same : a.mem = b.mem) (cell cause : Nat) :
    (a.setCause cell cause).mem = (b.setCause cell cause).mem := by
  rw [State.setCause, State.setCause, State.cellCtrl_of_mem same]
  exact State.mem_setBytes_congr same ..

/-- What the start of an access leaves of the cells. -/
theorem State.Begun.cells (begun : s.Begun t n q) : t.tags = s.tags ∧ t.hearths = s.hearths ∧ t.waiters = s.waiters := by
  obtain ⟨cs, ks, rfl⟩ := begun.parts
  exact ⟨rfl, rfl, rfl⟩

theorem State.Begun.region (begun : s.Begun t n q) (va : Nat) : t.region (t.ctx n).id.vf va = s.region
    (s.ctx n).id.vf va := by
  obtain ⟨acq, ctx⟩ := begun.ctx
  have id : (t.ctx n).id = (s.ctx n).id := by rw [ctx]
  rw [id]
  obtain ⟨cs, ks, rfl⟩ := begun.parts
  rfl

theorem State.Begun.ownsCell (begun : s.Begun t n q) : t.ownsCell n pa = s.ownsCell n pa := by
  obtain ⟨cs, ks, rfl⟩ := begun.parts
  rfl

theorem State.quiet.waiters (quiet : s.quiet n r) : s.waiters = [] := by
  obtain ⟨-, -, -, -, -, -, -, -, -, -, -, -, -, waiters, -⟩ := quiet
  exact waiters

/-- Nobody waits at the cells. -/
theorem State.answerAll_idle {t : State} (none : t.waiters = []) (cell : Nat) (f : Nat → Except Trapped (List Byte)) :
    t.answerAll cell f = { t with waiters := [] } := by
  simp [State.answerAll, none]

theorem State.homeWrite_cells (t : State) (pa : Nat) (bs : List Byte) :
    (t.homeWrite pa bs).tags = t.tags ∧ (t.homeWrite pa bs).hearths = t.hearths ∧
        (t.homeWrite pa bs).waiters = t.waiters := by
  unfold State.homeWrite
  split <;> exact ⟨rfl, rfl, rfl⟩

theorem State.answerAll_reaped {u : State} (none : u.waiters = []) (hs : List Hearth) (cell : Nat) (f :
    Nat → Except Trapped (List Byte)) :
    State.answerAll { u with hearths := hs } cell f = { u with hearths := hs, waiters := [] } :=
  State.answerAll_idle (t := { u with hearths := hs }) none cell f

/-- A cell is filled, or fails, and nobody waits there. -/
theorem State.fillCell_idle {t : State} (none : t.waiters = []) (cell : Nat) (bs : List Byte) :
    t.fillCell cell bs = { (t.setTag cell 0).homeWrite cell bs with
      hearths := ((t.setTag cell 0).homeWrite cell bs).hearths.filter fun h => h.cell != cell, waiters := [] } := by
  have waiters : ((t.setTag cell 0).homeWrite cell bs).waiters = [] := (State.homeWrite_cells (t.setTag cell 0)
      cell bs).2.2.trans none
  unfold State.fillCell
  generalize (t.setTag cell 0).homeWrite cell bs = u at waiters ⊢
  exact State.answerAll_reaped waiters ..

theorem State.failCell_idle {t : State} (none : t.waiters = []) (cell cause : Nat) :
    t.failCell cell cause = { (t.setTag cell 3).setCause cell cause with
      hearths := ((t.setTag cell 3).setCause cell cause).hearths.filter fun h => h.cell != cell, waiters := [] } := by
  have waiters : ((t.setTag cell 3).setCause cell cause).waiters = [] := none
  unfold State.failCell
  generalize (t.setTag cell 3).setCause cell cause = u at waiters ⊢
  exact State.answerAll_reaped waiters ..

/-- The two words of an `emake` or an `efill`. -/
def PortReq.cellWords (r : PortReq) : List Byte := bytesLE 8 r.w1 ++ bytesLE 8 r.w2

theorem length_cellWords (r : PortReq) : r.cellWords.length = 16 := by simp [PortReq.cellWords, bytesLE]

section
variable {h : Hdr} {f : MemF} (quiet : s.quiet n r) (maps : s.mapsTo n r pa true)
include quiet maps

theorem emakePerform_makes (work : r.work = .op (.emake h f)) (ok : recipeOk r.w2 = true)
    (set : ctrlSet r.w2 = (s.region (s.ctx n).id.vf r.addr.toNat).elim 0 (·.set)) (tag : s.tag pa ≠ 2) :
    ∃ t, execEmakePerform n r.id s = .next t ∧ t.tag pa = 1 ∧ t.bytes pa 16 = r.cellWords ∧ s.sameOutside t pa 16 ∧
      (t.ctx n).port.queue = [] := by
  obtain ⟨t, u, begun, run, queue, mem, tags, -⟩ := State.atCell_done quiet maps (o := execEmakePerform n r.id s) rfl
    (w := fun t => (t.setTag pa 1).setBytes pa r.cellWords) (fun t begun => by
      have here : t.tag pa = s.tag pa := State.tag_of_tags begun.cells.1 pa
      simp only [work, ok, begun.region, set, here, if_neg tag, Bool.not_true, Bool.false_eq_true, if_false, ne_eq, not_true_eq_false]
      rfl) fun t begun => rfl
  have mem : u.mem = (s.setBytes pa r.cellWords).mem := mem.trans (State.mem_setBytes_congr begun.mem ..)
  exact ⟨u, run, State.tag_of_set (t := t) (x := 1) (by omega) tags, State.bytes_of_mem mem (length_cellWords r),
    State.sameOutside_of_mem mem (length_cellWords r), queue⟩

theorem emakePerform_faults (work : r.work = .op (.emake h f)) (ok : recipeOk r.w2 = true)
    (set : ctrlSet r.w2 = (s.region (s.ctx n).id.vf r.addr.toNat).elim 0 (·.set)) (tag : s.tag pa = 2) :
    ∃ t, execEmakePerform n r.id s = .next t ∧ t.faults n r ⟨.embstore, r.addr⟩ ∧ s.sameMemory t :=
  State.atCell_faults quiet maps (o := execEmakePerform n r.id s) rfl (fun t begun => by
      have here : t.tag pa = s.tag pa := State.tag_of_tags begun.cells.1 pa
      simp only [work, ok, begun.region, set, here, if_pos tag, Bool.not_true, Bool.false_eq_true, if_false, ne_eq, not_true_eq_false])
    (by rw [PortReq.fence?, work])

theorem efillPerform_fills (work : r.work = .op (.efill h f)) (redlog : (s.ctx n).ctl.redlog = []) (owns :
    s.ownsCell n pa = true) :
    ∃ t, execEfillPerform n r.id s = .next t ∧ t.tag pa = 0 ∧ t.bytes pa 16 = r.cellWords ∧ s.sameOutside t pa 16 ∧
      (t.ctx n).port.queue = [] ∧ ∀ x ∈ t.hearths, x.cell ≠ pa := by
  have idle := fun t (begun : s.Begun t n r.sent) => State.fillCell_idle (begun.cells.2.2.trans quiet.waiters) pa r.cellWords
  obtain ⟨t, u, begun, run, queue, mem, tags, hearths⟩ := State.atCell_done quiet maps (o := execEfillPerform n r.id s) rfl
    (w := fun t => t.fillCell pa r.cellWords) (fun t begun => by
      obtain ⟨acq, ctx⟩ := begun.ctx
      have log : (t.ctx n).ctl.redlog = [] := by rw [ctx]; exact redlog
      simp only [work, log, begun.ownsCell, owns, List.isEmpty_nil, Bool.not_true, Bool.false_eq_true, if_false, if_true]
      rfl) fun t begun => by
        rw [idle t begun]
        have kept := begun.homeWrite_ctx quiet pa r.cellWords
        exact kept
  rw [idle t begun] at mem tags hearths
  have mem : u.mem = (s.setBytes pa r.cellWords).mem :=
    mem.trans ((State.homeWrite_mem ..).trans (State.mem_setBytes_congr begun.mem ..))
  have written := (State.homeWrite_cells (t.setTag pa 0) pa r.cellWords).1
  refine ⟨u, run, State.tag_of_set (t := t) (x := 0) (by omega) (tags.trans written), State.bytes_of_mem mem
      (length_cellWords r),
    State.sameOutside_of_mem mem (length_cellWords r), queue, fun x hx => ?_⟩
  have hx := hearths ▸ hx
  simpa using List.of_mem_filter hx

theorem efailPerform_fails (work : r.work = .op (.efail h f)) (owns : s.ownsCell n pa = true) :
    ∃ t, execEfailPerform n r.id s = .next t ∧ t.tag pa = 3 ∧ ctrlCause (t.cellCtrl pa) = 8 + r.w1.toNat % 8 ∧
      s.sameOutside t (pa + 8) 8 ∧ (t.ctx n).port.queue = [] := by
  let cause := 8 + r.w1.toNat % 8
  have idle := fun t (begun : s.Begun t n r.sent) => State.failCell_idle (begun.cells.2.2.trans quiet.waiters) pa cause
  obtain ⟨t, u, begun, run, queue, mem, tags, -⟩ := State.atCell_done quiet maps (o := execEfailPerform n r.id s) rfl
    (w := fun t => t.failCell pa cause) (fun t begun => by
      simp only [work, begun.ownsCell, owns, if_true]
      rfl) fun t begun => by
        rw [idle t begun]
        rfl
  rw [idle t begun] at mem tags
  have mem : u.mem = (s.setCause pa cause).mem := mem.trans (State.mem_setCause_congr (a := t.setTag pa 3) begun.mem ..)
  obtain ⟨code, outside⟩ := State.cause_of_mem (by omega) mem
  exact ⟨u, run, State.tag_of_set (t := t) (x := 3) (by omega) tags, code, outside, queue⟩

theorem earmPerform_arms (work : r.work = .op (.earm h f)) (tag : s.tag pa = 3) :
    ∃ t, execEarmPerform n r.id s = .next t ∧ t.tag pa = 1 ∧ ctrlCause (t.cellCtrl pa) = 0 ∧
      s.sameOutside t (pa + 8) 8 ∧ (t.ctx n).port.queue = [] := by
  obtain ⟨t, u, begun, run, queue, mem, tags, -⟩ := State.atCell_done quiet maps (o := execEarmPerform n r.id s) rfl
    (w := fun t => (t.setTag pa 1).setCause pa 0) (fun t begun => by
      have here : t.tag pa = s.tag pa := State.tag_of_tags begun.cells.1 pa
      simp only [work, here, tag, if_true]) fun t begun => rfl
  have mem : u.mem = (s.setCause pa 0).mem := mem.trans (State.mem_setCause_congr (a := t.setTag pa 1) begun.mem ..)
  obtain ⟨code, outside⟩ := State.cause_of_mem (by omega) mem
  exact ⟨u, run, State.tag_of_set (t := t) (x := 1) (by omega) tags, code, outside, queue⟩

theorem earmPerform_keeps (work : r.work = .op (.earm h f)) (tag : s.tag pa ≠ 3) :
    ∃ t, execEarmPerform n r.id s = .next t ∧ t.tag pa = s.tag pa ∧ s.sameMemory t ∧ (t.ctx n).port.queue = [] := by
  obtain ⟨t, u, begun, run, queue, mem, tags, -⟩ := State.atCell_done quiet maps (o := execEarmPerform n r.id s) rfl
    (w := fun t => t) (fun t begun => by
      have here : t.tag pa = s.tag pa := State.tag_of_tags begun.cells.1 pa
      simp only [work, here, if_neg tag]) fun t begun => rfl
  exact ⟨u, run, State.tag_of_tags (tags.trans begun.cells.1) pa, State.sameMemory_of_mem (mem.trans begun.mem), queue⟩

/-! ## Reads of a cell -/

/-- A read of a cell in an ember region once its port is otherwise quiet. -/
theorem State.peekCell_quiet (second : PortReq → Nat → Bool → State → Dword) {w : State → State}
    (peek : ∀ t b, s.Begun t n r.sent → b = t.visit (t.ctx n).id.vf (some r.addr.toNat) pa r.hint →
      (if r.readsWord && t.isBad pa 8 then b.portFault n r.id ⟨.ecc, 0⟩
        else b.onCtx n fun c => (c.respond { id := r.id, words := [(r.dest, t.emberStatus
            (t.ctx n).id.vf r.addr.toNat pa true),
          (r.dest + 1, second r pa true t)] }).acquiredBy r true) = w b)
    (settled : ∀ t b, s.Begun t n r.sent → b = t.visit (t.ctx n).id.vf (some r.addr.toNat) pa r.hint →
      ∀ q ∈ ((w b).ctx n).port.queue, q.fence? = none) :
    ∃ t b u, s.Begun t n r.sent ∧ b = t.visit (t.ctx n).id.vf (some r.addr.toNat) pa r.hint ∧
      s.peekCell n r.id second = .next u ∧ (w b).FinishedAs u := by
  have here : s.xlatePort n r 0 = .ok pa true := maps.xlate maps.1
  let perform : PortReq → State → State := fun q s =>
    match s.xlatePort n q 0 with
    | .ok pa emb =>
      let s := if emb then s else (s.syncLine n pa).staleLine n pa
      let status := s.emberStatus (s.ctx n).id.vf q.addr.toNat pa emb
      let word := second q pa emb s
      let s := s.visit (s.ctx n).id.vf (some q.addr.toNat) pa q.hint
      if q.readsWord && s.isBad pa 8 then s.portFault n r.id ⟨.ecc, 0⟩
      else s.onCtx n fun c =>
        let c := c.respond { id := r.id, words := [(q.dest, status), (q.dest + 1, word)] }
        c.acquiredBy q emb
    | _ => s
  have body : ∀ t, s.Begun t n r.sent → perform r t = w (t.visit (t.ctx n).id.vf (some r.addr.toNat) pa r.hint)
      := fun t begun => by
    have there : t.xlatePort n r 0 = .ok pa true := (begun.xlatePort (q := r.sent) rfl rfl 0).trans here
    rw [← peek t _ begun rfl]
    simp only [perform, there, if_true]
    rfl
  obtain ⟨t, u, begun, run, finished, -⟩ := State.performing_quiet quiet maps perform fun t begun => by
    rw [body t begun]
    exact settled t _ begun rfl
  refine ⟨t, _, u, begun, rfl, ?_, body t begun ▸ finished⟩
  rw [← run]
  simp only [State.peekCell, quiet.entry, here, State.isHeld_of_none quiet.dests, Bool.false_eq_true, if_false]
  rfl

omit maps in
/-- The answer of the one access of a port. -/
theorem State.answered_only {b : State} (only : ∃ acq, b.ctx n = { s.ctx n with port := { (s.ctx n).port with queue := [r.sent], acquired := acq } })
    (slots : r.slots ≠ 0) (ws : List (Nat × Dword)) (emb : Bool) :
    s.answered (b.onCtx n fun c => (c.respond { id := r.id, words := ws }).acquiredBy r emb) n r ws := by
  obtain ⟨-, -, state, mute, landings, -⟩ := quiet
  obtain ⟨acq, ctx⟩ := only
  obtain ⟨regs, queue', landings'⟩ := Ctx.acquiredBy_keeps ((b.ctx n).respond { id := r.id, words := ws }) r emb
  have answer := Ctx.respond_only (c := b.ctx n) (q := r.sent) (l := { id := r.id, words := ws }) (by rw [ctx]) rfl
    (by simp [PortReq.sent, slots]) (by rw [ctx]; exact landings) (by rw [ctx]; exact mute) (by rw [ctx]; rw [state]; decide)
  unfold State.answered
  rw [State.ctx_onCtx_same, queue', landings', regs, answer]
  have kept := congrArg Ctx.regs ctx
  exact ⟨rfl, rfl, kept⟩

theorem State.peekCell_answers (second : PortReq → Nat → Bool → State → Dword) (good : (r.readsWord && s.isBad pa 8) = false)
    (slots : r.slots ≠ 0) (same : ∀ t, s.Begun t n r.sent → second r pa true t = second r pa true s) :
    ∃ u, s.peekCell n r.id second = .next u ∧ s.sameMemory u ∧ u.tag pa = s.tag pa ∧
      s.answered u n r [(r.dest, s.emberStatus (s.ctx n).id.vf r.addr.toNat pa true), (r.dest + 1, second r pa true s)] := by
  let ws := [(r.dest, s.emberStatus (s.ctx n).id.vf r.addr.toNat pa true), (r.dest + 1, second r pa true s)]
  have answered : ∀ t b, s.Begun t n r.sent → b = t.visit (t.ctx n).id.vf (some r.addr.toNat) pa r.hint →
      s.answered (b.onCtx n fun c => (c.respond { id := r.id, words := ws }).acquiredBy r true) n r ws :=
          fun t b begun visited =>
    State.answered_only quiet (visited ▸ begun.ctx) slots ws true
  obtain ⟨t, b, u, begun, visited, run, finished⟩ := State.peekCell_quiet quiet maps second
    (w := fun b => b.onCtx n fun c => (c.respond { id := r.id, words := ws }).acquiredBy r true) (fun t b begun visited => by
      have status : t.emberStatus (t.ctx n).id.vf r.addr.toNat pa true = s.emberStatus
          (s.ctx n).id.vf r.addr.toNat pa true := by
        have tag := State.tag_of_tags begun.cells.1 (cellOf pa)
        have ctrl := State.cellCtrl_of_mem begun.mem (cellOf pa)
        simp only [State.emberStatus, tag, ctrl, begun.region]
      simp only [begun.isBad, good, status, same t begun, Bool.false_eq_true, if_false, ws]) fun t b begun visited =>
      (answered t b begun visited).settled
  refine ⟨u, run, State.sameMemory_of_mem (finished.mem.trans ?_), State.tag_of_tags ?_ pa,
      (answered t b begun visited).finished finished⟩
  · rw [visited]
    exact begun.mem
  · obtain ⟨cs, ts, l, rfl⟩ := finished
    rw [visited]
    exact begun.cells.1

theorem State.peekCell_faults (second : PortReq → Nat → Bool → State → Dword) (bad : (r.readsWord && s.isBad pa 8) = true)
    (fence : r.fence? = none) :
    ∃ u, s.peekCell n r.id second = .next u ∧ u.faults n r ⟨.ecc, 0⟩ ∧ s.sameMemory u := by
  have fault : ∀ t b, s.Begun t n r.sent → b = t.visit (t.ctx n).id.vf (some r.addr.toNat) pa r.hint →
      (b.portFault n r.id ⟨.ecc, 0⟩).faults n r ⟨.ecc, 0⟩ ∧ (∀ p ∈
          ((b.portFault n r.id ⟨.ecc, 0⟩).ctx n).port.queue, p.work = r.work) :=
    fun t b begun visited => State.portFault_only (r := r) (q := r.sent) (visited ▸ begun.ctx) rfl quiet _
  obtain ⟨t, b, u, begun, visited, run, finished⟩ := State.peekCell_quiet quiet maps second
    (w := fun b => b.portFault n r.id ⟨.ecc, 0⟩) (fun t b begun visited => by simp only [begun.isBad, bad, if_true])
    fun t b begun visited p hp => by
      rw [PortReq.fence?, (fault t b begun visited).2 p hp]
      exact fence
  obtain ⟨last, stage⟩ := (fault t b begun visited).1
  refine ⟨u, run, ⟨?_, ?_⟩, State.sameMemory_of_mem (finished.mem.trans ?_)⟩
  · rw [finished.ctx]
    exact last
  · rw [State.entry, finished.ctx]
    exact stage
  · rw [visited]
    exact begun.mem

theorem epeekPerform_answers (work : r.work = .op (.epeek h f)) (good : s.isBad pa 8 = false) :
    ∃ t, execEpeekPerform n r.id s = .next t ∧ s.sameMemory t ∧ t.tag pa = s.tag pa ∧
      s.answered t n r [(f.d.toNat, s.emberStatus (s.ctx n).id.vf r.addr.toNat pa true), (f.d.toNat + 1, s.dword pa)] := by
  have dest : r.dest = f.d.toNat := by rw [PortReq.dest, work]; rfl
  obtain ⟨u, run, rest⟩ := State.peekCell_answers quiet maps (fun _ pa _ s => s.dword pa) (by rw [good, Bool.and_false])
    (by rw [PortReq.slots, work]; exact Nat.one_ne_zero) fun t begun => by rw [State.dword, begun.bytes, State.dword]
  rw [dest] at rest
  refine ⟨u, ?_, rest⟩
  rw [execEpeekPerform, quiet.entry, Option.map_some, work]
  exact run

theorem epeekPerform_faults (work : r.work = .op (.epeek h f)) (bad : s.isBad pa 8 = true) :
    ∃ t, execEpeekPerform n r.id s = .next t ∧ t.faults n r ⟨.ecc, 0⟩ ∧ s.sameMemory t := by
  obtain ⟨u, run, rest⟩ := State.peekCell_faults quiet maps (fun _ pa _ s => s.dword pa)
    (by rw [bad, PortReq.readsWord, work]; rfl) (by rw [PortReq.fence?, work])
  refine ⟨u, ?_, rest⟩
  rw [execEpeekPerform, quiet.entry, Option.map_some, work]
  exact run

theorem estatPerform_answers (work : r.work = .op (.estat h f)) :
    ∃ t, execEstatPerform n r.id s = .next t ∧ s.sameMemory t ∧
      s.answered t n r [(f.d.toNat, s.emberStatus (s.ctx n).id.vf r.addr.toNat pa true),
          (f.d.toNat + 1, s.hearthWord (cellOf pa))] := by
  have dest : r.dest = f.d.toNat := by rw [PortReq.dest, work]; rfl
  obtain ⟨u, run, same, -, rest⟩ := State.peekCell_answers quiet maps (fun _ pa emb s => if emb then s.hearthWord
      (cellOf pa) else 0)
    (by rw [PortReq.readsWord, work]; rfl) (by rw [PortReq.slots, work]; exact Nat.one_ne_zero) fun t begun => by
      obtain ⟨cs, ks, rfl⟩ := begun.parts
      rfl
  rw [dest] at rest
  refine ⟨u, ?_, same, rest⟩
  rw [execEstatPerform, quiet.entry, Option.map_some, work]
  exact run

end

/-! ## Loads that wait at a cell (R311, R325, R326) -/

/-- A load that waits at the only waiter's cell. -/
structure State.WaitsThere (s : State) (cell n : Nat) (w : EmbWaiter) (r : PortReq) (h : Hdr) (f : MemF) : Prop where
  waiters  : s.waiters = [w]
  cell     : w.cell = cell
  loader   : w.loader = .port n r.id
  queue    : (s.ctx n).port.queue = [r]
  work     : r.work = .op (.ldf h f)
  none     : r.done = []
  good     : r.fails = []
  held     : r.landing = true
  low      : w.va ≤ r.addr.toNat
  high     : r.addr.toNat + r.size ≤ w.va + 16
  mute     : (s.ctx n).life.mute = false
  state    : (s.ctx n).life.state ≠ .draining
  landings : (s.ctx n).port.landings = []

section
variable {cell : Nat} {w : EmbWaiter} {h : Hdr} {f : MemF}

theorem State.WaitsThere.answerAll (there : s.WaitsThere cell n w r h f) (x : Nat → Except Trapped (List Byte)) :
    s.answerAll cell x = State.answer { s with waiters := [] } w (x w.va) := by
  simp [State.answerAll, there.waiters, there.cell]

/-- The bytes of a cell that a load gets. -/
theorem State.WaitsThere.take (there : s.WaitsThere cell n w r h f) {bs : List Byte} (length : bs.length = 16) :
    r.take w.va bs = { r with done := [(0, (bs.drop (r.addr.toNat - w.va)).take r.size)] } := by
  have low : max r.addr.toNat w.va = r.addr.toNat := Nat.max_eq_left there.low
  have high : min (r.addr.toNat + r.size) (w.va + bs.length) = r.addr.toNat + r.size := Nat.min_eq_left (length ▸ there.high)
  simp only [PortReq.take, low, high, there.none, Nat.sub_self, List.nil_append, Nat.add_sub_cancel_left]

/-- A load that waits gets its bytes when its cell is filled. -/
theorem State.WaitsThere.filled (there : s.WaitsThere cell n w r h f) {bs : List Byte} (length : bs.length = 16) :
    (s.answerAll cell fun _ => .ok bs).waiters = [] ∧ ((s.answerAll cell fun _ => .ok bs).ctx n).port.queue = [] ∧
      ((s.answerAll cell fun _ => .ok bs).ctx n).port.landings =
        [{ id := r.id, words := [(f.d.toNat, loadedValue h.typ ((bs.drop (r.addr.toNat - w.va)).take r.size))] }] := by
  let piece := (bs.drop (r.addr.toNat - w.va)).take r.size
  let got : PortReq := { r with done := [(0, piece)] }
  have whole : piece.length = r.size := by
    have := there.high
    have := there.low
    simp only [piece, List.length_take, List.length_drop]
    omega
  have size : got.size = r.size := rfl
  let v := State.onCtx { s with waiters := [] } n fun c => { c with port := c.port.change r.id fun q => q.take w.va bs }
  have queue : (v.ctx n).port.queue = [got] := by
    rw [State.ctx_onCtx_same]
    have one : (s.ctx n).port.queue.map (fun q => if q.id = r.id then q.take w.va bs else q) = [got] := by
      rw [there.queue]
      simp only [List.map_cons, List.map_nil, if_true, there.take length, got, piece]
    exact one
  have rest : (v.ctx n).port.landings = [] ∧ (v.ctx n).life.mute = false ∧ (v.ctx n).life.state ≠ .draining := by
    rw [State.ctx_onCtx_same]
    exact ⟨there.landings, there.mute, there.state⟩
  have entry : v.entry n r.id = some got := by simp [State.entry, queue, got]
  have below : got.doneBelow got.size = true := by
    obtain zero | pos := Nat.eq_zero_or_pos r.size
    · simp [PortReq.doneBelow, got, size, zero]
    · simp [PortReq.doneBelow, got, size, pos, whole]
  have join : joinPieces got.size got.done = piece := by
    simp [joinPieces, got, overwrite, whole, size]
  have landing : got.loadLanding piece = { id := r.id, words := [(f.d.toNat, loadedValue h.typ piece)] } := by
    rw [PortReq.loadLanding, show got.work = .op (.ldf h f) from there.work]
  have answer : (s.answerAll cell fun _ => .ok bs) =
      v.onCtx n fun c => (c.respond { id := r.id, words := [(f.d.toNat, loadedValue h.typ piece)] }).acquiredBy got
          (v.meetsRegion n got) := by
    rw [there.answerAll, State.answer, there.loader]
    refine (State.settleLoad_done (t := v) entry there.good below).trans ?_
    rw [join, landing]
  obtain ⟨regs, queue', landings'⟩ := Ctx.acquiredBy_keeps
    ((v.ctx n).respond { id := r.id, words := [(f.d.toNat, loadedValue h.typ piece)] }) got (v.meetsRegion n got)
  have alone := Ctx.respond_only (c := v.ctx n) (q := got)
      (l := { id := r.id, words := [(f.d.toNat, loadedValue h.typ piece)] })
    queue rfl there.held rest.1 rest.2.1 rest.2.2
  rw [answer]
  refine ⟨rfl, ?_, ?_⟩
  · rw [State.ctx_onCtx_same, queue', alone]
  · rw [State.ctx_onCtx_same, landings', alone, PortReq.isWta, show got.work = .op (.ldf h f) from there.work]

/-- A load that waits faults when its cell fails. -/
theorem State.WaitsThere.failed (there : s.WaitsThere cell n w r h f) (cause : Nat) :
    (s.answerAll cell fun va => .error (embFault cause va)).waiters = [] ∧
      ((s.answerAll cell fun va => .error
          (embFault cause va)).ctx n).port.faults.getLast? = some ⟨r.id, embFault cause w.va⟩ := by
  let v := State.onCtx { s with waiters := [] } n fun c => { c with port := c.port.change r.id fun q =>
    { q with fails := q.fails ++ [(w.va - q.addr.toNat, embFault cause w.va)] } }
  let got : PortReq := { r with fails := [(0, embFault cause w.va)] }
  have queue : (v.ctx n).port.queue = [got] := by
    have low : w.va - r.addr.toNat = 0 := Nat.sub_eq_zero_of_le there.low
    rw [State.ctx_onCtx_same]
    have one : (s.ctx n).port.queue.map (fun q => if q.id = r.id then
        { q with fails := q.fails ++ [(w.va - q.addr.toNat, embFault cause w.va)] } else q) = [got] := by
      rw [there.queue]
      simp only [List.map_cons, List.map_nil, if_true, there.good, low, List.nil_append, got]
    exact one
  have entry : v.entry n r.id = some got := by simp [State.entry, queue, got]
  have alive : (v.ctx n).life.mute = false := by
    rw [State.ctx_onCtx_same]
    exact there.mute
  have answer : (s.answerAll cell fun va => .error (embFault cause va)) =
      State.portFault { v with waiters := v.waiters.filter fun y => y.loader != Loader.port n r.id } n r.id (embFault cause w.va) := by
    rw [there.answerAll, State.answer, there.loader]
    exact State.settleLoad_failed (t := v) entry there.none rfl
  rw [answer]
  refine ⟨rfl, ?_⟩
  rw [State.portFault, State.ctx_onCtx_same]
  show (if (v.ctx n).life.mute = true then _ else _ : Ctx).port.faults.getLast? = _
  rw [alive, if_neg Bool.false_ne_true]
  exact List.getLast?_concat

/-- The cell is filled, or fails, with nothing of the load changed before. -/
theorem State.WaitsThere.fillCell (there : s.WaitsThere cell n w r h f) (bs : List Byte) (length : bs.length = 16) :
    (s.fillCell cell bs).waiters = [] ∧ ((s.fillCell cell bs).ctx n).port.queue = [] ∧
        ((s.fillCell cell bs).ctx n).port.landings =
      [{ id := r.id, words := [(f.d.toNat, loadedValue h.typ ((bs.drop (r.addr.toNat - w.va)).take r.size))] }] := by
  have kept : ((s.setTag cell 0).homeWrite cell bs).ctx n = s.ctx n := State.ctx_homeWrite (t := s.setTag cell 0)
      (fun e he => by
    rw [show ((s.setTag cell 0).ctx n).port.queue = [r] from there.queue, List.mem_singleton] at he
    rw [he, PortReq.isWaitingWta, PortReq.isWta, there.work, Bool.and_false]) cell bs
  have waiters := (State.homeWrite_cells (s.setTag cell 0) cell bs).2.2.trans there.waiters
  unfold State.fillCell
  generalize (s.setTag cell 0).homeWrite cell bs = u at kept waiters ⊢
  have there' : State.WaitsThere { u with hearths := u.hearths.filter fun h => h.cell != cell } cell n w r h f :=
    ⟨waiters, there.cell, there.loader, kept ▸ there.queue, there.work, there.none, there.good, there.held, there.low, there.high,
      kept ▸ there.mute, kept ▸ there.state, kept ▸ there.landings⟩
  exact there'.filled length

theorem State.WaitsThere.failCell (there : s.WaitsThere cell n w r h f) (cause : Nat) :
    (s.failCell cell cause).waiters = [] ∧
    ((s.failCell cell cause).ctx n).port.faults.getLast? = some ⟨r.id, embFault cause w.va⟩ := by
  have kept : ((s.setTag cell 3).setCause cell cause).ctx n = s.ctx n := rfl
  have waiters : ((s.setTag cell 3).setCause cell cause).waiters = [w] := there.waiters
  unfold State.failCell
  generalize (s.setTag cell 3).setCause cell cause = u at kept waiters ⊢
  have there' : State.WaitsThere { u with hearths := u.hearths.filter fun h => h.cell != cell } cell n w r h f :=
    ⟨waiters, there.cell, there.loader, kept ▸ there.queue, there.work, there.none, there.good, there.held, there.low, there.high,
      kept ▸ there.mute, kept ▸ there.state, kept ▸ there.landings⟩
  exact there'.failed cause

end

end Sys2Proof.Machine

open Sys2Proof Sys2Proof.Machine

/-- Settles O41. -/
theorem emberOpsPerform : Obligations.EmberOpsPerform := by
  refine ⟨fun s n pa r h f quiet maps => ⟨emakePerform_makes quiet maps, emakePerform_faults quiet maps, efillPerform_fills quiet maps,
    efailPerform_fails quiet maps, earmPerform_arms quiet maps, earmPerform_keeps quiet maps, epeekPerform_faults quiet maps,
    epeekPerform_answers quiet maps, estatPerform_answers quiet maps⟩, ?_, ?_⟩
  · intro s cell cause n bs w r h f waiters at' loader queue work none good held length low high mute state landings
    have there :
        s.WaitsThere cell n w r h f := ⟨waiters, at', loader, queue, work, none, good, held, low, high, mute, state, landings⟩
    obtain ⟨waiters', queue', landings'⟩ := there.fillCell bs length
    obtain ⟨waiters'', faults⟩ := there.failCell cause
    exact ⟨waiters', queue', landings', waiters'', faults⟩
  · intro s h hearths eval waiters limit
    have here : s.hearths.find? (fun x => x.cell == h.cell) = some h := by simp [hearths]
    refine ⟨s.failCell h.cell 1, ?_, ?_, ?_⟩
    · show execEmblimitExpiry h.cell s = _
      rw [execEmblimitExpiry, here]
      simp only [limit, eval, if_true]
    · rw [State.failCell_idle waiters]
      exact State.tag_of_set (t := s) (x := 3) (by omega) rfl
    · rw [State.failCell_idle waiters]
      have gone : s.hearths.filter (fun x => x.cell != h.cell) = [] := by simp [hearths]
      exact gone

end

section
/-!
PROOFS. The commands of the launch window (R36, R446, R447, R469 to R476; O48).
-/
namespace Sys2Proof.Machine
open Sys2Proof

@[simp] theorem State.vfs_wakeLines (s : State) (hit : Nat → Bool) :
    (s.wakeLines hit).vfs = s.vfs := (rfl)

@[simp] theorem State.vfs_homeWrite (s : State) (pa : Nat) (bs : List Byte) :
    (s.homeWrite pa bs).vfs = s.vfs := by
  simp [State.homeWrite]

@[simp] theorem State.vfs_placeBytes (s : State) (vf a : Nat) (bs : List Byte) : (s.placeBytes vf a bs).vfs = s.vfs :=
  State.vfs_foldl (fun t x => by
    split
    · exact State.vfs_homeWrite ..
    · rfl) _ s

@[simp] theorem State.vfs_uncache (s : State) (frame : Nat) :
    (s.uncache frame).vfs = s.vfs := (rfl)

@[simp] theorem State.vfs_visit (s : State) (vf : Nat) (va : Option Nat) (pa : Nat) (hint : BitVec 2) :
    (s.visit vf va pa hint).vfs = s.vfs := (rfl)

@[simp] theorem State.vfs_writeBack (s : State) (core : Nat) (l : L1Line) :
    (s.writeBack core l).vfs = s.vfs := by
  simp [State.writeBack]

@[simp] theorem State.vfs_writeBackIf (s : State) (core : Nat) (q : L1Line → Bool) :
    (s.writeBackIf core q).vfs = s.vfs := by
  simp [State.writeBackIf]

@[simp] theorem State.vfs_flushFrame (s : State) (frame : Nat) :
    (s.flushFrame frame).vfs = s.vfs := by
  simp [State.flushFrame]

@[simp] theorem State.vfs_freshFrame (s : State) (vf page frame : Nat) :
    (s.freshFrame vf page frame).vfs = s.vfs := by
  simp [State.freshFrame]

@[simp] theorem State.vfs_freshLeaves (s : State) (new : List Leaf) :
    (s.freshLeaves new).vfs = s.vfs := by
  simp [State.freshLeaves]

@[simp] theorem State.vfs_tableWrite (s : State) (part addr e : Nat) :
    (s.tableWrite part addr e).vfs = s.vfs := by
  unfold State.tableWrite
  dsimp only
  (repeat' split) <;> simp

@[simp] theorem State.vfs_dropTlb (s : State) (vf va len : Nat) :
    (s.dropTlb vf va len).vfs = s.vfs := (rfl)

@[simp] theorem State.vfs_markCode (s : State) (vf : Nat) (c : Nat × Nat) (x : Bool) : (s.markCode vf c x).vfs = s.vfs := by
  unfold State.markCode
  refine (State.vfs_dropTlb ..).trans (State.vfs_foldl (fun t i => ?_) _ s)
  dsimp only
  repeat' split
  · exact State.vfs_tableWrite ..
  · rfl
  · rfl

@[simp] theorem State.vfs_setBlocks (s : State) (core b : Nat) :
    (s.setBlocks core b).vfs = s.vfs := by
  simp [State.setBlocks]

@[simp] theorem State.vfs_markEmb (s : State) (vf : Nat) (r : Region) : (s.markEmb vf r).vfs = s.vfs := by
  unfold State.markEmb
  refine (State.vfs_dropTlb ..).trans (State.vfs_foldl (fun t i => ?_) _ s)
  dsimp only
  split
  · refine (State.vfs_freshFrame ..).trans ?_
    split
    · rfl
    · exact State.vfs_tableWrite ..
  · rfl

@[simp] theorem State.vfs_setSem (s : State) (n h v : Nat) :
    (s.setSem n h v).vfs = s.vfs := (rfl)

@[simp] theorem State.vfs_voidOpen (s : State) (n cause : Nat) :
    (s.voidOpen n cause).vfs = s.vfs := by
  simp [State.voidOpen]

@[simp] theorem State.vfs_cancelJob (s : State) (j : Job) :
    (s.cancelJob j).vfs = s.vfs := (rfl)

@[simp] theorem State.vfs_endJobs (s : State) (n : Nat) :
    (s.endJobs n).vfs = s.vfs := by
  simp [State.endJobs]

@[simp] theorem State.vfs_setSpByte (s : State) (n : Nat) (w : Nat × Byte) :
    (s.setSpByte n w).vfs = s.vfs := (rfl)

@[simp] theorem State.vfs_setSpBytes (s : State) (n : Nat) (ws : List (Nat × Byte)) :
    (s.setSpBytes n ws).vfs = s.vfs := by
  simp [State.setSpBytes]

@[simp] theorem State.vfs_applyStore (s : State) (n : Nat) (lvl : Bool) (d : Deferred) :
    (s.applyStore n lvl d).vfs = s.vfs := by
  unfold State.applyStore
  split <;> simp

theorem State.vfs_landStore (n : Nat) (lvl : Bool) (s : State) (d : Deferred) : (s.landStore n lvl d).vfs = s.vfs := by
  unfold State.landStore
  split
  · rfl
  · split
    · exact State.vfs_applyStore ..
    · rfl
    · rfl

@[simp] theorem State.vfs_landStores (s : State) (n : Nat) : (s.landStores n).vfs = s.vfs :=
  (State.vfs_foldl (f := State.landStore n false) (State.vfs_landStore n false) _ _).trans
    (State.vfs_foldl (f := State.landStore n true) (State.vfs_landStore n true) _ _)

@[simp] theorem State.vfs_meetNeeds (s : State) (n : Nat) :
    (s.meetNeeds n).vfs = s.vfs := (rfl)

@[simp] theorem State.vfs_onSel (s : State) (core : Nat) (f : Selector → Selector) :
    (s.onSel core f).vfs = s.vfs := (rfl)

@[simp] theorem State.vfs_settleRound (s : State) (core : Nat) :
    (s.settleRound core).vfs = s.vfs := by
  simp [State.settleRound]

@[simp] theorem State.vfs_leaveTurn (s : State) (n : Nat) :
    (s.leaveTurn n).vfs = s.vfs := by
  simp [State.leaveTurn]

@[simp] theorem State.vfs_portFault (s : State) (n id : Nat) (t : Trapped) :
    (s.portFault n id t).vfs = s.vfs := (rfl)

@[simp] theorem State.vfs_settleLoad (s : State) (n id : Nat) :
    (s.settleLoad n id).vfs = s.vfs := by
  unfold State.settleLoad
  dsimp only
  (repeat' split) <;> simp

@[simp] theorem State.vfs_answer (s : State) (w : EmbWaiter) (r : Except Trapped (List Byte)) :
    (s.answer w r).vfs = s.vfs := by
  unfold State.answer
  split <;> simp

@[simp] theorem State.vfs_answerAll (s : State) (cell : Nat) (r : Nat → Except Trapped (List Byte)) :
    (s.answerAll cell r).vfs = s.vfs := by
  simp [State.answerAll]

@[simp] theorem State.vfs_failCell (s : State) (cell cause : Nat) :
    (s.failCell cell cause).vfs = s.vfs := by
  simp [State.failCell]

@[simp] theorem State.vfs_abandon (s : State) (n : Nat) :
    (s.abandon n).vfs = s.vfs := by
  unfold State.abandon
  split <;> simp

@[simp] theorem State.vfs_abandonDone (s : State) (n : Nat) :
    (s.abandonDone n).vfs = s.vfs := by
  simp [State.abandonDone]

@[simp] theorem State.vfs_endContext (s : State) (n : Nat) (mute : Bool) : (s.endContext n mute).vfs = s.vfs := by
  simp [State.endContext]

/-- Every VF is in `t` as in `s`, but for the records posted to it. -/
def State.SameVfs (s t : State) : Prop := ∀ k, ∃ l, t.vf k = { s.vf k with records := l }

theorem State.SameVfs.of_vfs {s t : State} (h : t.vfs = s.vfs) : s.SameVfs t := fun k => ⟨(s.vf k).records, by
  rw [State.vf, h]
  rfl⟩

theorem State.SameVfs.trans {s t u : State} (h : s.SameVfs t) (h' : t.SameVfs u) : s.SameVfs u := fun k => by
  obtain ⟨l, e⟩ := h k
  obtain ⟨l', e'⟩ := h' k
  exact ⟨l', by rw [e', e]⟩

theorem State.sameVfs_postRecord (s : State) (vf : Nat) (r : List Byte) : s.SameVfs (s.postRecord vf r) := fun k => by
  rw [State.postRecord, State.onVf_eq, State.vf_setVf]
  split
  next h => exact ⟨(s.vf vf).records ++ [r], by rw [h]⟩
  next => exact ⟨(s.vf k).records, rfl⟩

theorem State.sameVfs_retireFatal (s : State) (n : Nat) (x : Trapped) (pc : Dword) (extra : Nat) :
    s.SameVfs (s.retireFatal n x pc extra) := by
  unfold State.retireFatal
  exact (State.sameVfs_postRecord (s.onCtx n _) _ _).trans (.of_vfs (State.vfs_endContext ..))

theorem State.sameVfs_loseSaved (s : State) (n : Nat) (x : Trapped) (extra : Nat) : s.SameVfs (s.loseSaved n x extra) := by
  unfold State.loseSaved
  exact (State.sameVfs_postRecord s _ _).trans (.of_vfs ((State.vfs_endContext _ n true).trans (State.vfs_dropSaved _ n)))

theorem State.sameVfs_endCodeUser (s : State) (n : Nat) : s.SameVfs (s.endCodeUser n) := by
  unfold State.endCodeUser
  split
  · exact State.sameVfs_loseSaved s n _ 0
  · exact State.sameVfs_retireFatal s n _ _ 0

end Sys2Proof.Machine
end
section
namespace Sys2Proof.Machine
open Sys2Proof

variable {s t : State} {vf : Nat} {w : Sparse Byte}

/-! ## How a command ends -/

/-- A command is over with a status: in `t` as from `v`. -/
def State.CommandEnds (t : State) (vf : Nat) (v : Vf) (st : Nat) : Prop :=
  (t.vf vf).status = st ∧ (t.vf vf).armed = none ∧ (t.vf vf).done = v.done + 1

theorem State.armed_of_command (command : s.command vf = some w) : (s.vf vf).armed = some w := by
  unfold State.command at command
  split at command
  · exact command
  · cases command

theorem State.vf_finishCommand (armed : (s.vf vf).armed = some w) (st d : Nat) :
    (s.finishCommand vf st d).vf vf =
      { s.vf vf with armed := none, status := st, tag := cmdTag w, detail := d, done := (s.vf vf).done + 1 } := by
  rw [State.finishCommand, armed]
  simp only [State.commandDone, State.vf_onVf_same]

theorem State.finishCommand_only (s : State) (vf st d : Nat) :
    (s.finishCommand vf st d).ctxs = s.ctxs ∧ (s.finishCommand vf st d).mem = s.mem := by
  unfold State.finishCommand
  split <;> exact ⟨rfl, rfl⟩

/-- A command that ends at once: its status and detail, and nothing else. -/
theorem State.finishCommand_ends (command : s.command vf = some w) (st d : Nat) :
    (s.finishCommand vf st d).CommandEnds vf (s.vf vf) st ∧ ((s.finishCommand vf st d).vf vf).detail = d ∧
      ((s.finishCommand vf st d).vf vf).images = (s.vf vf).images ∧ ((s.finishCommand vf st d).vf vf).starts =
          (s.vf vf).starts := by
  rw [State.CommandEnds, State.vf_finishCommand (State.armed_of_command command)]
  exact ⟨⟨rfl, rfl, rfl⟩, rfl, rfl, rfl⟩

theorem State.vf_of_vfs (same : t.vfs = s.vfs) (k : Nat) : t.vf k = s.vf k := by rw [State.vf, same, State.vf]

/-- A command whose work leaves what its VF has of commands ends with it. -/
theorem State.finishCommand_after (command : s.command vf = some w) {v : Vf} (st d : Nat)
    (after : t.vf vf = v) (armed : v.armed = (s.vf vf).armed) (done : v.done = (s.vf vf).done) :
    (t.finishCommand vf st d).CommandEnds vf (s.vf vf) st ∧ ((t.finishCommand vf st d).vf vf).detail = d ∧
      ((t.finishCommand vf st d).vf vf).images = v.images ∧ ((t.finishCommand vf st d).vf vf).starts = v.starts ∧
      ((t.finishCommand vf st d).vf vf).starting = v.starting := by
  have here : (t.vf vf).armed = some w := by rw [after, armed, State.armed_of_command command]
  rw [State.CommandEnds, State.vf_finishCommand here, after, done]
  exact ⟨⟨rfl, rfl, rfl⟩, rfl, rfl, rfl, rfl⟩

/-! ## LOAD -/

theorem State.placeImage_ends (command : s.command vf = some w) (bs : List Byte) :
    (s.placeImage vf bs).CommandEnds vf (s.vf vf) 0 ∧ ((s.placeImage vf bs).vf vf).detail = (s.vf vf).newHandle * 2 ^ 48 ∧
      lookup? (s.vf vf).newHandle ((s.placeImage vf bs).vf vf).images = some (imageOf bs) := by
  let u := (placedSections bs).foldl (fun (s : State) x => s.placeBytes vf x.1.vaddr x.2) s
  have placed : u.vf vf = s.vf vf := State.vf_of_vfs (State.vfs_foldl (fun t x => State.vfs_placeBytes ..) _ s) vf
  let x := u.onVf vf fun v => { v with images := assocSet (s.vf vf).newHandle (imageOf bs) v.images, handle := (s.vf vf).newHandle }
  have marked : ((imageOf bs).code.foldl (fun s c => s.markCode vf c true) x).vf vf =
      { s.vf vf with images := assocSet (s.vf vf).newHandle (imageOf bs) (s.vf vf).images, handle := (s.vf vf).newHandle } := by
    rw [State.vf_of_vfs (State.vfs_foldl (fun t c => State.vfs_markCode ..) _ x), State.vf_onVf_same, placed]
  obtain ⟨ends, detail, images, -⟩ := State.finishCommand_after command 0 ((s.vf vf).newHandle * 2 ^ 48) marked rfl rfl
  refine ⟨ends, detail, ?_⟩
  rw [State.placeImage]
  refine (congrArg (lookup? _) images).trans ?_
  rw [lookup?_assocSet, if_pos rfl]

/-! ## LAUNCH -/

theorem State.distribute_ends (command : s.command vf = some w) (h : Nat) (img : Image) (rs : List Start) :
    (s.distribute vf h img rs).CommandEnds vf (s.vf vf) 0 ∧ ((s.distribute vf h img rs).vf vf).starts = rs.map (·.bytes) ∧
      ((s.distribute vf h img rs).vf vf).starting = h := by
  let a := rs.foldl (fun (s : State) r => if s.splitFixed r.core then s else s.setBlocks r.core r.spblk) s
  let b := (img.sets.map (·.1)).eraseDups.foldl (fun (s : State) k =>
    s.onSet k fun e => { e with members := (e.members ++ joinedMembers img.sets rs k).eraseDups }) a
  let joined : Vf → Vf := fun v =>
    { v with
      regions := mergeRegions v.regions img.regions
      rings := img.rings.foldl (fun l x => if (lookup? x.1 l).isSome then l else assocSet x.1 x.2 l) v.rings
      starts := rs.map (·.bytes), starting := h }
  have split : a.vfs = s.vfs := State.vfs_foldl (fun t r => by
    split
    · rfl
    · exact State.vfs_setBlocks ..) _ s
  have joinedSets : b.vfs = a.vfs := State.vfs_foldl (f := fun (s : State) k =>
    s.onSet k fun e => { e with members := (e.members ++ joinedMembers img.sets rs k).eraseDups }) (fun t k => rfl) _ a
  have marked : (img.regions.foldl (fun (s : State) r => s.markEmb vf r) (b.onVf vf joined)).vf vf = joined (s.vf vf) := by
    rw [State.vf_of_vfs (State.vfs_foldl (fun t c => State.vfs_markEmb ..) _ _), State.vf_onVf_same,
      State.vf_of_vfs (joinedSets.trans split)]
  obtain ⟨ends, -, -, starts, starting⟩ := State.finishCommand_after command 0 0 marked rfl rfl
  exact ⟨ends, starts, starting⟩

/-! ## UNLOAD -/

theorem State.dropImage_ends (command : s.command vf = some w) {u : State} (same : s.SameVfs u) (h : Nat) (img : Image) :
    (u.dropImage vf h img).CommandEnds vf (s.vf vf) 0 ∧ lookup? h ((u.dropImage vf h img).vf vf).images = none := by
  obtain ⟨l, posted⟩ := same vf
  let drop : Vf → Vf := fun v => { v with images := dropKey h v.images, darots := v.darots.filter fun d => !img.code.contains (d.1, d.2.1) }
  have marked : (img.code.foldl (fun s c => s.markCode vf c false) (u.onVf vf drop)).vf vf = drop { s.vf vf with records := l } := by
    rw [State.vf_of_vfs (State.vfs_foldl (fun t c => State.vfs_markCode ..) _ _), State.vf_onVf_same, posted]
  obtain ⟨ends, -, images, -⟩ := State.finishCommand_after command 0 0 marked rfl rfl
  refine ⟨ends, ?_⟩
  rw [State.dropImage]
  refine (congrArg (lookup? h) images).trans ?_
  rw [lookup?_dropKey, if_pos rfl]

theorem State.sameVfs_endUsers (s : State) (users : List Nat) : s.SameVfs (users.foldl State.endCodeUser s) :=
  List.foldlRecOn (motive := fun t : State => s.SameVfs t) _ _ (.of_vfs rfl) fun t h n _ => h.trans
      (State.sameVfs_endCodeUser t n)

/-- A command of one page range is not held where it reaches none. -/
theorem State.command_free (command : s.command vf = some w) (launch : cmdOp w = 2)
    (none : (lookup? (cmdHandle w) (s.vf vf).images).isSome = false ∨ 1024 < cmdLen w) :
    s.commandMiss vf = .none ∧ s.commandHeld vf = false := by
  have ranges : s.commandRanges vf = [] := by
    unfold State.commandRanges
    rw [command]
    dsimp only
    rw [if_neg (by omega), if_neg]
    rintro ⟨-, there, short⟩
    obtain none | long := none
    · rw [none] at there
      cases there
    · omega
  simp [State.commandMiss, State.commandPages, State.commandHeld, ranges]

end Sys2Proof.Machine

open Sys2Proof Sys2Proof.Machine

/-- Settles O48. -/
theorem launchCommands : Obligations.LaunchCommands := by
  intro s vf w command
  dsimp only
  refine ⟨fun op miss held bs image => ⟨fun st d fault => ?_, fun good => ?_⟩, fun op none => ?_, fun op long there => ?_,
    fun op miss held short img rs there records => ⟨fun st fault => ?_, fun good waits => ?_, fun good ready => ?_⟩,
    fun op force img there => ⟨fun idle => ?_, fun used => ?_⟩, fun op force img there calm => ?_⟩
  · refine ⟨s.finishCommand vf st d, ?_, ?_⟩
    · show execLoad vf s = _
      rw [execLoad, command]
      simp [op, miss, held, image, fault]
    · obtain ⟨finished, detail, images, -⟩ := State.finishCommand_ends command st d
      exact ⟨finished, detail, images, State.sameMemory_of_mem (State.finishCommand_only s vf st d).2⟩
  · refine ⟨s.placeImage vf bs, ?_, State.placeImage_ends command bs⟩
    show execLoad vf s = _
    rw [execLoad, command]
    simp [op, miss, held, image, good]
  · obtain ⟨miss, held⟩ := State.command_free command op (.inl (by rw [none]; rfl))
    refine ⟨s.finishCommand vf 0x06 0, ?_, ?_⟩
    · show execLaunch vf s = _
      rw [execLaunch, command]
      simp [op, miss, held, none]
    · obtain ⟨finished, -, -, starts⟩ := State.finishCommand_ends command 0x06 0
      exact ⟨finished, starts, (State.finishCommand_only ..).1⟩
  · obtain ⟨miss, held⟩ := State.command_free command op (.inr long)
    obtain ⟨img, there⟩ := Option.isSome_iff_exists.1 there
    refine ⟨s.finishCommand vf 0x0B 0, ?_, ?_⟩
    · show execLaunch vf s = _
      rw [execLaunch, command]
      simp [op, miss, held, there, long]
    · obtain ⟨finished, -, -, starts⟩ := State.finishCommand_ends command 0x0B 0
      exact ⟨finished, starts, (State.finishCommand_only ..).1⟩
  · refine ⟨s.finishCommand vf st 0, ?_, ?_⟩
    · show execLaunch vf s = _
      rw [execLaunch, command]
      simp [op, miss, held, there, Nat.not_lt.2 short, records, fault]
    · obtain ⟨finished, -, -, starts⟩ := State.finishCommand_ends command st 0
      exact ⟨finished, starts, (State.finishCommand_only ..).1⟩
  · show execLaunch vf s = _
    rw [execLaunch, command]
    simp [op, miss, held, there, Nat.not_lt.2 short, records, good, waits]
  · refine ⟨s.distribute vf (cmdHandle w) img rs, ?_, State.distribute_ends command _ img rs⟩
    show execLaunch vf s = _
    rw [execLaunch, command]
    simp [op, miss, held, there, Nat.not_lt.2 short, records, good, ready]
  · refine ⟨s.dropImage vf (cmdHandle w) img, ?_, State.dropImage_ends command (.of_vfs rfl) _ img⟩
    show Host.Outcome.next (s.unload vf false) = _
    rw [State.unload, command]
    simp [op, force, there, idle]
  · refine ⟨s.finishCommand vf 0x0E 0, ?_, ?_⟩
    · show Host.Outcome.next (s.unload vf false) = _
      rw [State.unload, command]
      simp [op, force, there, used]
    · obtain ⟨finished, -, images, -⟩ := State.finishCommand_ends command 0x0E 0
      exact ⟨finished, images, (State.finishCommand_only ..).1⟩
  · have run : ∃ u, s.SameVfs u ∧ s.unload vf true = u.dropImage vf (cmdHandle w) img := by
      rw [State.unload, command]
      have alone : ((s.codeUsers vf img).any fun n => (s.ctx n).life.state != .saved && !(s.ctx n).routines.isEmpty)
          = false := by
        rw [List.any_eq_false]
        intro n hn
        obtain saved | calm := calm n hn
        · simp [saved]
        · simp [calm]
      by_cases idle : s.codeUsers vf img = []
      · exact ⟨s, .of_vfs rfl, by simp [op, force, there, idle]⟩
      · exact ⟨_, State.sameVfs_endUsers s (s.codeUsers vf img), by simp [op, force, there, idle, alone]⟩
    obtain ⟨u, same, run⟩ := run
    exact ⟨_, congrArg Host.Outcome.next run, State.dropImage_ends command same _ img⟩

end

section
/-!
PROOFS. Remote requests and their answers (R62, R398 to R400, R461, R462; O55).
-/
namespace Sys2Proof.Machine
open Sys2Proof

variable {s t : State} {p : Path} {vf pkt pa a : Nat} {r : RemoteReq} {x : Stream} {bs : List Byte}

/-! ## Answers -/

/-- The last packet on the fabric is an answer to a stream. -/
def State.Answers (t : State) (x : Stream) (data : List Byte) (error addr : Nat) : Prop :=
  t.packets.getLast?.map (fun y => (y.2.dst, y.2.msg)) = some
      (x.dev, .answer { stream := x, data := data, error := error, addr := addr })

theorem State.answers_of_packets {u : State} {data : List Byte} {error addr : Nat} (answers : t.Answers x data error addr)
    (same : u.packets = t.packets) : u.Answers x data error addr := by
  rwa [State.Answers, same]

/-- One stream is answered by one packet. -/
theorem State.answerStreams_one (one : r.streams = [x]) (s : State) (data : List Byte) (error addr : Nat) :
    (s.answerStreams r data error addr).Answers x data error addr ∧ (s.answerStreams r data error addr).mem = s.mem ∧
      (s.answerStreams r data error addr).seqIn = s.seqIn := by
  rw [State.answerStreams, one]
  refine ⟨?_, rfl, rfl⟩
  simp [State.Answers, State.send]

theorem State.markSeen_mem (s : State) (x : Stream) (error addr : Nat) (data : List Byte) :
    (s.markSeen x error addr data).mem = s.mem := by
  unfold State.markSeen
  dsimp only
  split <;> rfl

theorem State.closeRemote_one (one : r.streams = [x]) (s : State) (pkt : Nat) (data : List Byte) (error addr : Nat) :
    (s.closeRemote pkt r data error addr).Answers x data error addr ∧ (s.closeRemote pkt r data error addr).mem = s.mem := by
  obtain ⟨answers, mem, -⟩ := State.answerStreams_one one (r.streams.foldl (fun s x => s.markSeen x error addr data)
      (s.endRemote pkt))
    data error addr
  refine ⟨answers, mem.trans ?_⟩
  rw [one]
  exact State.markSeen_mem ..

theorem State.answerAgain_one (one : r.streams = [x]) (seen : s.seen x = true) (pkt : Nat) :
    (s.answerAgain pkt r).Answers x (s.answerGiven x).data (s.answerGiven x).error (s.answerGiven x).addr ∧
      (s.answerAgain pkt r).mem = s.mem := by
  have seen : (s.endRemote pkt).seen x = true := seen
  rw [State.answerAgain, one]
  refine ⟨?_, rfl⟩
  simp only [List.foldl_cons, List.foldl_nil, seen, if_true]
  simp only [State.Answers, State.send, List.getLast?_concat, Option.map_some]
  rfl

theorem State.refuseRemote_one (one : r.streams = [x]) (s : State) (pkt src reason va : Nat) :
    (s.refuseRemote pkt src r reason va).Answers x [] 1 (firstOn (if r.kind = 0 then r.readAddrs else r.writeAddrs) va) ∧
      (s.refuseRemote pkt src r reason va).mem = s.mem ∧ (s.refuseRemote pkt src r reason va).seqIn = s.seqIn := by
  obtain ⟨answers, mem, seqIn⟩ := State.answerStreams_one one (s.endRemote pkt) [] 1
    (firstOn (if r.kind = 0 then r.readAddrs else r.writeAddrs) va)
  unfold State.refuseRemote
  generalize firstOn (if r.kind = 0 then r.readAddrs else r.writeAddrs) va = at' at answers mem seqIn ⊢
  dsimp only
  split
  · exact ⟨State.answers_of_packets answers rfl, mem, seqIn⟩
  · exact ⟨State.answers_of_packets answers rfl, mem, seqIn⟩

/-! ## Writes of a master outside the cores -/

/-- Masked bytes written where translation leads, one after the other. -/
def State.putMasked (s : State) (at' : Nat → Nat) (ws : List (Nat × Byte × Byte)) : State :=
  ws.foldl (fun s w => s.setBytes (at' w.1) [maskedByte (s.byte (at' w.1)) w]) s

theorem State.mem_putMasked_congr {u : State} (same : u.mem = s.mem) (at' : Nat → Nat) (ws : List (Nat × Byte × Byte)) :
    (u.putMasked at' ws).mem = (s.putMasked at' ws).mem := by
  induction ws generalizing s u with
  | nil => exact same
  | cons w ws ih =>
    have byte : u.byte (at' w.1) = s.byte (at' w.1) := by rw [State.byte, same, State.byte]
    have step : (u.setBytes (at' w.1) [maskedByte (u.byte (at' w.1)) w]).mem = (s.setBytes (at' w.1) [maskedByte
        (s.byte (at' w.1)) w]).mem := by
      rw [byte]
      exact State.mem_setBytes_congr same ..
    exact ih step

/-- Writes on ordinary pages are all made. -/
theorem State.masterBytes_mapped (kindle : Bool) (at' : Nat → Nat) (ws : List (Nat × Byte × Byte))
    (maps : ∀ w ∈ ws, s.xlate p vf w.1 .write = .ok (at' w.1) false) :
    ∃ b, s.masterBytes p vf kindle ws = ({ s with mem := (s.putMasked at' ws).mem, bad := b }, none) := by
  suffices h : ∀ (t : State) (b : List Nat), (∃ m, t = { s with mem := m, bad := b }) → ∃ b', ws.foldl (fun (x : State × Option Nat) w =>
      let (s, ok) := x.1.masterWrite p vf kindle w
      (s, if ok then x.2 else some (min (cellOf w.1) (x.2.getD (cellOf w.1))))) (t, none) =
        ({ s with mem := (t.putMasked at' ws).mem, bad := b' }, none) from h s s.bad ⟨s.mem, rfl⟩
  induction ws with
  | nil =>
    rintro t b ⟨m, rfl⟩
    exact ⟨b, rfl⟩
  | cons w ws ih =>
    rintro t b ⟨m, rfl⟩
    have here : State.xlate { s with mem := m, bad := b } p vf w.1 .write = .ok (at' w.1) false := maps w List.mem_cons_self
    have written : ∃ b', State.masterWrite { s with mem := m, bad := b } p vf kindle w =
        ({ s with mem := (State.setBytes { s with mem := m, bad := b } (at' w.1) [maskedByte (State.byte { s with mem := m, bad := b } (at' w.1)) w]).mem,
                  bad := b' }, true) := by
      rw [State.masterWrite, here]
      dsimp only
      unfold State.writeMasked
      dsimp only
      split
      · exact ⟨_, rfl⟩
      · exact ⟨_, rfl⟩
    obtain ⟨b', written⟩ := written
    rw [List.foldl_cons, written]
    obtain ⟨b'', rest⟩ := ih (fun y hy => maps y (List.mem_cons_of_mem w hy)) _ b' ⟨_, rfl⟩
    refine ⟨b'', rest.trans (congrArg (fun m => ({ s with mem := m, bad := b'' }, none)) (State.mem_putMasked_congr ?_ at' ws))⟩
    rfl

theorem wholeWrites_eq (a : Nat) (bs : List Byte) : wholeWrites a bs = (List.range bs.length).map fun i =>
    (a + i, 0xFF, bs.getD i 0) := by
  refine List.ext_getElem (by simp [wholeWrites]) fun i h h' => ?_
  have hi : i < bs.length := by simpa [wholeWrites] using h
  simp [wholeWrites, hi]

theorem maskedByte_whole (old v : Byte) (a : Nat) : maskedByte old (a, 0xFF, v) = v := by
  have kept : v &&& 0xFF = v := BitVec.and_allOnes (x := v)
  have gone : old &&& ~~~0xFF = 0 := BitVec.and_zero (x := old)
  rw [maskedByte, kept, gone]
  exact BitVec.zero_or

/-- A whole write through a mapping to consecutive addresses. -/
theorem State.byte_putMasked_whole (s : State) (at' : Nat → Nat) (maps : ∀ i, i < bs.length → at' (a + i) = pa + i)
    (y : Nat) :
    (s.putMasked at' (wholeWrites a bs)).byte y = if pa ≤ y ∧ y < pa + bs.length then bs.getD (y - pa) 0 else s.byte y := by
  have same : s.putMasked at' (wholeWrites a bs) = (List.range bs.length).foldl (fun s i => s.setBytes (pa + i)
      [bs.getD i 0]) s := by
    rw [State.putMasked, wholeWrites_eq, List.foldl_map]
    refine List.foldl_ext _ _ _ fun t i hi => ?_
    rw [maps i (List.mem_range.1 hi), maskedByte_whole]
  rw [same, byte_foldl_setBytes bs (List.range bs.length) 1 y (fun i => [bs.getD i 0]) fun i hi => by
    have hi := List.mem_range.1 hi
    refine ⟨?_, by omega⟩
    rw [List.drop_eq_getElem_cons hi, List.take_succ_cons, List.take_zero, List.getD_eq_getElem _ _ hi]]
  refine if_congr ⟨fun ⟨i, hi, h⟩ => ?_, fun h => ⟨y - pa, List.mem_range.2 (by omega), by omega⟩⟩ rfl rfl
  have := List.mem_range.1 hi
  omega

theorem State.emberMet_mapped {as : List Nat} {at' : Nat → Nat} (maps : ∀ y ∈ as, s.xlate p vf y .read = .ok (at' y) false) :
    s.emberMet p vf as = none := by
  rw [State.emberMet, List.find?_eq_none]
  intro y hy
  rw [maps y hy]
  exact Bool.false_ne_true

theorem State.anyHeld_none (dests : s.dests = []) (as : List Nat) : s.anyHeld p vf as = false := by
  rw [State.anyHeld, List.any_eq_false]
  intro y _
  split
  · rw [State.isHeld_of_none dests]
    exact Bool.false_ne_true
  · exact Bool.false_ne_true

theorem State.badMet_none (bad : s.bad = []) (as : List Nat) : s.badMet p vf as = none := by
  rw [State.badMet, List.find?_eq_none]
  intro y _
  split
  · simp [bad]
  · exact Bool.false_ne_true

theorem State.visitAddrs_mem (s : State) (p : Path) (vf : Nat) (as : List Nat) (hint : BitVec 2) :
    (s.visitAddrs p vf as hint).mem = s.mem := by
  obtain ⟨cs, ts, touched⟩ := State.touchAll_eq s p vf as
  rw [State.visitAddrs, touched]

/-! ## Requests performed -/

section
variable (one : r.streams = [x]) (kindle : r.kindle = false)
include one kindle

/-- A remote read of mapped bytes is answered with them. -/
theorem State.remoteRead_answers (bad : s.bad = []) (gathered : s.gathered = []) (reads : r.reads = [(a, bs.length)])
    (maps : ∀ i, i < bs.length → s.xlate (ioPath r.vf) r.vf (a + i) .read = .ok (pa + i) false) :
    (s.remoteRead pkt r).Answers x (s.bytes pa bs.length) 0 0 ∧ (s.remoteRead pkt r).mem = s.mem := by
  have addrs : r.readAddrs = (List.range bs.length).map (a + ·) := by simp [RemoteReq.readAddrs, reads]
  have read : ∀ y ∈ r.readAddrs, s.xlate (ioPath r.vf) r.vf y .read = .ok (pa + (y - a)) false := fun y hy => by
    rw [addrs] at hy
    obtain ⟨i, hi, rfl⟩ := List.mem_map.1 hy
    rw [maps i (List.mem_range.1 hi), Nat.add_sub_cancel_left]
  have cells : ∀ l : List (Nat × Nat), (l.find? fun c => s.gathered.any
      fun g => g.1 == pkt && g.2.1 == c.1 && g.2.2.isSome == false) = none :=
    fun l => by simp [gathered]
  have data : r.readAddrs.map (s.remoteByte pkt r.vf) = s.bytes pa bs.length := by
    rw [addrs, List.map_map, State.bytes, lookupList]
    refine List.map_congr_left fun i hi => ?_
    rw [Function.comp, State.remoteByte, gathered, maps i (List.mem_range.1 hi)]
    rfl
  have run : s.remoteRead pkt r = (s.visitAddrs (ioPath r.vf) r.vf r.readAddrs 0).closeRemote pkt r
      (s.bytes pa bs.length) 0 0 := by
    rw [State.remoteRead]
    simp only [kindle, State.emberMet_mapped read, State.badMet_none bad, cells, Bool.false_and, Bool.false_eq_true,
      if_false, data]
  obtain ⟨answers, mem⟩ := State.closeRemote_one one (s.visitAddrs (ioPath r.vf) r.vf r.readAddrs 0) pkt
      (s.bytes pa bs.length) 0 0
  rw [run]
  exact ⟨answers, mem.trans (State.visitAddrs_mem ..)⟩

/-- A remote write to mapped bytes is made and acknowledged. -/
theorem State.remoteWrite_answers (write : r.kind = 1) (writes : r.writes = wholeWrites a bs)
    (reads : ∀ i, i < bs.length → s.xlate (ioPath r.vf) r.vf (a + i) .read = .ok (pa + i) false)
    (maps : ∀ i, i < bs.length → s.xlate (ioPath r.vf) r.vf (a + i) .write = .ok (pa + i) false) :
    (s.remoteWrite pkt r).Answers x [] 0 0 ∧ (s.remoteWrite pkt r).bytes pa bs.length = bs ∧ s.sameOutside
        (s.remoteWrite pkt r) pa bs.length := by
  have addrs : ∀ w ∈ wholeWrites a bs, ∃ i < bs.length, w.1 = a + i := fun w hw => by
    rw [wholeWrites_eq] at hw
    obtain ⟨i, hi, rfl⟩ := List.mem_map.1 hw
    exact ⟨i, List.mem_range.1 hi, rfl⟩
  have met : s.emberMet (ioPath r.vf) r.vf ((wholeWrites a bs).map (·.1)) = none := State.emberMet_mapped (at' :=
      fun y => pa + (y - a)) fun y hy => by
    obtain ⟨w, hw, rfl⟩ := List.mem_map.1 hy
    obtain ⟨i, hi, e⟩ := addrs w hw
    rw [e, reads i hi, Nat.add_sub_cancel_left]
  obtain ⟨b, made⟩ := State.masterBytes_mapped (s := s) (p := ioPath r.vf) (vf := r.vf) false (fun y => pa + (y - a))
      (wholeWrites a bs) fun w hw => by
    obtain ⟨i, hi, e⟩ := addrs w hw
    rw [e, maps i hi, Nat.add_sub_cancel_left]
  let t : State := { s with mem := (s.putMasked (fun y => pa + (y - a)) (wholeWrites a bs)).mem, bad := b }
  let u := (t.wakeAddrs (ioPath r.vf) r.vf ((wholeWrites a bs).map (·.1))).visitAddrs (ioPath r.vf) r.vf r.writeAddrs 0
  have run : s.remoteWrite pkt r = u.closeRemote pkt r [] 0 0 := by
    have written : s.masterWrites (ioPath r.vf) r.vf r.kindle r.writes =
        (t.wakeAddrs (ioPath r.vf) r.vf ((wholeWrites a bs).map (·.1)), none) := by
      rw [State.masterWrites, kindle, writes, if_neg Bool.false_ne_true, met]
      dsimp only
      rw [made]
      rfl
    rw [State.remoteWrite]
    simp only [write, if_true, written]
    rfl
  obtain ⟨answers, mem⟩ := State.closeRemote_one one u pkt [] 0 0
  have mem : (s.remoteWrite pkt r).mem = (s.putMasked (fun y => pa + (y - a)) (wholeWrites a bs)).mem := by
    rw [run, mem, State.visitAddrs_mem]
    rfl
  have byte := fun y => State.byte_putMasked_whole (pa := pa) (a := a) (bs := bs) s (fun y => pa + (y - a))
      (fun i _ => by rw [Nat.add_sub_cancel_left]) y
  have byte' : ∀ y, (s.remoteWrite pkt r).byte y = if pa ≤ y ∧ y < pa + bs.length then bs.getD (y - pa)
      0 else s.byte y := fun y => by
    rw [← byte, State.byte, mem, State.byte]
  refine ⟨run ▸ answers, List.ext_getElem (length_bytes ..) fun i h h' => ?_, fun y hy => ?_⟩
  · have here := byte' (pa + i)
    rw [if_pos (by omega), Nat.add_sub_cancel_left, List.getD_eq_getElem _ _ h'] at here
    rw [← here]
    simp [State.bytes, lookupList, State.byte]
  · rw [byte', if_neg (by omega)]

end

/-! ## Error replies -/

/-- No job has this number. -/
structure State.NoJob (s : State) (k : Nat) : Prop where
  none : ∀ j ∈ s.jobs, j.id ≠ k

end Sys2Proof.Machine
end
section
namespace Sys2Proof.Machine
open Sys2Proof

section
variable {s : State} {k : Nat}

theorem State.NoJob.of_jobs {t : State} (h : s.NoJob k) (same : t.jobs = s.jobs) : t.NoJob k :=
  ⟨same ▸ h.none⟩

theorem State.NoJob.of_filter {t : State} (h : s.NoJob k) (f : Job → Bool) (same : t.jobs = s.jobs.filter f) : t.NoJob k :=
  ⟨fun j hj => h.none j (List.mem_of_mem_filter (same ▸ hj))⟩

theorem State.NoJob.of_map {t : State} (h : s.NoJob k) (f : Job → Job) (keep : ∀ j, (f j).id = j.id) (same :
    t.jobs = s.jobs.map f) :
    t.NoJob k := by
  refine ⟨fun j hj => ?_⟩
  rw [same] at hj
  obtain ⟨i, hi, rfl⟩ := List.mem_map.1 hj
  rw [keep]
  exact h.none i hi

theorem State.NoJob.foldl {α : Type} (h : s.NoJob k) {f : State → α → State} (keep : ∀ t a, t.NoJob k →
    (f t a).NoJob k) (l : List α) :
    (l.foldl f s).NoJob k :=
  List.foldlRecOn (motive := fun t : State => t.NoJob k) l f h fun t e a _ => keep t a e

/-! What an end of a context does to jobs leaves a number without a job. -/

theorem State.NoJob.subBytes (h : s.NoJob k) (j : Job) (n : Nat) : (s.subBytes j n).NoJob k := by
  have less : (s.onJob j.id fun j => { j with bytes := j.bytes - n }).NoJob k :=
    h.of_map _ (fun i => by split <;> rfl) rfl
  unfold State.subBytes
  dsimp only
  split
  · exact less
  · split
    · exact less.of_jobs (State.jobs_addPending ..)
    · exact less.of_jobs rfl

theorem State.NoJob.completeJob (h : s.NoJob k) (j : Job) : (s.completeJob j).NoJob k := by
  have incremented : (s.completionIncrement j).NoJob k := h.of_jobs (State.jobs_completionIncrement ..)
  unfold State.completeJob
  obtain ⟨a, b, d⟩ := j.damage
  dsimp only
  have closed : ∀ u : State, u.NoJob k →
      State.NoJob { u.onCore (coreOf j.ctx) (fun k => { k with board := k.board.filter fun e => e.job != j.id }) with
        jobs := u.jobs.filter fun k => k.id != j.id } k := fun u hu => hu.of_filter _ rfl
  refine closed _ ?_
  split
  · exact incremented
  · split
    · exact incremented.of_jobs ((State.jobs_addPending ..).trans (State.jobs_addPending ..))
    · exact incremented.of_jobs ((State.jobs_fireSignal ..).trans rfl)

theorem State.NoJob.dropSealed (h : s.NoJob k) (eid : Nat) : (s.dropSealed eid).NoJob k :=
  h.foldl (fun t j e => (e.subBytes j j.bytes).completeJob _) _

theorem State.NoJob.decideEnvelope (h : s.NoJob k) (eid cause : Nat) : (s.decideEnvelope eid cause).NoJob k := by
  have told : (s.setOutcome eid (if cause = 0 then 3 else 4) cause).NoJob k := h.of_jobs (State.jobs_setOutcome ..)
  have sent : ∀ ds : List Nat, (ds.foldl (fun (s : State) d => s.send d
      (if cause = 0 then .publish eid else .discard eid cause))
      ((s.setOutcome eid (if cause = 0 then 3 else 4) cause).onCoord eid fun c => { c with decision := some cause })).NoJob k := fun ds =>
    (told.of_jobs (State.jobs_onCoord ..)).foldl (fun t d e => e.of_jobs (State.jobs_send ..)) ds
  unfold State.decideEnvelope
  split
  next c _ =>
    split
    · exact h
    · have decided := (fun (u : State) (hu : u.NoJob k) => (by
        split
        · exact hu
        · exact hu.dropSealed eid : (if cause = 0 then u else u.dropSealed eid).NoJob k)) _ (sent (maskDevices c.mask))
      cases c.post with
      | none => exact decided
      | some p => exact decided.of_jobs (State.jobs_onCtx ..)
  next => exact told.dropSealed eid

theorem State.NoJob.voidOpen (h : s.NoJob k) (n cause : Nat) : (s.voidOpen n cause).NoJob k :=
  h.foldl (fun _ _ ht => ht.decideEnvelope ..) _

theorem State.NoJob.cancelJob (h : s.NoJob k) (j : Job) : (s.cancelJob j).NoJob k := h.of_filter _ rfl

theorem State.NoJob.endJobs (h : s.NoJob k) (n : Nat) : (s.endJobs n).NoJob k :=
  (h.foldl (fun t j e => e.cancelJob j) _).of_map _ (fun j => by split <;> rfl) rfl

theorem State.jobs_applyStore (s : State) (n : Nat) (lvl : Bool) (d : Deferred) : (s.applyStore n lvl d).jobs = s.jobs := by
  unfold State.applyStore
  split
  · rfl
  · exact (State.jobs_onCtx ..).trans (State.jobs_foldl (f := fun s w => s.setSpByte n w) (fun t w => rfl) _ _)

theorem State.jobs_landStore (n : Nat) (lvl : Bool) (s : State) (d : Deferred) : (s.landStore n lvl d).jobs = s.jobs := by
  unfold State.landStore
  split
  · rfl
  · split
    · exact State.jobs_applyStore ..
    · rfl
    · rfl

theorem State.jobs_landStores (s : State) (n : Nat) : (s.landStores n).jobs = s.jobs :=
  (State.jobs_foldl (f := State.landStore n false) (State.jobs_landStore n false) _ _).trans
    (State.jobs_foldl (f := State.landStore n true) (State.jobs_landStore n true) _ _)

theorem State.jobs_settleLoad (s : State) (n id : Nat) : (s.settleLoad n id).jobs = s.jobs := by
  unfold State.settleLoad
  dsimp only
  repeat' split
  all_goals rfl

theorem State.NoJob.answer (h : s.NoJob k) (w : EmbWaiter) (x : Except Trapped (List Byte)) : (s.answer w x).NoJob k := by
  unfold State.answer
  split
  · exact h.of_jobs (State.jobs_settleLoad ..)
  · exact h.of_map _ (fun j => by split <;> rfl) rfl
  · exact h.of_jobs rfl

theorem State.NoJob.answerAll (h : s.NoJob k) (cell : Nat) (x : Nat → Except Trapped (List Byte)) :
    (s.answerAll cell x).NoJob k :=
  State.NoJob.foldl (s := { s with waiters := s.waiters.filter fun w => w.cell != cell }) (h.of_jobs rfl)
    (fun _ w e => e.answer w (x w.va)) _

theorem State.NoJob.abandonDone (h : s.NoJob k) (n : Nat) : (s.abandonDone n).NoJob k := by
  have failed : ∀ cell, (s.failCell cell 2).NoJob k := fun cell => by
    unfold State.failCell
    have marked : ((s.setTag cell 3).setCause cell 2).NoJob k := h.of_jobs ((State.jobs_setCause ..).trans
        (State.jobs_setTag ..))
    generalize (s.setTag cell 3).setCause cell 2 = u at marked ⊢
    exact State.NoJob.answerAll (s := { u with hearths := u.hearths.filter fun h => h.cell != cell }) (marked.of_jobs rfl) cell _
  unfold State.abandonDone State.abandon
  dsimp only
  split
  · exact h
  · split
    · exact failed _
    · exact h

theorem State.jobs_leaveTurn (s : State) (n : Nat) : (s.leaveTurn n).jobs = s.jobs := by
  unfold State.leaveTurn State.settleRound
  split <;> rfl

theorem State.NoJob.endContext (h : s.NoJob k) (n : Nat) (mute : Bool) : (s.endContext n mute).NoJob k := by
  have void := h.voidOpen n (if mute then 7 else 6)
  have closed : ∀ (u : State) (f : Ctx → Ctx), u.NoJob k →
      (((((u.dropFetches n).onCtx n f).withdraw n).leaveSets n).abandonDone n |>.leaveTurn n).NoJob k := fun u f hu =>
    ((hu.of_jobs (t := (((u.dropFetches n).onCtx n f).withdraw n).leaveSets n) rfl).abandonDone n).of_jobs
        (State.jobs_leaveTurn ..)
  have landed : ∀ u : State, u.NoJob k → (if (u.ctx n).life.state = .saved then u else u.landStores n).NoJob k :=
      fun u hu => by
    split
    · exact hu
    · exact hu.of_jobs (State.jobs_landStores ..)
  have ended : (if mute then (s.voidOpen n (if mute then 7 else 6)).endJobs n else s.voidOpen n
      (if mute then 7 else 6)).NoJob k := by
    cases mute with
    | true => exact void.endJobs n
    | false => exact void
  exact closed _ _ (landed _ ended)

theorem State.NoJob.retireFatal (h : s.NoJob k) (n : Nat) (x : Trapped) (pc : Dword) (extra : Nat) (tail : List Byte) :
    (s.retireFatal n x pc extra tail).NoJob k := by
  have posted : ((s.onCtx n fun c => { c with trap := { c.trap with pc := pc } }).postRecord
      ((s.onCtx n fun c => { c with trap := { c.trap with pc := pc } }).ctx n).id.vf (errorRecord 0x10 x n
        ((s.onCtx n fun c => { c with trap := { c.trap with pc := pc } }).ctx n) extra tail)).NoJob k := h.of_jobs rfl
  exact posted.endContext n true

end

end Sys2Proof.Machine
end
section
namespace Sys2Proof.Machine
open Sys2Proof

variable {s : State} {job : Nat} {j : Job}

theorem State.job_none (h : s.NoJob job) : s.job? job = none := by
  rw [State.job?, List.find?_eq_none]
  intro i hi e
  exact h.none i hi (by simpa using e)

/-- A faulting job is gone, and the context that posted it ends where it runs and has not given the job up. -/
theorem State.jobFault_ends (here : j.id = job) (x : Trapped) : (s.jobFault j x).NoJob job ∧
    (j.orphan = false → (s.ctx j.ctx).life.state = .ready → ((s.jobFault j x).ctx j.ctx).life.state = .draining) := by
  have gone : (s.cancelJob j).NoJob job := by
    refine ⟨fun i hi => ?_⟩
    have := List.of_mem_filter hi
    simpa [here] using this
  have life : ((s.cancelJob j).ctx j.ctx).life = (s.ctx j.ctx).life :=
    State.onCtx_life s j.ctx j.ctx fun c => Ctx.life_subCounter ..
  have dropped : (if ((s.cancelJob j).ctx j.ctx).life.state == .saved && !j.orphan then (s.cancelJob j).dropSaved j.ctx
      else s.cancelJob j).NoJob job := by
    split
    · exact gone.of_jobs rfl
    · exact gone
  have closed : ∀ (u : State) (b : Bool), u.NoJob job →
      (if b then u else u.retireFatal j.ctx x (u.ctx j.ctx).pc j.addr []).NoJob job := fun u b hu => by
    split
    · exact hu
    · exact hu.retireFatal ..
  refine ⟨?_, fun owned ready => ?_⟩
  · unfold State.jobFault
    exact closed _ _ dropped
  · have run : s.jobFault j x = (s.cancelJob j).retireFatal j.ctx x ((s.cancelJob j).ctx j.ctx).pc j.addr [] := by
      simp [State.jobFault, life, ready, owned]
    rw [run]
    exact (State.retireFatal_life ..).1

/-- The answer to a frozen job's request is discarded, and its beat is over. -/
theorem State.discardAnswer_ends {beat i : Nat} {y : RemoteAns} (answered : s.answerFor job beat = some (i, y)) :
    (s.discardAnswer job beat).ctxs = s.ctxs ∧
      ∀ z, (s.discardAnswer job beat).job? job = some z → ∀ b ∈ z.beats, b.num ≠ beat := by
  have run : s.discardAnswer job beat = (s.dropPacket i).onJob job fun j => { j with beats := j.beats.filter fun b => b.num != beat } := by
    rw [State.discardAnswer, answered]
  rw [run]
  refine ⟨rfl, fun z found b hb => ?_⟩
  obtain ⟨k, hk, e⟩ := List.mem_map.1 (List.mem_of_find?_eq_some found)
  have id : z.id = job := by simpa using List.find?_some found
  by_cases same : k.id == job
  · rw [if_pos same] at e
    subst e
    simpa using List.of_mem_filter hb
  · rw [if_neg same] at e
    exact absurd (by simpa [e] using id) same

/-- What the fabric endpoint makes of a request to this device. -/
def State.received (s : State) (pkt src : Nat) (r : RemoteReq) : Host.Outcome State Fault Refusal :=
  if r.streams.any s.seen then .next (s.answerAgain pkt r)
  else if (s.vf r.vf).streams.contains src then .next ((s.endRemote pkt).answerStreams r [] 1 0)
  else if (s.ioMissing r.vf r.pages).isSome then
    .next (if (s.vf r.vf).state = .resetting then s.turnAway pkt r 1 0 else s)
  else
    match s.ioViolation r.vf r.need r.pages with
    | some (reason, va) => .next (s.refuseRemote pkt src r reason va)
    | none =>
      if s.anyHeld (ioPath r.vf) r.vf (if r.kind = 0 then r.readAddrs else r.writeAddrs) then .next s
      else .next (if r.kind = 0 then s.remoteRead pkt r else s.remoteWrite pkt r)

theorem remoteRequestReceive_received {pkt : Nat} {k : Packet} {r : RemoteReq} (packet : s.packet pkt = some k)
    (here : k.dst = s.fabxy) (msg : k.msg = .remote r) :
    exec (.remoteRequestReceive pkt) s = s.received pkt k.src r := by
  obtain ⟨src, dst, msg'⟩ := k
  subst here msg
  show execRemoteRequestReceive pkt s = _
  rw [execRemoteRequestReceive, packet]
  exact if_neg (not_not_intro rfl)

end Sys2Proof.Machine

open Sys2Proof Sys2Proof.Machine

/-- Settles O55. -/
theorem remoteRequests : Obligations.RemoteRequests := by
  intro s pkt job beat pa a k r x bs
  dsimp only
  refine ⟨?_, ?_, ?_, ?_, ?_, ?_, ?_⟩
  · rintro ⟨packet, dst, msg, one, -⟩ seen
    obtain ⟨answers, mem⟩ := State.answerAgain_one one seen pkt
    refine ⟨_, (remoteRequestReceive_received packet dst msg).trans ?_, answers, State.sameMemory_of_mem mem⟩
    simp [State.received, one, seen]
  · rintro ⟨packet, dst, msg, one, -⟩ seen frozen
    obtain ⟨answers, mem, -⟩ := State.answerStreams_one one (s.endRemote pkt) [] 1 0
    refine ⟨_, (remoteRequestReceive_received packet dst msg).trans ?_, answers, State.sameMemory_of_mem mem⟩
    simp [State.received, one, seen, frozen]
  · rintro ⟨packet, dst, msg, one, -⟩ seen free present c va violation
    obtain ⟨answers, mem, seqIn⟩ := State.refuseRemote_one one s pkt k.src c va
    refine ⟨_, (remoteRequestReceive_received packet dst msg).trans ?_, answers, State.sameMemory_of_mem mem, ?_⟩
    · simp [State.received, one, seen, free, present, violation]
    · rw [State.seen, seqIn]
      exact seen
  · rintro ⟨packet, dst, msg, one, kindle⟩ ⟨bad, seen, free, gathered, present, allowed, dests⟩ read reads maps
    obtain ⟨answers, mem⟩ := State.remoteRead_answers (pkt := pkt) one kindle bad gathered reads maps
    refine ⟨_, (remoteRequestReceive_received packet dst msg).trans ?_, answers, State.sameMemory_of_mem mem⟩
    simp [State.received, one, seen, free, present, allowed, State.anyHeld_none dests, read]
  · rintro ⟨packet, dst, msg, one, kindle⟩ ⟨-, seen, free, -, present, allowed, dests⟩ write writes - maps
    obtain ⟨answers, bytes, outside⟩ := State.remoteWrite_answers (pkt := pkt) one kindle write writes
      (fun i hi => (maps i hi).1) fun i hi => (maps i hi).2
    refine ⟨_, (remoteRequestReceive_received packet dst msg).trans ?_, answers, bytes, outside⟩
    simp [State.received, one, seen, free, present, allowed, State.anyHeld_none dests, write]
  · intro j i y here answered frozen
    obtain ⟨ctxs, ended⟩ := State.discardAnswer_ends answered
    refine ⟨_, ?_, ctxs, ended⟩
    show execRemoteError job beat s = _
    rw [execRemoteError, here]
    simp only [frozen, if_true]
  · intro j i y here answered error live
    have id : j.id = job := by simpa using List.find?_some here
    obtain ⟨gone, ends⟩ := State.jobFault_ends (s := s.dropPacket i) id (remoteTrap y.error y.addr)
    refine ⟨_, ?_, State.job_none gone, ends⟩
    show execRemoteError job beat s = _
    rw [execRemoteError, here]
    simp only [live, answered, if_neg error, Bool.false_eq_true, if_false]

end

section
/-!
PROOFS. The reset state and five words (R14, R478, Table 3.12; O1, O5); scalar results and predicates
    (R115, R118, R119; O11, O13).
-/
namespace Sys2Proof.Machine
open Sys2Proof

variable {s : State} {h : Hdr} {f : Tri}

/-! ## Typed results -/

/-- A typed op whose guard is true owes Fit of its exact result. -/
theorem typedOp_on {d : Nat} {sat : Bool} {x : Int → Int → Int × Bool} {v : Int} {dz : Bool} {o :
    Host.Outcome State Fault Refusal}
    (g : guardTrue s.cur h = true) (op : o = typedOp h f d sat x s) (value : x (operandA s h f) (operandB s h f) = (v, dz)) :
    o = .next (s.timed h d (fitEffect h f sat v dz)) := by
  rw [op, typedOp, scalarOp, State.guarded_on g]
  have value : x (typedOperand h.typ (s.cur.s f.a.toNat).toNat) (typedOperand h.typ (scalarB s.cur f 1).toNat) =
      (v, dz) := value
  simp only [value, fitEffect]

/-- A bit of a comparison of patterns. -/
theorem land_ne_zero {a b : Nat} : (Nat.land a b != 0) = true ↔ a &&& b ≠ 0 := bne_iff_ne

/-- A byte whose high half is not zero is outside a mask of the low half. -/
theorem outside_low_of_high {b : BitVec 8} (high : b.extractLsb' 4 4 ≠ 0#4) : outside b 0x0F#8 = true := by
  refine bne_iff_ne.2 fun zero => high ?_
  have part : (b &&& ~~~0x0F#8).extractLsb' 4 4 = 0#4 :=
    congrArg (BitVec.extractLsb' 4 4) zero
  rw [← part, BitVec.extractLsb'_and]
  exact (BitVec.and_allOnes).symm

end Sys2Proof.Machine

open Sys2Proof Sys2Proof.Machine

/-- Settles O1: each part is the reset state's own value. -/
theorem resetState : Obligations.ResetState := by
  refine ⟨fun n => ?_, fun a => ?_, ?_, ?_, fun v => ?_⟩ <;> rfl

/-- Settles O5, by decoding the five words. -/
theorem decodesWords : Obligations.DecodesWords := by
  refine ⟨?_, ?_, ?_, ?_, ?_⟩ <;> decide

/-- Settles O11: each op is a typed op of its exact result, a division by zero and a division each on its own. -/
theorem scalarTypedResults : Obligations.ScalarTypedResults := by
  intro h f s g
  have div : divValue h.typ (operandA s h f) (operandB s h f) =
      if operandB s h f = 0 then (if Ty.signed h.typ then -1 else 2 ^ Ty.width h.typ - 1, true)
      else ((operandA s h f).tdiv (operandB s h f), false) := rfl
  have rem : remValue (operandA s h f) (operandB s h f) =
      if operandB s h f = 0 then (operandA s h f, true)
      else (operandA s h f - operandB s h f * (operandA s h f).tdiv (operandB s h f), false) := by
    rw [remValue, Int.tmod_def]
  have add' := typedOp_on g (execAdd.eq_def h f s) rfl
  have sub' := typedOp_on g (execSub.eq_def h f s) rfl
  have mul' := typedOp_on g (execMul.eq_def h f s) rfl
  have mulh' := typedOp_on g (execMulh.eq_def h f s) rfl
  have and' := typedOp_on g ((execAnd.eq_def h f s).trans (bitwiseOp.eq_def ..)) rfl
  have or' := typedOp_on g ((execOr.eq_def h f s).trans (bitwiseOp.eq_def ..)) rfl
  have xor' := typedOp_on g ((execXor.eq_def h f s).trans (bitwiseOp.eq_def ..)) rfl
  have shl' := typedOp_on g (execShl.eq_def h f s) rfl
  have shr' := typedOp_on g (execShr.eq_def h f s) rfl
  have sar' := typedOp_on g (execSar.eq_def h f s) rfl
  have min' := typedOp_on g (execMin.eq_def h f s) rfl
  have max' := typedOp_on g (execMax.eq_def h f s) rfl
  refine ⟨add', sub', mul', mulh', ?_, ?_, and', or', xor', shl', shr', sar', min', max'⟩
  · split
    next zero => exact typedOp_on g (execDiv.eq_def h f s) (div.trans (if_pos zero))
    next other => exact typedOp_on g (execDiv.eq_def h f s) (div.trans (if_neg other))
  · split
    next zero => exact typedOp_on g (execRem.eq_def h f s) (rem.trans (if_pos zero))
    next other => exact typedOp_on g (execRem.eq_def h f s) (rem.trans (if_neg other))

/-- Settles O13: the owed bits are the guarded result, and a function number with a high half is outside the field. -/
theorem predicateResults : Obligations.PredicateResults := by
  refine ⟨fun h f s g => ⟨?_, ?_⟩, fun t a b => ?_, fun h f free untyped high => ?_⟩
  · show Host.Outcome.next (s.guarded h _) = _
    rw [State.guarded_on g]
  · show Host.Outcome.next (s.guarded h _) = _
    rw [State.guarded_on g]
  · refine ⟨beq_iff_eq, bne_iff_ne, decide_eq_true_iff, decide_eq_true_iff, decide_eq_true_iff, decide_eq_true_iff, land_ne_zero, ?_⟩
    exact (Bool.not_not _).symm
  · have bad : f.only 0x0F 0 = false := by
      show (!outside f.fn 0x0F#8 && _) = false
      rw [outside_low_of_high high]
      rfl
    exact checkOp_untyped_field free untyped rfl rfl rfl rfl bad

end
section
/-!
PROOFS. Transfers, control state and the ends of bundles (R113 to R141; O14, O16, O17), and a step of a core (R72, R73; O6).
-/
namespace Sys2Proof.Machine
open Sys2Proof

/-! ## Transfers -/

/-- An indirect transfer to an aligned address is a transfer. -/
theorem State.transferIndirect_aligned {s : State} {target : Dword} (fits : target.toNat % 16 = 0) :
    s.transferIndirect target = s.transfer target := by
  rw [State.transferIndirect, (extract4_eq_zero target).2 fits]
  exact if_neg Bool.false_ne_true

/-- An address that is no multiple of 16 has one of its low four bits set. -/
theorem extract4_ne_zero {x : Dword} (bad : x.toNat % 16 ≠ 0) : (x.extractLsb' 0 4 != 0) = true :=
  bne_iff_ne.2 fun zero => bad ((extract4_eq_zero x).1 zero)

/-- A multiple of 16 has none. -/
theorem extract4_aligned {x : Dword} (fits : x.toNat % 16 = 0) : (x.extractLsb' 0 4 != 0) = false := by
  rw [(extract4_eq_zero x).2 fits]
  rfl

/-- An indirect transfer to another address raises MISALIGN. -/
theorem State.transferIndirect_misaligned {s : State} {target : Dword} (bad : target.toNat % 16 ≠ 0) :
    s.transferIndirect target = s.raise ⟨.misalign, target⟩ := by
  rw [State.transferIndirect, if_pos (extract4_ne_zero bad)]

/-- A call with room on the return stack pushes the next bundle's address. -/
theorem State.pushReturn_room {s : State} (room : s.cur.ctl.ret.length < 64) (k : State → State) :
    s.pushReturn k = k (s.onCur fun c => { c with ctl := { c.ctl with ret := s.iss.next :: c.ctl.ret } }) := by
  rw [State.pushReturn, if_neg (Nat.not_le.2 room)]

/-- A call without is CALLDEPTH. -/
theorem State.pushReturn_full {s : State} (full : 64 ≤ s.cur.ctl.ret.length) (k : State → State) :
    s.pushReturn k = s.raise (permInfo 1) := by
  rw [State.pushReturn, if_pos full]

/-- An op that raises a fault shows it in its bundle. -/
theorem raises_fault {t : State} {x : Trapped} {o : Host.Outcome State Fault Refusal} (free : t.iss.fault = none)
    (op : o = .next (t.raise x)) : ∃ u, o = .next u ∧ u.iss.fault = some x :=
  ⟨_, op, State.raise_fault free x⟩

/-- One op alone stands in the first slot of its class. -/
theorem placeOps_single (entry : Dword) (i : Instr) (cls : SlotClass) :
    placeOps entry [(i, cls)] = [{ i := i, cls := cls, slot := cls.base, pos := 0, addr := entry }] := by
  simp [placeOps]

/-- And breaks no rule of the slots. -/
theorem slotFault_single (i : Instr) (cls : SlotClass) (addr : Dword) :
    slotFault [{ i := i, cls := cls, slot := cls.base, pos := 0, addr := addr }] = none := by
  have within : ¬ cls.base + cls.limit ≤ cls.base := by cases cls <;> decide
  have notV1 : cls.base ≠ 2 := by cases cls <;> decide
  simp [slotFault, within, notV1]

/-- What is added to a port waits there, under the port's next number. -/
theorem State.addPort_mem (s : State) (r : PortReq) :
    { r with id := s.cur.port.nextId, seq := s.cur.life.seq, slot := s.iss.slot, level := s.cur.trap.tl } ∈
      (s.addPort r).1.cur.port.queue := by
  simp [State.addPort]

/-- A signal leaves what waits in the port. -/
theorem State.signalNow_queue {s : State} {h : Hdr} {r : PortReq} (there : r ∈ s.cur.port.queue) :
    r ∈ (s.signalNow h).cur.port.queue := by
  rw [State.signalNow, State.addSignal]
  split
  · exact there
  · simp [State.addPort, there]

end Sys2Proof.Machine

open Sys2Proof Sys2Proof.Machine

/-- Settles O14, through what a call with room, a full stack and a misaligned target do. -/
theorem transfers : Obligations.Transfers := by
  refine ⟨fun h f s g free => ?_, fun h f s g free => ?_⟩
  all_goals
    have on (k : State → State) : s.guarded h k = k s := State.guarded_on g k
    dsimp only [exec, execBr, execBri, execCall, execCallIndirect, execRet, execLbrk]
    simp only [on]
  · refine ⟨⟨_, rfl, rfl⟩, fun fits => ⟨_, rfl, ?_, ?_⟩, fun room => ⟨⟨_, rfl, ?_, ?_⟩, fun fits => ⟨_, rfl, ?_, ?_⟩⟩,
      fun top rest stack => ?_, fun low six => ⟨_, rfl, rfl, fun k from_ below => ?_⟩⟩
    · rw [State.transferIndirect_aligned fits]; rfl
    · rw [State.transferIndirect_aligned fits]; exact (congrArg Issue.fault (s.signalNow_iss h)).trans free
    · rw [State.pushReturn_room (by simpa using room)]; rfl
    · rw [State.pushReturn_room (by simpa using room)]; simp
    · rw [extract4_aligned fits, if_neg Bool.false_ne_true, State.pushReturn_room (by simpa using room)]; rfl
    · rw [extract4_aligned fits, if_neg Bool.false_ne_true, State.pushReturn_room (by simpa using room)]; simp
    · rw [stack]
      exact ⟨_, rfl, rfl, by simp⟩
    · exact State.loopEntered_inactive six below from_
  · refine ⟨fun bad => ⟨⟨_, rfl, ?_⟩, ⟨_, rfl, ?_⟩⟩, fun full => ⟨⟨_, rfl, ?_⟩, fun fits => ⟨_, rfl, ?_⟩⟩, fun empty => ?_⟩
    · rw [State.transferIndirect_misaligned bad]
      exact State.raise_fault (by simpa using free) _
    · rw [if_pos (extract4_ne_zero bad)]
      exact State.raise_fault free _
    · rw [State.pushReturn_full (by simpa using full)]
      exact State.raise_fault (by simpa using free) _
    · rw [extract4_aligned fits, if_neg Bool.false_ne_true, State.pushReturn_full (by simpa using full)]
      exact State.raise_fault (by simpa using free) _
    · rw [empty]
      exact ⟨_, rfl, State.raise_fault free _⟩

/-- Settles O16: each op once its guard is true, on either side of its check. -/
theorem controlStateOps : Obligations.ControlStateOps := by
  intro h f s g free sem rows cols image record owes
  have on (k : State → State) : s.guarded h k = k s := State.guarded_on g k
  dsimp only [exec, execMfk, execMtk, execTset, execHsig, execHget, execTdset, execWbind, execWunb, execWstat]
  simp only [on]
  refine ⟨trivial, fun may => ?_, fun may => ?_, fun fits => ?_, fun fits => ?_, fun past => ⟨?_, ?_⟩,
      fun good => ?_, fun off bad => ?_, fun inside => ⟨?_, ?_⟩, fun zero => ?_, fun other => ?_, rfl, rfl⟩
  · rw [if_pos may]
  · rw [if_neg (by simp [may])]
    exact ⟨_, rfl, State.raise_fault free _⟩
  · rw [if_pos fits]
  · rw [if_neg (Bool.eq_false_iff.1 fits)]
    exact ⟨_, rfl, State.raise_fault free _⟩
  · rw [if_pos past]
    exact ⟨_, rfl, State.raise_fault free _⟩
  · rw [if_pos past]
    exact ⟨_, rfl, State.raise_fault free _⟩
  · rw [good]
  · rw [bad]
    exact ⟨_, rfl, State.raise_fault free _⟩
  · rw [if_neg (Nat.not_le.2 inside)]
  · rw [if_neg (Nat.not_le.2 inside)]
    exact ⟨_, _, rfl, State.signalNow_queue (State.addPort_mem s _), rfl, rfl⟩
  · rw [if_pos zero, zero]
  · rw [if_neg other]

/-- Settles O17: each op once its guard is true. -/
theorem bundleEndOps : Obligations.BundleEndOps := by
  intro h f s g free
  have on (k : State → State) : s.guarded h k = k s := State.guarded_on g k
  dsimp only [exec, execNop, execYield, execHalt, execTrap, execDbg, execEret]
  simp only [on]
  refine ⟨trivial, rfl, rfl, rfl, ?_, fun handling => ?_, fun plain => ?_⟩
  · split
    next breaks => rw [if_pos (by simpa using breaks)]; rfl
    next passes => rw [if_neg (by simpa using passes)]
  · rw [if_pos handling]
    exact ⟨_, rfl, rfl, rfl⟩
  · rw [if_neg (by simp [plain])]
    exact ⟨_, rfl, State.raise_fault free _⟩

/-- Settles O6: an event by the rule of `step`, an issue by the chain of what the context's turn tries, an op by the rule of
`runOps`, and a line whose first op has STOP set by the checks of that op alone. -/
theorem stepRunsDecodedOps : Obligations.StepRunsDecodedOps := by
  refine ⟨fun s i rest head event => step_event head event, ?_, fun s t o ops run => State.runOps_cons ops run, ?_⟩
  · intro s rest core n s1 s2 bs ops head a b c t noRound turn free last resting none departed settled fetched due line checked
      passes clean waits met unheld
    have list : c.trap.list.any (·.immed) = false := by simpa using none
    have tried : s2.tryOps n ops = .issue ops t := State.tryOps_issue rfl clean waits met unheld
    have attempted : b.attempt n = .issue ops t := by
      rw [State.attempt]
      simp only [c] at list resting departed settled fetched checked
      simp only [list, resting, departed, settled, due, fetched, line, checked, tried]
      rfl
    rw [step_issue head, State.issueCore_turn noRound turn free last]
    exact congrArg Host.Outcome.next (by rw [attempted])
  · intro c w more i cls stop parsed word o free
    have one : c.checkWords 0 [w] = .ok [(i, cls)] := by
      rw [Ctx.checkWords, List.length_nil, word]; rfl
    dsimp only [o] at free
    rw [Ctx.checkBundle, untilStop, if_pos stop]
    simp only [one, placeOps_single, slotFault_single, List.findSome?_cons, free, List.findSome?_nil]
    rfl
end
section
/-!
PROOFS. The ops of the vector slot (R151 to R181; O18, O19, O20).
-/
namespace Sys2Proof.Machine
open Sys2Proof

/-! ## Lane predicates -/

/-- The number that a list of bits spells, lowest first. -/
theorem testBit_foldr_bits (l : List Bool) (i : Nat) :
    (l.foldr (fun b n => (if b = true then 1 else 0) + 2 * n) 0).testBit i = l.getD i false := by
  induction l generalizing i with
  | nil => simp
  | cons b l ih =>
    rw [List.foldr_cons]
    cases i with
    | zero => cases b <;> simp [Nat.testBit_zero, Nat.add_mul_mod_self_left]
    | succ i =>
      rw [Nat.testBit_succ, List.getD_cons_succ, ← ih i]
      congr 1
      split <;> omega

/-- Bit i of the predicate of a list of lanes is that of lane i. -/
theorem getLsbD_predOfLanes (l : List Bool) {i : Nat} (inside : i < 128) : (predOfLanes l).getLsbD i = l.getD i false := by
  rw [predOfLanes, BitVec.getLsbD_ofNat, testBit_foldr_bits, decide_eq_true inside, Bool.true_and]

/-- Lane i of a predicate is its bit i. -/
theorem getElem?_activeLanes (q : BitVec 128) {i : Nat} (inside : i < 128) : (activeLanes q)[i]? = some (q.getLsbD i) := by
  simp [activeLanes, inside]

/-- A bit of the predicate that a truth table of four bits gives two others. -/
theorem getLsbD_truthTable {table : Bool → Bool → Bool} (a b : BitVec 128) {i : Nat} (inside : i < 128) :
    (predOfLanes (List.zipWith table (activeLanes a) (activeLanes b))).getLsbD i = table (a.getLsbD i) (b.getLsbD i) := by
  rw [getLsbD_predOfLanes _ inside, List.getD_eq_getElem?_getD, List.getElem?_zipWith, getElem?_activeLanes _ inside,
    getElem?_activeLanes _ inside]
  rfl

/-- What `vmov` does is chosen by two bits of its function number. -/
theorem execVmov_kind (h : Hdr) {f : Tri} {k : BitVec 2} (kind : f.fn.extractLsb' 3 2 = k) (s : State) :
    execVmov h f s = match k.toNat with
      | 0 => laneOp h f.d 2 (fun c m => (laneWrites m (vecSource c 32 f.a), 0)) s
      | 1 => laneOp h f.d 2 (fun c m =>
          (laneWrites m ((activeLanes (c.q f.a.toNat)).map fun b => if b then 0xFFFFFFFF else 0), 0)) s
      | 2 => predOp h f.d (fun c _ => (predOfLanes ((c.lanes f.a.toNat).map fun x => x != 0), 0)) s
      | _ => predOp h f.d (fun c _ => (c.q f.a.toNat, 0)) s := by
  rw [← kind]; rfl

/-! ## Vector branches and tile rows -/

/-- Bits of two predicates have a lane in common where their conjunction is not zero. -/
theorem and_ne_zero_of_lane {p q : BitVec 128} (lane : ∃ i, (i < 128 ∧ q.getLsbD i = true) ∧ p.getLsbD i = true) :
    (p &&& q != 0) = true := by
  obtain ⟨i, ⟨_, active⟩, bit⟩ := lane
  refine bne_iff_ne.2 fun zero => ?_
  have both : (p &&& q).getLsbD i = true := by rw [BitVec.getLsbD_and, active, bit]; rfl
  rw [zero] at both
  simp at both

/-- And none where no active lane's bit is set. -/
theorem and_eq_zero_of_lanes {p q : BitVec 128} (lanes : ∀ i, i < 128 ∧ q.getLsbD i = true → ¬ p.getLsbD i = true) :
    p &&& q = 0 := by
  refine BitVec.eq_of_getLsbD_eq fun i inside => ?_
  rw [BitVec.getLsbD_and]
  cases active : q.getLsbD i with
  | false => simp
  | true => simp [lanes i ⟨inside, active⟩]

/-- A lane of a complement. -/
theorem getLsbD_not_lane (p : BitVec 128) {i : Nat} (inside : i < 128) : (~~~p).getLsbD i = !p.getLsbD i := by
  rw [BitVec.getLsbD_not, decide_eq_true inside, Bool.true_and]

/-- A branch that is taken leads to its target. -/
theorem State.vectorBranch_taken {s : State} {taken : Bool} (yes : taken = true) (h : Hdr) (f : Tri) :
    (s.vectorBranch h f taken).iss.tv = some (s.iss.opAddr + 16 * signExt f.imm) := by
  simp [State.vectorBranch, State.onIss, yes]

/-- One that is not leaves where the bundle goes. -/
theorem State.vectorBranch_passed {s : State} {taken : Bool} (no : taken = false) (free : s.iss.tv = none) (h : Hdr)
    (f : Tri) :
    (s.vectorBranch h f taken).iss.tv = none := by
  simp [State.vectorBranch, State.onIss, no, free]

/-- The first byte of a row segment. -/
theorem segment_first (f : Tri) : 512 * tileSeg f = if f.imm.getLsbD 6 then 512 else 0 := by
  rw [tileSeg]; split <;> rfl

/-- The bytes of a register's lanes are 512. -/
theorem length_laneBytes_lanes (c : Ctx) (n : Nat) : (laneBytes (c.lanes n)).length = 512 := by
  simp [laneBytes, Ctx.lanes, bytesLE, List.length_flatMap, Function.comp_def]

/-- A row segment of a valid tile that has it. -/
theorem rowFault_none {x : BitVec 27} {f : Tri} (valid : tctlValid x = true) (row :
    (f.imm.extractLsb' 0 6).toNat < tctlRows x)
    (segment : f.imm.getLsbD 6 = true → 512 < tctlRowBytes x) (tile : Nat) : rowFault x f tile = none := by
  have one : tileSeg f = 1 → f.imm.getLsbD 6 = true := by unfold tileSeg; split <;> simp [*]
  rw [rowFault, if_neg (by simp [valid]), if_neg]
  rintro (high | ⟨second, short⟩)
  · exact Nat.not_le.2 row high
  · exact Nat.not_le.2 (segment (one second)) short

/-- An invalid tile has none. -/
theorem rowFault_invalid {x : BitVec 27} (invalid : tctlValid x = false) (f : Tri) (tile : Nat) :
    rowFault x f tile = some (tileShape 1 tile) := by
  rw [rowFault, if_pos (by simp [invalid])]

/-- Nor has a valid one a row or a second segment past its own. -/
theorem rowFault_outside {x : BitVec 27} {f : Tri} (valid : tctlValid x = true)
    (outside : ¬ ((f.imm.extractLsb' 0 6).toNat < tctlRows x ∧ (f.imm.getLsbD 6 = true → 512 < tctlRowBytes x)))
        (tile : Nat) :
    rowFault x f tile = some (tileShape 6 tile) := by
  have one : f.imm.getLsbD 6 = true → tileSeg f = 1 := fun set => if_pos set
  rw [rowFault, if_neg (by simp [valid]), if_pos]
  rcases not_and_or.1 outside with row | segment
  · exact .inl (Nat.le_of_not_lt row)
  · obtain ⟨set, short⟩ := Classical.not_imp.1 segment
    exact .inr ⟨one set, Nat.le_of_not_lt short⟩

/-- The writes of a row segment that starts at byte `first` of the row at `start`: the bytes of the active lanes up to the
row's end. -/
def segmentWrites (mask : BitVec 128) (bs : List Byte) (rowBytes start first : Nat) : List (Nat × Byte) :=
  ((List.range 512).zip bs).filterMap fun (i, b) =>
    if mask.getLsbD (i / 4) && first + i < rowBytes then some (start + (first + i), b) else none

/-- Each of them is that of one byte. -/
theorem mem_segmentWrites {mask : BitVec 128} {bs : List Byte} (whole : bs.length = 512) {rowBytes start first o :
    Nat} {b : Byte} :
    (o, b) ∈ segmentWrites mask bs rowBytes start first ↔
      ∃ i, i < 512 ∧ mask.getLsbD (i / 4) = true ∧ first + i < rowBytes ∧ o = start + (first + i) ∧ b = bs.getD i 0 := by
  rw [segmentWrites, List.mem_filterMap]
  constructor
  · rintro ⟨⟨i, x⟩, there, written⟩
    obtain ⟨k, at_⟩ := List.mem_iff_getElem?.1 there
    obtain ⟨index, byte⟩ := List.getElem?_zip_eq_some.1 at_
    obtain ⟨inside, rfl⟩ : k < 512 ∧ k = i := by simpa [List.getElem?_eq_some_iff] using index
    dsimp only at written
    split at written
    next met =>
      obtain ⟨active, within⟩ := Bool.and_eq_true_iff.1 met
      cases written
      exact ⟨k, inside, active, of_decide_eq_true within, rfl, by rw [List.getD_eq_getElem?_getD, byte]; rfl⟩
    next => cases written
  · rintro ⟨i, inside, active, within, rfl, rfl⟩
    refine ⟨(i, bs.getD i 0), List.mem_iff_getElem?.2 ⟨i, List.getElem?_zip_eq_some.2 ⟨?_, ?_⟩⟩, by simp [active, within]⟩
    · simp [inside]
    · simp [inside, whole, List.getD_eq_getElem?_getD]

section
variable {s : State} {h : Hdr} {f : Tri} (g : guardTrue s.cur h = true)
include g

/-- `vtrd` of a row segment that its tile has. -/
theorem execVtrd_on (fits : rowFault (s.cur.tctl f.a.toNat) f f.a.toNat = none) :
    execVtrd h f s = .next (s.timed h 3 (wholeLanes s h f (bytesLanes 128 ((List.range 512).map fun i =>
      if 512 * tileSeg f + i < tctlRowBytes (s.cur.tctl f.a.toNat)
      then s.cur.tileByte f.a.toNat (tileRow f * tctlRowBytes (s.cur.tctl f.a.toNat) + (512 * tileSeg f + i))
          else 0)))) := by
  simp only [execVtrd, State.guarded_on g, fits]
  rfl

/-- And of another. -/
theorem execVtrd_refused {e : Trapped} (refused : rowFault (s.cur.tctl f.a.toNat) f f.a.toNat = some e) :
    execVtrd h f s = .next (s.raise e) := by
  simp only [execVtrd, State.guarded_on g, refused]

/-- `vtwr` of a row segment that its tile has. -/
theorem execVtwr_on (fits : rowFault (s.cur.tctl f.d.toNat) f f.d.toNat = none) :
    execVtwr h f s = .next (s.timed h 2 (.tileBytes f.d.toNat (segmentWrites (laneMask s.cur h) (laneBytes
        (s.cur.lanes f.a.toNat))
      (tctlRowBytes (s.cur.tctl f.d.toNat)) (tileRow f * tctlRowBytes (s.cur.tctl f.d.toNat)) (512 * tileSeg f)))) := by
  simp only [execVtwr, State.guarded_on g, fits]
  rfl

/-- And of another. -/
theorem execVtwr_refused {e : Trapped} (refused : rowFault (s.cur.tctl f.d.toNat) f f.d.toNat = some e) :
    execVtwr h f s = .next (s.raise e) := by
  simp only [execVtwr, State.guarded_on g, refused]

end

end Sys2Proof.Machine

open Sys2Proof Sys2Proof.Machine

/-- Settles O18, by the moulds of the element-wise ops. -/
theorem vectorArithmetic : Obligations.VectorArithmetic := by
  refine ⟨fun h f s g => ?_, fun t fn a b int => ?_⟩
  · refine ⟨zipOp_on g .., zipOp_on g .., zipOp_on g .., zip3Op_on g .., zipOp_on g .., zipOp_on g .., ?_, mapOp_on g .., mapOp_on g .., mapOp_on g .., mapOp_on g .., mapOp_on g .., zipOp_on g .., zipOp_on g .., zipOp_on g .., zipOp_on g .., zipOp_on g .., zipOp_on g .., mapOp_on g .., zip3Op_on g ..⟩
    refine (mapOp_on g ..).trans ?_
    have elem (x : Nat) : (if Ty.isFloat h.typ then
        if isNan h.typ x then signElem h.typ false false x else (magnitude h.typ x, 0)
        else signElem h.typ (f.fn.getLsbD 2) false x) =
        if Ty.isFloat h.typ = true ∧ isNan h.typ x = false then (magnitude h.typ x, 0)
        else signElem h.typ (!Ty.isFloat h.typ && f.fn.getLsbD 2) false x := by
      cases Ty.isFloat h.typ <;> cases isNan h.typ x <;> rfl
    simp only [elem]
  · simp only [addElem, mulElem, int]
    exact ⟨rfl, rfl, rfl⟩

/-- Settles O19, by the moulds of the V-slot ops; a bit of `vplog` is read from its truth table. -/
theorem vectorOtherOps : Obligations.VectorOtherOps := by
  intro h f s g t a b c mask plain owes
  have on (k : State → State) : s.guarded h k = k s := State.guarded_on g k
  refine ⟨fun whole => ?_, fun bits => ?_, (execVsel.eq_def h f s).trans (moveOp_on g ..), ?_, fun kind => ?_,
      fun kind => ?_,
    fun kind => ?_, fun kind => ?_, ?_, ?_, ?_, ?_, ?_, ?_, ?_,
    ?_, ?_, ?_, ?_, ?_, fun whole => ?_, fun bits => ?_⟩
  · exact (if_pos whole).trans (laneOp_on g ..)
  · exact ⟨_, (if_neg (Bool.eq_false_iff.1 bits)).trans (predOp_on g ..)⟩
  · have bit := predOp_on g f.d fun c _ => (predOfLanes (List.zipWith
      (fun x y => f.fn.getLsbD (3 + (if x then 2 else 0) + (if y then 1 else 0))) (activeLanes (c.q f.a.toNat))
      (activeLanes (c.q f.b.toNat))), 0)
    exact ⟨_, (execVplog.eq_def h f s).trans bit, fun i inside => getLsbD_truthTable _ _ inside⟩
  · exact (execVmov_kind h kind s).trans (laneOp_on g ..)
  · exact (execVmov_kind h kind s).trans (laneOp_on g ..)
  · exact (execVmov_kind h kind s).trans (predOp_on g ..)
  · exact (execVmov_kind h kind s).trans (predOp_on g ..)
  · intro src r
    show execVcvt h f s = _
    rw [execVcvt, laneOp_on g]
  · intro k r
    show execVdot h f s = _
    rw [execVdot, laneOp_on g]
    rfl
  · exact (execVbcast.eq_def h f s).trans (moveOp_on g ..)
  · exact congrArg Host.Outcome.next (on _)
  · exact congrArg Host.Outcome.next (on _)
  · exact (execVperm.eq_def h f s).trans (moveOp_on g ..)
  · exact (execVshuf.eq_def h f s).trans (moveOp_on g ..)
  · exact (execVred.eq_def h f s).trans (treeOp_on g ..)
  · exact (execVscan.eq_def h f s).trans (treeOp_on g ..)
  · intro r
    show execVq4x h f s = _
    rw [execVq4x, on]
  · intro r
    show execVdq4x h f s = _
    rw [execVdq4x, on]
  · exact (execVhash.eq_def h f s).trans (laneOp_on g ..)
  · exact (if_pos whole).trans (laneOp_on g ..)
  · exact (if_neg (Bool.eq_false_iff.1 bits)).trans (predOp_on g ..)

/-- Settles O20: a branch by the lanes that the two predicates share, a row segment by the check of its tile. -/
theorem vectorBranchesAndTileRows : Obligations.VectorBranchesAndTileRows := by
  refine ⟨fun h f s g free => ?_, fun h f s g free => ?_⟩
  all_goals have on (k : State → State) : s.guarded h k = k s := State.guarded_on g k
  · intro active bit target
    refine ⟨⟨_, congrArg Host.Outcome.next (on _), fun lane => ?_, fun none => ?_⟩,
      ⟨_, congrArg Host.Outcome.next (on _), fun all => ?_, fun lane => ?_⟩⟩
    · exact State.vectorBranch_taken (and_ne_zero_of_lane lane) h f
    · exact State.vectorBranch_passed (bne_eq_false_iff_eq.2 (and_eq_zero_of_lanes none)) free h f
    · refine State.vectorBranch_taken (beq_iff_eq.2 (and_eq_zero_of_lanes fun i lane => ?_)) h f
      rw [getLsbD_not_lane _ lane.1, all i lane]
      exact Bool.false_ne_true
    · obtain ⟨i, lane, clear⟩ := lane
      have some := and_ne_zero_of_lane (p := ~~~(s.cur.q f.a.toNat)) ⟨i, lane, by
        rw [getLsbD_not_lane _ lane.1, Bool.eq_false_iff.2 clear]; rfl⟩
      exact State.vectorBranch_passed (by simpa using some) free h f
  · intro row first active xa xd inside
    refine ⟨fun valid within => ?_, fun valid within => ?_, fun invalid => ?_, fun invalid => ?_, fun valid outside => ?_,
      fun valid outside => ?_⟩
    · refine (execVtrd_on g (rowFault_none valid within.1 within.2 _)).trans ?_
      rw [segment_first]
      rfl
    · refine ⟨_, execVtwr_on g (rowFault_none valid within.1 within.2 _), fun o b => ?_⟩
      rw [segment_first]
      exact mem_segmentWrites (length_laneBytes_lanes _ _)
    · exact raises_fault free (execVtrd_refused g (rowFault_invalid invalid _ _))
    · exact raises_fault free (execVtwr_refused g (rowFault_invalid invalid _ _))
    · exact raises_fault free (execVtrd_refused g (rowFault_outside valid outside _))
    · exact raises_fault free (execVtwr_refused g (rowFault_outside valid outside _))

end

section
/-!
PROOFS. Tile ops at issue (R293 to R298, Table 10.3; O22).
-/
namespace Sys2Proof.Machine
open Sys2Proof

/-- The mould of the tile ops: a check of the context, then an entry of the array queue. -/
def tileOp (h : Hdr) (i : Instr) (check : Ctx → Option Trapped) (entry : State → ArrayOp → ArrayOp) (s : State) :
    Host.Outcome State Fault Refusal :=
  .next (s.guarded h fun s => match check s.cur with
    | some t => s.raise t
    | none => s.enqueue h i (entry s))

/-- An instruction is a tile op with the check `check`. -/
def ChecksTiles (h : Hdr) (i : Instr) (check : Ctx → Option Trapped) : Prop :=
  ∃ entry : State → ArrayOp → ArrayOp, (∀ s, exec i s = tileOp h i check entry s) ∧ ∀ s q, (entry s q).op = q.op

section
variable {s : State} {h : Hdr} {i : Instr} {check : Ctx → Option Trapped}

/-- One that passes enters the array queue as its last entry. -/
theorem ChecksTiles.queued (op : ChecksTiles h i check) (g : guardTrue s.cur h = true) (passes : check s.cur = none) :
    ∃ t, exec i s = .next t ∧ s.arrayQueued t i := by
  obtain ⟨entry, same, keeps⟩ := op
  refine ⟨s.enqueue h i (entry s), ?_, s.enqueue_last h i _ (keeps s)⟩
  simp only [same, tileOp, State.guarded_on g, passes]

/-- One that fails raises the fault of its check. -/
theorem ChecksTiles.raises (op : ChecksTiles h i check) (g : guardTrue s.cur h = true) (free : s.iss.fault = none)
    {e : Trapped}
    (fails : check s.cur = some e) : ∃ t, exec i s = .next t ∧ t.iss.fault = some e := by
  obtain ⟨entry, same, _⟩ := op
  refine raises_fault (t := s) free ?_
  simp only [same, tileOp, State.guarded_on g, fails]
end

/-! ## The checks -/

/-- The check of `ttr`. -/
def turnFault (x y : BitVec 27) (d a : Nat) : Option Trapped :=
  firstShape [(!tctlValid x, 1, d), (!tctlValid y, 1, a), (tctlType x != tctlType y, 2, d),
    (tctlRows x != tctlCols y || tctlCols x != tctlRows y, 4, d)]

/-- The check of `tmov`. -/
def moveFault (x y : BitVec 27) (d a : Nat) : Option Trapped :=
  firstShape [(!tctlValid x, 1, d), (!tctlValid y, 1, a), (!(tctlType x == tctlType y) && !movTypes.contains
      (tctlType x), 2, d),
    (!(tctlType x == tctlType y) && !movTypes.contains (tctlType y), 2, a),
    (tctlRows x != tctlRows y || tctlCols x != tctlCols y, 4, d)]

/-- A type that `tq4x` quantises, or gives back. -/
def wideType (t : Nat) : Bool := t == Ty.f32 || t == Ty.bf16

/-- The check of `tq4x`. -/
def quantFault (back : Bool) (x y : BitVec 27) (d a : Nat) : Option Trapped :=
  firstShape [(!tctlValid x, 1, d), (!tctlValid y, 1, a),
    (if back then !wideType (tctlType x) else tctlType x != Ty.q4x, 2, d),
    (if back then tctlType y != Ty.q4x else !wideType (tctlType y), 2, a),
    (tctlRows x != tctlRows y || tctlCols x != tctlCols y, 4, d)]

section
variable (h : Hdr) (f : Tri)

theorem tlds_checks : ChecksTiles h (.tlds h f) fun c => tileMemFault c f.d.toNat (tileEa c f) (c.s f.b.toNat) :=
  ⟨_, fun _ => rfl, fun _ _ => rfl⟩
theorem tsts_checks : ChecksTiles h (.tsts h f) fun c => tileMemFault c f.d.toNat (tileEa c f) (c.s f.b.toNat) :=
  ⟨_, fun _ => rfl, fun _ _ => rfl⟩
theorem ttr_checks : ChecksTiles h (.ttr h f) fun c => turnFault (c.tctl f.d.toNat) (c.tctl f.a.toNat) f.d.toNat f.a.toNat :=
  ⟨_, fun _ => rfl, fun _ _ => rfl⟩
theorem tmov_checks : ChecksTiles h (.tmov h f) fun c => moveFault (c.tctl f.d.toNat) (c.tctl f.a.toNat)
    f.d.toNat f.a.toNat :=
  ⟨_, fun _ => rfl, fun _ _ => rfl⟩
theorem tfill_checks : ChecksTiles h (.tfill h f) fun c => firstShape [(!tctlValid (c.tctl f.d.toNat), 1, f.d.toNat)] :=
  ⟨_, fun _ => rfl, fun _ _ => rfl⟩
theorem tq4x_checks :
    ChecksTiles h (.tq4x h f) fun c => quantFault (f.fn.getLsbD 4) (c.tctl f.d.toNat) (c.tctl f.a.toNat)
        f.d.toNat f.a.toNat :=
  ⟨_, fun _ => rfl, fun _ _ => rfl⟩
end

section
variable {x y : BitVec 27} {d a : Nat}

/-- An invalid tile fails first. -/
theorem firstShape_invalid (invalid : tctlValid x = false) (l : List (Bool × Nat × Nat)) :
    firstShape ((!tctlValid x, 1, d) :: l) = some (tileShape 1 d) := by
  simp [firstShape, invalid]

/-- Then an invalid second one. -/
theorem firstShape_invalid_second (valid : tctlValid x = true) (invalid : tctlValid y = false) (l : List
    (Bool × Nat × Nat)) :
    firstShape ((!tctlValid x, 1, d) :: (!tctlValid y, 1, a) :: l) = some (tileShape 1 a) := by
  simp [firstShape, valid, invalid]

section
variable (valid : tctlValid x = true ∧ tctlValid y = true)
include valid

theorem turnFault_none (type : tctlType x = tctlType y) (shape : tctlRows x = tctlCols y ∧ tctlCols x = tctlRows y) :
    turnFault x y d a = none := by
  simp [turnFault, firstShape, valid, type, shape]

theorem turnFault_type (type : tctlType x ≠ tctlType y) : turnFault x y d a = some (tileShape 2 d) := by
  simp [turnFault, firstShape, valid, type]

theorem turnFault_shape (type : tctlType x = tctlType y) (shape : ¬ (tctlRows x = tctlCols y ∧ tctlCols x = tctlRows y)) :
    turnFault x y d a = some (tileShape 4 d) := by
  simp [turnFault, firstShape, valid, type, Decidable.not_and_iff_or_not.1 shape]

theorem moveFault_none (shape : tctlRows x = tctlRows y ∧ tctlCols x = tctlCols y)
    (type : tctlType x = tctlType y ∨ (tctlType x ∈ movTypes ∧ tctlType y ∈ movTypes)) : moveFault x y d a = none := by
  rcases type with same | ⟨takesD, takesA⟩
  · simp [moveFault, firstShape, valid, same, shape]
  · simp [moveFault, firstShape, valid, takesD, takesA, shape]

theorem moveFault_typeD (other : tctlType x ≠ tctlType y) (type : tctlType x ∉ movTypes) :
    moveFault x y d a = some (tileShape 2 d) := by
  simp [moveFault, firstShape, valid, other, type]

theorem moveFault_typeA (other : tctlType x ≠ tctlType y) (takes : tctlType x ∈ movTypes) (type : tctlType y ∉ movTypes) :
    moveFault x y d a = some (tileShape 2 a) := by
  simp [moveFault, firstShape, valid, other, takes, type]

theorem moveFault_shape (type : tctlType x = tctlType y ∨ (tctlType x ∈ movTypes ∧ tctlType y ∈ movTypes))
    (shape : ¬ (tctlRows x = tctlRows y ∧ tctlCols x = tctlCols y)) : moveFault x y d a = some (tileShape 4 d) := by
  have differs := Decidable.not_and_iff_or_not.1 shape
  rcases type with same | ⟨takesD, takesA⟩
  · simp [moveFault, firstShape, valid, same, differs]
  · simp [moveFault, firstShape, valid, takesD, takesA, differs]

end

/-- The destination's type is one that `tq4x` gives. -/
def takesD (back : Bool) (x : BitVec 27) : Prop :=
  if back then tctlType x = Ty.f32 ∨ tctlType x = Ty.bf16 else tctlType x = Ty.q4x

/-- The source's type is one that it reads. -/
def takesA (back : Bool) (y : BitVec 27) : Prop :=
  if back then tctlType y = Ty.q4x else tctlType y = Ty.f32 ∨ tctlType y = Ty.bf16

/-- The checks of the two types are those. -/
theorem quantFault_types (back : Bool) (x y : BitVec 27) :
    ((if back then !wideType (tctlType x) else tctlType x != Ty.q4x) = true ↔ ¬ takesD back x) ∧
      ((if back then tctlType y != Ty.q4x else !wideType (tctlType y)) = true ↔ ¬ takesA back y) := by
  cases back <;> simp [takesD, takesA, wideType]

section
variable {back : Bool} (valid : tctlValid x = true ∧ tctlValid y = true)
include valid

/-- The check of `tq4x` on valid tiles. -/
theorem quantFault_valid : quantFault back x y d a = firstShape [
    (if back then !wideType (tctlType x) else tctlType x != Ty.q4x, 2, d),
    (if back then tctlType y != Ty.q4x else !wideType (tctlType y), 2, a),
    (tctlRows x != tctlRows y || tctlCols x != tctlCols y, 4, d)] := by
  simp only [quantFault, firstShape, valid, Bool.not_true, Bool.false_eq_true, if_false]

theorem quantFault_none (shape : tctlRows x = tctlRows y ∧ tctlCols x = tctlCols y) (giving : takesD back x)
    (reading : takesA back y) : quantFault back x y d a = none := by
  have d := Bool.eq_false_iff.2 (mt (quantFault_types back x y).1.1 (not_not.2 giving))
  have a := Bool.eq_false_iff.2 (mt (quantFault_types back x y).2.1 (not_not.2 reading))
  rw [quantFault_valid valid, d, a]
  simp [firstShape, shape]

theorem quantFault_typeD (other : ¬ takesD back x) : quantFault back x y d a = some (tileShape 2 d) := by
  rw [quantFault_valid valid, (quantFault_types back x y).1.2 other]
  rfl

theorem quantFault_typeA (giving : takesD back x) (other : ¬ takesA back y) : quantFault back x y d a = some
    (tileShape 2 a) := by
  have d := Bool.eq_false_iff.2 (mt (quantFault_types back x y).1.1 (not_not.2 giving))
  rw [quantFault_valid valid, d, (quantFault_types back x y).2.2 other]
  rfl

theorem quantFault_shape (giving : takesD back x) (reading : takesA back y)
    (shape : ¬ (tctlRows x = tctlRows y ∧ tctlCols x = tctlCols y)) : quantFault back x y d a = some (tileShape 4 d) := by
  have d := Bool.eq_false_iff.2 (mt (quantFault_types back x y).1.1 (not_not.2 giving))
  have a := Bool.eq_false_iff.2 (mt (quantFault_types back x y).2.1 (not_not.2 reading))
  rw [quantFault_valid valid, d, a]
  simp [firstShape, Decidable.not_and_iff_or_not.1 shape]

end
end

section
variable {c : Ctx} {tile d a : Nat} {ea p : Dword}

/-- A tile access within the window at aligned addresses passes. -/
theorem tileMemFault_none (valid : tctlValid (c.tctl tile) = true)
    (inside : ∀ a ∈ tileAddrs (c.tctl tile) ea.toNat p.toNat, a < c.id.spSize) (aligned :
        ea.toNat % 16 = 0 ∧ p.toNat % 16 = 0) :
    tileMemFault c tile ea p = none := by
  have within : ¬ ((tileAddrs (c.tctl tile) ea.toNat p.toNat).any fun a => c.id.spSize ≤ a) = true := by
    simpa using inside
  simp only [tileMemFault, valid, Bool.not_true, Bool.false_eq_true, if_false, if_neg within]
  exact if_neg fun skewed => skewed.elim (fun x => x aligned.1) fun x => x aligned.2

/-- One outside it is ILLADDR. -/
theorem tileMemFault_outside (valid : tctlValid (c.tctl tile) = true)
    (outside : ∃ a ∈ tileAddrs (c.tctl tile) ea.toNat p.toNat, c.id.spSize ≤ a) :
    tileMemFault c tile ea p = some ⟨.illaddr, ea⟩ := by
  have past : ((tileAddrs (c.tctl tile) ea.toNat p.toNat).any fun a => c.id.spSize ≤ a) = true := by
    simpa using outside
  simp only [tileMemFault, valid, Bool.not_true, Bool.false_eq_true, if_false, if_pos past]

/-- One within it at other addresses MISALIGN. -/
theorem tileMemFault_misaligned (valid : tctlValid (c.tctl tile) = true)
    (inside : ∀ a ∈ tileAddrs (c.tctl tile) ea.toNat p.toNat, a < c.id.spSize)
    (skewed : ¬ (ea.toNat % 16 = 0 ∧ p.toNat % 16 = 0)) : tileMemFault c tile ea p = some ⟨.misalign, ea⟩ := by
  have within : ¬ ((tileAddrs (c.tctl tile) ea.toNat p.toNat).any fun a => c.id.spSize ≤ a) = true := by
    simpa using inside
  simp only [tileMemFault, valid, Bool.not_true, Bool.false_eq_true, if_false, if_neg within]
  exact if_pos (Decidable.not_and_iff_or_not.1 skewed)

theorem tileMemFault_invalid (invalid : tctlValid (c.tctl tile) = false) : tileMemFault c tile ea p = some
    (tileShape 1 tile) := by
  simp only [tileMemFault, invalid, Bool.not_false, if_true]

end
end Sys2Proof.Machine

open Sys2Proof Sys2Proof.Machine

/-- Settles O22: each op by its check, evaluated on either side of each of its conditions. -/
theorem tileOps : Obligations.TileOps := by
  intro h f s g free queued xd xa valid alike wide turned movable narrow dTakes aTakes addrs aligned raises
  have lds := tlds_checks h f
  have sts := tsts_checks h f
  have tr := ttr_checks h f
  have mov := tmov_checks h f
  have fill := tfill_checks h f
  have quant := tq4x_checks h f
  refine ⟨fun validD inside fits => ?_, fun validD outside => ?_, fun validD inside skewed => ?_,
    fun both type shape => tr.queued g (turnFault_none both type shape), fun both type => tr.raises g free
        (turnFault_type both type),
    fun both type shape => tr.raises g free (turnFault_shape both type shape),
    fun both shape type => mov.queued g (moveFault_none both shape type), fun validD => ?_,
    fun both type => ⟨fun no => mov.raises g free (moveFault_typeD both type no), fun yes no => mov.raises g free
        (moveFault_typeA both type yes no)⟩,
    fun both type shape => mov.raises g free (moveFault_shape both type shape),
    fun both shape takesD takesA => quant.queued g (quantFault_none both shape takesD takesA), fun both no => ?_,
        fun both takesD no => ?_,
    fun both takesD takesA shape => ?_, fun invalid i op => ?_, fun validD invalid i op => ?_⟩
  · have passes := tileMemFault_none validD inside fits
    exact ⟨lds.queued g passes, sts.queued g passes⟩
  · have fails := tileMemFault_outside validD outside
    exact ⟨lds.raises g free fails, sts.raises g free fails⟩
  · have fails := tileMemFault_misaligned validD inside skewed
    exact ⟨lds.raises g free fails, sts.raises g free fails⟩
  · exact fill.queued g (by show firstShape [(!tctlValid xd, 1, _)] = none; rw [validD]; rfl)
  · exact quant.raises g free (quantFault_typeD both no)
  · exact quant.raises g free (quantFault_typeA both takesD no)
  · exact quant.raises g free (quantFault_shape both takesD takesA shape)
  · have first (l) : firstShape ((!tctlValid xd, 1, f.d.toNat) :: l) = some (tileShape 1 f.d.toNat)
      := firstShape_invalid invalid l
    simp only [List.mem_cons, List.not_mem_nil, or_false] at op
    rcases op with rfl | rfl | rfl | rfl | rfl | rfl
    · exact lds.raises g free (tileMemFault_invalid invalid)
    · exact sts.raises g free (tileMemFault_invalid invalid)
    · exact tr.raises g free (first _)
    · exact mov.raises g free (first _)
    · exact fill.raises g free (first _)
    · exact quant.raises g free (first _)
  · have second (l) : firstShape ((!tctlValid xd, 1, f.d.toNat) :: (!tctlValid xa, 1, f.a.toNat) :: l) =
        some (tileShape 1 f.a.toNat) := firstShape_invalid_second validD invalid l
    simp only [List.mem_cons, List.not_mem_nil, or_false] at op
    rcases op with rfl | rfl | rfl
    · exact tr.raises g free (second _)
    · exact mov.raises g free (second _)
    · exact quant.raises g free (second _)
end
section
/-!
PROOFS. Scratchpad ops at issue (R188 to R190; O24).
-/
namespace Sys2Proof.Machine
open Sys2Proof

section
variable {size : Nat} {u : ScratchUse} {whole : Option Nat}

/-- The alignment rule that an address breaks: its own, or that of the whole access. -/
def ScratchUse.Skewed (u : ScratchUse) (whole : Option Nat) (p : Nat × Nat) : Prop :=
  whole.elim (p.2 % u.align ≠ 0) fun w => w % 64 ≠ 0

/-- An address that the check finds is outside the window or skewed. -/
theorem ScratchUse.skewed_iff (p : Nat × Nat) :
    (whole.elim (p.2 % u.align != 0) fun w => w % 64 != 0) = true ↔ u.Skewed whole p := by
  cases whole <;> simp [ScratchUse.Skewed]

/-- An access with an address outside the window is ILLADDR, and one that its check finds is named. -/
theorem scratchFault_outside (outside : ∃ p ∈ u.addrs, size < p.2 + u.size) :
    ∃ p ∈ u.addrs, (size < p.2 + u.size ∨ u.Skewed whole p) ∧
      scratchFault size u whole = some ⟨.illaddr, BitVec.ofNat 64 (whole.getD p.2)⟩ := by
  obtain ⟨p, there, past⟩ := outside
  have any : (u.addrs.any fun p => size < p.2 + u.size) = true := List.any_eq_true.2 ⟨p, there, decide_eq_true past⟩
  cases found : u.addrs.find? fun p => decide (size < p.2 + u.size) || whole.elim (p.2 % u.align != 0)
      fun w => w % 64 != 0 with
  | none => exact absurd (List.find?_eq_none.1 found p there) (by simp [past])
  | some q =>
    refine ⟨q, List.mem_of_find?_eq_some found, ?_, ?_⟩
    · have bad := List.find?_some found
      rw [Bool.or_eq_true, decide_eq_true_iff, ScratchUse.skewed_iff] at bad
      exact bad
    · simp only [scratchFault, found, any, if_true]

/-- One within the window with a skewed address is MISALIGN. -/
theorem scratchFault_skewed (inside : ∀ p ∈ u.addrs, p.2 + u.size ≤ size) (skewed : ∃ p ∈ u.addrs, u.Skewed whole p) :
    ∃ p ∈ u.addrs, u.Skewed whole p ∧ scratchFault size u whole = some ⟨.misalign, BitVec.ofNat 64 (whole.getD p.2)⟩ := by
  obtain ⟨p, there, bad⟩ := skewed
  have any : (u.addrs.any fun p => size < p.2 + u.size) = false := by
    simpa using inside
  cases found : u.addrs.find? fun p => decide (size < p.2 + u.size) || whole.elim (p.2 % u.align != 0)
      fun w => w % 64 != 0 with
  | none =>
    have fine := List.find?_eq_none.1 found p there
    rw [(ScratchUse.skewed_iff p).2 bad, Bool.or_true] at fine
    exact absurd rfl fine
  | some q =>
    have member := List.mem_of_find?_eq_some found
    refine ⟨q, member, ?_, ?_⟩
    · have at_ := List.find?_some found
      rw [Bool.or_eq_true, decide_eq_true_iff, ScratchUse.skewed_iff] at at_
      exact at_.resolve_left (Nat.not_lt.2 (inside q member))
    · simp only [scratchFault, found, any, Bool.false_eq_true, if_false]

end

section
variable {s : State} {h : Hdr} {i : Instr} {f : MemF} {d : Nat} {u : Ctx → ScratchUse} {whole : Bool} {eff :
    Ctx → ScratchUse → Effect}
  {o : Host.Outcome State Fault Refusal}

/-- A scratchpad op whose addresses pass owes its access. -/
theorem scratchOp_passes (g : guardTrue s.cur h = true) (op : o = scratchOp h i f d u whole eff s)
    {w : Option Nat} (unit : (if whole then some (farAddr f s.cur).toNat else none) = w)
    (passes : scratchFault s.cur.id.spSize (u s.cur) w = none) : o = .next (s.timed h d (eff s.cur (u s.cur))) := by
  simp only [op, scratchOp, State.guarded_on g, unit, passes]

/-- What a fault after the bundle leaves: the cause, the op in the replay list, and nothing more owed. -/
def State.FaultsAfter (s : State) (o : Host.Outcome State Fault Refusal) (x : Trapped) : Prop :=
  ∃ t, o = .next t ∧ t.iss.cfaults = s.iss.cfaults ++ [x] ∧ t.cur.trap.list.length = s.cur.trap.list.length + 1 ∧
    t.cur.level.deferred = s.cur.level.deferred

/-- One whose addresses fail faults after its bundle. -/
theorem scratchOp_fails (g : guardTrue s.cur h = true) (op : o = scratchOp h i f d u whole eff s)
    {w : Option Nat} (unit : (if whole then some (farAddr f s.cur).toNat else none) = w) {x : Trapped}
    (fails : scratchFault s.cur.id.spSize (u s.cur) w = some x) : s.FaultsAfter o x := by
  simp only [op, scratchOp, State.guarded_on g, unit, fails]
  refine ⟨_, rfl, State.faultAfter_cfaults .., ?_, ?_⟩
  · rw [State.faultAfter, State.cur_onIss _ _ rfl, State.cur_onCur]
    exact List.length_append
  · rw [State.faultAfter, State.cur_onIss _ _ rfl, State.cur_onCur]
    rfl

end

end Sys2Proof.Machine

open Sys2Proof Sys2Proof.Machine

/-- Settles O24, by the scratchpad check: the address that it finds, and the rule that it breaks. -/
theorem scratchpadOps : Obligations.ScratchpadOps := by
  refine ⟨fun h f s g => ?_, fun h f s g => ?_⟩
  · have lds := scratchOp_passes g (execLds.eq_def h f s) (w := none) rfl
    have sts := scratchOp_passes g (execSts.eq_def h f s) (w := none) rfl
    have vlds := scratchOp_passes g (execVlds.eq_def h f s) (w := some (farAddr f s.cur).toNat) rfl
    have vsts := scratchOp_passes g (execVsts.eq_def h f s) (w := some (farAddr f s.cur).toNat) rfl
    have vgat := scratchOp_passes g (execVgat.eq_def h f s) (w := none) rfl
    have vsca := scratchOp_passes g (execVsca.eq_def h f s) (w := none) rfl
    rw [laneStores, vectorUse, List.map_map] at vsts
    simp only [farAddr, memAddr, signExt, typeBytes] at lds sts vlds vsts vgat vsca
    exact ⟨fun passes => ⟨lds passes, sts passes⟩, fun passes => ⟨vlds passes, vsts passes⟩,
        fun passes => ⟨vgat passes, vsca passes⟩⟩
  · intro ea size bytes lanes ps raises first
    have named : BitVec.ofNat 64 ea.toNat = ea := by simp
    refine ⟨fun i op => ?_, fun i op => ?_, fun i op => ?_⟩ <;> simp only [List.mem_cons, List.not_mem_nil, or_false] at op
    · have raise {x : Trapped} (fails : scratchFault size (scalarUse s.cur h f) none = some x) : raises i x := by
        rcases op with rfl | rfl
        · exact scratchOp_fails g (execLds.eq_def h f s) rfl fails
        · exact scratchOp_fails g (execSts.eq_def h f s) rfl fails
      have only {p : Nat × Nat} (there : p ∈ (scalarUse s.cur h f).addrs) : p.2 = ea.toNat :=
        congrArg Prod.snd (List.mem_singleton.1 there)
      refine ⟨fun past => ?_, fun inside skewed => ?_⟩
      · obtain ⟨p, there, _, fails⟩ := scratchFault_outside (size := size) (u := scalarUse s.cur h f) (whole := none)
          ⟨(0, ea.toNat), List.mem_singleton_self _, past⟩
        rw [Option.getD_none, only there, named] at fails
        exact raise fails
      · obtain ⟨p, there, _, fails⟩ := scratchFault_skewed (size := size) (u := scalarUse s.cur h f) (whole := none)
          (fun p there => only there ▸ inside) ⟨(0, ea.toNat), List.mem_singleton_self _, skewed⟩
        rw [Option.getD_none, only there, named] at fails
        exact raise fails
    · have raise {x : Trapped} (fails : scratchFault size (vectorUse s.cur f) (some ea.toNat) = some x) : raises i x := by
        rcases op with rfl | rfl
        · exact scratchOp_fails g (execVlds.eq_def h f s) rfl fails
        · exact scratchOp_fails g (execVsts.eq_def h f s) rfl fails
      have lane {k : Nat} (active : k ∈ lanes) : (k, ea.toNat + 4 * k) ∈ (vectorUse s.cur f).addrs :=
        List.mem_map_of_mem active
      refine ⟨fun past => ?_, fun nonempty inside skewed => ?_⟩
      · obtain ⟨k, active, past⟩ := past
        obtain ⟨p, there, _, fails⟩ := scratchFault_outside (size := size) (whole := some ea.toNat) ⟨_, lane active, past⟩
        rw [Option.getD_some, named] at fails
        exact raise fails
      · obtain ⟨k, active⟩ := List.exists_mem_of_ne_nil _ nonempty
        have within (p) (there : p ∈ (vectorUse s.cur f).addrs) : p.2 + 4 ≤ size := by
          obtain ⟨k, active, rfl⟩ := List.mem_map.1 there
          exact inside k active
        obtain ⟨p, there, _, fails⟩ := scratchFault_skewed (whole := some ea.toNat) within ⟨_, lane active, skewed⟩
        rw [Option.getD_some, named] at fails
        exact raise fails
    · have raise {x : Trapped} (fails : scratchFault size (gatherUse s.cur h f) none = some x) : raises i x := by
        rcases op with rfl | rfl
        · exact scratchOp_fails g (execVgat.eq_def h f s) rfl fails
        · exact scratchOp_fails g (execVsca.eq_def h f s) rfl fails
      refine ⟨fun past => ?_, fun inside skewed => ?_⟩
      · obtain ⟨p, there, bad, fails⟩ := scratchFault_outside (whole := none) past
        exact ⟨p, there, bad, raise fails⟩
      · obtain ⟨p, there, bad, fails⟩ := scratchFault_skewed (whole := none) inside skewed
        exact ⟨p, there, .inr bad, raise fails⟩
end
section
/-!
PROOFS. Intake and bound ops (R333, R344, R384; O29), the return from the handler (R138; O33) and barriers (R256; O34).
-/
namespace Sys2Proof.Machine
open Sys2Proof

section
variable {s : State} {h : Hdr} {f : Tri}

/-- An intake op on a ring that its VF has enters the port. -/
theorem acceptRing_ok {i : Instr} (op : i = .itake h f ∨ i = .igive h f ∨ i = .istat h f) {n : Nat} {r : PortReq}
    (work : r.work = .op i)
    (has : (s.ring? (s.ctx n).id.vf (ringOf f)).isSome = true) (landing : Bool) :
    acceptRing landing s n r = .ok (s.pushOp n r landing) := by
  have there : (s.ring? (s.ctx n).id.vf (ringOf f)).isNone = false := by rw [← Option.not_isSome, has]; rfl
  rw [acceptRing, work]
  rcases op with rfl | rfl | rfl <;> simp only [there, Bool.false_eq_true, if_false]

/-- A bound op with a binding becomes a routine of its bundle, not yet started, at the entry of its binding. -/
theorem execBoundOp_routine {opc : BitVec 8} (g : guardTrue s.cur h = true) {b : Binding}
    (bound : lookup? opc.toNat s.cur.binds = some b) :
    ∃ t r, execBoundOp opc h f s = .next t ∧ t.iss.bound = s.iss.bound ++ [r] ∧ r.bind = b ∧ r.micro.mpc = b.entry ∧
      r.started = false := by
  simp only [execBoundOp, State.guarded_on g, bound]
  exact ⟨_, _, rfl, congrArg (fun x : Issue => x.bound ++ _) (s.addSignal_iss h false), rfl, rfl, rfl⟩

end

/-! ## The return from the handler -/

/-- With nothing due at level 1 the return lands nothing. -/
theorem State.landLevel1_none {s : State} {n : Nat} (none : (s.ctx n).lv1.deferred = []) : s.landLevel1 n = (s, false) := by
  rw [State.landLevel1, none]
  rfl

/-- Discarding nothing leaves what a context's program sees. -/
theorem Ctx.discard_keeps (c : Ctx) (l : List PortReq) :
    (c.discard l).trap = c.trap ∧ (c.discard l).pc = c.pc ∧ (c.discard l).regs = c.regs ∧
        (c.discard l).lv0.count = c.lv0.count :=
  ⟨rfl, rfl, rfl, rfl⟩

/-- A context back at level 0, at the address that its handler returns to. -/
def Ctx.resumed (c : Ctx) : Ctx :=
  { c with trap := { c.trap with tl := false }, lv1 := {}, pc := c.trap.pc, life := { c.life with returning := false } }

/-- A return with nothing due, held or to be sent again leaves the context resumed, with its list empty. -/
theorem State.finishReturn_plain {s : State} {n : Nat} (none : (s.ctx n).lv1.deferred = []) (held : (s.ctx n).trap.held = [])
    (list : (s.ctx n).trap.list = []) :
    s.finishReturn n = (s.onCtx n Ctx.resumed).onCtx n Ctx.markReplay ∨
      s.finishReturn n = (s.onCtx n Ctx.resumed).onCtx n fun d => { d.discard [] with trap := { d.trap with list := [] } } := by
  have at_ : (s.onCtx n Ctx.resumed).ctx n = (s.ctx n).resumed := State.ctx_onCtx_same ..
  have held' : (s.ctx n).resumed.trap.held = [] := held
  have list' : (s.ctx n).resumed.trap.list = [] := list
  have quiet : (((s.onCtx n Ctx.resumed).onCtx n Ctx.markReplay).ctx n).trap.list.any (·.immed) = false := by
    rw [State.ctx_onCtx_same, at_, Ctx.markReplay, list']
    rfl
  rw [State.finishReturn, State.landLevel1_none none]
  dsimp only
  rw [if_neg Bool.false_ne_true, held]
  dsimp only
  split
  · exact .inl (State.replayImmed_none quiet)
  · rw [list]
    exact .inr rfl

end Sys2Proof.Machine

open Sys2Proof Sys2Proof.Machine

/-- Settles O29: an intake op is accepted where its VF has the ring, a bound op by its binding. -/
theorem intakeAndBoundOps : Obligations.IntakeAndBoundOps := by
  intro opc h f s g free a
  refine ⟨fun has => ⟨?_, ?_, ?_⟩, fun b bound => execBoundOp_routine g bound, fun none => ?_⟩
  · exact ⟨_, portOp_accepted g (acceptRing_ok (.inl rfl) rfl has true), State.queuedLanding_pushOp rfl rfl⟩
  · exact ⟨_, portOp_accepted g (acceptRing_ok (.inr (.inl rfl)) rfl has false), State.queued_pushOp rfl false⟩
  · exact ⟨_, portOp_accepted g (acceptRing_ok (.inr (.inr rfl)) rfl has true), State.queuedLanding_pushOp rfl rfl⟩
  · refine raises_fault (t := s) free ?_
    show execBoundOp opc h f s = _
    simp only [execBoundOp, State.guarded_on g, none]

/-- Settles O33: the context resumed, and then only its empty list marked or discarded. -/
theorem returnResumes : Obligations.ReturnResumes := by
  intro s n level none held list t
  rcases s.finishReturn_plain none held list with same | same
  all_goals
    have after := congrArg (fun u : State => u.ctx n) same
    simp only [State.ctx_onCtx_same] at after
    rw [show t.ctx n = _ from after]
    exact ⟨rfl, rfl, rfl, rfl⟩

/-- Settles O34, on either side of the test that every member has arrived. -/
theorem barrierReleases : Obligations.BarrierReleases := by
  refine fun e n => ⟨fun all => ?_, fun m member absent => ?_⟩
  · have full : (!(e.arrivals ++ [n]).isEmpty && e.members.all fun m => (e.arrivals ++ [n]).contains m) = true := by
      simpa using all
    rw [SetEntry.arrive, SetEntry.test, if_pos full]
    exact ⟨rfl, rfl, rfl⟩
  · have short : ¬ (!(e.arrivals ++ [n]).isEmpty && e.members.all fun m => (e.arrivals ++ [n]).contains m) = true := by
      intro full
      have there := List.all_eq_true.1 (Bool.and_eq_true_iff.1 full).2 m member
      exact absent (List.contains_iff_mem.1 there)
    rw [SetEntry.arrive, SetEntry.test, if_neg short]
    exact ⟨rfl, rfl, rfl⟩

end

section
/-!
PROOFS. What the port does with prefetches, flushes, acknowledgements, arrivals and signals (R29, R53, R200, R205; O38).
-/
namespace Sys2Proof.Machine
open Sys2Proof

variable {s t : State} {n : Nat} {r : PortReq}

/-! ## Lines brought in beside a port's only entry -/

/-- The port of context `n` holds `r` alone, which does not wait at a home agent. -/
structure State.Alone (t : State) (n : Nat) (r : PortReq) : Prop where
  only : (t.ctx n).port.queue = [r]
  idle : r.isWaitingWta = false

theorem State.Alone.of_ctxs {u : State} (alone : t.Alone n r) (same : u.ctxs = t.ctxs) : u.Alone n r := by
  have here : u.ctx n = t.ctx n := by simp only [State.ctx, same]
  exact ⟨by rw [here]; exact alone.only, alone.idle⟩

/-- A write at a home agent leaves it so. -/
theorem State.Alone.homeWrite (alone : t.Alone n r) (pa : Nat) (bs : List Byte) : (t.homeWrite pa bs).Alone n r := by
  have same := State.ctx_homeWrite (t := t) (n := n) (fun e there => by
    rw [alone.only, List.mem_singleton] at there
    rw [there, alone.idle]) pa bs
  exact ⟨by rw [same]; exact alone.only, alone.idle⟩

/-- So does a line written back. -/
theorem State.Alone.writeBack (alone : t.Alone n r) (core : Nat) (l : L1Line) : (t.writeBack core l).Alone n r := by
  rw [State.writeBack]
  split
  · exact alone
  · exact (alone.homeWrite _ _).of_ctxs rfl

/-- And a line put into an L1. -/
theorem State.Alone.l1Insert (alone : t.Alone n r) (core vf line : Nat) : (t.l1Insert core vf line).Alone n r := by
  have drop (u : State) (v : L1Line) (x : Nat) : u.Alone n r → State.Alone (({ u.writeBack core v with free := x }).onCore core fun k =>
      { k with l1 := k.l1.filter fun l => !(l.vf == v.vf && l.line == v.line) }) n r :=
    fun alone => (alone.writeBack core v).of_ctxs rfl
  have put (u : State) (p : Prop) [Decidable p] (f : Core → Core) (alone : u.Alone n r) :
      State.Alone (if p then u.onCore core f else u) n r := by
    split
    · exact alone.of_ctxs rfl
    · exact alone
  rw [State.l1Insert]
  refine put _ _ _ ?_
  split
  · exact alone
  · dsimp only
    split
    · exact drop t _ _ alone
    · exact alone

/-- A prefetched line leaves the port as it is. -/
theorem State.Alone.prefLine (alone : t.Alone n r) (m : Nat) (q : PortReq) (i : Nat) : (t.prefLine m q i).Alone n r := by
  have touch (p : Path) (vf va : Nat) : (t.touch p vf va).Alone n r := by
    obtain ⟨cs, ts, same⟩ := t.touch_eq p vf va
    rw [same]
    exact alone.of_ctxs rfl
  rw [State.prefLine]
  split
  · exact alone
  · split
    · dsimp only
      split
      · exact (touch _ _ _).of_ctxs rfl
      · rw [State.l1Ready]
        split
        · split
          · exact (touch _ _ _).of_ctxs rfl
          · exact (touch _ _ _).of_ctxs rfl
        · exact ((touch _ _ _).of_ctxs rfl : State.Alone (State.fillVisit ..) n r).l1Insert ..
    · exact alone

/-- An entry alone in its port, once it has left, leaves nothing to settle. -/
theorem State.Alone.left (alone : t.Alone n r) :
    (((t.onCtx n fun c => { c with port := { c.port with queue := c.port.queue.filter fun q => q.id != r.id } }).settlePort n).ctx n).port.queue
      = [] := by
  have gone : ((t.onCtx n fun c => { c with port := { c.port with queue := c.port.queue.filter fun q => q.id != r.id } }).ctx n).port.queue
      = [] := by
    rw [State.ctx_onCtx_same, alone.only]
    simp
  rw [State.settlePort_empty gone, gone]

/-- A prefetch of a quiet port whose lines all hit the TLBs is performed. -/
theorem execFarLoadPerform_pref {h : Hdr} {f : MemF} (quiet : s.quiet n r) (work : r.work = .op (.pref h f))
    (hit : s.prefMiss n r = none) : execFarLoadPerform n r.id [] s = .next (((r.prefLines.foldl (fun s i => s.prefLine n r i)
      (s.beginAccess n)).onCtx n fun c => { c with port := { c.port with queue := c.port.queue.filter fun q => q.id != r.id } }).settlePort
      n) := by
  have waits (i : Nat) : s.prefWaits n r i = false := by
    unfold State.prefWaits
    dsimp only
    split
    · rw [State.isHeld_of_none quiet.dests, Bool.and_false]
    · rfl
  have may : (s.mayPerform n r && (s.prefMiss n r).isNone && !r.prefLines.any (s.prefWaits n r)) = true := by
    simp [quiet.mayPerform, hit, waits]
  simp only [execFarLoadPerform, quiet.entry, work, may, if_true]

/-- No port holds anything else once the access has begun. -/
theorem State.quiet.alone (quiet : s.quiet n r) : (s.beginAccess n).Alone n r := by
  obtain ⟨queue, list, state, mute, landings, lv0, lv1, stage, -⟩ := quiet
  refine ⟨?_, by simp [PortReq.isWaitingWta, stage]⟩
  rw [State.beginAccess]
  split
  · rw [State.ctx_onCtx_same, State.acquire, State.ctx_onCore]
    exact queue
  · exact queue

/-! ## Cores without lines -/

theorem State.flushLines_none (none : (s.core (coreOf n)).l1 = []) (r : PortReq) : s.flushLines n r = [] := by
  simp [State.flushLines, none]

theorem State.flushRefused_none (none : (s.core (coreOf n)).l1 = []) (r : PortReq) : s.flushRefused n r = Option.none := by
  simp [State.flushRefused, State.flushLines_none none]

theorem State.writeBackIf_none {core : Nat} (none : (s.core core).l1 = []) (q : L1Line → Bool) :
    s.writeBackIf core q = s := by
  rw [State.writeBackIf, none]
  rfl

/-- The core's L1 is still without lines once the access has begun. -/
theorem State.quiet.l1_beginAccess (quiet : s.quiet n r) : ((s.beginAccess n).core (coreOf n)).l1 = [] := by
  obtain ⟨-, -, -, -, -, -, -, -, -, -, -, -, -, -, l1⟩ := quiet
  rw [State.beginAccess]
  split
  · show ((s.acquire n).core (coreOf n)).l1 = []
    simp [State.acquire, State.onCore_eq, Core.staleIf, l1]
  · exact l1

/-- A flush in a core without lines only makes its access performed. -/
theorem State.performFlush_none (none : (s.core (coreOf n)).l1 = []) (r : PortReq) (mode : Nat) :
    (s.performFlush n r mode).mem = s.mem ∧
      ((s.performFlush n r mode).ctx n).port.queue = ((s.ctx n).port.change r.id fun q => { q with stage := .performed }).queue := by
  have flushed : (if 2 ≤ r.scope then s.flushCtx n else s) = s := by
    split
    · exact State.writeBackIf_none none _
    · rfl
  rw [State.performFlush]
  simp only [flushed, State.flushLines_none none, List.foldl_nil, List.filter_nil, List.map_nil]
  refine ⟨?_, ?_⟩
  · split <;> rfl
  · rw [State.ctx_onCtx_same]
    split <;> rfl

/-- A flush of a quiet port is performed. -/
theorem execFarStorePerform_cflush {h : Hdr} {f : MemF} (quiet : s.quiet n r) (work : r.work = .op (.cflush h f)) :
    execFarStorePerform n r.id [] s =
      .next (((s.beginAccess n).performFlush n r (f.fn.extractLsb' 6 2).toNat).settlePort n) := by
  have l1 : (s.core (coreOf n)).l1 = [] := by
    obtain ⟨-, -, -, -, -, -, -, -, -, -, -, -, -, -, l1⟩ := quiet
    exact l1
  simp only [execFarStorePerform, quiet.entry, work, quiet.mayPerform, quiet.canFlush, State.flushLines_none l1,
    State.flushRefused_none l1, Bool.or_true, List.all_nil, Bool.and_true, if_true]

/-- A semaphore after an addition. -/
theorem State.sem_addSem (s : State) (n k v : Nat) : (s.addSem n k v).sem n k = min 0xFFFF (s.sem n k + v) := by
  rw [State.addSem, State.setSem, State.sem]
  simp [State.onCore_eq, Core.sem]

/-- A complete signal of a quiet port is added to its semaphore and leaves the port. -/
theorem execSemaphoreSignal_quiet {k v : Nat} (quiet : s.quiet n r) (work : r.work = .signal k v) :
    ∃ t, execSemaphoreSignal n r.id s = .next t ∧ t.sem n k = min 0xFFFF (s.sem n k + v) ∧ (t.ctx n).port.queue = [] ∧
      t.mem = s.mem := by
  have free : s.isBlocked n r = false := by
    have may := quiet.mayPerform
    simp only [State.mayPerform, Bool.and_eq_true, Bool.not_eq_true'] at may
    exact may.1.2
  have canFlush := quiet.canFlush
  have here := quiet.entry
  obtain ⟨queue, list, state, mute, landings, lv0, lv1, stage, -, -, -, -, -, -, l1⟩ := quiet
  have flush : s.flushCtx n = s := State.writeBackIf_none l1 _
  let left := s.onCtx n fun c => { c with port := { c.port with queue := c.port.queue.filter fun q => q.id != r.id } }
  have gone : (left.ctx n).port.queue = [] := by simp [left, queue]
  have fired : s.fireSignal n (some r.id) = left.addSem n k v := by
    have alive : (left.ctx n).life = (s.ctx n).life := by simp [left]
    have unsaved : left.raiseSem n k v = left.addSem n k v := by
      rw [State.raiseSem, alive, state]
      rfl
    have found : (s.ctx n).port.queue.find? (fun q => q.id == r.id) = some r := here
    rw [State.fireSignal, Option.bind_some, found]
    show (match r.work with
      | .signal h v => if (left.ctx n).life.mute then left else left.raiseSem n h v
      | .op _ => left) = _
    rw [work, alive, mute]
    exact unsaved
  refine ⟨left.addSem n k v, ?_, ?_, ?_, ?_⟩
  · rw [execSemaphoreSignal, here]
    simp only [work, state, stage, free, canFlush, flush, fired]
    rw [State.settlePort_empty (by exact gone)]
    rfl
  · have same : left.sem n k = s.sem n k := by
      rw [State.sem, State.ctx_onCtx_same]
      rfl
    rw [State.sem_addSem, same]
  · exact gone
  · simp [left]

end Sys2Proof.Machine

open Sys2Proof Sys2Proof.Machine

/-- Settles O38: each op of a quiet port by its own rule, and the answers by what they make of the port. -/
theorem portAnswers : Obligations.PortAnswers := by
  refine ⟨fun s n id r g h f => ⟨fun work quiet hit => ?_, fun work quiet => ?_,
      fun k v queue stage sig other work => ?_, ?_, fun queue stage => ?_⟩,
    fun s n k v r quiet work => ?_⟩
  · refine ⟨_, execFarLoadPerform_pref quiet work hit, State.Alone.left ?_⟩
    exact List.foldlRecOn (motive := fun t : State => t.Alone n r) _ _ quiet.alone fun t alone i _ => alone.prefLine ..
  · obtain ⟨mem, queue⟩ := State.performFlush_none quiet.l1_beginAccess r (f.fn.extractLsb' 6 2).toNat
    have only : (((s.beginAccess n).performFlush n r (f.fn.extractLsb' 6 2).toNat).ctx n).port.queue = [{ r with stage := .performed }] := by
      rw [queue, Port.change, quiet.alone.only]
      simp
    have settled := State.settlePort_eq (s := (s.beginAccess n).performFlush n r (f.fn.extractLsb' 6 2).toNat)
        (n := n) fun q there => by
      rw [only, List.mem_singleton] at there
      rw [there, PortReq.fence_stage, PortReq.fence?, work]
    refine ⟨_, (execFarStorePerform_cflush quiet work).trans (congrArg _ settled), only, State.sameMemory_of_mem ?_⟩
    rw [mem, State.mem_beginAccess]
  · have here : s.entry n r.id = some r := by simp [State.entry, queue]
    have after : ((s.onCtx n fun c => { c with port := { c.port with queue := c.port.queue.filter fun q => q.id != r.id } }.completeSignal
        r.sig).ctx n).port.queue = [{ g with stage := .pending }] := by
      rw [State.ctx_onCtx_same, sig, Ctx.completeSignal, Port.change, queue]
      simp [other]
    refine ⟨_, ?_, after⟩
    show execFarStoreAck n r.id s = _
    rw [execFarStoreAck, here]
    simp only [stage, beq_self_eq_true, if_true]
    rw [State.settlePort_eq]
    intro q there
    rw [after, List.mem_singleton] at there
    rw [there, PortReq.fence_stage, PortReq.fence?, work]
  · refine ⟨_, rfl, ?_⟩
    rw [State.ctx_onCtx_same]
    refine List.map_congr_left fun l _ => if_congr ?_ rfl rfl
    simp
  · refine ⟨_, rfl, ?_⟩
    rw [State.ctx_onCtx_same, Port.change, queue]
    simp [stage]
  · obtain ⟨u, run, sem, queue, mem⟩ := execSemaphoreSignal_quiet quiet work
    exact ⟨u, run, sem, queue, State.sameMemory_of_mem mem⟩

end
section
/-!
PROOFS. Later faults (R202, R251, R434, R435; O39).
-/
namespace Sys2Proof.Machine
open Sys2Proof

variable {s t : State} {n : Nat} {r : PortReq} {x : Trapped}

/-! ## A draining context stays so as its port settles -/

@[simp] theorem Ctx.life_respond (c : Ctx) (l : Landing) : (c.respond l).life = c.life := (rfl)

@[simp] theorem Ctx.life_wakeWta (c : Ctx) (hit : Nat → Bool) (read : Nat → Dword) : (c.wakeWta hit read).life = c.life :=
  List.foldlRecOn (motive := fun d : Ctx => d.life = c.life) _ _ rfl fun d same q _ => by
    split
    · exact same
    · exact same

@[simp] theorem State.life_homeWrite (s : State) (pa : Nat) (bs : List Byte) (m : Nat) :
    ((s.homeWrite pa bs).ctx m).life = (s.ctx m).life := by
  rw [State.homeWrite]
  split
  · rfl
  · exact State.life_mapCtxs (fun c => Ctx.life_wakeWta c _ _) _ m

@[simp] theorem State.life_writeBack (s : State) (core : Nat) (l : L1Line) (m : Nat) :
    ((s.writeBack core l).ctx m).life = (s.ctx m).life := by
  rw [State.writeBack]
  split
  · rfl
  · exact State.life_homeWrite ..

@[simp] theorem State.life_writeBackIf (s : State) (core : Nat) (q : L1Line → Bool) (m : Nat) :
    ((s.writeBackIf core q).ctx m).life = (s.ctx m).life :=
  State.life_foldl _ _ _ fun _ _ => State.life_writeBack ..

/-- A fence at the port of a draining context logs no fault, and leaves the context's life. -/
theorem State.tryFence_draining (draining : (s.ctx n).life.state = .draining) (r : PortReq) :
    ((s.tryFence n r).ctx n).life = (s.ctx n).life := by
  rw [State.tryFence]
  split
  · rfl
  · dsimp only
    split
    · rfl
    · rw [if_neg (by simp [draining]), State.ctx_onCtx_same]
      split
      · exact State.life_writeBackIf ..
      · rfl

/-- Nor does settling its port. -/
theorem State.settlePort_draining (draining : (s.ctx n).life.state = .draining) :
    ((s.settlePort n).ctx n).life.state = .draining := by
  refine List.foldlRecOn (motive := fun t : State => (t.ctx n).life.state = .draining) _ _ draining fun t same q _ => ?_
  rw [State.tryFence_draining same]
  exact same

/-! ## The arrival of a fault -/

section
variable (queue : (s.ctx n).port.queue = [r])
include queue

/-- An access alone in its port has no fellows, and cancels nothing. -/
theorem Ctx.cancelled_alone : (s.ctx n).cancelled r = [] := by
  rw [Ctx.cancelled, queue]
  simp

theorem Ctx.fellows_alone : (s.ctx n).fellows r = [] := by
  rw [Ctx.fellows, queue]
  simp

/-- Its fault strikes first. -/
theorem Ctx.strikesFirst_alone (f : PortFault) : (s.ctx n).strikesFirst f r = true := by
  simp [Ctx.strikesFirst, queue]

end

/-- A context whose port's only access is in its replay list, the fault gone from the port. -/
def Ctx.replaying (c : Ctx) (r : PortReq) (acquired : Bool) : Ctx :=
  { c with trap := { c.trap with list := mergeReplay c.trap.list [{ r with stage := .pending, landing := false }] }
           port := { c.port with queue := [], faults := [], acquired := acquired } }

/-- A context whose access has left the port, with its fault, for the replay list. -/
def Ctx.faultMoved (c : Ctx) (r : PortReq) : Ctx :=
  { c with trap := { c.trap with list := mergeReplay c.trap.list [{ r with stage := .pending, landing := false }] }
           port := { c.port with queue := c.port.queue.filter fun e => !([r.id].contains e.id)
                                 faults := c.port.faults.filter fun f => !([r.id].contains f.id) } }

/-- The state with such a context. -/
def State.faultMoved (s : State) (n : Nat) (r : PortReq) : State :=
  let t := s.onCtx n fun c => c.faultMoved r
  { t with waiters := t.waiters.filter fun w => w.loader != Loader.port n r.id }

theorem State.faultMoved_ctx (queue : (s.ctx n).port.queue = [r]) (faults : (s.ctx n).port.faults = [⟨r.id, x⟩]) :
    (s.faultMoved n r).ctx n = (s.ctx n).replaying r (s.ctx n).port.acquired := by
  have at_ : (s.faultMoved n r).ctx n = (s.onCtx n fun c => c.faultMoved r).ctx n := (rfl)
  rw [at_, State.ctx_onCtx_same]
  simp [Ctx.faultMoved, Ctx.replaying, queue, faults]

/-- What the arrival of a fault does before its cause strikes. -/
theorem State.arriveFault_alone (queue : (s.ctx n).port.queue = [r]) (faults : (s.ctx n).port.faults = [⟨r.id, x⟩]) :
    ∃ (u : State) (acquired : Bool), u.ctx n = (s.ctx n).replaying r acquired ∧
      s.arriveFault n r x =
        if r.level && !(s.ctx n).trap.tl && !x.cause.isFatal then u.retireFatal n ⟨.nested, x.info⟩ (s.ctx n).pc x.cause.code
        else if (s.ctx n).trap.tl && !r.level && !x.cause.isFatal then u.onCtx n fun c => c.holdCause x
        else u.takeTrap n x (s.ctx n).pc := by
  refine ⟨if x.cause = .embfault then (s.faultMoved n r).onCtx n Ctx.setAcquired else s.faultMoved n r,
    if x.cause = .embfault then true else (s.ctx n).port.acquired, ?_, ?_⟩
  · split
    · rw [State.ctx_onCtx_same, State.faultMoved_ctx queue faults]
      rfl
    · exact State.faultMoved_ctx queue faults
  · rw [State.arriveFault]
    simp only [Ctx.cancelled_alone queue, Ctx.fellows_alone queue, List.map_nil, List.append_nil]
    rfl

/-- The first cause that a handler holds back. -/
theorem Ctx.holdCause_first {c : Ctx} (none : c.trap.held = []) (x : Trapped) :
    c.holdCause x = { c with trap := { c.trap with held := [x] } } := by
  rw [Ctx.holdCause, none]
  rfl

/-- A context whose port an access has left, with its fault. -/
def Ctx.portLeft (c : Ctx) (id : Nat) : Ctx :=
  { c with port := { c.port with faults := c.port.faults.filter (fun f => f.id != id)
                                 queue := c.port.queue.filter fun q => q.id != id } }

/-- The log takes an entry of the access while it has room. -/
theorem Ctx.logRed_room {c : Ctx} (room : c.ctl.redlog.length < 32) (r : PortReq) (x : Trapped) :
    ∃ e, e.addr = r.addr ∧ c.logRed r x = { c with ctl := { c.ctl with redlog := c.ctl.redlog ++ [e] } } := by
  rw [Ctx.logRed, if_neg (Nat.not_le.2 room)]
  exact ⟨_, rfl, rfl⟩

/-- A completed signal leaves a context but its port. -/
theorem Ctx.completeSignal_keeps (c : Ctx) (sig : Option Nat) : (c.completeSignal sig).ctl = c.ctl ∧
    (c.completeSignal sig).trap = c.trap := by
  cases sig <;> exact ⟨rfl, rfl⟩

theorem Ctx.completeSignal_empty {c : Ctx} (none : c.port.queue = []) (sig : Option Nat) :
    (c.completeSignal sig).port.queue = [] := by
  cases sig with
  | none => exact none
  | some k => simp [Ctx.completeSignal, Port.change, none]

end Sys2Proof.Machine

open Sys2Proof Sys2Proof.Machine

/-- Settles O39: the arrival of a fault by what strikes then, the entry of the log by its own rule. -/
theorem laterFaults : Obligations.LaterFaults := by
  intro s n r x queue faults ready
  have here : s.entry n r.id = some r := by simp [State.entry, queue]
  have fault : (s.ctx n).port.faults.find? (fun f => f.id == r.id) = some ⟨r.id, x⟩ := by simp [faults]
  obtain ⟨u, acquired, at_, arrived⟩ := State.arriveFault_alone queue faults
  have arrival (plain : r.isRed = false) (idle : (s.ctx n).routines = []) :
      exec (.farFaultArrival n r.id) s = .next ((s.arriveFault n r x).settlePort n) := by
    show execFarFaultArrival n r.id s = _
    rw [execFarFaultArrival, fault, here]
    simp [ready, plain, idle, Ctx.strikesFirst_alone queue]
  refine ⟨fun plain idle mild => ⟨fun handling level held => ?_, fun running level => ?_⟩,
      fun plain idle running handler level list mild => ?_,
    fun red room => ?_⟩
  · rw [if_neg (by simp [level]), if_pos (by simp [handling, level, mild])] at arrived
    have after : (u.onCtx n fun c => c.holdCause x).ctx n = { (s.ctx n).replaying r acquired with
        trap := { ((s.ctx n).replaying r acquired).trap with held := [x] } } := by
      rw [State.ctx_onCtx_same, at_]
      exact Ctx.holdCause_first (c := (s.ctx n).replaying r acquired) held x
    have run := arrival plain idle
    rw [arrived, State.settlePort_empty (by rw [after]; rfl)] at run
    refine ⟨_, run, ?_⟩
    rw [after]
    exact ⟨rfl, handling, rfl, rfl⟩
  · rw [if_pos (by simp [running, level, mild])] at arrived
    refine ⟨_, arrival plain idle, State.settlePort_draining ?_⟩
    rw [arrived]
    exact (State.retireFatal_life ..).1
  · rw [if_neg (by simp [level]), if_neg (by simp [running])] at arrived
    have after := State.ctx_takeTrap_handler mild (s := u) (n := n) (by rw [at_]; exact running)
        (by rw [at_]; exact handler) (s.ctx n).pc
    rw [at_] at after
    have run := arrival plain idle
    rw [arrived, State.settlePort_empty (by rw [after]; rfl)] at run
    refine ⟨_, run, ?_⟩
    rw [after]
    refine ⟨?_, rfl, rfl, rfl, rfl, rfl⟩
    simp [Ctx.enterHandler, Ctx.replaying, list, mergeReplay, sortKey, insertKey]
  · obtain ⟨e, addr, logged⟩ := Ctx.logRed_room (c := (s.ctx n).portLeft r.id) room r x
    have at_ := State.ctx_onCtx_same s n fun c => ((c.portLeft r.id).logRed r x).completeSignal r.sig
    have left : ((s.ctx n).portLeft r.id).port.queue = [] := by simp [Ctx.portLeft, queue]
    have run : exec (.redlogAppend n r.id) s =
        .next ((s.onCtx n fun c => ((c.portLeft r.id).logRed r x).completeSignal r.sig).settlePort n) := by
      show execRedlogAppend n r.id s = _
      rw [execRedlogAppend, fault, here]
      exact if_pos red
    rw [logged] at at_
    obtain ⟨ctl, trap⟩ := Ctx.completeSignal_keeps _ r.sig
    rw [State.settlePort_empty (by rw [at_]; exact Ctx.completeSignal_empty (by exact left) r.sig)] at run
    refine ⟨_, e, run, ?_, addr, ?_, ?_⟩
    · rw [at_, ctl]; rfl
    · rw [at_]; exact Ctx.completeSignal_empty (by exact left) r.sig
    · rw [at_, trap]; rfl

end
section
/-!
PROOFS. Set barriers and remote signals at their home agent (R256 to R260; O40).
-/
namespace Sys2Proof.Machine
open Sys2Proof

variable {s t : State} {n k : Nat} {r : PortReq}

/-- A context whose access has left its port, its signal complete. -/
def Ctx.finished (c : Ctx) (r : PortReq) : Ctx :=
  { c with port := { c.port with queue := c.port.queue.filter fun q => q.id != r.id } }.completeSignal r.sig

/-- Once the only access of a port is finished the port is empty. -/
theorem Ctx.finished_queue {c : Ctx} (queue : c.port.queue = [r]) : (c.finished r).port.queue = [] :=
  Ctx.completeSignal_empty (by simp [queue]) r.sig

/-- The core of a quiet port has nothing to write back. -/
theorem State.quiet.flushCtx (quiet : s.quiet n r) : s.flushCtx n = s := by
  obtain ⟨-, -, -, -, -, -, -, -, -, -, -, -, -, -, l1⟩ := quiet
  exact State.writeBackIf_none l1 _

/-- Nothing before the only access of a port leaves a set. -/
theorem State.quiet.leavesBefore (quiet : s.quiet n r) (k : Nat) : (s.ctx n).leavesBefore r k = false := by
  obtain ⟨queue, list, -⟩ := quiet
  simp [Ctx.leavesBefore, Ctx.before, queue, list]

/-- A context that leaves a set is no member of it. -/
theorem SetEntry.leave_members (e : SetEntry) (n : Nat) : n ∉ (e.leave n).members := by
  rw [SetEntry.leave, SetEntry.test]
  split <;> simp

/-- A context that a release reaches waits for that set no more, and acquires. -/
theorem State.depart_port (s : State) (n k : Nat) :
    ((s.depart n k).ctx n).port.departs = (s.ctx n).port.departs.filter (fun d => d.set != k) ∧
      ((s.depart n k).ctx n).port.acquired = true := by
  rw [State.depart, State.ctx_onCtx_same]
  refine List.foldlRecOn (motive := fun c : Ctx => c.port.departs = (s.ctx n).port.departs.filter (fun d => d.set != k) ∧
    c.port.acquired = true) _ _ ⟨rfl, rfl⟩ fun c same d _ => ?_
  cases d.sig <;> exact same

/-- The additions of a remote signal to the semaphores of a set with one member. -/
theorem State.sem_raiseSem {m h v : Nat} (alive : (s.ctx m).life.state = .ready) :
    (s.raiseSem m h v).sem m h = min 0xFFFF (s.sem m h + v) := by
  rw [State.raiseSem, alive, if_neg SlotState.noConfusion, State.sem_addSem]

/-- An entry that leaves a port leaves every semaphore. -/
theorem State.sem_finished (s : State) (n : Nat) (r : PortReq) (m h : Nat) :
    (s.onCtx n fun c => c.finished r).sem m h = s.sem m h := by
  have id (c : Ctx) : (c.finished r).id = c.id := by
    rw [Ctx.finished]
    cases r.sig <;> rfl
  rw [State.sem, State.sem, State.onCtx_eq, State.ctx_setCtx, State.core_setCtx]
  split
  next same => rw [id, same]
  next => rfl

/-- A later fault of the only entry of a port is on its way there. -/
theorem State.portFault_faults {q : PortReq} (queue : (t.ctx n).port.queue = [q]) (id : q.id = r.id)
    (heard : (t.ctx n).life.mute = false) (x : Trapped) : (t.portFault n r.id x).faults n r x := by
  have after : (t.portFault n r.id x).ctx n = { t.ctx n with port := { (t.ctx n).port with
      queue := [{ q with stage := .faulted, done := [], fails := [] }], faults := (t.ctx n).port.faults ++ [⟨r.id, x⟩] } } := by
    simp [State.portFault, heard, Port.change, queue, id]
  refine ⟨by rw [after]; simp, ?_⟩
  rw [State.entry, after]
  simp [id]

end Sys2Proof.Machine

open Sys2Proof Sys2Proof.Machine

/-- Settles O40: each event of a quiet port by its own rule. -/
theorem setEvents : Obligations.SetEvents := by
  intro s n m r h f k sem v
  refine ⟨fun quiet work member log => ?_, fun quiet work other => ?_, fun released live => ?_, fun quiet work member => ?_,
    fun quiet work members vf inside ready => ?_⟩
  · have empty : (((s.onCtx n fun c => c.finished r).onSet k fun e => e.arrive n).ctx n).port.queue = [] := by
      rw [State.ctx_onSet, State.ctx_onCtx_same, Ctx.finished_queue quiet.1]
    have run : exec (.barrierArrival n r.id) s = .next (((s.onCtx n fun c => c.finished r).onSet k
        fun e => e.arrive n).settlePort n) := by
      show execBarrierArrival n r.id s = _
      simp only [execBarrierArrival, quiet.entry, work, quiet.mayPerform, quiet.canFlush, quiet.leavesBefore, quiet.flushCtx]
      have passes : s.memberFault n (setOf f) = none := State.memberFault_member member
      rw [passes, log]
      rfl
    rw [State.settlePort_empty empty] at run
    exact ⟨_, run, (State.set_onSet ..).trans (if_pos rfl), empty⟩
  · have run : exec (.barrierArrival n r.id) s = .next ((s.onCtx n fun c =>
          { c with port := { c.port.change r.id (fun q => { q with known := false }) with
                             departs := c.port.departs.filter
                                 fun d => d.set != setOf f } }).portFault n r.id ⟨.perm, 0x21⟩) := by
      show execBarrierArrival n r.id s = _
      simp only [execBarrierArrival, quiet.entry, work, quiet.mayPerform, quiet.canFlush, quiet.leavesBefore]
      have fails : s.memberFault n (setOf f) = some (permInfo 0x21) := State.memberFault_stranger other
      rw [fails]
      rfl
    refine ⟨_, run, State.portFault_faults (q := { r with known := false }) ?_ rfl ?_ _, rfl⟩
    · rw [State.ctx_onCtx_same, Port.change, quiet.1]
      simp
    · rw [State.ctx_onCtx_same]
      exact quiet.2.2.2.1
  · have there : (s.set k).released.contains n = true := List.contains_iff_mem.2 released
    have run : exec (.barrierRelease n k) s = .next ((s.onSet k fun e => { e with released := e.released.filter (· != n) }).depart n k) := by
      show execBarrierRelease n k s = _
      rw [execBarrierRelease, if_pos there]
      exact if_neg live
    refine ⟨_, run, ?_, ?_⟩
    · show n ∉ ((s.onSet k fun e => { e with released := e.released.filter (· != n) }).set k).released
      rw [State.set_onSet, if_pos rfl]
      simp
    · obtain ⟨departs, acquired⟩ := State.depart_port (s.onSet k fun e => { e with released := e.released.filter (· != n) }) n k
      rw [departs, acquired]
      exact ⟨fun d there => by simpa using (List.mem_filter.1 there).2, rfl⟩
  · have run : exec (.gleavePerform n r.id) s = .next ((s.onCtx n fun c => c.finished r).onSet k fun e => e.leave n) := by
      show execGleavePerform n r.id s = _
      simp only [execGleavePerform, quiet.entry, work, quiet.mayPerform, if_true]
      exact congrArg Host.Outcome.next (if_pos (List.contains_iff_mem.2 member))
    refine ⟨_, run, (State.set_onSet ..).trans (if_pos rfl), ?_, ?_⟩
    · rw [State.set_onSet, if_pos rfl]
      exact SetEntry.leave_members _ _
    · rw [State.ctx_onSet, State.ctx_onCtx_same, Ctx.finished_queue quiet.1]
  · have run : exec (.hsigrDeliver n r.id) s = .next (((s.raiseSem m sem v).onCtx n
      fun c => c.finished r).settlePort n) := by
      show execHsigrDeliver n r.id s = _
      have one : (s.set (setOf f)).members = [m] := members
      have room : ¬ (s.ctx m).id.semCount ≤ (f.imm.extractLsb' 8 8).toNat := Nat.not_le.2 inside
      simp only [execHsigrDeliver, quiet.entry, work, quiet.mayPerform, quiet.canFlush, quiet.flushCtx, one, List.any_cons, List.any_nil, vf,
        List.foldl_cons, List.foldl_nil, ready, room]
      simp only [bne_self_eq_false, Bool.or_self, Bool.false_eq_true, if_false, Bool.not_true, decide_false]
      rfl
    have alone : (((s.raiseSem m sem v).onCtx n fun c => c.finished r).ctx n).port.queue = [] := by
      rw [State.ctx_onCtx_same, State.raiseSem, ready, if_neg SlotState.noConfusion]
      exact Ctx.finished_queue quiet.1
    rw [State.settlePort_empty alone] at run
    exact ⟨_, run, (State.sem_finished ..).trans (State.sem_raiseSem ready)⟩

end

section
/-!
PROOFS. Walks: leaf, page fault, record, MAP and REFUSE (R452 to R458, R196; O42).
-/
namespace Sys2Proof.Machine
open Sys2Proof

variable {s t : State} {n id : Nat} {w : Walk} {r : PortReq}

section
variable (only : s.walks = [w])
include only

/-- The only walk is found by its number. -/
theorem State.walkOf_only : s.walkOf w.id = some w := by
  simp [State.walkOf, only]

/-- And once it has ended there is none. -/
theorem State.endWalk_walks : (s.endWalk w).walks = [] := by
  have kept (l : List Master) : (l.foldl State.keepParked s).walks = s.walks :=
    List.foldlRecOn (motive := fun t : State => t.walks = s.walks) _ _ rfl fun t same m _ => by
      rw [← same]
      cases m <;> rfl
  rw [State.endWalk]
  dsimp only
  split
  · simp [only]
  · simp [kept, only]

/-- The record of a posted walk. -/
theorem State.recordOf_only (posted : w.stage = .posted) : s.recordOf (partOf w.vf) w.id = some w := by
  simp [State.recordOf, only, posted]

end

/-- A walk that is still reading ends without a trace but its number. -/
theorem State.endWalk_walking (walking : w.stage = .walking) : s.endWalk w = { s with walks := s.walks.filter fun x => x.id != w.id } := by
  rw [State.endWalk, if_pos walking]

/-- A walk that ends leaves every context. -/
theorem State.endWalk_ctxs (s : State) (w : Walk) : (s.endWalk w).ctxs = s.ctxs := by
  have kept (l : List Master) : (l.foldl State.keepParked s).ctxs = s.ctxs :=
    List.foldlRecOn (motive := fun t : State => t.ctxs = s.ctxs) _ _ rfl fun t same m _ => by
      rw [← same]
      cases m <;> rfl
  rw [State.endWalk]
  dsimp only
  split
  · rfl
  · exact kept _

/-! ## Leaves -/

/-- Filling parts of the shared TLBs changes only them. -/
theorem State.foldl_tlbFill (s : State) (e : TlbEntry) (pools : List Nat) :
    ∃ ts, pools.foldl (fun (s : State) p => s.tlbFill p e) s = { s with tlbs := ts } :=
  List.foldlRecOn (motive := fun t : State => ∃ ts, t = { s with tlbs := ts }) _ _ ⟨s.tlbs, rfl⟩ fun t ⟨ts, same⟩ p _ => by
    rw [same]
    exact ⟨_, rfl⟩

/-- An entry that a part has room for stands first in it. -/
theorem tlbInsert_head {share : Nat} {own : TlbEntry → Bool} {e : TlbEntry} (mine : own e = true) (l : List TlbEntry) :
    (tlbInsert share own e l).head? = some e ∨ share = 0 := by
  cases share with
  | zero => exact .inr rfl
  | succ k => exact .inl (by rw [tlbInsert, keepFirst, if_pos mine]; rfl)

theorem State.tlbFill_head (s : State) (pool : Nat) (e : TlbEntry) :
    (lookupD [] pool (s.tlbFill pool e).tlbs).head? = some e ∨ s.sharedShare pool (partOf e.vf) = 0 := by
  rw [State.tlbFill, lookupD_assocSet, if_pos rfl]
  exact tlbInsert_head (by simp) _

/-- The state once a walk has ended in a leaf. -/
def State.walkFilled (s : State) (w : Walk) (e : TlbEntry) : State :=
  ((((w.waiters.filterMap s.poolOf).filter (· != w.pool)).eraseDups).foldl (fun (s : State) p => s.tlbFill p e)
      (s.endWalk w)).tlbFill
    w.pool e

theorem State.walkFilled_eq (s : State) (w : Walk) (e : TlbEntry) : ∃ ts, s.walkFilled w e = { s.endWalk w with tlbs := ts } := by
  obtain ⟨ts, same⟩ := (s.endWalk w).foldl_tlbFill e ((w.waiters.filterMap s.poolOf).filter (· != w.pool)).eraseDups
  rw [State.walkFilled, same]
  exact ⟨_, rfl⟩

theorem State.walkFilled_head (walking : w.stage = .walking) (s : State) (e : TlbEntry) :
    (lookupD [] w.pool (s.walkFilled w e).tlbs).head? = some e ∨ s.sharedShare w.pool (partOf e.vf) = 0 := by
  obtain ⟨ts, same⟩ := (s.endWalk w).foldl_tlbFill e ((w.waiters.filterMap s.poolOf).filter (· != w.pool)).eraseDups
  have head := State.tlbFill_head { s.endWalk w with tlbs := ts } w.pool e
  rw [State.walkFilled, same]
  refine head.imp_right fun zero => ?_
  rw [State.endWalk_walking walking] at zero
  exact zero

/-- A walk that has a slot and finds a leaf. -/
theorem execWalkComplete_leaf (only : s.walks = [w]) (walking : w.stage = .walking) (slot : s.hasSlot w = true)
    {va size pa : Nat}
    {bits : BitVec 6} (leaf : s.walk w.vf (w.page * 2 ^ 16) = .leaf va size pa bits) :
    execWalkComplete w.id s = .next (s.walkFilled w { vf := w.vf, va := va, size := size, pa := pa, bits := bits }) := by
  rw [execWalkComplete, State.walkOf_only only]
  simp only [walking, slot, leaf]
  rfl

/-! ## Hints -/

/-- Skipping a page for hints changes ports alone. -/
theorem State.foldl_skipPage (s : State) (page : Nat) (l : List Master) :
    ∃ cs, l.foldl (fun s m => s.skipPage page m) s = { s with ctxs := cs } :=
  List.foldlRecOn (motive := fun t : State => ∃ cs, t = { s with ctxs := cs }) _ _ ⟨s.ctxs, rfl⟩ fun t ⟨cs, same⟩ m _ => by
    rw [same]
    cases m <;> exact ⟨_, rfl⟩

/-- A walk that finds no entry ends where only hints wait for it, and otherwise in a page fault for the others. -/
theorem execWalkComplete_fault (only : s.walks = [w]) (walking : w.stage = .walking) (slot : s.hasSlot w = true)
    (fault : s.walk w.vf (w.page * 2 ^ 16) = .fault) :
    ∃ cs, execWalkComplete w.id s = .next (
      if (w.waiters.filter fun m => !s.isHintMaster m).isEmpty && !(w.waiters.filter s.isHintMaster).isEmpty
      then ({ s with ctxs := cs } : State).endWalk w
      else { s with ctxs := cs, walks := [{ w with stage := .faulted, waiters := w.waiters.filter fun m => !s.isHintMaster m }] }) := by
  obtain ⟨cs, same⟩ := s.foldl_skipPage w.page (w.waiters.filter s.isHintMaster)
  refine ⟨cs, ?_⟩
  rw [execWalkComplete, State.walkOf_only only]
  simp only [walking, slot, fault, List.partition_eq_filter_filter, same, only, List.map_cons, List.map_nil, beq_self_eq_true, if_true]
  rfl

/-! ## Violations -/

/-- The context whose port's only access has a fault on its way. -/
theorem State.ctx_portFault_alone (queue : (s.ctx n).port.queue = [r]) (heard : (s.ctx n).life.mute = false) (x : Trapped) :
    (s.portFault n r.id x).ctx n = { s.ctx n with port := { (s.ctx n).port with
      queue := [{ r with stage := .faulted, done := [], fails := [] }], faults := (s.ctx n).port.faults ++ [⟨r.id, x⟩] } } := by
  simp [State.portFault, heard, Port.change, queue]

/-- A violation of a walk that the only access of a port waits for, where its VF does not freeze. -/
theorem State.violateMaster_alone (here : s.entry n id = some r) (queue : (s.ctx n).port.queue = [r]) (fence :
    r.fence? = none)
    (hint : r.isHint = false) (heard : (s.ctx n).life.mute = false) (open_ : (s.vf (s.ctx n).id.vf).freeze = false)
        (vf page : Nat) :
    s.violateMaster vf page 1 (.port n id) = s.portFault n r.id (violationTrap 1 (onPage r.addr.toNat page)) := by
  have plain : s.freezes (s.ctx n).id.vf 1 = false := by simp [State.freezes, open_]
  simp only [State.violateMaster, here, hint, Bool.false_eq_true, if_false, State.violatePort, plain, Bool.false_and]
  refine State.settlePort_eq fun q there => ?_
  rw [State.ctx_portFault_alone queue heard, List.mem_singleton] at there
  rw [there]
  exact fence

end Sys2Proof.Machine

open Sys2Proof Sys2Proof.Machine

/-- Settles O42: what a walk ends in, and what each of its masters makes of it. -/
theorem walkEvents : Obligations.WalkEvents := by
  intro s w only
  refine ⟨fun walking slot va size pa bits leaf => ?_, fun walking slot fault => ?_, fun faulted => ?_,
      fun posted => ⟨?_, fun none => ?_, fun n id one entry heard open_ => ?_⟩⟩
  · obtain ⟨ts, same⟩ := s.walkFilled_eq w { vf := w.vf, va := va, size := size, pa := pa, bits := bits }
    refine ⟨_, execWalkComplete_leaf only walking slot leaf, ?_, ?_, State.walkFilled_head walking ..⟩
    · rw [same]
      exact State.endWalk_walks only
    · rw [same, State.endWalk_walking walking]
      exact fun x => rfl
  · intro rest
    obtain ⟨cs, run⟩ := execWalkComplete_fault only walking slot fault
    refine ⟨_, run, ?_, fun others => ?_, fun some none => ?_⟩
    · split
      · rw [State.endWalk_walking walking]
        exact fun x => rfl
      · exact fun x => rfl
    · rw [if_neg]
      simp only [Bool.and_eq_true, Bool.not_eq_true', List.isEmpty_iff, not_and, Bool.not_eq_false]
      intro hints
      rcases others with empty | some
      · simp [empty]
      · exact absurd hints some
    · have hints : (w.waiters.filter s.isHintMaster).isEmpty = false := by
        obtain ⟨m, waits⟩ := List.exists_mem_of_ne_nil _ some
        have hint : s.isHintMaster m = true := by simpa using List.filter_eq_nil_iff.1 none m waits
        have there : m ∈ w.waiters.filter s.isHintMaster := List.mem_filter.2 ⟨waits, hint⟩
        rw [List.isEmpty_eq_false_iff]
        exact List.ne_nil_of_mem there
      rw [if_pos (by simp [hints, List.isEmpty_iff]; simpa [rest] using none)]
      exact State.endWalk_walks only
  · have room : w.stage = .faulted ∧ (s.walks.filter
      fun x => x.stage == .posted && partOf x.vf == partOf w.vf).length < 4096 := by
      simp [only, faulted]
    have run : exec (.faultRecordPost w.id) s = .next { s with
        walks := s.walks.map fun x => if x.id == w.id then { x with stage := .posted } else x
        outbox := s.outbox ++ [.faultRecord (partOf w.vf) w.id w.vf (w.page * 2 ^ 16) (w.waiters.flatMap
            (s.accessesOf w.page))] } := by
      show execFaultRecordPost w.id s = _
      rw [execFaultRecordPost, State.walkOf_only only]
      exact if_pos room
    exact ⟨_, run, by simp [only], _, rfl⟩
  · refine ⟨s.endWalk w, ?_, State.endWalk_walks only, State.endWalk_ctxs s w⟩
    show execMap (partOf w.vf) w.id s = _
    rw [execMap, State.recordOf_only only posted]
  · refine ⟨s.endWalk w, ?_, State.endWalk_walks only⟩
    show execRefuse (partOf w.vf) w.id s = _
    rw [execRefuse, State.recordOf_only only posted]
    simp only [State.violateWalk, none, List.foldl_nil]
  · obtain ⟨r, found, queue, fence, hint⟩ := entry
    have id_eq : r.id = id := by simpa using List.find?_some found
    have struck := State.violateMaster_alone (s := { s with walks := [] }) found queue fence hint heard open_ w.vf w.page
    have ended : s.endWalk w = { s with walks := [] } := by
      simp [State.endWalk, posted, one, State.keepParked, only]
    refine ⟨({ s with walks := [] } : State).portFault n r.id (violationTrap 1 (onPage r.addr.toNat w.page)), ?_, rfl,
      onPage r.addr.toNat w.page, ?_⟩
    · show execRefuse (partOf w.vf) w.id s = _
      rw [execRefuse, State.recordOf_only only posted]
      dsimp only
      rw [State.violateWalk, one, ended]
      exact congrArg Host.Outcome.next struck
    · have after := State.ctx_portFault_alone (s := { s with walks := [] }) queue heard (violationTrap 1 (onPage r.addr.toNat w.page))
      rw [after, id_eq]
      rfl

end
section
/-!
PROOFS. The management core (R478 to R483; O45).
-/
namespace Sys2Proof.Machine
open Sys2Proof

/-- A response of a READY device to a request that is in order. -/
theorem State.respond_ready {s : State} (ready : s.ready = true) (d : List Byte) :
    s.respond true d = { s with outbox := s.outbox ++ [.spdm (some d)] } := by
  simp [State.respond, ready]

/-- And to one that is not. -/
theorem State.respond_refused {s : State} (ready : s.ready = true) (d : List Byte) :
    s.respond false d = { s with outbox := s.outbox ++ [.spdm none] } := by
  simp [State.respond, ready]

end Sys2Proof.Machine

open Sys2Proof Sys2Proof.Machine

/-- Settles O45: each event by what it writes, each response by the state that it needs. -/
theorem managementEvents : Obligations.ManagementEvents := by
  refine ⟨fun s reg watts value nonce ready => ?_, fun s => ⟨?_, ?_⟩⟩
  · intro answers chain
    refine ⟨fun low high len => ?_, fun low high => ?_,
        fun outside => ?_, rfl, rfl, ⟨_, rfl, ?_⟩, ⟨_, rfl, ?_⟩, ⟨_, rfl, ?_⟩, ⟨_, rfl, ?_⟩,
      fun open_ => ⟨⟨_, rfl, ?_⟩, ⟨_, rfl, ?_⟩, ⟨_, rfl, ?_⟩, fun inside => ⟨⟨_, rfl, ?_⟩, _, rfl, ?_⟩⟩,
          fun closed => ⟨_, rfl, ?_⟩⟩
    · have run : exec (.extend reg value) s =
          .next { s with meas := extendRegister s.meas reg value, measLog := s.measLog ++ [(reg, value)] } := by
        show execExtend reg value s = _
        rw [execExtend, if_pos (by simp [ready, low, high, len])]
      exact ⟨_, run, rfl, rfl⟩
    · show execPowerCapSet watts s = _
      rw [execPowerCapSet, if_pos (by simp [ready, low, high])]
    · show execPowerCapSet watts s = _
      rw [execPowerCapSet, if_neg]
      simp only [ready, Bool.true_and, Bool.and_eq_true, decide_eq_true_eq, not_and, Nat.not_le]
      exact fun low => outside.resolve_left (Nat.not_lt.2 low)
    · exact State.respond_ready ready _
    · exact State.respond_ready ready _
    · simp [ready, State.respond_refused ready]
    · simp [ready, State.respond_ready ready]
    · rw [open_]; exact State.respond_ready ready _
    · rw [open_]; exact State.respond_ready ready _
    · rw [open_]; exact State.respond_ready ready _
    · rw [open_, decide_eq_true inside]
      exact (State.respond_ready ready _).trans (by simp)
    · rw [open_, decide_eq_true inside]
      exact State.respond_ready ready _
    · rw [closed, State.respond_refused ready]
  · show ∃ t, execPowerOn none s = .next t ∧ _
    rw [execPowerOn]
    cases bootFailure none with
    | none => exact ⟨_, rfl, rfl, rfl, rfl, rfl, rfl⟩
    | some k => exact ⟨_, rfl, rfl, rfl, rfl, rfl, rfl⟩
  · exact ⟨_, rfl, rfl, rfl, rfl⟩
end
section
/-!
PROOFS. The supervisor's commands and register writes (R440 to R463, Table 17.2; O44).
-/
namespace Sys2Proof.Machine
open Sys2Proof

variable {s : State} {part vf : Nat}

/-! ## Commands -/

/-- A command with operands in range has its effect. -/
theorem State.command_ok {ok : Bool} (inRange : ok = true) (f : State → State) : s.command? ok f = f s := if_pos inRange

/-- One with operands out of range only answers. -/
theorem State.command_bad {ok : Bool} (out : ok = false) (f : State → State) : s.command? ok f = s.refuseValue :=
  if_neg (Bool.eq_false_iff.1 out)

/-- A partition after a change of it. -/
theorem State.part_onPart_same (s : State) (part : Nat) (f : Partition → Partition) :
    (s.onPart part f).part part = f (s.part part) := by
  simp [State.onPart]

/-- A register of a partition not in use takes a value in range. -/
theorem State.assignPart_ok {ok : Bool} (idle : s.partInUse part = false) (there : s.partExists part = true)
    (inRange : ok = true)
    (f : Partition → Partition) : s.assignPart part ok f = s.onPart part f := by
  rw [State.assignPart, if_neg (Bool.eq_false_iff.1 idle), State.writePart, there, inRange]
  rfl

/-- And none while it is in use. -/
theorem State.assignPart_inUse (inUse : s.partInUse part = true) (ok : Bool) (f : Partition → Partition) :
    s.assignPart part ok f = s.refuseCommandWith 0x0E := if_pos inUse

/-- A value out of range changes no partition. -/
theorem State.assignPart_bad {ok : Bool} (out : ok = false) (f : Partition → Partition) :
    (s.assignPart part ok f).parts = s.parts := by
  rw [State.assignPart]
  split
  · rfl
  · rw [State.writePart, out, Bool.and_false]
    rfl

/-- A register of a VF takes a value in range. -/
theorem State.writeVf_ok {ok : Bool} (there : s.vfExists vf = true) (inRange : ok = true) (f : Vf → Vf) :
    s.writeVf vf ok f = s.onVf vf f := by
  rw [State.writeVf, there, inRange]
  rfl

/-- A register write of a READY device. -/
theorem execSupervisorRegisterWrite_ready (ready : s.ready = true) (r : SupReg) :
    exec (.supervisorRegisterWrite r) s = .next (s.writeRegister r) :=
  congrArg Host.Outcome.next (if_pos ready)

/-- So a register of a partition takes its value. -/
theorem State.assigned (ready : s.ready = true) (there : s.partExists part = true) (idle : s.partInUse part = false)
    (r : SupReg)
    {ok : Bool} {f : Partition → Partition} (rule : s.writeRegister r = s.assignPart part ok f) (inRange : ok = true) :
    ∃ t, exec (.supervisorRegisterWrite r) s = .next t ∧ t.part part = f (s.part part) :=
  ⟨_, execSupervisorRegisterWrite_ready ready r, by rw [rule, State.assignPart_ok idle there inRange, State.part_onPart_same]⟩

/-- And one of a VF. -/
theorem State.written (ready : s.ready = true) (there : s.vfExists vf = true) (r : SupReg) {ok : Bool} {f : Vf → Vf}
    (rule : s.writeRegister r = s.writeVf vf ok f) (inRange : ok = true) :
    ∃ t, exec (.supervisorRegisterWrite r) s = .next t ∧ t.vf vf = f (s.vf vf) :=
  ⟨_, execSupervisorRegisterWrite_ready ready r, by rw [rule, State.writeVf_ok there inRange, State.vf_onVf_same]⟩

/-- A partition that is created anew. -/
def State.created (s : State) (p : PartitionCmd) : State :=
  let s := s.clearMoved p
  let s : State := { s with embFrames := s.embFrames.filter fun r => !p.units.contains (r.1 / 2 ^ 14) }
  s.onPart p.part fun q =>
    { q with created := true, cores := p.cores, units := p.units, sets := p.sets, keys := p.keys, rings := p.rings
             coll := p.coll }

theorem execPartitionCreate_ok {p : PartitionCmd} (ready : s.ready = true) (idle : s.partInUse p.part = false)
    (keeps : s.losesStaged p = false) (ok : s.partitionOk p = true) :
    exec (.partitionCreate p) s = .next (s.created p).trimShared := by
  show execPartitionCreate p s = _
  rw [execPartitionCreate, if_neg (by simp [ready]), if_neg (by simp [idle, keeps]), State.command_ok ok]
  rfl

theorem State.created_part (s : State) (p : PartitionCmd) : (s.created p).part p.part =
    { s.part p.part with created := true, cores := p.cores, units := p.units, sets := p.sets, keys := p.keys, rings := p.rings
                         coll := p.coll } := by
  rw [State.created, State.part_onPart_same]
  rfl

@[simp] theorem State.part_trimShared (s : State) (k : Nat) : s.trimShared.part k = s.part k := (rfl)

/-- A root that may be written is written. -/
theorem State.rootWrite_root {u : State} {root : Nat} (may : s.rootWrite vf root = some u) : (u.vf vf).root = root := by
  rw [State.rootWrite] at may
  obtain ⟨_, same⟩ := Option.ite_none_right_eq_some.1 may
  have root_ := congrArg (fun t : State => (t.vf vf).root) (Option.some.inj same)
  rw [← root_, State.vf_of_vfs (State.vfs_freshLeaves ..), State.vf_onVf_same]

/-- A ring that may be written is there with its values, new or as it was. -/
theorem State.ringsOk_kept {a b c d : Nat} {note : Option (Nat × Nat)}
    (ok : s.ringsOk vf [(a, { base := b, size := c, policy := d, notify := note })] = true) :
    ∃ r : Ring, lookup? a (if (lookup? a (s.vf vf).rings).isSome then (s.vf vf).rings
      else assocSet a { base := b, size := c, policy := d, notify := note } (s.vf vf).rings) = some r ∧
      r.base = b ∧ r.size = c ∧ r.policy = d ∧ r.notify = note := by
  cases there : lookup? a (s.vf vf).rings with
  | none => exact ⟨{ base := b, size := c, policy := d, notify := note }, by simp, rfl, rfl, rfl, rfl⟩
  | some r =>
    refine ⟨r, by simp [there], ?_⟩
    have fits : s.ringOk vf (a, { base := b, size := c, policy := d, notify := note }) = true := by
      simp only [State.ringsOk, List.all_cons, List.all_nil, Bool.and_true, Bool.and_eq_true] at ok
      exact ok.1.1.1.1
    have here : s.ring? vf a = some r := there
    rw [State.ringOk] at fits
    dsimp only at fits
    rw [here] at fits
    simpa [and_assoc] using fits

/-- A map that keeps every live port, with no packet on its way. -/
theorem State.writeMap_kept {xy cols rows : Nat} {broken : List (Nat × Nat)} (none : s.packets = [])
    (live : ∀ p ∈ s.livePorts, (lookup? p (joinPorts xy cols rows s.links)).isSome = true) :
    s.writeMap xy cols rows broken = State.reapCoord { s with
      fabxy := xy, fabCols := cols, fabRows := rows, broken := broken, links := joinPorts xy cols rows s.links } := by
  have lost : s.livePorts.filter (fun p => (lookup? p (joinPorts xy cols rows s.links)).isNone) = [] := by
    rw [List.filter_eq_nil_iff]
    intro p there
    rw [← Option.not_isSome, live p there]
    simp
  rw [State.writeMap]
  simp only [lost, List.foldl_nil, none]

/-! ## Lists -/

/-- The words put into a list are there. -/
theorem lookupList_sparseSetList {α : Type} [DecidableEq α] (d : α) (k : Nat) (vs : List α) (l : List (Nat × α)) :
    lookupList d k vs.length (sparseSetList d k vs l) = vs := by
  refine List.ext_getElem (by simp [lookupList]) fun i _ inside => ?_
  simp [lookupList, lookupD_sparseSetList, inside]

/-- A key that none of the pairs has keeps its value. -/
theorem lookup?_foldl_assocSet_other {α : Type} {k : Nat} (l : List (Nat × α)) (other : k ∉ l.map (·.1)) (a : Assoc α) :
    lookup? k (l.foldl (fun a x => assocSet x.1 x.2 a) a) = lookup? k a := by
  induction l generalizing a with
  | nil => rfl
  | cons x l ih =>
    rw [List.map_cons, List.mem_cons, not_or] at other
    rw [List.foldl_cons, ih other.2, lookup?_assocSet, if_neg other.1]

/-- Of keys that differ each has the value put there. -/
theorem lookup?_foldl_assocSet {α : Type} {l : List (Nat × α)} (apart : (l.map (·.1)).Nodup) (a : Assoc α) {p :
    Nat × α} (there : p ∈ l) :
    lookup? p.1 (l.foldl (fun a x => assocSet x.1 x.2 a) a) = some p.2 := by
  induction l generalizing a with
  | nil => cases there
  | cons x l ih =>
    rw [List.map_cons, List.nodup_cons] at apart
    rw [List.foldl_cons]
    rcases List.mem_cons.1 there with rfl | there
    · rw [lookup?_foldl_assocSet_other l apart.1, lookup?_assocSet, if_pos rfl]
    · exact ih apart.2 _ there

end Sys2Proof.Machine

open Sys2Proof Sys2Proof.Machine

/-- Settles O44: each command and each register by its check, and what it assigns once that passes. -/
theorem supervisorCommands : Obligations.SupervisorCommands := by
  refine ⟨?_, ?_, ?_, ?_⟩
  · intro s p k vf root core wt part idx base freeze rw' words lists members ready
    have awake : ¬ (!s.ready) = true := by simp [ready]
    refine ⟨fun idle keeps ok => ?_, fun refused => ?_, fun inside there free may => ?_, fun cores weights there own => ?_,
      fun low high state owner => ?_, fun there idle inside op => ?_, fun there fits good apart => ?_,
          fun dead own all => ?_, fun live => ?_⟩
    · have run := execPartitionCreate_ok ready idle keeps ok
      refine ⟨_, run, ?_⟩
      rw [State.part_trimShared, State.created_part]
      exact ⟨rfl, rfl, rfl, rfl, rfl, rfl, rfl⟩
    · refine ⟨s.refuseCommandWith 0x0E, ?_, rfl, rfl⟩
      show execPartitionCreate p s = _
      rw [execPartitionCreate, if_neg awake, if_pos (Bool.or_eq_true_iff.2 refused)]
    · have run : ∃ u, exec (.vfCreate vf root freeze) s = .next ((u : State).setVf vf
          { state := .active, root := root, freeze := freeze, saveKey := s.draws, pageKey := s.draws + 1 } |>.fitQuotas vf) := by
        obtain ⟨u, written⟩ := Option.isSome_iff_exists.1 may
        refine ⟨({ s with draws := s.draws + 2 } : State).forgetFrames vf, ?_⟩
        show execVfCreate vf root freeze s = _
        rw [execVfCreate, if_pos (by simp [inside, there, free]), written]
      obtain ⟨u, run⟩ := run
      refine ⟨_, run, ?_⟩
      rw [State.fitQuotas, State.vf_onVf_same]
      simp
    · have ok : (core < 256 && wt < 256 && s.vfExists vf && (s.part (partOf vf)).cores.contains core) = true := by
        simp [cores, weights, there, own]
      refine ⟨_, congrArg Host.Outcome.next (State.command_ok ok _), ?_⟩
      simp [State.onCore_eq, Core.onSel, Selector.onShare]
    · have ok : ((s.part k.part).keys.1 ≤ k.slot && k.slot < (s.part k.part).keys.1 +
        (s.part k.part).keys.2 && k.state < 3 &&
          k.owner.all fun v => partOf v == k.part) = true := by
        have mine : k.owner.all (fun v => partOf v == k.part) = true := by
          cases own : k.owner with
          | none => rfl
          | some v => simpa using owner v own
        simp [low, high, state, mine]
      refine ⟨_, _, congrArg Host.Outcome.next (State.command_ok ok _), (lookup?_assocSet ..).trans
          (if_pos rfl), rfl, rfl, rfl, rfl, rfl, rfl⟩
    · have ok : (idx < 16 && (rw'.redop == 1 || rw'.redop == 2 || rw'.redop == 5 || rw'.redop == 6)) = true := by
        simpa [inside, or_assoc] using op
      refine ⟨_, congrArg Host.Outcome.next (State.assignPart_ok idle there ok _), ?_⟩
      simp [State.part_onPart_same]
    · have ok : (s.partExists part && (base + words.length ≤ (s.part part).coll.2 &&
          lists.all fun l => l.1 < 16 && l.2.length ≤ 64 && l.2.all (· < 64))) = true := by
        rw [there, decide_eq_true fits, Bool.true_and, Bool.true_and, List.all_eq_true]
        intro l member
        obtain ⟨number, length, devices⟩ := good l member
        simpa [number, length] using devices
      refine ⟨_, congrArg Host.Outcome.next (State.command_ok ok _), lookupList_sparseSetList .., fun l member => ?_⟩
      rw [State.part_onPart_same]
      exact lookup?_foldl_assocSet apart _ member
    · have ok : ((s.part part).sets.contains idx && members.all fun n => n < 1024 && (s.part part).cores.contains
        (coreOf n)) = true := by
        rw [List.contains_iff_mem.2 own, Bool.true_and, List.all_eq_true]
        intro n member
        obtain ⟨number, core⟩ := all n member
        simp [number, core]
      refine ⟨_, (if_neg (Bool.eq_false_iff.1 dead)).trans (congrArg Host.Outcome.next (State.command_ok ok _)), ?_⟩
      have same := State.set_onSet (s := s) idx idx fun e => { e with members := members.eraseDups, arrivals := [], released := [] }
      rw [if_pos rfl] at same
      exact ⟨congrArg SetEntry.members same, congrArg SetEntry.arrivals same⟩
    · refine ⟨s.refuseCommandWith 0x0E, ?_, rfl, rfl⟩
      show execSetEntryRewrite part idx members s = _
      rw [execSetEntryRewrite, if_pos live]
  · intro s part v a b on keys ready there writes others
    have writing (r : SupReg) : exec (.supervisorRegisterWrite r) s = .next (s.writeRegister r)
        := execSupervisorRegisterWrite_ready ready r
    refine ⟨fun idle => ⟨fun low high => ?_, fun low high => ?_, fun low high => ?_, fun fits => ?_,
        fun fits given => ?_, ?_, fun die e w => ?_⟩,
      fun few => ?_, fun out => ?_, fun inUse r reg => ?_⟩
    · obtain ⟨t, run, same⟩ := State.assigned ready there idle (.limit part v) rfl (by simp [low, high])
      exact ⟨t, run, by rw [same]⟩
    · obtain ⟨t, run, same⟩ := State.assigned ready there idle (.preptime part v) rfl (by simp [low, high])
      exact ⟨t, run, by rw [same]⟩
    · obtain ⟨t, run, same⟩ := State.assigned ready there idle (.indoubt part v) rfl (by simp [low, high])
      exact ⟨t, run, by rw [same]⟩
    · obtain ⟨t, run, same⟩ := State.assigned ready there idle (.records part v) rfl (decide_eq_true fits)
      exact ⟨t, run, by rw [same]⟩
    · have few : v ≤ 15 := by omega
      obtain ⟨t, run, same⟩ := State.assigned ready there idle (.wayQuota part v) rfl
          (by rw [decide_eq_true few, decide_eq_true fits, decide_eq_true given]; rfl)
      exact ⟨t, run, by rw [same]⟩
    · refine ⟨_, writing (.residency part on), ?_⟩
      have open_ : ¬ (s.partInUse part || !s.partExists part) = true := by simp [idle, there]
      show ((State.writeRegister s (.residency part on)).part part).hint = on
      rw [State.writeRegister, if_neg open_]
      show ((s.assignPart part true fun p => { p with hint := on }).part part).hint = on
      rw [State.assignPart_ok idle there rfl, State.part_onPart_same]
    · refine ⟨_, writing (.tlbShare part v a b), ?_⟩
      show lookup? v ((State.writeRegister s (.tlbShare part v a b)).part part).tlb = some (a, b)
      rw [State.writeRegister]
      dsimp only
      rw [State.part_trimShared, State.assignPart_ok idle there
          (by simp only [die, e, w, decide_true, Bool.and_true]), State.part_onPart_same]
      exact (lookup?_assocSet ..).trans (if_pos rfl)
    · refine ⟨_, writing (.signature part on keys), ?_⟩
      show ((s.writePart part (keys.length ≤ 8) fun p => { p with required := on, trusted := keys }).part part).required = on ∧
        ((s.writePart part (keys.length ≤ 8) fun p => { p with required := on, trusted := keys }).part part).trusted = keys
      rw [State.writePart, State.command_ok (by simp [there, few]), State.part_onPart_same]
      exact ⟨rfl, rfl⟩
    · refine ⟨_, writing (.limit part v), State.assignPart_bad ?_ _⟩
      simp only [Bool.and_eq_false_iff, decide_eq_false_iff_not, Nat.not_le]
      exact out
    · have refused : (s.writeRegister r).parts = s.parts ∧ (s.writeRegister r).outbox = s.outbox ++ [.refused 0x0E] := by
        have kept {t : State} (same : t = s.refuseCommandWith 0x0E) :
            t.parts = s.parts ∧ t.outbox = s.outbox ++ [.refused 0x0E] := by
          rw [same]
          exact ⟨rfl, rfl⟩
        simp only [List.mem_cons, List.not_mem_nil, or_false] at reg
        rcases reg with rfl | rfl | rfl | rfl | rfl | rfl | rfl
        · exact kept (State.assignPart_inUse inUse ..)
        · exact kept (State.assignPart_inUse inUse ..)
        · exact kept (State.assignPart_inUse inUse ..)
        · exact kept (State.assignPart_inUse inUse ..)
        · exact kept (State.assignPart_inUse inUse ..)
        · exact kept ((if_pos (by simp [inUse])).trans (State.assignPart_inUse inUse ..))
        · rw [State.writeRegister]
          dsimp only
          rw [State.assignPart_inUse inUse]
          exact ⟨rfl, rfl⟩
      exact ⟨_, writing r, refused⟩
  · intro s vf v a b c d on note ready there writes
    have writing (r : SupReg) : exec (.supervisorRegisterWrite r) s = .next (s.writeRegister r)
        := execSupervisorRegisterWrite_ready ready r
    refine ⟨fun idle fits => ?_, fun free fits => ?_, fun may => ?_, fun may => ?_, fun idle => ?_,
        fun inUse => ?_, fun inside => ⟨?_, ?_⟩, fun inside => ⟨fun qp => ?_, ?_⟩,
      fun inside => ⟨fun low high => ?_, ?_⟩, fun inside mtu => ?_, fun ok => ?_, ?_, fun inside => ?_,
          fun inside low high => ?_⟩
    · obtain ⟨t, run, same⟩ := State.written ready there (.staging vf v) (if_neg (Bool.eq_false_iff.1 idle))
        (decide_eq_true fits)
      exact ⟨t, run, by rw [same]⟩
    · obtain ⟨t, run, same⟩ := State.written ready there (.vfWays vf v) rfl
        (by rw [decide_eq_true fits, Bool.and_true]; simpa using free)
      exact ⟨t, run, by rw [same]⟩
    · obtain ⟨u, root⟩ := Option.isSome_iff_exists.1 may
      have value : s.writeRegister (.root vf v) = u := by
        rw [State.writeRegister, if_pos there, root]
        rfl
      refine ⟨u, (writing _).trans (congrArg _ value), State.rootWrite_root root⟩
    · have value : s.writeRegister (.root vf v) = s.refuseValue := by
        rw [State.writeRegister, if_pos there, may]
        rfl
      exact ⟨_, (writing _).trans (congrArg _ value), rfl⟩
    · obtain ⟨t, run, same⟩ := State.written ready there (.policy vf on) (if_neg (Bool.eq_false_iff.1 idle)) rfl
      exact ⟨t, run, by rw [same]⟩
    · exact ⟨_, (writing (.policy vf on)).trans (congrArg _ (if_pos inUse)), rfl, rfl⟩
    · obtain ⟨t, run, same⟩ := State.written ready there (.peer vf a (some v)) rfl (decide_eq_true inside)
      exact ⟨t, run, by rw [same]; simp⟩
    · obtain ⟨t, run, same⟩ := State.written ready there (.peer vf a none) rfl (decide_eq_true inside)
      exact ⟨t, run, by rw [same]; simp [lookup?_dropKey]⟩
    · obtain ⟨t, run, same⟩ := State.written ready there (.hostEntry vf a (some (b, c, d, v))) rfl (by simp [inside, qp])
      exact ⟨t, run, by rw [same]; simp⟩
    · obtain ⟨t, run, same⟩ := State.written ready there (.hostEntry vf a none) rfl (by simp [inside])
      exact ⟨t, run, by rw [same]; simp [lookup?_dropKey]⟩
    · obtain ⟨t, run, same⟩ := State.written ready there (.window vf a (some (b, c, d, on, !on))) rfl
        (by simp [inside]; exact ⟨low, high⟩)
      exact ⟨t, run, by rw [same]; simp⟩
    · obtain ⟨t, run, same⟩ := State.written ready there (.window vf a none) rfl (by simp [inside])
      exact ⟨t, run, by rw [same]; simp [lookup?_dropKey]⟩
    · obtain ⟨t, run, same⟩ := State.written ready there (.queuePair vf a v) rfl (by simpa [inside, or_assoc] using mtu)
      refine ⟨t, run, ?_⟩
      rw [State.queuePair, same]
      simp
    · obtain ⟨t, run, same⟩ := State.written ready there (.ring vf a b c d note) rfl ok
      obtain ⟨r, ring, base, size, policy, notify⟩ := State.ringsOk_kept ok
      exact ⟨t, r, run, by rw [State.ring?, same]; exact ring, base, size, policy, notify⟩
    · obtain ⟨t, run, same⟩ := State.written ready there (.windowKeys vf a b) rfl rfl
      exact ⟨t, run, by rw [same]; exact ⟨rfl, rfl⟩⟩
    · obtain ⟨t, run, same⟩ := State.written ready there (.mac a vf v) rfl (decide_eq_true inside)
      exact ⟨t, run, by rw [same]; simp⟩
    · have ok : (a < 256 && s.vfExists vf && 1 ≤ v && v + s.framesOfOthers a vf ≤ 8)
        = true := by simp [inside, there, low, high]
      have value : s.writeRegister (.frames a vf v) = s.onCore a fun k => { k with quotas := assocSet vf v k.quotas } :=
        State.command_ok ok fun s => s.onCore a fun k => { k with quotas := assocSet vf v k.quotas }
      refine ⟨_, (writing (.frames a vf v)).trans (congrArg _ value), ?_⟩
      simp [State.onCore_eq]
  · intro s port xy cols rows split broken ready
    have writing (r : SupReg) : exec (.supervisorRegisterWrite r) s = .next (s.writeRegister r)
        := execSupervisorRegisterWrite_ready ready r
    refine ⟨fun inside => ?_, fun a b c d e f g none live => ?_⟩
    · have value : s.writeRegister (.portMode port split) = { s with split := assocSet port split s.split } :=
        State.command_ok (decide_eq_true inside) fun s => { s with split := assocSet port split s.split }
      refine ⟨_, (writing (.portMode port split)).trans (congrArg _ value), ?_⟩
      exact (lookup?_assocSet ..).trans (if_pos rfl)
    · have ok : (xy < 64 && 1 ≤ cols && cols ≤ 8 && 1 ≤ rows && rows ≤ 8 && fabCol xy < cols && fabRow xy < rows)
        = true := by
        simp [a, b, c, d, e, f, g]
      have value : s.writeRegister (.fabric xy cols rows broken) = s.writeMap xy cols rows broken :=
        State.command_ok ok fun s => s.writeMap xy cols rows broken
      refine ⟨_, (writing (.fabric xy cols rows broken)).trans (congrArg _ value), ?_⟩
      rw [State.writeMap_kept none live]
      exact ⟨rfl, rfl, rfl, rfl, rfl⟩
end
section
/-!
PROOFS. Host accesses over RDMA (R370 to R376, R466; O47).
-/
namespace Sys2Proof.Machine
open Sys2Proof

variable {s : State} {frame vf port pa qp : Nat} {r : RdmaReq} {w : Window}

/-! ## Responses -/

/-- The first chunks of a list are its first elements. -/
theorem flatten_chunks {α : Type} (k m : Nat) (l : List α) :
    ((List.range m).map fun i => (l.drop (k * i)).take k).flatten = l.take (k * m) := by
  induction m with
  | zero => simp
  | succ m ih =>
    rw [List.range_succ, List.map_append, List.flatten_append, ih, Nat.mul_succ, List.take_add]
    simp

/-- Frames no longer than the path MTU carry the whole data. -/
theorem State.response_frames (s : State) (vf : Nat) (data : List Byte) (mtu : 1 ≤ (s.queuePair vf qp).mtu) :
    ∃ ds : List (List Byte), s.response vf qp data = ds.map RoceOut.rdma ∧ ds.flatten = data ∧
      ∀ x ∈ ds, x.length ≤ (s.queuePair vf qp).mtu := by
  rw [State.response]
  split
  next short => exact ⟨[data], rfl, by simp, by simpa using short⟩
  next long =>
    refine ⟨_, rfl, ?_, fun x there => ?_⟩
    · rw [chunks, flatten_chunks, List.take_of_length_le]
      have up := Nat.div_add_mod (data.length + (s.queuePair vf qp).mtu - 1) (s.queuePair vf qp).mtu
      have below := Nat.mod_lt (data.length + (s.queuePair vf qp).mtu - 1) mtu
      omega
    · obtain ⟨i, -, rfl⟩ := List.mem_map.1 there
      exact List.length_take_le ..

/-- What answers a frame goes out under the VF's key. -/
theorem State.answerFrame_outbox (s : State) (frame vf : Nat) (xs : List RoceOut) :
    (s.answerFrame frame vf xs).outbox = s.outbox ++ (s.macsec vf).elim [] fun key => xs.map fun x => .roce vf key x := by
  have keyed : (s.dropFrame frame).macsec vf = s.macsec vf := rfl
  rw [State.answerFrame, State.sendRoce, keyed]
  cases s.macsec vf with
  | none => exact (List.append_nil _).symm
  | some key => rfl

/-- And it changes no memory and no VF. -/
theorem State.answerFrame_keeps (s : State) (frame vf : Nat) (xs : List RoceOut) :
    (s.answerFrame frame vf xs).mem = s.mem ∧ (s.answerFrame frame vf xs).vfs = s.vfs := by
  rw [State.answerFrame, State.sendRoce]
  split <;> exact ⟨rfl, rfl⟩

/-- A memory window has a number below 8. -/
theorem State.memoryWindow_number {write : Bool} (found : s.memoryWindow vf r write = some w) : r.window < 8 := by
  rw [State.memoryWindow, Option.bind_eq_some_iff] at found
  obtain ⟨x, -, fits⟩ := found
  obtain ⟨fits, -⟩ := Option.ite_none_right_eq_some.1 fits
  simp only [Bool.and_eq_true, decide_eq_true_eq] at fits
  exact fits.1.1.1

/-! ## Memory -/

/-- A write of whole bytes that every translation lets through, at consecutive addresses. -/
theorem State.masterWrites_whole {p : Path} {a : Nat} {bs : List Byte}
    (maps : ∀ i, i < bs.length → s.xlate p vf (a + i) .write = .ok (pa + i) false) :
    ((s.masterWrites p vf true (wholeWrites a bs)).1.bytes pa bs.length = bs ∧
      s.sameOutside (s.masterWrites p vf true (wholeWrites a bs)).1 pa bs.length) ∧
      (s.masterWrites p vf true (wholeWrites a bs)).1.keys = s.keys ∧
      (s.masterWrites p vf true (wholeWrites a bs)).1.outbox = s.outbox := by
  have mapped : ∀ w ∈ wholeWrites a bs, s.xlate p vf w.1 .write = .ok (pa + (w.1 - a)) false := fun w there => by
    rw [wholeWrites_eq] at there
    obtain ⟨i, inside, rfl⟩ := List.mem_map.1 there
    rw [maps i (List.mem_range.1 inside), Nat.add_sub_cancel_left]
  obtain ⟨b, made⟩ := State.masterBytes_mapped true (fun y => pa + (y - a)) (wholeWrites a bs) mapped
  have byte := fun y => State.byte_putMasked_whole (pa := pa) (a := a) (bs := bs) s (fun y => pa + (y - a))
    (fun i _ => by rw [Nat.add_sub_cancel_left]) y
  have written : s.masterWrites p vf true (wholeWrites a bs) =
      (({ s with mem := (s.putMasked (fun y => pa + (y - a)) (wholeWrites a bs)).mem, bad := b } : State).wakeAddrs p vf
        ((wholeWrites a bs).map (·.1)), none) := by
    rw [State.masterWrites, if_pos rfl]
    dsimp only
    rw [made]
    rfl
  rw [written]
  refine ⟨⟨?_, ?_⟩, rfl, rfl⟩
  · refine List.ext_getElem (by simp [State.bytes, lookupList]) fun i _ inside => ?_
    have at_ := byte (pa + i)
    rw [if_pos ⟨by omega, by omega⟩, Nat.add_sub_cancel_left, List.getD_eq_getElem _ _ inside] at at_
    simp only [State.bytes, lookupList, List.getElem_map, List.getElem_range]
    exact at_
  · intro y outside
    exact (byte y).trans (if_neg (by omega))

/-! ## The launch window -/

/-- A write to an ACTIVE VF's launch window that does not arm it is stored. -/
theorem State.writeLaunch_stored {off : Nat} {data : List Byte} (active : (s.vf vf).state = .active)
    (calm : (off ≤ 4088 && 4088 < off + data.length &&
      windowDword (sparseSetList 0 off data (s.vf vf).window) 4088 % 2 == 1) = false) :
    s.writeLaunch vf off data = s.onVf vf fun v => { v with window := sparseSetList 0 off data (s.vf vf).window } := by
  rw [State.writeLaunch]
  dsimp only
  rw [active, if_neg VfState.noConfusion, calm]
  rfl

/-- The word that arms it arms a command that it names. -/
theorem State.writeLaunch_armed {off : Nat} {data : List Byte} (active : (s.vf vf).state = .active)
    (arms : (off ≤ 4088 && 4088 < off + data.length &&
      windowDword (sparseSetList 0 off data (s.vf vf).window) 4088 % 2 == 1) = true)
    (free : (s.vf vf).armed = none) (idle : (s.vf vf).starts = [])
    (op : windowDword (sparseSetList 0 off data (s.vf vf).window) 0 % 256 ∈ [1, 2, 3]) :
    s.writeLaunch vf off data = (s.onVf vf fun v => { v with window := sparseSetList 0 off data (s.vf vf).window }).onVf vf
      fun v => { v with armed := some (sparseSetList 0 off data (s.vf vf).window) } := by
  have known : (!([1, 2, 3].contains (windowDword (sparseSetList 0 off data (s.vf vf).window) 0 % 256))) = false := by
    rw [List.contains_iff_mem.2 op]
    rfl
  rw [State.writeLaunch]
  dsimp only
  rw [active, if_neg VfState.noConfusion, arms, free, idle, known]
  rfl

end Sys2Proof.Machine

open Sys2Proof Sys2Proof.Machine

/-- Settles O47: reads and writes past their checks, and what answers them. -/
theorem hostAccesses : Obligations.HostAccesses := by
  intro s frame vf port pa r w v reads writes answers response opened
  have launching (first : s.earlierWrite vf frame = false) (writes : writes) (window : r.window = 8) (active :
      v.state = .active)
      (key : r.rkey = v.launchKey) (inside : r.off + r.len ≤ 4096) (whole : r.data.length = r.len) :
      exec (.rdmaWrite frame) s = .next ((s.writeLaunch vf r.off r.data).answerFrame frame vf [.rdma []]) := by
    show execRdmaWrite frame s = _
    rw [execRdmaWrite, writes]
    dsimp only
    rw [if_pos window, if_neg, if_neg (Bool.eq_false_iff.1 first), List.take_of_length_le (Nat.le_of_eq whole)]
    rintro (free | other | past)
    · exact VfState.noConfusion (active.symm.trans free)
    · exact other key
    · exact Nat.not_lt.2 inside past
  refine ⟨fun reads window alive key inside => ?_, fun reads active found ready maps => ?_,
      fun writes active found ready whole maps => ?_,
    fun writes window alive key inside earlier => ?_,
        fun writes window active key inside whole first => ⟨fun low => ?_, fun low high arms free idle op => ?_⟩,
    fun writes window key => ?_⟩
  · have run : exec (.rdmaRead frame) s =
        .next (s.answerFrame frame vf (s.response vf r.qp (((s.statusWindow vf).drop r.off).take r.len))) := by
      show execRdmaRead frame s = _
      rw [execRdmaRead, reads]
      dsimp only
      rw [if_pos window, if_neg]
      rintro (free | other | past)
      · exact alive free
      · exact other key
      · exact Nat.not_lt.2 inside past
    exact ⟨_, _, run, State.answerFrame_outbox .., State.response_frames s vf _, State.sameMemory_of_mem
        (State.answerFrame_keeps ..).1⟩
  · have data : ((windowAddrs r w).map fun a => match s.xlate (ioPath vf) vf a .read with
        | .ok pa _ => s.byte pa
        | _ => (0 : Byte)) = s.bytes pa r.len := by
      rw [windowAddrs, List.map_map, State.bytes, lookupList]
      refine List.map_congr_left fun i inside => ?_
      rw [Function.comp, maps i (List.mem_range.1 inside)]
      rfl
    have run : exec (.rdmaRead frame) s = .next ((s.visitAddrs (ioPath vf) vf (windowAddrs r w) 0).answerFrame frame vf
        (s.response vf r.qp (s.bytes pa r.len))) := by
      have other : r.window ≠ 9 := by have := State.memoryWindow_number found; omega
      show execRdmaRead frame s = _
      rw [execRdmaRead, reads]
      dsimp only
      rw [if_neg other, if_pos active, found]
      dsimp only
      rw [ready]
      exact congrArg (fun d => Host.Outcome.next ((s.visitAddrs (ioPath vf) vf (windowAddrs r w) 0).answerFrame frame vf
        (s.response vf r.qp d))) data
    refine ⟨_, _, run, ?_, State.response_frames s vf _, State.sameMemory_of_mem ?_⟩
    · refine (State.answerFrame_outbox ..).trans ?_
      obtain ⟨cs, ts, touched⟩ := State.touchAll_eq s (ioPath vf) vf (windowAddrs r w)
      rw [State.visitAddrs, touched]
      rfl
    · exact (State.answerFrame_keeps ..).1.trans (State.visitAddrs_mem ..)
  · have zipped : ((windowAddrs r w).zip r.data).map (fun (p : Nat × Byte) => (p.1, (0xFF : Byte), p.2)) =
        wholeWrites (w.base + r.off) r.data := by
      rw [wholeWrites, windowAddrs, whole, List.zip_map_left, List.map_map]
      rfl
    have run : exec (.rdmaWrite frame) s = .next (((s.masterWrites (ioPath vf) vf true (wholeWrites (w.base + r.off)
        r.data)).1.visitAddrs
        (ioPath vf) vf (windowAddrs r w) 0).answerFrame frame vf [.rdma []]) := by
      have other : r.window ≠ 8 := by have := State.memoryWindow_number found; omega
      rw [← zipped]
      show execRdmaWrite frame s = _
      rw [execRdmaWrite, writes]
      dsimp only
      rw [if_neg other, if_pos active, found]
      dsimp only
      rw [ready]
    obtain ⟨⟨bytes, outside⟩, keys, outbox⟩ := State.masterWrites_whole (bs := r.data) (a := w.base + r.off) (whole ▸ maps)
    have kept := (State.answerFrame_keeps ((s.masterWrites (ioPath vf) vf true (wholeWrites (w.base + r.off)
        r.data)).1.visitAddrs
        (ioPath vf) vf (windowAddrs r w) 0) frame vf [.rdma []]).1.trans (State.visitAddrs_mem ..)
    have byte (x : Nat) : State.byte _ x = State.byte _ x := congrArg (lookupD 0 x) kept
    refine ⟨_, run, ?_, ?_, ?_⟩
    · refine (State.answerFrame_outbox ..).trans ?_
      obtain ⟨cs, ts, touched⟩ := State.touchAll_eq (s.masterWrites (ioPath vf) vf true (wholeWrites (w.base + r.off)
          r.data)).1
        (ioPath vf) vf (windowAddrs r w)
      rw [State.visitAddrs, touched, ← outbox]
      refine congrArg (_ ++ ·) (congrArg (fun k => Option.elim k _ _) ?_)
      rw [State.macsec, State.macsec, ← keys]
    · rw [← whole]
      refine Eq.trans (List.map_congr_left fun i _ => byte _) bytes
    · rw [← whole]
      exact fun x far => (byte x).trans (outside x far)
  · show execRdmaWrite frame s = _
    rw [execRdmaWrite, writes]
    dsimp only
    rw [if_pos window, if_neg, if_pos earlier]
    rintro (free | other | past)
    · exact alive free
    · exact other key
    · exact Nat.not_lt.2 inside past
  · have missed : ¬ 4088 < r.off + r.data.length := by omega
    have run := launching first writes window active key inside whole
    rw [State.writeLaunch_stored active (by simp [missed])] at run
    refine ⟨_, run, State.answerFrame_outbox .., ?_⟩
    rw [State.vf_of_vfs (State.answerFrame_keeps ..).2, State.vf_onVf_same]
    exact ⟨rfl, rfl⟩
  · have run := launching first writes window active key inside whole
    rw [State.writeLaunch_armed active (by simp [low, whole, high]; exact arms) free idle op] at run
    refine ⟨_, run, State.answerFrame_outbox .., ?_⟩
    rw [State.vf_of_vfs (State.answerFrame_keeps ..).2, State.vf_onVf_same]
  · have run : exec (.rdmaWrite frame) s = .next (s.answerFrame frame vf [.nakAccess]) := by
      show execRdmaWrite frame s = _
      rw [execRdmaWrite, writes]
      dsimp only
      rw [if_pos window, if_pos (.inr (.inl key))]
    exact ⟨_, run, State.answerFrame_outbox .., (State.answerFrame_keeps ..).2⟩
end

section
/-!
PROOFS. Start records and translated Darot code (R37, R474; O49).
-/
namespace Sys2Proof.Machine
open Sys2Proof

variable {s t u : State} {n : Nat}

/-- In `t` the context `n` differs from that in `s` in its bindings alone, and semaphores and hearth records stand. -/
structure State.BoundAs (s t : State) (n : Nat) : Prop where
  ctx     : ∃ b, t.ctx n = { s.ctx n with binds := b }
  sems    : ∀ k, (t.core k).sems = (s.core k).sems
  hearths : t.hearths = s.hearths

theorem State.BoundAs.refl (s : State) (n : Nat) : s.BoundAs s n := ⟨⟨(s.ctx n).binds, rfl⟩, fun _ => rfl, rfl⟩

theorem State.BoundAs.trans (first : s.BoundAs t n) (then_ : t.BoundAs u n) : s.BoundAs u n := by
  obtain ⟨⟨b, ctx⟩, sems, hearths⟩ := first
  obtain ⟨⟨b', ctx'⟩, sems', hearths'⟩ := then_
  exact ⟨⟨b', by rw [ctx', ctx]⟩, fun k => (sems' k).trans (sems k), hearths'.trans hearths⟩

/-- A change of a core that keeps its semaphores. -/
theorem State.BoundAs.onCore {f : Core → Core} (keep : ∀ k, (f k).sems = k.sems) (core : Nat) : s.BoundAs
    (s.onCore core f) n := by
  refine ⟨⟨(s.ctx n).binds, rfl⟩, fun k => ?_, rfl⟩
  rw [State.onCore_eq, State.core_setCore]
  split
  next same => rw [keep, same]
  next => rfl

/-- A change of the bindings. -/
theorem State.BoundAs.onCtx (s : State) (n : Nat) (g : Ctx → Assoc Binding) : s.BoundAs (s.onCtx n fun c => { c with binds := g c }) n :=
  ⟨⟨g (s.ctx n), State.ctx_onCtx_same ..⟩, fun _ => rfl, rfl⟩

/-- Frames given back. -/
theorem State.BoundAs.freeFrames (s : State) (n key : Nat) : s.BoundAs (s.freeFrames n key) n := by
  rw [State.freeFrames]
  split
  · exact .refl s n
  · refine ⟨⟨(s.ctx n).binds, rfl⟩, fun k => ?_, rfl⟩
    have at_ := lookup?_map_snd (g := fun c : Core => { c with
        frames := c.frames.filter fun f => f.key != key, fetches := c.fetches.filter fun f => f.key != key }) k s.cores
    simp only [State.core, lookupD, at_]
    cases lookup? k s.cores <;> rfl

/-- Pages sent for. -/
theorem State.BoundAs.queueHash (s : State) (n opc : Nat) (b : Binding) : s.BoundAs (s.queueHash n opc b) n :=
  State.BoundAs.onCore (f := fun k => { k with fetches := k.fetches ++ _ }) (fun _ => rfl) _

/-- A binding made, or taken away. -/
theorem State.BoundAs.applyBind (s : State) (n opc : Nat) (b : Option Binding) : s.BoundAs (s.applyBind n opc b) n := by
  have unbound (o : Option Binding) : s.BoundAs (match o with
      | some o => s.unbind n o.key
      | none => s) n := by
    cases o with
    | none => exact .refl s n
    | some o => exact (State.BoundAs.onCtx s n _).trans (.freeFrames ..)
  cases b with
  | none => exact unbound _
  | some b =>
    have next (t : State) (k : Nat) : t.BoundAs { t with nextId := k } n := ⟨⟨(t.ctx n).binds, rfl⟩, fun _ => rfl, rfl⟩
    exact (((unbound (lookup? opc (s.ctx n).binds)).trans (next _ _)).trans (.onCtx _ n fun c => assocSet opc { b with key := _ } c.binds)).trans
      (.queueHash ..)

/-- The bindings of a list made one after the other. -/
theorem State.BoundAs.foldl {α : Type} {f : State → α → State} (each : ∀ (t : State) a, t.BoundAs (f t a) n) (l :
    List α) (s : State) :
    s.BoundAs (l.foldl f s) n :=
  List.foldlRecOn (motive := fun t : State => s.BoundAs t n) l f (.refl s n) fun t bound a _ => bound.trans (each t a)

/-- The arguments of a start record are in registers 1 to 4. -/
theorem Start.ctx_arg (r : Start) (vf : Nat) (sets : List Nat) (descs : Assoc Desc) {k : Nat} (low : 1 ≤ k) (high : k ≤ 4) :
    (r.ctx vf sets descs).s k = r.arg k := by
  have few : k = 1 ∨ k = 2 ∨ k = 3 ∨ k = 4 := by omega
  rcases few with rfl | rfl | rfl | rfl <;> simp [Start.ctx, Ctx.s]

/-- With no hearth record an evaluator is offered nothing. -/
theorem State.offerSlot_none (none : s.hearths = []) : s.offerSlot n = s := by
  have heads (l : List Nat) : (l.filterMap fun i => s.queueHead i) = [] := by simp [State.queueHead, none]
  simp [State.offerSlot, State.queueHead, none]

/-- The state in which a start record's bindings are made: its slot as the record says, with its semaphores at zero. -/
def State.started (s : State) (vf n : Nat) (b : List Byte) (img : Image) : State :=
  let s := s.onVf vf fun v => { v with starts := v.starts.filter fun x => x != b }
  ((s.setCtx n (Start.ctx ⟨b⟩ vf (setsOf img.sets n) img.descs)).clearSems n).trimMicro (coreOf n)

/-- The arrival of a start record. -/
theorem execStartRecordArrival_comes {vf : Nat} {b : List Byte} {img : Image}
    (first : ((s.vf vf).starts.find? fun x => Start.num ⟨x⟩ == n) = some b) (image : lookup? (s.vf vf).starting
        (s.vf vf).images = some img) :
    ∃ t, (s.started vf n b img).BoundAs t n ∧
      execStartRecordArrival vf n s = .next (if Start.cls ⟨b⟩ = 2 then t.offerSlot n else t) := by
  rw [execStartRecordArrival]
  simp only [first, image]
  exact ⟨_, .foldl (fun t x => .applyBind ..) _ _, rfl⟩

theorem State.started_ctx (s : State) (vf n : Nat) (b : List Byte) (img : Image) :
    (s.started vf n b img).ctx n = Start.ctx ⟨b⟩ vf (setsOf img.sets n) img.descs := by
  rw [State.started]
  simp [State.trimMicro, State.clearSems]

/-- A key that a list does not have. -/
theorem lookup?_absent {α : Type} {k : Nat} {l : List (Nat × α)} (absent : ∀ p ∈ l, p.1 ≠ k) : lookup? k l = none := by
  induction l with
  | nil => rfl
  | cons p l ih =>
    rw [lookup?, if_neg (absent p List.mem_cons_self)]
    exact ih fun q there => absent q (List.mem_cons_of_mem p there)

theorem State.started_sems (s : State) (vf n : Nat) (b : List Byte) (img : Image) :
    ∃ l : List (Nat × Half), ((s.started vf n b img).core (coreOf n)).sems =
      l.filter fun p => !(Start.semBase ⟨b⟩ ≤ p.1 && p.1 < Start.semBase ⟨b⟩ + Start.semCount ⟨b⟩) := by
  rw [State.started]
  simp only [State.trimMicro, State.clearSems, State.onCore_eq, State.core_setCore, if_true, State.ctx_setCtx]
  exact ⟨_, rfl⟩

/-- Its semaphores are zero. -/
theorem State.started_sem (s : State) (vf n : Nat) (b : List Byte) (img : Image) {h : Nat} (inside :
    h < Start.semCount ⟨b⟩) :
    (s.started vf n b img).sem n h = 0 := by
  obtain ⟨l, sems⟩ := s.started_sems vf n b img
  have absent : lookup? (Start.semBase ⟨b⟩ + h) (l.filter fun p =>
      !(Start.semBase ⟨b⟩ ≤ p.1 && p.1 < Start.semBase ⟨b⟩ + Start.semCount ⟨b⟩)) = none := by
    refine lookup?_absent fun p there same => ?_
    have outside := (List.mem_filter.1 there).2
    rw [same] at outside
    simp [inside] at outside
  rw [State.sem, State.started_ctx, Core.sem, lookupD, sems]
  exact congrArg (fun o : Option Half => (o.getD 0).toNat) absent

/-! ## Darot translations -/

/-- The code of a new translation written at `pa`, and mapped for the VF where a place is found. -/
def State.darotGiven (s : State) (vf pa : Nat) (code : List Byte) : State :=
  (s.darotPlace vf code).elim (s.setBytes pa code) fun va => (s.setBytes pa code).mapDarot vf va pa code

/-- A VF whose new translation has a place gets a code object of its size there, under its next handle. -/
theorem State.vf_darotGiven {vf va : Nat} {code : List Byte} (place : s.darotPlace vf code = some va) (pa : Nat) :
    (s.darotGiven vf pa code).vf vf = (fun v : Vf => { v with
      images := assocSet v.newHandle { code := [(va, darotSize code)], tables := [] } v.images
      handle := v.newHandle, darots := v.darots ++ [(va, darotSize code, pa)] }) (s.vf vf) := by
  rw [State.darotGiven, place]
  exact State.vf_onVf_same (s.setBytes pa code) vf fun v => { v with
    images := assocSet (s.vf vf).newHandle { code := [(va, darotSize code)], tables := [] } v.images
    handle := (s.vf vf).newHandle, darots := v.darots ++ [(va, darotSize code, pa)] }

/-- A translation that the cache does not hold is made, and given to the VF. -/
theorem execDarotXTranslation_new {input : List Byte} {version : Nat} (vf : Nat)
    (new : (s.darot.any fun d => d.hash == sha384 input && d.version == version) = false) :
    ∃ t pa, execDarotXTranslation vf input version s = .next t ∧
      t.darot = s.darot ++ [{ hash := sha384 input, version := version, vfs := [vf], code := Config.darotCode input version }] ∧
      t.outbox = s.outbox ++ [.darot vf (Config.darotCode input version)] ∧
      t.vf vf = (s.darotGiven vf pa (Config.darotCode input version)).vf vf := by
  have cache : darotWith s.darot vf input version =
      s.darot ++ [{ hash := sha384 input, version := version, vfs := [vf], code := Config.darotCode input version }] := by
    rw [darotWith]
    exact if_neg (Bool.eq_false_iff.1 new)
  have found :
      (s.darot ++ [({ hash := sha384 input, version := version, vfs := [vf], code := Config.darotCode input version } : Darot)]).find?
      (fun d : Darot => d.hash == sha384 input && d.version == version) =
        some ({ hash := sha384 input, version := version, vfs := [vf], code := Config.darotCode input version } :
            Darot) := by
    have absent : s.darot.find? (fun d => d.hash == sha384 input && d.version == version) = none :=
      List.find?_eq_none.2 (List.any_eq_false.1 new)
    simp [List.find?_append, absent]
  have unhit : (s.darot.any fun d => (d.hash == sha384 input && d.version == version) && d.vfs.contains vf) = false :=
    List.any_eq_false.2 fun d there both => List.any_eq_false.1 new d there (Bool.and_eq_true_iff.1 both).1
  rw [execDarotXTranslation]
  simp only [cache, found, unhit, new, Bool.false_and, Bool.false_eq_true, if_false, Option.map_some, Option.getD_some]
  exact ⟨_, _, rfl, rfl, rfl, rfl⟩

end Sys2Proof.Machine

open Sys2Proof Sys2Proof.Machine

/-- Settles O49: a start record writes its slot, and the bindings made after it change nothing else of the context. -/
theorem startRecords : Obligations.StartRecords := by
  intro s vf n version b input img v r comes code
  refine ⟨fun comes main => ?_, fun comes eval none => ?_, fun new => ?_⟩
  · obtain ⟨t, ⟨⟨binds, ctx⟩, sems, hearths⟩, run⟩ := execStartRecordArrival_comes comes.1 comes.2
    rw [if_neg main] at run
    rw [State.started_ctx] at ctx
    refine ⟨t, run, ?_, ?_, ?_, ?_, ?_, ?_⟩
    · rw [ctx]; exact if_neg main
    · rw [ctx]; rfl
    · rw [ctx]; rfl
    · intro k low high
      rw [ctx]
      exact Start.ctx_arg r vf (setsOf img.sets n) img.descs low high
    · rw [ctx]; rfl
    · intro h inside
      rw [← s.started_sem vf n b img inside, State.sem, State.sem, ctx, State.started_ctx, Core.sem, Core.sem, sems]
  · obtain ⟨t, ⟨⟨binds, ctx⟩, sems, hearths⟩, run⟩ := execStartRecordArrival_comes comes.1 comes.2
    rw [if_pos eval, State.offerSlot_none (hearths.trans none)] at run
    rw [State.started_ctx] at ctx
    refine ⟨t, run, ?_⟩
    rw [ctx]
    exact if_pos eval
  · have mine : (s.darot.any fun d => d.hash == sha384 input && d.version == version) = false := by
      rw [List.any_eq_false]
      intro d there same
      obtain ⟨hash, number⟩ := Bool.and_eq_true_iff.1 same
      exact (new d there).elim (· (eq_of_beq hash)) (· (eq_of_beq number))
    obtain ⟨t, pa, run, cache, sent, given⟩ := execDarotXTranslation_new vf mine
    refine ⟨t, run, sent, cache, fun va place => ?_⟩
    have at_ := given.trans (State.vf_darotGiven place pa)
    refine ⟨⟨{ code := [(va, darotSize code)], tables := [] }, ?_, rfl⟩, pa, congrArg Vf.darots at_⟩
    rw [at_, lookup?_assocSet, if_pos rfl]
end
section
/-!
PROOFS. Intake ops on their ring (R385 to R388; O52).
-/
namespace Sys2Proof.Machine
open Sys2Proof

variable {s : State} {n x : Nat} {r : PortReq} {g : Ring}

/-- A quiet port has landing entries for any result. -/
theorem State.quiet.room (quiet : s.quiet n r) {k : Nat} (few : k ≤ 8) : (s.ctx n).landingRoom k = true := by
  obtain ⟨queue, list, state, mute, landings, lv0, lv1, stage, landing, -⟩ := quiet
  have reserves : r.reserves ≤ 16 := by
    unfold PortReq.reserves
    split
    · omega
    · split <;> omega
  simp [Ctx.landingRoom, Ctx.landingUsed, Ctx.landingReserved, Ctx.allDeferred, queue, list, landings, lv0, lv1, landing, sumOf]
  omega

/-- The answer to the only access of a quiet port. -/
theorem State.quiet.respond (quiet : s.quiet n r) (ws : List (Nat × Dword)) :
    (s.ctx n).respond { id := r.id, words := ws } = { s.ctx n with port := { (s.ctx n).port with
      queue := [], landings := [{ id := r.id, words := ws, wta := r.isWta }] } } := by
  have room := quiet.room (k := 1) (by omega)
  obtain ⟨queue, list, state, mute, landings, -⟩ := quiet
  have slots (w : Bool) : ({ id := r.id, words := ws, wta := w } : Landing).slots = 1 := rfl
  simp [Ctx.respond, queue, state, mute, landings, slots, room]

/-- An intake op whose port is otherwise quiet does what it does on its ring. -/
theorem State.onRing_quiet (quiet : s.quiet n r) (no : r.ringNo = some x) (ring : s.ring? (s.ctx n).id.vf x = some g)
    (k : PortReq → Nat → Ring → State → State) : s.onRing n r.id k = .next ((k r x g s).settlePort n) := by
  have earlier : (s.ctx n).before r = [] := by
    obtain ⟨queue, list, -⟩ := quiet
    simp [Ctx.before, queue, list]
  simp [State.onRing, quiet.entry, no, quiet.mayPerform, earlier, quiet.canFlush, quiet.flushCtx, ring]

/-- A ring stored. -/
theorem State.ring?_setRing (s : State) (vf x : Nat) (g : Ring) : (s.setRing vf x g).ring? vf x = some g := by
  simp [State.ring?, State.setRing, State.vf_onVf_same]

theorem State.ctx_setRing (s : State) (vf x : Nat) (g : Ring) (m : Nat) : (s.setRing vf x g).ctx m = s.ctx m := rfl

/-- `itake` at a quiet port. -/
theorem execItakePerform_quiet {h : Hdr} {f : Tri} (quiet : s.quiet n r) (work : r.work = .op (.itake h f))
    (ring : s.ring? (s.ctx n).id.vf (ringOf f) = some g) :
    execItakePerform n r.id s = .next (((s.setRing (s.ctx n).id.vf (ringOf f) g.take.1).onCtx n fun c =>
      if g.take.2.2 then (c.respond { id := r.id, words := [(r.dest, BitVec.ofNat 64 g.take.2.1)] }).setAcquired
      else c.respond { id := r.id, words := [(r.dest, BitVec.ofNat 64 g.take.2.1)] }).settlePort n) := by
  refine (State.onRing_quiet quiet (by rw [PortReq.ringNo, work]) ring _).trans ?_
  simp only [work]

/-- `igive` at a quiet port. -/
theorem execIgivePerform_quiet {h : Hdr} {f : Tri} (quiet : s.quiet n r) (work : r.work = .op (.igive h f))
    (ring : s.ring? (s.ctx n).id.vf (ringOf f) = some g) :
    execIgivePerform n r.id s = .next (((g.give r.addr).elim (s.portFault n r.id ⟨.perm, 0x41⟩) fun g' =>
      (s.setRing (s.ctx n).id.vf (ringOf f) g').onCtx n fun c =>
        { c with port := { c.port with queue := c.port.queue.filter fun q => q.id != r.id } }.completeSignal r.sig).settlePort n) := by
  refine (State.onRing_quiet quiet (by rw [PortReq.ringNo, work]) ring _).trans ?_
  simp only [work]
  cases g.give r.addr <;> rfl

/-- `istat` at a quiet port. -/
theorem execIstatPerform_quiet {h : Hdr} {f : Tri} (quiet : s.quiet n r) (work : r.work = .op (.istat h f))
    (ring : s.ring? (s.ctx n).id.vf (ringOf f) = some g) :
    execIstatPerform n r.id s = .next ((s.onCtx n fun c => c.respond
      { id := r.id, words := [(r.dest, BitVec.ofNat 64 (g.stat (f.imm.extractLsb' 8 5).toNat))] }).settlePort n) := by
  refine (State.onRing_quiet quiet (by rw [PortReq.ringNo, work]) ring _).trans ?_
  simp only [work]

end Sys2Proof.Machine

open Sys2Proof Sys2Proof.Machine

/-- Settles O52: a quiet port lets the op act on its ring, and then has nothing to settle. -/
theorem intakeOpsPerform : Obligations.IntakeOpsPerform := by
  intro s n r g h f quiet vf ring
  have heard : (s.ctx n).life.mute = false := quiet.2.2.2.1
  have only : (s.ctx n).port.queue = [r] := quiet.1
  refine ⟨fun work => ?_, fun work => ⟨fun g' gives => ?_, fun none => ?_⟩, fun work => ?_⟩
  · have dest : r.dest = f.d.toNat := by rw [PortReq.dest, work]; rfl
    have run := execItakePerform_quiet quiet work ring
    rw [dest] at run
    have after : ((s.setRing (s.ctx n).id.vf (ringOf f) g.take.1).onCtx n fun c =>
        if g.take.2.2 then (c.respond { id := r.id, words := [(f.d.toNat, BitVec.ofNat 64 g.take.2.1)] }).setAcquired
        else c.respond { id := r.id, words := [(f.d.toNat, BitVec.ofNat 64 g.take.2.1)] }).ctx n = _ := State.ctx_onCtx_same ..
    rw [State.ctx_setRing, quiet.respond] at after
    rw [State.settlePort_empty (by rw [after]; split <;> rfl)] at run
    refine ⟨_, run, State.ring?_setRing .., ?_⟩
    unfold State.answered
    rw [after]
    split <;> exact ⟨rfl, rfl, rfl⟩
  · have run := execIgivePerform_quiet quiet work ring
    rw [gives] at run
    have after : (((s.setRing (s.ctx n).id.vf (ringOf f) g').onCtx n fun c =>
        { c with port := { c.port with queue := c.port.queue.filter fun q => q.id != r.id } }.completeSignal r.sig).ctx n).port.queue = [] := by
      rw [State.ctx_onCtx_same, State.ctx_setRing]
      exact Ctx.completeSignal_empty (by simp [only]) _
    rw [Option.elim_some, State.settlePort_empty after] at run
    exact ⟨_, run, State.ring?_setRing .., after⟩
  · have run := execIgivePerform_quiet quiet work ring
    have fault : (s.portFault n r.id ⟨.perm, 0x41⟩).faults n r ⟨.perm, 0x41⟩ := State.portFault_faults only rfl heard _
    have idle : ∀ q ∈ ((s.portFault n r.id ⟨.perm, 0x41⟩).ctx n).port.queue, q.fence? = .none := by
      simp [State.portFault, heard, Port.change, only, PortReq.fence?, work]
    rw [none, Option.elim_none, State.settlePort_eq idle] at run
    exact ⟨_, run, fault, ring⟩
  · have dest : r.dest = f.d.toNat := by rw [PortReq.dest, work]; rfl
    have run := execIstatPerform_quiet quiet work ring
    have after := State.ctx_onCtx_same s n fun c =>
      c.respond { id := r.id, words := [(r.dest, BitVec.ofNat 64 (g.stat (f.imm.extractLsb' 8 5).toNat))] }
    rw [quiet.respond, dest] at after
    rw [dest, State.settlePort_empty (by rw [after])] at run
    refine ⟨_, run, ring, ?_⟩
    unfold State.answered
    rw [after]
    exact ⟨rfl, rfl, rfl⟩
end
section
/-!
PROOFS. The op that the array performs (R277, R287 to R298; O57).
-/
namespace Sys2Proof.Machine
open Sys2Proof

variable {s t : State} {n : Nat} {q : ArrayOp} {rest : List ArrayOp} {c d e : Ctx}

/-! ## What an array op leaves of its context -/

/-- `d` is `c` with the same array queue, port and life. -/
structure Ctx.Computes (c d : Ctx) : Prop where
  queue : d.mat.queue = c.mat.queue
  port  : d.port = c.port
  life  : d.life = c.life

theorem Ctx.Computes.refl (c : Ctx) : c.Computes c := ⟨rfl, rfl, rfl⟩

theorem Ctx.Computes.trans (first : c.Computes d) (then_ : d.Computes e) : c.Computes e :=
  ⟨then_.queue.trans first.queue, then_.port.trans first.port, then_.life.trans first.life⟩

theorem Ctx.Computes.foldl {α : Type} {f : Ctx → α → Ctx} (each : ∀ (c : Ctx) a, c.Computes (f c a)) (l : List α) (c : Ctx) :
    c.Computes (l.foldl f c) :=
  List.foldlRecOn (motive := fun d : Ctx => c.Computes d) l f (.refl c) fun d same a _ => same.trans (each d a)

theorem Ctx.computes_setTileBytes (c : Ctx) (t : Nat) (ws : List (Nat × Byte)) : c.Computes (c.setTileBytes t ws) :=
  .foldl (f := fun c w => c.setTileByte t w) (fun _ _ => ⟨rfl, rfl, rfl⟩) ws c

theorem Ctx.computes_setTileRows (c : Ctx) (t : Nat) (x : BitVec 27) (rows : List (List Nat)) : c.Computes
    (c.setTileRows t x rows) :=
  c.computes_setTileBytes ..

theorem Ctx.computes_setLanes (c : Ctx) (v : Nat) (ws : List LaneWrite) : c.Computes (c.setLanes v ws) :=
  .foldl (f := fun c w => c.setLane v w) (fun _ _ => ⟨rfl, rfl, rfl⟩) ws c

theorem Ctx.computes_setCell (c : Ctx) (a r k : Nat) (v : BitVec 96) : c.Computes (c.setCell a r k v) := ⟨rfl, rfl, rfl⟩

theorem Ctx.computes_setStat (c : Ctx) (a : Nat) (x : AccStatus) : c.Computes (c.setStat a x) := by
  refine ⟨?_, rfl, rfl⟩
  unfold Ctx.setStat MatSt.setStat
  split <;> rfl

theorem Ctx.computes_clearCells (c : Ctx) (a : Nat) : c.Computes (c.clearCells a) := by
  refine ⟨?_, rfl, rfl⟩
  simp only [Ctx.clearCells, MatSt.setStat]
  split <;> rfl

theorem Ctx.computes_stickAcc (c : Ctx) (a : Nat) (nanin malf ovf : Bool) : c.Computes (c.stickAcc a nanin malf ovf) := by
  unfold Ctx.stickAcc
  have set := c.computes_setStat a { c.mat.stat a with
    nanin := (c.mat.stat a).nanin || nanin, malf := (c.mat.stat a).malf || malf, ovf := (c.mat.stat a).ovf || ovf }
  split
  · exact set.trans ⟨rfl, rfl, rfl⟩
  · exact set

theorem Ctx.Computes.ite {p : Prop} [Decidable p] (yes : c.Computes d) (no : c.Computes e) : c.Computes
    (if p then d else e) := by
  split
  · exact yes
  · exact no

/-- A clear that an op's form may ask for. -/
theorem Ctx.Computes.clearing (same : c.Computes d) (b : Bool) (a : Nat) : c.Computes (if b then d.clearCells a else d) :=
  .ite (same.trans (d.computes_clearCells a)) same

theorem Ctx.Computes.orFp (same : c.Computes d) (fl : FpFlags) : c.Computes (d.orFp fl) := same.trans ⟨rfl, rfl, rfl⟩
theorem Ctx.Computes.blockDamage (same : c.Computes d) (bs : List QBlock) : c.Computes (d.blockDamage bs)
    := same.trans ⟨rfl, rfl, rfl⟩

theorem Ctx.computes_exactMma (c : Ctx) (t d depth : Nat) (q : ArrayOp) (ra rb : List (List Nat)) :
    c.Computes (c.exactMma t d depth q ra rb) := by
  unfold Ctx.exactMma
  exact (Ctx.Computes.foldl (fun e (x : Nat × Nat × Int × Bool) => e.computes_setCell d x.1 x.2.1
      (BitVec.ofInt 96 x.2.2.1)) _ c).trans (Ctx.computes_stickAcc ..)

theorem Ctx.computes_floatMma (c : Ctx) (t d depth : Nat) (q : ArrayOp) (ra rb : List (List Nat)) :
    c.Computes (c.floatMma t d depth q ra rb) := by
  unfold Ctx.floatMma
  exact .foldl (fun e (x : Nat × Nat × Nat) => e.computes_setCell d x.1 x.2.1 (BitVec.ofNat 96 x.2.2)) _ c

theorem Ctx.computes_performMultiply (c : Ctx) (q : ArrayOp) (h : Hdr) (f : Mat) (clear : Bool) :
    c.Computes (c.performMultiply q h f clear) := by
  unfold Ctx.performMultiply
  have before := (Ctx.Computes.refl c).clearing clear f.d.toNat
  dsimp only
  generalize (if clear then c.clearCells f.d.toNat else c) = d at before ⊢
  split
  · exact before.trans (d.computes_exactMma ..)
  · exact before.trans (d.computes_floatMma ..)

theorem Ctx.computes_performMacc (c : Ctx) (q : ArrayOp) (f : Tri) : c.Computes (c.performMacc q f) := by
  unfold Ctx.performMacc
  have sums (l : List (Nat × Nat × BitVec 96 × Bool)) (nanin malf ovf : Bool) : c.Computes
      ((if q.statA.tag = 0 then c else l.foldl (fun c x => c.setCell f.d.toNat x.1 x.2.1 x.2.2.1)
          c).stickAcc f.d.toNat nanin malf ovf) :=
    (Ctx.Computes.ite (.refl c) (.foldl (fun e x => e.computes_setCell f.d.toNat x.1 x.2.1 x.2.2.1) l c)).trans
      (Ctx.computes_stickAcc ..)
  exact .ite (sums ..) ((sums ..).trans ⟨rfl, rfl, rfl⟩)

theorem Ctx.computes_performMrdTile (c : Ctx) (q : ArrayOp) (h : Hdr) (f : Tri) : c.Computes (c.performMrdTile q h f) := by
  unfold Ctx.performMrdTile
  refine Ctx.Computes.clearing ?_ _ _
  split
  · exact ((Ctx.computes_setTileRows ..).trans (Ctx.computes_setLanes ..)).blockDamage _
  · exact (Ctx.computes_setTileRows ..).orFp _

theorem Ctx.computes_performMrdVector (c : Ctx) (q : ArrayOp) (h : Hdr) (f : Tri) : c.Computes (c.performMrdVector q h f) :=
  ((Ctx.computes_setLanes ..).orFp _).clearing _ _

theorem Ctx.computes_performTmov (c : Ctx) (q : ArrayOp) (f : Tri) : c.Computes (c.performTmov q f) := by
  unfold Ctx.performTmov
  dsimp only
  split
  · exact Ctx.computes_setTileRows ..
  · exact (Ctx.computes_setTileRows ..).orFp _

theorem Ctx.computes_performTq4x (c : Ctx) (q : ArrayOp) (f : Tri) : c.Computes (c.performTq4x q f) := by
  unfold Ctx.performTq4x
  dsimp only
  split
  · exact (Ctx.computes_setTileRows ..).orFp _
  · exact ((Ctx.computes_setTileRows ..).trans (Ctx.computes_setLanes ..)).blockDamage _

/-- An array op computes. -/
theorem Ctx.computes_performArray (c : Ctx) (q : ArrayOp) : c.Computes (c.performArray q) := by
  unfold Ctx.performArray
  split
  · exact c.computes_performMultiply ..
  · exact c.computes_performMultiply ..
  · exact c.computes_performMacc ..
  · exact c.computes_clearCells _
  · refine ⟨?_, ?_, ?_⟩ <;> (unfold Ctx.setS; split <;> rfl)
  · exact c.computes_performMrdTile ..
  · exact c.computes_performMrdVector ..
  · exact c.computes_setTileBytes ..
  · exact c.computes_setTileRows ..
  · exact c.computes_performTmov ..
  · exact c.computes_setTileRows ..
  · exact c.computes_performTq4x ..
  · exact .refl c

/-- So does a `tsts`. -/
theorem State.computes_performTsts (s : State) (n : Nat) (q : ArrayOp) (f : Tri) : (s.ctx n).Computes
    ((s.performTsts n q f).ctx n) := by
  unfold State.performTsts
  dsimp only
  generalize (if q.level then (s.ctx n).lv1 else (s.ctx n).lv0) = l
  split
  · rw [State.ctx_onCtx_same]
    split <;> exact ⟨rfl, rfl, rfl⟩
  · rw [State.ctx_onCtx_same, State.ctx_setSpBytes]
    unfold Ctx.patchUnder
    dsimp only
    split <;> exact ⟨rfl, rfl, rfl⟩

/-! ## The tile writes of an ended context -/

/-- A signal completed once stays so. -/
theorem Ctx.completeSignal_done {g : PortReq} (done : g.stage = .pending) (only : c.port.queue = [g]) (sig : Option Nat) :
    (c.completeSignal sig).port.queue = [g] := by
  have same : { g with stage := .pending } = g := by rw [← done]
  cases sig with
  | none => exact only
  | some k => simp [Ctx.completeSignal, Port.change, only, same]

/-- They leave the queue, the cells and the registers, and a signal that has completed. -/
theorem Ctx.landTiles_keeps (c : Ctx) : c.landTiles.mat.queue = c.mat.queue ∧ c.landTiles.mat.acc = c.mat.acc ∧
    c.landTiles.regs = c.regs ∧
    ∀ g : PortReq, g.stage = .pending → c.port.queue = [g] → c.landTiles.port.queue = [g] := by
  unfold Ctx.landTiles
  refine List.foldlRecOn (motive := fun d : Ctx => d.mat.queue = c.mat.queue ∧ d.mat.acc = c.mat.acc ∧ d.regs = c.regs ∧
    ∀ g : PortReq, g.stage = .pending → c.port.queue = [g] → d.port.queue = [g]) _ _ ⟨rfl, rfl, rfl, fun _ _ only => only⟩
    fun d ⟨queue, acc, regs, port⟩ x _ => ?_
  split
  next t ws _ =>
    obtain ⟨queue', port', -⟩ := d.computes_setTileBytes t ws
    refine ⟨?_, ?_, ?_, fun g done only => ?_⟩
    · rw [Ctx.mat_completeSignal, queue', queue]
    · rw [Ctx.mat_completeSignal, Ctx.acc_setTileBytes, acc]
    · rw [Ctx.regs_completeSignal, Ctx.regs_setTileBytes, regs]
    · refine Ctx.completeSignal_done done ?_ x.sig
      rw [port', port g done only]
  next => exact ⟨queue, acc, regs, port⟩

/-- They leave the context of a state as it was in all of that. -/
theorem State.landTiles_keeps (s : State) (n : Nat) : ((s.landTiles n).ctx n).mat.queue = (s.ctx n).mat.queue ∧
    ((s.landTiles n).ctx n).mat.acc = (s.ctx n).mat.acc ∧ ((s.landTiles n).ctx n).regs = (s.ctx n).regs ∧
    ∀ g : PortReq, g.stage = .pending → (s.ctx n).port.queue = [g] → ((s.landTiles n).ctx n).port.queue = [g] := by
  unfold State.landTiles
  split
  · rw [State.ctx_onCtx_same]
    exact (s.ctx n).landTiles_keeps
  · exact ⟨rfl, rfl, rfl, fun _ _ only => only⟩

/-! ## Cells cleared and a tile filled -/

/-- A cell of a cleared accumulator. -/
theorem Ctx.cell_clearCells (c : Ctx) {a r k : Nat} (hr : r < 64) (hk : k < 64) : (c.clearCells a).cell a r k = 0 := by
  have absent : lookup? (4096 * a + 64 * r + k) (c.mat.acc.filter fun p => p.1 / 4096 != a) = none := by
    refine lookup?_absent fun p there same => ?_
    have other := (List.mem_filter.1 there).2
    rw [same] at other
    simp at other
    omega
  have acc : (c.clearCells a).mat.acc = c.mat.acc.filter fun p => p.1 / 4096 != a := by
    simp only [Ctx.clearCells, MatSt.setStat]
    split <;> rfl
  rw [Ctx.cell, acc, lookupD, absent]
  rfl

/-- A tile over which one value is written holds it at every offset written. -/
theorem Ctx.tileByte_setTileBytes_const {i o : Nat} {v : Byte} (ws : List (Nat × Byte)) (const : ∀ w ∈ ws, w.2 = v) (c : Ctx)
    (covers : o ∈ ws.map (·.1) ∨ c.tileByte i o = v) : (c.setTileBytes i ws).tileByte i o = v := by
  induction ws generalizing c with
  | nil => exact covers.resolve_left List.not_mem_nil
  | cons w ws ih =>
    refine ih (fun x there => const x (List.mem_cons_of_mem w there)) (c.setTileByte i w) ?_
    have key : 8192 * i + o = 8192 * i + w.1 ↔ o = w.1 := by omega
    have byte : (c.setTileByte i w).tileByte i o = if o = w.1 then w.2 else c.tileByte i o := by
      simp only [Ctx.setTileByte, Ctx.tileByte, lookupD_sparseSet, key]
    rw [byte]
    by_cases here : o = w.1
    · exact .inr (by rw [if_pos here]; exact const w List.mem_cons_self)
    · rw [if_neg here]
      exact covers.imp_left fun there => (List.mem_cons.1 there).resolve_left here

/-- A tile of 8-bit elements filled with one value. -/
theorem Ctx.tileByte_setTileRows_fill {x : BitVec 27} (width : Ty.width (tctlType x) = 8) (c : Ctx)
    {i fill rows cols o : Nat}
    (inside : o < rows * cols) : (c.setTileRows i x (List.replicate rows
      (List.replicate cols (fill % 2 ^ Ty.width (tctlType x))))).tileByte i o = BitVec.ofNat 8 fill := by
  have row : rowPack 8 (List.replicate cols (fill % 2 ^ 8)) = List.replicate cols (BitVec.ofNat 8 fill) := by
    rw [rowPack, if_neg (by decide), List.flatMap_replicate]
    simp [natBytes]
    exact .inr (BitVec.eq_of_toNat_eq (by simp))
  have bytes : (List.replicate rows (List.replicate cols (fill % 2 ^ 8))).flatMap (rowPack 8) =
      List.replicate (rows * cols) (BitVec.ofNat 8 fill) := by
    rw [List.flatMap_replicate, row, List.flatten_replicate_replicate]
  rw [Ctx.setTileRows, width, bytes]
  refine Ctx.tileByte_setTileBytes_const _ (fun w there => List.eq_of_mem_replicate (List.of_mem_zip there).2) c (.inl ?_)
  rw [List.map_fst_zip (by simp)]
  simpa using inside

/-! ## The turn of an op -/

/-- A context whose array queue has gone on to `rest`. -/
def Ctx.served (c : Ctx) (rest : List ArrayOp) : Ctx := { c with mat := { c.mat with queue := rest } }

/-- The op at the head of a queue, once it is its turn and it reads no error. -/
theorem execArrayOpPerform_served (queue : (s.ctx n).mat.queue = q :: rest) (served : s.isServed n q = true) (good :
    q.bad = false)
    (clean : ∀ k ∈ (s.ctx n).mat.bad, q.isRead k = false) :
    ∃ t : State, execArrayOpPerform n s = .next ((t.onCtx n fun c => c.completeSignal q.sig).landTiles n) ∧ t.mem = s.mem ∧
      ((s.ctx n).served rest).Computes (t.ctx n) ∧
      ((∀ h f, q.op ≠ .tsts h f) → t.ctx n = ((s.ctx n).served rest).performArray q) := by
  have here : (s.onCtx n fun c => { c with mat := { c.mat with queue := rest } }).ctx n =
      (s.ctx n).served rest := State.ctx_onCtx_same ..
  have unread : (q.bad || ((s.onCtx n fun c => { c with mat := { c.mat with queue := rest } }).ctx n).mat.bad.any q.isRead) = false := by
    rw [here, good]
    simpa [Ctx.served] using clean
  unfold execArrayOpPerform
  rw [queue]
  simp only [served, unread, Bool.not_true, Bool.false_eq_true, if_false]
  refine ⟨_, rfl, ?_, ?_, fun plain => ?_⟩
  · split
    · rw [State.mem_performTsts]; rfl
    · rfl
  · split
    · rw [← here]
      exact State.computes_performTsts ..
    · rw [State.ctx_onCtx_same, here]
      exact Ctx.computes_performArray ..
  · split
    next h f op => exact absurd op (plain h f)
    · rw [State.ctx_onCtx_same, here]

end Sys2Proof.Machine

open Sys2Proof Sys2Proof.Machine

/-- Settles O57: the op at the head of the queue computes, and its ended context's tile writes leave what it computed. -/
theorem arrayPerforms : Obligations.ArrayPerforms := by
  intro s n q rest h f queue
  refine ⟨fun waits => ?_, fun runs first good clean => ?_⟩
  · have unserved : s.isServed n q = false := by
      obtain held | ⟨m, slot, free, x, queued, first⟩ := waits
      · simp [State.isServed, held]
      · have later : (s.ctx m).mat.queue.all (fun x => decide (q.order ≤ x.order)) = false :=
          List.all_eq_false.2 ⟨x, queued, by simpa using first⟩
        have none : ((slotsOf (coreOf n)).all fun m => (s.ctx m).holdsLoad || (s.ctx m).mat.queue.all
            fun x => q.order ≤ x.order) = false :=
          List.all_eq_false.2 ⟨m, slot, by simp [free, later]⟩
        rw [State.isServed, none, Bool.and_false]
    show execArrayOpPerform n s = _
    rw [execArrayOpPerform, queue]
    simp [unserved]
  · have served : s.isServed n q = true := by
      rw [State.isServed, runs, Bool.not_false, Bool.true_and, List.all_eq_true]
      intro m slot
      obtain held | early := first m slot
      · rw [held, Bool.true_or]
      · rw [List.all_eq_true.2 fun x queued => decide_eq_true (early x queued), Bool.or_true]
    obtain ⟨t, run, mem, ⟨queue', port, life⟩, computed⟩ := execArrayOpPerform_served queue served good clean
    have after : (t.onCtx n fun c => c.completeSignal q.sig).ctx n =
        (t.ctx n).completeSignal q.sig := State.ctx_onCtx_same ..
    obtain ⟨kept, acc, regs, signal⟩ := (t.onCtx n fun c => c.completeSignal q.sig).landTiles_keeps n
    rw [after] at kept acc regs signal
    rw [Ctx.mat_completeSignal] at kept acc
    rw [Ctx.regs_completeSignal] at regs
    have plainOp {i : Instr} (op : q.op = i) (other : ∀ h f, i ≠ .tsts h f) : ∀ h f, q.op ≠ .tsts h f := by rwa [op]
    refine ⟨⟨_, run, kept.trans queue', ?_, fun g only sig => ?_⟩, fun op => ⟨_, run, fun r k hr hk => ?_⟩,
        fun op width alive => ⟨_, run, fun o ho => ?_⟩,
      fun op dest => ⟨_, run, ?_⟩⟩
    · refine State.sameMemory_of_mem ?_
      rw [State.mem_landTiles]
      exact mem
    · refine signal _ rfl ?_
      simp [Ctx.completeSignal, sig, Port.change, port, Ctx.served, only]
    · rw [Ctx.cell, acc, computed (plainOp op nofun), Ctx.performArray, op]
      exact Ctx.cell_clearCells _ hr hk
    · have plain : (t.onCtx n fun c => c.completeSignal q.sig).landTiles n = t.onCtx n fun c => c.completeSignal q.sig := by
        rw [State.landTiles, after, Ctx.life_completeSignal, life]
        exact if_neg alive
      rw [plain, after, Ctx.tileByte, Ctx.mat_completeSignal, computed (plainOp op nofun),
        Ctx.performArray, op]
      exact Ctx.tileByte_setTileRows_fill width _ ho
    · rw [Ctx.s, regs, computed (plainOp op nofun), Ctx.performArray, op]
      exact (Ctx.s_setS ..).trans (by rw [if_pos rfl, if_neg dest]; rfl)
end
section
/-!
PROOFS. The coordinator of an envelope (R413, R421, R424, R426; O50).
-/
namespace Sys2Proof.Machine
open Sys2Proof

variable {s t : State} {n : Nat}

/-- What the envelope unit and the routes go by: the device, the links, the coordinator records and the packets. -/
def State.fabric (s : State) : (Nat × Nat × Nat × List (Nat × Nat)) × Assoc Link × List Coord × Assoc Packet :=
  ((s.fabxy, s.fabCols, s.fabRows, s.broken), s.links, s.coords, s.packets)

@[simp] theorem State.fabric_onCtx (s : State) (n : Nat) (f : Ctx → Ctx) : (s.onCtx n f).fabric = s.fabric := rfl
@[simp] theorem State.fabric_onCore (s : State) (n : Nat) (f : Core → Core) : (s.onCore n f).fabric = s.fabric := rfl
@[simp] theorem State.fabric_onJob (s : State) (n : Nat) (f : Job → Job) : (s.onJob n f).fabric = s.fabric := rfl
@[simp] theorem State.fabric_ite (c : Prop) [Decidable c] (a b : State) :
    (if c then a else b).fabric = if c then a.fabric else b.fabric :=
  apply_ite ..
@[simp] theorem State.fabric_foldl {α : Type} {f : State → α → State} (keep : ∀ s a, (f s a).fabric = s.fabric) (l :
    List α) (s : State) :
    (l.foldl f s).fabric = s.fabric :=
  List.foldlRecOn (motive := fun t : State => t.fabric = s.fabric) l f rfl fun t same a _ => (keep t a).trans same

@[simp] theorem State.fabric_visit (s : State) (vf : Nat) (va : Option Nat) (pa : Nat) (hint : BitVec 2) :
    (s.visit vf va pa hint).fabric = s.fabric := (rfl)

@[simp] theorem State.fabric_wakeLines (s : State) (hit : Nat → Bool) :
    (s.wakeLines hit).fabric = s.fabric := (rfl)

@[simp] theorem State.fabric_homeWrite (s : State) (pa : Nat) (bs : List Byte) :
    (s.homeWrite pa bs).fabric = s.fabric := by
  unfold State.homeWrite
  split <;> rfl

@[simp] theorem State.fabric_writeBack (s : State) (core : Nat) (l : L1Line) :
    (s.writeBack core l).fabric = s.fabric := by
  unfold State.writeBack
  split <;> rfl

@[simp] theorem State.fabric_writeBackIf (s : State) (core : Nat) (q : L1Line → Bool) :
    (s.writeBackIf core q).fabric = s.fabric := by
  simp [State.writeBackIf]

@[simp] theorem State.fabric_flushCtx (s : State) (n : Nat) :
    (s.flushCtx n).fabric = s.fabric := by
  simp [State.flushCtx]

@[simp] theorem State.fabric_addPending (s : State) (n : Nat) (p : Pending) :
    (s.addPending n p).fabric = s.fabric := by
  unfold State.addPending
  split <;> rfl

@[simp] theorem State.fabric_setOutcome (s : State) (eid st cause : Nat) : (s.setOutcome eid st cause).fabric = s.fabric :=
  State.fabric_foldl (f := fun s (p : Nat × Ctx) => s.addPending p.1 (.envelope eid st cause))
      (fun _ _ => State.fabric_addPending ..) _ s

@[simp] theorem State.fabric_setSem (s : State) (n h v : Nat) :
    (s.setSem n h v).fabric = s.fabric := (rfl)

@[simp] theorem State.fabric_addSem (s : State) (n h v : Nat) :
    (s.addSem n h v).fabric = s.fabric := (rfl)

@[simp] theorem State.fabric_raiseSem (s : State) (n h v : Nat) :
    (s.raiseSem n h v).fabric = s.fabric := by
  simp [State.raiseSem]

@[simp] theorem State.fabric_completionIncrement (s : State) (j : Job) :
    (s.completionIncrement j).fabric = s.fabric := by
  simp [State.completionIncrement]

@[simp] theorem State.fabric_fireSignal (s : State) (n : Nat) (sig : Option Nat) :
    (s.fireSignal n sig).fabric = s.fabric := by
  unfold State.fireSignal
  dsimp only
  (repeat' split) <;> simp

@[simp] theorem State.fabric_completeJob (s : State) (j : Job) : (s.completeJob j).fabric = s.fabric := by
  have owed : ∀ t : State, t.fabric = s.fabric → (if j.orphan then t
      else if (t.ctx j.ctx).life.state = .saved then
        (t.addPending j.ctx (.damage j.damage.1 j.damage.2.1 j.damage.2.2)).addPending j.ctx
          (.jobDone j.id (if !s.jobs.any fun k => k.group == j.group && k.id != j.id then j.sig else none))
      else (t.onCtx j.ctx fun c => c.addDamage j.damage.1 j.damage.2.1 j.damage.2.2).fireSignal j.ctx
        (if !s.jobs.any fun k => k.group == j.group && k.id != j.id then j.sig else none)).fabric = s.fabric :=
            fun t same => by
    split
    · exact same
    · split <;> simp [same]
  exact owed (s.completionIncrement j) (State.fabric_completionIncrement s j)

@[simp] theorem State.fabric_subBytes (s : State) (j : Job) (n : Nat) :
    (s.subBytes j n).fabric = s.fabric := by
  simp [State.subBytes]

@[simp] theorem State.fabric_dropSealed (s : State) (eid : Nat) :
    (s.dropSealed eid).fabric = s.fabric := by
  simp [State.dropSealed]

/-! ## What a coordinator decides and sends -/

/-- A packet with the message is on its way to the device. -/
def State.Sends (s : State) (d : Nat) (m : Msg) : Prop := ∃ p ∈ s.packets, p.2.dst = d ∧ p.2.msg = m

/-- Packets sent to each device of a list: the records and contexts stand. -/
theorem State.sends_foldl (g : Nat → Msg) (ds : List Nat) (s : State) :
    (ds.foldl (fun s d => s.send d (g d)) s).coords = s.coords ∧ (∀ n, (ds.foldl (fun s d => s.send d (g d))
        s).ctx n = s.ctx n) ∧
      (∀ d m, s.Sends d m → (ds.foldl (fun s d => s.send d (g d)) s).Sends d m) ∧
        ∀ d ∈ ds, (ds.foldl (fun s d => s.send d (g d)) s).Sends d (g d) := by
  induction ds generalizing s with
  | nil => exact ⟨rfl, fun _ => rfl, fun _ _ h => h, fun _ there => absurd there List.not_mem_nil⟩
  | cons a ds ih =>
    obtain ⟨coords, ctx, kept, sent⟩ := ih (s.send a (g a))
    refine ⟨coords, ctx, fun d m ⟨p, there, told⟩ => kept d m ⟨p, List.mem_append_left _ there, told⟩, fun d there => ?_⟩
    obtain rfl | there := List.mem_cons.1 there
    · exact kept d (g d) ⟨_, List.mem_append_right _ List.mem_cons_self, rfl, rfl⟩
    · exact sent d there

/-- The only coordinator record, found by its number. -/
theorem State.coord_only {c : Coord} (only : s.coords = [c]) : s.coord c.eid = some c := by simp [State.coord, only]

/-- A change of the only record. -/
theorem State.onCoord_only {c : Coord} (only : s.coords = [c]) (f : Coord → Coord) : (s.onCoord c.eid f).coords = [f c] := by
  simp [State.onCoord, only]

theorem State.coords_of_fabric (same : t.fabric = s.fabric) : t.coords = s.coords := congrArg (fun x => x.2.2.1) same
theorem State.packets_of_fabric (same : t.fabric = s.fabric) : t.packets = s.packets := congrArg (fun x => x.2.2.2) same

/-- A decision is recorded, and sent to every device of the mask. -/
theorem State.decideEnvelope_decides {c : Coord} (only : s.coords = [c]) (open_ : c.decision = none) (cause : Nat) :
    (s.decideEnvelope c.eid cause).coords = [{ c with decision := some cause }] ∧
      ∀ d ∈ maskDevices c.mask, (s.decideEnvelope c.eid cause).Sends d (decisionMsg c.eid cause) := by
  have found : (s.coords.find? fun x => x.eid == c.eid) = some c := State.coord_only only
  let u := (s.setOutcome c.eid (if cause = 0 then 3 else 4) cause).onCoord c.eid fun c => { c with decision := some cause }
  let v := (maskDevices c.mask).foldl (fun s d => s.send d (decisionMsg c.eid cause)) u
  have recorded : u.coords = [{ c with decision := some cause }] :=
    State.onCoord_only ((State.coords_of_fabric (State.fabric_setOutcome ..)).trans only) _
  obtain ⟨coords, -, -, sent⟩ := State.sends_foldl (fun _ => decisionMsg c.eid cause) (maskDevices c.mask) u
  have after : (s.decideEnvelope c.eid cause).fabric = v.fabric := by
    unfold State.decideEnvelope
    rw [found]
    simp only [open_, Option.isSome_none, Bool.false_eq_true, if_false]
    have dropped : (if cause = 0 then v else v.dropSealed c.eid).fabric = v.fabric := by
      split
      · rfl
      · exact State.fabric_dropSealed ..
    split <;> exact dropped
  refine ⟨(State.coords_of_fabric after).trans (coords.trans recorded), fun d there => ?_⟩
  rw [State.Sends, State.packets_of_fabric after]
  exact sent d there

/-- A record that is not over is not reaped. -/
theorem State.reapCoord_idle (idle : ∀ c ∈ s.coords, c.isOver = false) : s.reapCoord = s := by
  have none : s.coords.filter Coord.isOver = [] := List.filter_eq_nil_iff.2 fun c there => by simp [idle c there]
  have all : s.coords.filter (fun c => !c.isOver) = s.coords := List.filter_eq_self.2 fun c there => by simp [idle c there]
  have nobody (o : Option Nat) : o.any ([] : List Nat).contains = false := by cases o <;> rfl
  unfold State.reapCoord
  rw [none, all]
  simp only [List.map_nil, List.contains_nil, nobody, Bool.not_false, List.filter_true]

/-- An undecided record is not over. -/
theorem Coord.isOver_open {c : Coord} (open_ : c.decision = none) : c.isOver = false := by simp [Coord.isOver, open_]

/-- A packet for this device is taken. -/
theorem State.takePacket_here {id : Nat} {p : Packet} (there : s.packet id = some p) (here : p.dst = s.fabxy) (k :
    Packet → State → State) :
    s.takePacket id k = .next (k p (s.dropPacket id)) := by
  simp [State.takePacket, there, here]

/-- A context without an entry of its port. -/
def Ctx.without (c : Ctx) (id : Nat) : Ctx := { c with port := { c.port with queue := c.port.queue.filter fun q => q.id != id } }

/-! ## Flushes -/

/-- A write at a home agent only takes waits off a port. -/
theorem State.queue_homeWrite (s : State) (pa : Nat) (bs : List Byte) (n : Nat) :
    ((s.homeWrite pa bs).ctx n).port.queue.Sublist (s.ctx n).port.queue := by
  unfold State.homeWrite
  split
  · exact .refl _
  · exact Eq.mpr (congrArg (fun c : Ctx => c.port.queue.Sublist (s.ctx n).port.queue)
      (State.ctx_mapCtxs (g := fun c => c.wakeWta _ _) rfl _ n)) (Ctx.wakeWta_sublist ..)

/-- A flush only takes waits off a port. -/
theorem State.queue_flushCtx (s : State) (m n : Nat) : ((s.flushCtx m).ctx n).port.queue.Sublist (s.ctx n).port.queue := by
  refine List.foldlRecOn (motive := fun t : State => (t.ctx n).port.queue.Sublist (s.ctx n).port.queue) _ _ (.refl _)
    fun t sub l _ => List.Sublist.trans ?_ sub
  unfold State.writeBack
  split
  · exact .refl _
  · exact State.queue_homeWrite ..

/-- Whether a device can be reached depends on the grid and the links. -/
theorem State.reachable_congr (grid : (t.fabxy, t.fabCols, t.fabRows, t.broken) =
    (s.fabxy, s.fabCols, s.fabRows, s.broken)) (links : t.links = s.links)
    (d : Nat) : t.reachable d = s.reachable d := by
  injection grid with xy grid
  injection grid with cols grid
  injection grid with rows broken
  simp only [State.reachable, State.minimalLive, State.linkLive, State.livePorts, State.link, xy, cols, rows, broken, links]

end Sys2Proof.Machine

open Sys2Proof Sys2Proof.Machine

/-- Settles O50: the one record of the envelope changes, and what the coordinator sends goes to the devices of its mask. -/
theorem envelopeCoordinator : Obligations.EnvelopeCoordinator := by
  intro s eid dev pkt cause n c k r only is arrives decided sent
  subst is
  have found := State.coord_only only
  refine ⟨fun post unprepared acked jobs turn flush fences open_ sure reach => ?_, fun ⟨there, here, msg⟩ open_ last => ?_,
    fun ⟨there, here, msg⟩ open_ more => ?_, fun ⟨there, here, msg⟩ open_ fails => ?_,
        fun ⟨there, here, msg⟩ ended acked last => ?_,
    fun ⟨there, here, msg⟩ closed => ?_, fun closed => ?_, fun prep open_ => ?_,
        fun a ⟨there, here, msg⟩ ack port open_ queue => ?_⟩
  · let u := ((s.flushCtx n).onCtx n fun c => c.without r.id).onCoord c.eid fun c => { c with prepared := true }
    let v := (maskDevices c.mask).foldl (fun s d => s.send d (.prepare c.eid (lookupD 0 d c.sent))) u
    have flushed := State.fabric_flushCtx s n
    have recorded : u.coords = [{ c with prepared := true }] := State.onCoord_only ((State.coords_of_fabric flushed).trans only) _
    have near (d : Nat) : u.reachable d = s.reachable d :=
      State.reachable_congr (congrArg (fun x => x.1) flushed) (congrArg (fun x => x.2.1) flushed) d
    obtain ⟨coords, ctx, -, sends⟩ := State.sends_foldl (fun d => .prepare c.eid (lookupD 0 d c.sent)) (maskDevices c.mask) u
    have settled : v.settlePort n = v := by
      refine State.settlePort_eq fun q queued => fences q ?_
      have at_ : u.ctx n = ((s.flushCtx n).ctx n).without r.id := State.ctx_onCtx_same (s.flushCtx n) n
          fun c => c.without r.id
      rw [ctx n, at_] at queued
      exact (State.queue_flushCtx s n n).subset (List.mem_of_mem_filter queued)
    have kept : v.reapCoord = v := by
      refine State.reapCoord_idle fun x there => ?_
      obtain rfl := List.mem_singleton.1 (coords.trans recorded ▸ there)
      exact Coord.isOver_open open_
    have run : exec (.envelopePrepareSend c.eid) s = .next v := by
      have far : ((maskDevices c.mask).any fun d => !u.reachable d) = false :=
        List.any_eq_false.2 fun d is => by simp [near, reach d is]
      show execEnvelopePrepareSend c.eid s = _
      simp only [execEnvelopePrepareSend, found, post, unprepared, acked, jobs, turn, flush, open_, sure]
      have idle : ¬((false || 0 != 0 || ([] : List Job).any fun j => j.eid == c.eid) || !true || !true) = true := by simp
      rw [if_neg idle]
      have body : (if (none : Option Nat).isSome then u else if false then u.decideEnvelope c.eid 4
          else if (maskDevices c.mask).any fun d => !u.reachable d then u.decideEnvelope c.eid 10 else v) = v :=
        (if_neg Bool.false_ne_true).trans ((if_neg Bool.false_ne_true).trans (if_neg (Bool.eq_false_iff.1 far)))
      exact congrArg Host.Outcome.next ((congrArg (fun x : State => (x.settlePort n).reapCoord) body).trans
        ((congrArg State.reapCoord settled).trans kept))
    exact ⟨v, run, congrArg (List.map (·.prepared)) (coords.trans recorded), sends⟩
  · have run : exec (.ready pkt) s = .next (((s.dropPacket pkt).onCoord c.eid fun c => { c with
        ready := if c.ready.contains dev then c.ready else c.ready ++ [dev] }).decideEnvelope c.eid 0) := by
      show execReady pkt s = _
      rw [execReady, State.takePacket_here there here]
      have all : ((maskDevices c.mask).all fun d => d == dev || c.ready.contains d) = true :=
        List.all_eq_true.2 fun d is => by simpa using last d is
      simp only [msg]
      rw [show (s.dropPacket pkt).coord c.eid = some c from found]
      simp only [open_, all, Option.isNone_none, Bool.and_true, if_true]
    obtain ⟨coords, sends⟩ := State.decideEnvelope_decides
      (State.onCoord_only (s := s.dropPacket pkt) only fun c => { c with
        ready := if c.ready.contains dev then c.ready else c.ready ++ [dev] }) open_ 0
    exact ⟨_, run, congrArg (List.map (·.decision)) coords, sends⟩
  · have run : exec (.ready pkt) s = .next ((s.dropPacket pkt).onCoord c.eid fun c => { c with
        ready := if c.ready.contains dev then c.ready else c.ready ++ [dev] }) := by
      show execReady pkt s = _
      rw [execReady, State.takePacket_here there here]
      have some_ : ((maskDevices c.mask).all fun d => d == dev || c.ready.contains d) = false := by
        obtain ⟨d, is, other, absent⟩ := more
        exact List.all_eq_false.2 ⟨d, is, by simpa using ⟨other, absent⟩⟩
      simp only [msg]
      rw [show (s.dropPacket pkt).coord c.eid = some c from found]
      simp only [some_, Bool.and_false, Bool.false_eq_true, if_false]
    have coords := State.onCoord_only (s := s.dropPacket pkt) only fun c => { c with
      ready := if c.ready.contains dev then c.ready else c.ready ++ [dev] }
    refine ⟨_, run, ?_, fun x is => ?_⟩
    · exact (congrArg (List.map (·.decision)) coords).trans (congrArg (fun o => [o]) open_)
    · obtain rfl := List.mem_singleton.1 (coords ▸ is)
      dsimp only
      split
      next has => simpa using has
      next => simp
  · have run : exec (.fail pkt) s = .next ((s.dropPacket pkt).decideEnvelope c.eid cause) := by
      show execFail pkt s = _
      rw [execFail, State.takePacket_here there here]
      simp only [msg]
      rw [show (s.dropPacket pkt).coord c.eid = some c from found]
      rfl
    obtain ⟨coords, sends⟩ := State.decideEnvelope_decides (s := s.dropPacket pkt) only open_ cause
    refine ⟨_, run, congrArg (List.map (·.decision)) coords, fun d is => ?_⟩
    have told := sends d is
    rwa [decisionMsg, if_neg fails] at told
  · have run : exec (.done pkt) s = .next ((s.dropPacket pkt).onCoord c.eid fun c => { c with
        done := if c.done.contains dev then c.done else c.done ++ [dev] }).reapCoord := by
      show execDone pkt s = _
      rw [execDone, State.takePacket_here there here]
      simp only [msg]
    refine ⟨_, run, ?_⟩
    have coords := State.onCoord_only (s := s.dropPacket pkt) only fun c => { c with
      done := if c.done.contains dev then c.done else c.done ++ [dev] }
    have all : ∀ d ∈ maskDevices c.mask, d ∈ (if c.done.contains dev then c.done else c.done ++ [dev]) := fun d is => by
      obtain rfl | has := last d is
      · split
        next has => simpa using has
        next => simp
      · split <;> simp [has]
    refine (congrArg (List.filter fun c : Coord => !c.isOver) coords).trans ?_
    simp [Coord.isOver, Coord.unacked, List.length_eq_zero_iff.1 acked]
    exact ⟨by simpa [Option.isSome_iff_ne_none] using ended, fun d is => by simpa using all d is⟩
  · have run : exec (.query pkt) s = .next ((s.dropPacket pkt).send dev (decisionMsg c.eid cause)) := by
      show execQuery pkt s = _
      rw [execQuery, State.takePacket_here there here]
      simp only [msg]
      rw [show (s.dropPacket pkt).coord c.eid = some c from found, Option.bind_some, closed]
    exact ⟨_, run, _, List.mem_append_right _ List.mem_cons_self, rfl, rfl⟩
  · obtain ⟨-, -, -, sends⟩ := State.sends_foldl (fun _ => decisionMsg c.eid cause)
      ((maskDevices c.mask).filter fun d => !c.done.contains d) s
    refine ⟨_, ?_, fun d is undone => sends d (List.mem_filter.2 ⟨is, by simpa using undone⟩)⟩
    show execDecisionResend c.eid s = _
    simp only [execDecisionResend, found, closed]
  · obtain ⟨coords, -⟩ := State.decideEnvelope_decides only open_ 4
    refine ⟨_, ?_, congrArg (List.map (·.decision)) coords⟩
    show execPreptimeExpiry c.eid s = _
    simp [execPreptimeExpiry, found, prep, open_]
  · let u := ((s.dropPacket pkt).onCtx n fun c => { c with port := { c.port with queue := c.port.queue.filter fun q => q.id != r.id } }.completeSignal
        (((s.dropPacket pkt).entry n r.id).bind (·.sig)))
    let f := fun c : Coord => { c with out := c.out.eraseP fun x => x.1 == a.stream }
    have gone : (u.ctx n).port.queue = [] := by
      rw [show u.ctx n = _ from State.ctx_onCtx_same ..]
      exact Ctx.completeSignal_empty (by rw [show (s.dropPacket pkt).ctx n = s.ctx n from rfl]; simp [queue]) _
    have coords : (u.onCoord c.eid f).coords = [f c] := State.onCoord_only only f
    have kept : (u.onCoord c.eid f).reapCoord = u.onCoord c.eid f := by
      refine State.reapCoord_idle fun x there => ?_
      obtain rfl := List.mem_singleton.1 (coords ▸ there)
      exact Coord.isOver_open open_
    have run : exec (.sealack pkt) s = .next (u.onCoord c.eid f) := by
      show execSealack pkt s = _
      rw [execSealack, State.takePacket_here there here]
      simp only [msg, port, ack]
      rw [show State.settlePort _ n = u from State.settlePort_empty gone]
      exact congrArg Host.Outcome.next kept
    exact ⟨_, run, congrArg (List.map (·.out)) coords, gone⟩
end
section
/-!
PROOFS. The destination of an envelope (R412, R417 to R420, R424, R425; O51).
-/
namespace Sys2Proof.Machine
open Sys2Proof

variable {s t : State} {d : Dest}

/-! ## Ports with nothing to settle, records with nothing to publish -/

/-- No port holds a fence. -/
structure State.Fenceless (s : State) : Prop where
  none : ∀ n, ∀ r ∈ (s.ctx n).port.queue, r.fence? = none

theorem State.Fenceless.settlePorts (free : s.Fenceless) : s.settlePorts = s :=
  List.foldlRecOn (motive := fun t : State => t = s) _ _ rfl fun t same n _ => by
    rw [same]
    exact State.settlePort_eq (free.none n)

theorem State.Fenceless.homeWrite (free : s.Fenceless) (pa : Nat) (bs : List Byte) : (s.homeWrite pa bs).Fenceless :=
  ⟨fun n r queued => free.none n r ((s.queue_homeWrite pa bs n).subset queued)⟩

/-- With no decision to publish held back, none goes on. -/
theorem State.publishReady_idle (idle : ∀ d ∈ s.dests, d.publishing = false) : s.publishReady = s := by
  refine List.foldlRecOn (motive := fun t : State => t = s) _ _ rfl fun t same e _ => ?_
  have none : (s.dests.find? fun d => d.publishing && !s.publishWaits d) = none :=
    List.find?_eq_none.2 fun d there => by simp [idle d there]
  rw [same, State.publishNext, none]

/-- The only destination record, found by its number. -/
theorem State.dest_only (only : s.dests = [d]) : s.dest d.eid = some d := by simp [State.dest, only]

/-- A change of the only record. -/
theorem State.onDest_only (only : s.dests = [d]) (f : Dest → Dest) : (s.onDest d.eid f).dests = [f d] := by
  simp [State.onDest, only]

/-! ## Staging -/

/-- The bytes `ws` are staged in the lines `ls`, and no others. -/
structure StagedAs (ws : List (Nat × Byte × Byte)) (ls : List Staged) : Prop where
  held : ∀ w ∈ ws, ∃ l ∈ ls, l.line = w.1 / 64 * 64 ∧ (lookup? (w.1 % 64) l.bytes).map (fun b => (b.1, b.2.1))
      = some (0xFF, w.2.2)
  only : ∀ l ∈ ls, ∀ o b, lookup? o l.bytes = some b → ∃ w ∈ ws, w.1 = l.line + o

/-- A whole byte staged at its place of a line that does not hold it. -/
def Staged.put (l : Staged) (rank pa : Nat) (val : Byte) : Staged := { l with bytes := assocSet (pa % 64) (0xFF, val, rank) l.bytes }

theorem stageByte_whole {ws : List (Nat × Byte × Byte)} {ls : List Staged} (staged : StagedAs ws ls) (rank : Nat)
    {pa : Nat} (val : Byte)
    (fresh : ∀ w ∈ ws, w.1 ≠ pa) : stageByte rank ls pa 0xFF val =
      if ls.any (fun l => l.line == pa / 64 * 64) then ls.map
          fun l => if l.line == pa / 64 * 64 then l.put rank pa val else l
      else ls ++ [({ line := pa / 64 * 64, bytes := [] } : Staged).put rank pa val] := by
  have place : pa - pa / 64 * 64 = pa % 64 := by omega
  have over_ : (0 ||| 0xFF : Byte) = 0xFF ∧ (((0 : Byte) &&& ~~~0xFF) ||| (val &&& 0xFF)) = val := by
    refine ⟨by decide, ?_⟩
    rw [show (0xFF : Byte) = BitVec.allOnes 8 from rfl, BitVec.and_allOnes]
    simp
  obtain ⟨mask, byte⟩ := over_
  have absent : ∀ l ∈ ls, l.line = pa / 64 * 64 → lookup? (pa % 64) l.bytes = none := fun l there line => by
    refine Option.eq_none_iff_forall_ne_some.2 fun b some_ => ?_
    obtain ⟨w, is, at_⟩ := staged.only l there _ b some_
    exact fresh w is (by omega)
  unfold stageByte
  simp only [place]
  split
  · refine List.map_congr_left fun l there => ?_
    split
    next line =>
      simp only [lookupD, absent l there (by simpa using line), Option.getD_none, Nat.zero_le, if_true, mask, byte]
      rfl
    next => rfl
  · simp only [lookupD, lookup?_nil, Option.getD_none, Nat.zero_le, if_true, mask, byte]
    rfl

/-- One more byte staged. -/
theorem StagedAs.stageByte {ws : List (Nat × Byte × Byte)} {ls : List Staged} (staged : StagedAs ws ls) (rank : Nat)
    {pa : Nat} (val : Byte)
    (fresh : ∀ w ∈ ws, w.1 ≠ pa) : StagedAs (ws ++ [(pa, 0xFF, val)]) (Machine.stageByte rank ls pa 0xFF val) := by
  rw [stageByte_whole staged rank val fresh]
  have here (l : Staged) (line : l.line = pa / 64 * 64) : (l.put rank pa val).line = pa / 64 * 64 ∧
      (lookup? (pa % 64) (l.put rank pa val).bytes).map (fun b => (b.1, b.2.1)) = some (0xFF, val) :=
    ⟨line, by simp [Staged.put]⟩
  have kept (l : Staged) (line : l.line = pa / 64 * 64) (w : Nat × Byte × Byte) (is : w ∈ ws) (same :
      l.line = w.1 / 64 * 64) :
      lookup? (w.1 % 64) (l.put rank pa val).bytes = lookup? (w.1 % 64) l.bytes := by
    have other : w.1 % 64 ≠ pa % 64 := fun e => fresh w is (by omega)
    simp [Staged.put, other]
  have from_ (l : Staged) (line : l.line = pa / 64 * 64) (o : Nat) (b : Byte × Byte × Nat)
      (has : lookup? o (l.put rank pa val).bytes = some b) : pa = l.line + o ∨ lookup? o l.bytes = some b := by
    rw [Staged.put, lookup?_assocSet] at has
    split at has
    next e => exact .inl (by omega)
    next => exact .inr has
  split
  next some_ =>
    refine ⟨fun w there => ?_, fun l' there o b has => ?_⟩
    · obtain old | new := List.mem_append.1 there
      · obtain ⟨l, is, line, byte⟩ := staged.held w old
        refine ⟨_, List.mem_map_of_mem is, ?_⟩
        split
        next e =>
          have e := eq_of_beq e
          exact ⟨line, by rw [kept l e w old line]; exact byte⟩
        next => exact ⟨line, byte⟩
      · obtain rfl := List.mem_singleton.1 new
        obtain ⟨l, is, e⟩ := List.any_eq_true.1 some_
        refine ⟨_, List.mem_map_of_mem is, ?_⟩
        rw [if_pos e]
        exact here l (eq_of_beq e)
    · obtain ⟨l, is, rfl⟩ := List.mem_map.1 there
      split at has
      next e =>
        obtain at_ | old := from_ l (eq_of_beq e) o b has
        · exact ⟨_, List.mem_append_right _ List.mem_cons_self, by rw [if_pos e]; exact at_⟩
        · obtain ⟨w, is', at_⟩ := staged.only l is o b old
          exact ⟨w, List.mem_append_left _ is', by rw [if_pos e]; exact at_⟩
      next e =>
        obtain ⟨w, is', at_⟩ := staged.only l is o b has
        exact ⟨w, List.mem_append_left _ is', by rw [if_neg e]; exact at_⟩
  next none =>
    refine ⟨fun w there => ?_, fun l there o b has => ?_⟩
    · obtain old | new := List.mem_append.1 there
      · obtain ⟨l, is, line, byte⟩ := staged.held w old
        exact ⟨l, List.mem_append_left _ is, line, byte⟩
      · obtain rfl := List.mem_singleton.1 new
        exact ⟨_, List.mem_append_right _ List.mem_cons_self, here _ rfl⟩
    · obtain old | new := List.mem_append.1 there
      · obtain ⟨w, is, at_⟩ := staged.only l old o b has
        exact ⟨w, List.mem_append_left _ is, at_⟩
      · obtain rfl := List.mem_singleton.1 new
        obtain at_ | nothing := from_ { line := pa / 64 * 64, bytes := [] } rfl o b has
        · exact ⟨_, List.mem_append_right _ List.mem_cons_self, at_⟩
        · exact absurd nothing (by simp)

/-- Whole bytes at different addresses staged one after the other. -/
theorem StagedAs.foldl (rank : Nat → Nat) (ws : List (Nat × Byte × Byte)) (whole : ∀ w ∈ ws, w.2.1 = 0xFF) {before :
    List (Nat × Byte × Byte)}
    {ls : List Staged} (staged : StagedAs before ls) (once : ((before ++ ws).map (·.1)).Nodup) :
    StagedAs (before ++ ws) (ws.foldl (fun ls w => Machine.stageByte (rank w.1) ls w.1 w.2.1 w.2.2) ls) := by
  induction ws generalizing before ls with
  | nil => simpa using staged
  | cons w ws ih =>
    have full := whole w List.mem_cons_self
    have fresh : ∀ x ∈ before, x.1 ≠ w.1 := fun x there same => by
      rw [List.map_append] at once
      exact (List.nodup_append.1 once).2.2 x.1 (List.mem_map_of_mem there) w.1 (List.mem_map_of_mem List.mem_cons_self) same
    have next := staged.stageByte (rank w.1) w.2.2 fresh
    have step := ih (fun x there => whole x (List.mem_cons_of_mem w there)) next (by simpa using once)
    have one : (w.1, (0xFF : Byte), w.2.2) = w := by rw [← full]
    rw [List.foldl_cons, full]
    rwa [one, List.append_assoc] at step

/-- Duplicates erased leave no longer list. -/
theorem length_eraseDups_le (l : List Nat) : l.eraseDups.length ≤ l.length := by
  match l with
  | [] => exact Nat.le_refl 0
  | a :: l =>
    have short : (l.filter fun b => !b == a).length ≤ l.length := List.length_filter_le ..
    have rest := length_eraseDups_le (l.filter fun b => !b == a)
    rw [List.eraseDups_cons, List.length_cons, List.length_cons]
    omega
termination_by l.length

/-- The rank at which the bytes of a SEAL are staged (R412). -/
def State.sealRank (s : State) (m : SealMsg) (ws : List (Nat × Byte × Byte)) (a : Nat) : Nat :=
  match m.order with
  | some o => 2 * o + 1
  | none => 2 * ((Config.freeValue (s.free + ((ws.map fun w => w.1 / 8).eraseDups).findIdx (· == a / 8))).toNat % 2 ^ 48)

/-- The record in which a SEAL is staged. -/
theorem State.stageSeal_dests {m : SealMsg} (only : s.dests = [d]) (eid : m.eid = d.eid) (ws : List (Nat × Byte × Byte)) :
    (s.stageSeal m ws).mem = s.mem ∧ (s.stageSeal m ws).dests = [{ d with
      rcvd := (d.rcvd + m.bytes) % 2 ^ 48
      lines := ws.foldl (fun ls w => stageByte (s.sealRank m ws w.1) ls w.1 w.2.1 w.2.2) d.lines }] := by
  have any_ (t : State) (same : t.dests = s.dests) : (t.onDest d.eid fun d => { d with
      rcvd := (d.rcvd + m.bytes) % 2 ^ 48
      lines := ws.foldl (fun ls w => stageByte (s.sealRank m ws w.1) ls w.1 w.2.1 w.2.2) d.lines }).dests = _ :=
    State.onDest_only (same.trans only) _
  unfold State.stageSeal
  dsimp only
  rw [eid]
  split
  · exact ⟨rfl, any_ _ rfl⟩
  · exact ⟨rfl, any_ _ rfl⟩

/-- A SEAL that is to be staged, in a record with room for it. -/
theorem execSeal_stages {pkt : Nat} {k : Packet} {m : SealMsg} {ws : List (Nat × Byte × Byte)} (only : s.dests = [d])
    (eid : m.eid = d.eid)
    (there : s.packet pkt = some k) (here : k.dst = s.fabxy) (msg : k.msg = .seal m) (live : s.sealLive m = true)
    (mapped : s.ioMissing m.vf (writePages m.writes) = none) (writes : s.sealWrites m = some ws) (good : d.bad = false)
    (room : s.stagingUsed m.vf + ws.length ≤ (s.vf m.vf).staging.getD (2 ^ 21)) (share : s.stagingTaken (partOf m.vf)
        + ws.length ≤ 2 ^ 24) :
    ∃ (rank : Nat → Nat) (t : State), exec (.seal pkt) s = .next (t.send k.src
        (.sealack { eid := m.eid, stream := m.stream, port := m.port, bytes := m.bytes, fault := false })) ∧ t.mem = s.mem ∧
      t.dests = [{ d with rcvd := (d.rcvd + m.bytes) % 2 ^ 48
                          lines := ws.foldl (fun ls w => stageByte (rank w.1) ls w.1 w.2.1 w.2.2) d.lines }] := by
  have taken : ∃ a b c f, ((s.dropPacket pkt).markSeen m.stream).takeEid m.eid =
      { s with packets := a, seqIn := b, freed := c, free := f } := by
    unfold State.takeEid State.markSeen
    dsimp only
    split <;> split <;> exact ⟨_, _, _, _, rfl⟩
  obtain ⟨a, b, c, f, taken⟩ := taken
  let u : State := { s with packets := a, seqIn := b, freed := c, free := f }
  have staged : u.sealStaging m d = (u.stageSeal m ws, false) := by
    have few : (((ws.map fun w => w.1 / 64 * 64).eraseDups.filter fun l => !d.lines.any fun x => x.line == l).length)
        ≤ ws.length := by
      have erased := length_eraseDups_le (ws.map fun w => w.1 / 64 * 64)
      rw [List.length_map] at erased
      exact (List.length_filter_le ..).trans erased
    have writes : u.sealWrites m = some ws := writes
    have fits : ¬ ((u.vf m.vf).staging.getD (2 ^ 21) < u.stagingUsed m.vf + ((ws.map
        fun w => w.1 / 64 * 64).eraseDups.filter fun l =>
          !d.lines.any fun x => x.line == l).length ∨
        2 ^ 24 < u.stagingTaken (partOf m.vf) + ((ws.map fun w => w.1 / 64 * 64).eraseDups.filter
            fun l => !d.lines.any fun x => x.line == l).length) := by
      have room : u.stagingUsed m.vf + ws.length ≤ (u.vf m.vf).staging.getD (2 ^ 21) := room
      have share : u.stagingTaken (partOf m.vf) + ws.length ≤ 2 ^ 24 := share
      omega
    unfold State.sealStaging
    rw [writes]
    simp only [good, Bool.false_eq_true, if_false]
    exact if_neg (by simpa using fits)
  obtain ⟨mem, dests⟩ := State.stageSeal_dests (s := u) only eid ws
  obtain ⟨cs, ts, touched⟩ := State.touchAll_eq (s := u.stageSeal m ws) (ioPath m.vf) m.vf (m.writes.map (·.1))
  refine ⟨u.sealRank m ws, (u.stageSeal m ws).touchAll (ioPath m.vf) m.vf (m.writes.map (·.1)), ?_, ?_, ?_⟩
  · have found : u.dest m.eid = some d := eid ▸ State.dest_only (s := u) only
    obtain ⟨src, dst, msg', hops⟩ := k
    subst msg
    have here : dst = s.fabxy := here
    show execSeal pkt s = _
    simp only [execSeal, there, here, live, mapped, taken, ne_eq, not_true_eq_false, if_false, Option.isSome_none, Bool.and_false,
      Bool.false_eq_true, Bool.not_true]
    rw [show State.dest _ m.eid = some d from found]
    exact congrArg (fun x : State × Bool => Host.Outcome.next ((x.1.touchAll (ioPath m.vf) m.vf (m.writes.map
        (·.1))).send src
      (.sealack { eid := m.eid, stream := m.stream, port := m.port, bytes := m.bytes, fault := x.2 }))) staged
  · rw [touched]; exact mem
  · rw [touched]; exact dests

/-! ## Publication -/

/-- Whole lines written one after the other: each holds what was written, and other bytes stand. -/
theorem State.bytes_foldl_lines {f : State → Nat × List Byte → State} (mem : ∀ t w, (f t w).mem = (t.setBytes w.1 w.2).mem)
    (ws : List (Nat × List Byte)) (once : (ws.map (·.1)).Nodup) (whole : ∀ w ∈ ws, w.1 % 64 = 0 ∧ w.2.length = 64)
        (s : State) :
    (∀ a, (∀ w ∈ ws, a < w.1 ∨ w.1 + 64 ≤ a) → (ws.foldl f s).byte a = s.byte a) ∧
      ∀ w ∈ ws, (ws.foldl f s).bytes w.1 64 = w.2 := by
  induction ws generalizing s with
  | nil => exact ⟨fun _ _ => rfl, fun _ there => absurd there List.not_mem_nil⟩
  | cons w ws ih =>
    obtain ⟨fresh, once⟩ := List.nodup_cons.1 once
    obtain ⟨aligned, full⟩ := whole w List.mem_cons_self
    have wholeRest : ∀ x ∈ ws, x.1 % 64 = 0 ∧ x.2.length = 64 := fun x there => whole x (List.mem_cons_of_mem w there)
    obtain ⟨outside, held⟩ := ih once wholeRest (f s w)
    have first (a : Nat) : (f s w).byte a = (s.setBytes w.1 w.2).byte a := congrArg (lookupD 0 a) (mem s w)
    refine ⟨fun a out => ?_, fun x there => ?_⟩
    · rw [List.foldl_cons, outside a fun x there => out x (List.mem_cons_of_mem w there), first, State.byte_setBytes,
        if_neg fun inside => by have := out w List.mem_cons_self; omega]
    · obtain rfl | there := List.mem_cons.1 there
      · have kept (i : Nat) (small : i < 64) : (ws.foldl f (f s x)).byte (x.1 + i) = (s.setBytes x.1 x.2).byte
          (x.1 + i) := by
          refine (outside _ fun y there => ?_).trans (first _)
          have other : y.1 ≠ x.1 := fun same => fresh (List.mem_map.2 ⟨y, there, same⟩)
          obtain ⟨aligned', -⟩ := wholeRest y there
          omega
        have same : (ws.foldl f (f s x)).bytes x.1 64 = (s.setBytes x.1 x.2).bytes x.1 64 :=
          List.map_congr_left fun i small => kept i (List.mem_range.1 small)
        exact same.trans (State.bytes_of_mem rfl full)
      · exact held x there

theorem State.length_stagedLine (s : State) (l : Staged) : (s.stagedLine l).length = 64 := by simp [State.stagedLine]

/-- One staged line written for the record's VF. -/
def State.publishLine (d : Dest) (s : State) (w : Nat × List Byte) : State :=
  d.vf.elim (s.homeWrite w.1 w.2) fun vf => (s.homeWrite w.1 w.2).visit vf none w.1 0

theorem State.mem_publishLine (d : Dest) (s : State) (w : Nat × List Byte) : (s.publishLine d w).mem =
    (s.setBytes w.1 w.2).mem := by
  have home : (s.homeWrite w.1 w.2).mem = (s.setBytes w.1 w.2).mem := by
    unfold State.homeWrite
    split
    next none => rw [List.isEmpty_iff.1 none]; rfl
    next => rfl
  unfold State.publishLine
  cases d.vf <;> exact home

/-- Written lines leave the records, and bring no fence. -/
theorem State.foldl_publishLine (d : Dest) (ws : List (Nat × List Byte)) (free : s.Fenceless) :
    (ws.foldl (State.publishLine d) s).dests = s.dests ∧ (ws.foldl (State.publishLine d) s).Fenceless := by
  refine List.foldlRecOn (motive := fun t : State => t.dests = s.dests ∧ t.Fenceless) ws _ ⟨rfl, free⟩
      fun t ⟨dests, free⟩ w _ => ?_
  have home : (t.homeWrite w.1 w.2).dests = t.dests := by
    unfold State.homeWrite
    split <;> rfl
  unfold State.publishLine
  cases d.vf with
  | none => exact ⟨home.trans dests, free.homeWrite ..⟩
  | some vf => exact ⟨home.trans dests, ⟨(free.homeWrite ..).none⟩⟩

/-- A record published: it is gone, its lines are written, and no fence has come. -/
theorem State.publishDest_only (only : s.dests = [d]) (free : s.Fenceless) (once : (d.lines.map (·.line)).Nodup)
    (aligned : ∀ l ∈ d.lines, l.line % 64 = 0) :
    (s.publishDest d).dests = [] ∧ (s.publishDest d).Fenceless ∧ (∀ l ∈ d.lines,
        (s.publishDest d).bytes l.line 64 = s.stagedLine l) ∧
      ∀ a, (∀ l ∈ d.lines, a < l.line ∨ l.line + 64 ≤ a) → (s.publishDest d).byte a = s.byte a := by
  obtain ⟨dests, free⟩ := State.foldl_publishLine (s := s.freeDest d.eid) d (d.lines.map fun l =>
      (l.line, s.stagedLine l)) ⟨free.none⟩
  have none : (s.freeDest d.eid).dests = [] := by simp [State.freeDest, only]
  obtain ⟨outside, held⟩ := State.bytes_foldl_lines (State.mem_publishLine d) (d.lines.map fun l => (l.line, s.stagedLine l))
    (by rwa [List.map_map]) (fun w there => by
      obtain ⟨l, is, rfl⟩ := List.mem_map.1 there
      exact ⟨aligned l is, s.length_stagedLine l⟩) (s.freeDest d.eid)
  refine ⟨dests.trans none, ⟨free.none⟩, fun l there => held _ (List.mem_map_of_mem there),
      fun a out => outside a fun w there => ?_⟩
  obtain ⟨l, is, rfl⟩ := List.mem_map.1 there
  exact out l is

/-- A decision on the only record: it is applied, the ports have nothing to settle, and DONE leaves. -/
theorem State.takeDecision_only (only : s.dests = [d]) (go : d.publishing = false) {publish : Bool} {v : State}
    (applied : (if publish && (d.state == .held || d.state == .indoubt) then s.publishDest d else s.freeDest d.eid) = v)
    (gone : v.dests = []) (free : v.Fenceless) :
    ∃ t : State, s.takeDecision d publish = t.send (eidCoord d.eid) (.done d.eid s.fabxy)
        ∧ t.dests = [] ∧ t.mem = v.mem := by
  have alone : s.publishWaits d = false := by
    refine List.any_eq_false.2 fun l _ => ?_
    simp [only]
  have told : ∃ u : State, (if d.state == .indoubt then v.postInDoubt 2 d else v)
      = u ∧ u.dests = [] ∧ u.Fenceless ∧ u.mem = v.mem := by
    refine ⟨_, rfl, ?_⟩
    split
    · unfold State.postInDoubt
      cases d.vf <;> exact ⟨gone, ⟨free.none⟩, rfl⟩
    · exact ⟨gone, free, rfl⟩
  obtain ⟨u, is, none, free, mem⟩ := told
  have decided : s.applyDecision d publish = u := by
    rw [State.applyDecision, applied]
    exact (congrArg State.settlePorts is).trans free.settlePorts
  refine ⟨u, ?_, none, mem⟩
  have ready : (u.send (eidCoord d.eid) (.done d.eid s.fabxy)).publishReady = u.send (eidCoord d.eid)
      (.done d.eid s.fabxy) :=
    State.publishReady_idle fun e there => absurd (show e ∈ u.dests from there) (none ▸ List.not_mem_nil)
  rw [State.takeDecision, go, alone, decided, ready]
  simp

/-- A record dropped: its lines are not written. -/
theorem State.takeDecision_drops (only : s.dests = [d]) (free : s.Fenceless) (go : d.publishing = false) :
    ∃ t : State, s.takeDecision d false = t.send (eidCoord d.eid) (.done d.eid s.fabxy) ∧ t.dests = [] ∧ s.sameMemory t := by
  obtain ⟨t, run, none, mem⟩ := State.takeDecision_only only go (publish := false) rfl
    (show (s.freeDest d.eid).dests = [] by simp [State.freeDest, only]) ⟨free.none⟩
  exact ⟨t, run, none, State.sameMemory_of_mem mem⟩

/-- A record published: its lines are written, and every other byte stands. -/
theorem State.takeDecision_publishes (only : s.dests = [d]) (free : s.Fenceless) (go : d.publishing = false)
    (state : d.state = .held ∨ d.state = .indoubt) (once : (d.lines.map (·.line)).Nodup) (aligned :
        ∀ l ∈ d.lines, l.line % 64 = 0) :
    ∃ t : State, s.takeDecision d true = t.send (eidCoord d.eid) (.done d.eid s.fabxy) ∧ t.dests = [] ∧
      (∀ l ∈ d.lines, t.bytes l.line 64 = s.stagedLine l) ∧
      ∀ a, (∀ l ∈ d.lines, a < l.line ∨ l.line + 64 ≤ a) → t.byte a = s.byte a := by
  obtain ⟨none, free', lines, outside⟩ := State.publishDest_only only free once aligned
  have publishes : (true && (d.state == .held || d.state == .indoubt)) = true := by
    rcases state with is | is <;> rw [is] <;> rfl
  obtain ⟨t, run, gone, mem⟩ := State.takeDecision_only only go (if_pos publishes) none free'
  refine ⟨t, run, gone, fun l there => ?_, fun a out => ?_⟩
  · rw [← lines l there, State.bytes, State.bytes, mem]
  · rw [← outside a out, State.byte, State.byte, mem]

end Sys2Proof.Machine

open Sys2Proof Sys2Proof.Machine

/-- Settles O51: the one record of the envelope is staged in, held, failed or freed, and a decision applied with nothing held back. -/
theorem envelopeDestination : Obligations.EnvelopeDestination := by
  intro s eid pkt count cause d k only is go fences arrives sends lined published dropped
  subst is
  have found := State.dest_only only
  have free : s.Fenceless := ⟨fences⟩
  have last (t : State) (dst : Nat) (m : Msg) : sends (t.send dst m) dst m := by
    simp only [sends]
    rw [show (t.send dst m).packets = t.packets ++ [(t.nextId, { src := t.fabxy, dst := dst, msg := m })] from rfl]
    simp
  refine ⟨fun m ws ⟨there, here, msg⟩ eid live mapped writes good room share => ?_,
    fun ⟨there, here, msg⟩ staging => ⟨fun all => ?_, fun some_ => ?_⟩, fun ⟨there, here, msg⟩ state ⟨once, aligned⟩ => ?_,
    fun ⟨there, here, msg⟩ => ?_, fun held => ⟨?_, ?_⟩, fun doubt ⟨once, aligned⟩ => ?_, fun doubt => ?_⟩
  · obtain ⟨rank, t, run, mem, dests⟩ := execSeal_stages only eid there here msg live mapped writes good room share
    rw [eid] at run
    refine ⟨_, _, run, dests, rfl, rfl, fun empty once whole w is => ?_, State.sameMemory_of_mem mem, last ..⟩
    have staged : StagedAs [] ([] : List Staged) := ⟨nofun, nofun⟩
    dsimp only
    rw [empty]
    exact (staged.foldl rank ws whole once).held w is
  · refine ⟨((s.dropPacket pkt).onDest d.eid fun d => { d with state := .held }).send k.src (.ready d.eid s.fabxy), ?_, State.onDest_only only _, last ..⟩
    show execPrepare pkt s = _
    rw [execPrepare, State.takePacket_here there here]
    have found' : (s.dropPacket pkt).dest d.eid = some d := found
    simp only [msg, found', Option.isNone_some, Bool.false_and, Bool.false_eq_true, if_false, staging]
    exact congrArg Host.Outcome.next (if_pos all)
  · refine ⟨(s.dropPacket pkt).failDest d.eid 5, ?_, State.onDest_only only _, last ..⟩
    show execPrepare pkt s = _
    rw [execPrepare, State.takePacket_here there here]
    have found' : (s.dropPacket pkt).dest d.eid = some d := found
    simp only [msg, found', Option.isNone_some, Bool.false_and, Bool.false_eq_true, if_false, staging]
    exact congrArg Host.Outcome.next (if_neg some_)
  · obtain ⟨t, run, gone, lines, outside⟩ := State.takeDecision_publishes (s := s.dropPacket pkt)
      only ⟨free.none⟩ go state once aligned
    refine ⟨t.send (eidCoord d.eid) (.done d.eid s.fabxy), ?_, ⟨gone, lines, outside⟩, last ..⟩
    show execPublish pkt s = _
    rw [execPublish, State.takePacket_here there here]
    have found' : (s.dropPacket pkt).dest d.eid = some d := found
    have publishes : (d.state == .held || d.state == .indoubt) = true := by
      rcases state with is | is <;> rw [is] <;> rfl
    simp only [msg, found', publishes, if_true]
    exact congrArg Host.Outcome.next run
  · obtain ⟨t, run, gone, same⟩ := State.takeDecision_drops (s := s.dropPacket pkt) only ⟨free.none⟩ go
    refine ⟨t.send (eidCoord d.eid) (.done d.eid s.fabxy), ?_, ⟨gone, same⟩, last ..⟩
    show execDiscard pkt s = _
    rw [execDiscard, State.takePacket_here there here]
    have found' : (s.dropPacket pkt).dest d.eid = some d := found
    simp only [msg, found']
    exact congrArg Host.Outcome.next run
  · refine ⟨s.send (eidCoord d.eid) (.query d.eid s.fabxy), ?_, rfl, last ..⟩
    show execQueryResend d.eid s = _
    simp [execQueryResend, found, held, go]
  · let u := (s.onDest d.eid fun d => { d with state := .indoubt }).postInDoubt 1 d
    have dests : u.dests = [{ d with state := .indoubt }] := by
      refine Eq.trans ?_ (State.onDest_only only fun d => { d with state := .indoubt })
      simp only [u, State.postInDoubt]
      split <;> rfl
    have free' : u.Fenceless := by
      refine ⟨?_⟩
      simp only [u, State.postInDoubt]
      split <;> exact fences
    refine ⟨u, ?_, dests, fun v own => ?_⟩
    · show execIndoubtIntervalExpiry d.eid s = _
      simp only [execIndoubtIntervalExpiry, found, held, go, beq_self_eq_true, Bool.not_false, Bool.and_true, if_true]
      refine congrArg Host.Outcome.next ((congrArg State.publishReady free'.settlePorts).trans
          (State.publishReady_idle fun e there => ?_))
      obtain rfl := List.mem_singleton.1 (dests ▸ there)
      exact go
    · simp only [u, State.postInDoubt, own, State.postRecord]
      rw [State.vf_onVf_same]
      exact ⟨_, rfl, rfl⟩
  · obtain ⟨t, run, gone, lines, outside⟩ := State.takeDecision_publishes only free go (.inr doubt) once aligned
    refine ⟨t.send (eidCoord d.eid) (.done d.eid s.fabxy), ?_, gone, lines, outside⟩
    show execHostPublish d.eid s = _
    rw [execHostPublish, State.hostDecision, found]
    simp only [doubt, beq_self_eq_true, if_true]
    exact congrArg Host.Outcome.next run
  · obtain ⟨t, run, gone, same⟩ := State.takeDecision_drops only free go
    refine ⟨t.send (eidCoord d.eid) (.done d.eid s.fabxy), ?_, gone, same⟩
    show execHostDiscard d.eid s = _
    rw [execHostDiscard, State.hostDecision, found]
    simp only [doubt, beq_self_eq_true, if_true]
    exact congrArg Host.Outcome.next run
end

section
/-!
PROOFS. Frames, packets and messages (R3, R367 to R370, R380 to R382; O53).
-/
namespace Sys2Proof.Machine
open Sys2Proof

variable {s t : State}

@[simp] theorem State.messages_onCtx (s : State) (n : Nat) (f : Ctx → Ctx) : (s.onCtx n f).messages = s.messages := rfl
@[simp] theorem State.messages_onCore (s : State) (n : Nat) (f : Core → Core) : (s.onCore n f).messages = s.messages := rfl
@[simp] theorem State.messages_onVf (s : State) (n : Nat) (f : Vf → Vf) : (s.onVf n f).messages = s.messages := rfl
@[simp] theorem State.messages_ite (c : Prop) [Decidable c] (a b : State) :
    (if c then a else b).messages = if c then a.messages else b.messages :=
  apply_ite ..
@[simp] theorem State.messages_foldl {α : Type} {f : State → α → State} (keep : ∀ s a, (f s a).messages = s.messages)
    (l : List α) (s : State) :
    (l.foldl f s).messages = s.messages :=
  List.foldlRecOn (motive := fun t : State => t.messages = s.messages) l f rfl fun t same a _ => (keep t a).trans same

@[simp] theorem State.messages_writeMasked (s : State) (pa : Nat) (mask val : Byte) :
    (s.writeMasked pa mask val).messages = s.messages := by
  simp [State.writeMasked]

@[simp] theorem State.messages_setTag (s : State) (cell t : Nat) :
    (s.setTag cell t).messages = s.messages := (rfl)

@[simp] theorem State.messages_storeCell (s : State) (pa : Nat) (bs : List Byte) :
    (s.storeCell pa bs).1.messages = s.messages := by
  unfold State.storeCell
  dsimp only
  (repeat' split) <;> simp

@[simp] theorem State.messages_masterWrite (s : State) (p : Path) (vf : Nat) (kindle : Bool) (w : Nat × Byte × Byte) :
    (s.masterWrite p vf kindle w).1.messages = s.messages := by
  unfold State.masterWrite
  dsimp only
  (repeat' split) <;> simp

@[simp] theorem State.messages_masterBytes (s : State) (path : Path) (vf : Nat) (kindle : Bool) (ws : List
    (Nat × Byte × Byte)) :
    (s.masterBytes path vf kindle ws).1.messages = s.messages :=
  List.foldlRecOn (motive := fun x : State × Option Nat => x.1.messages = s.messages) _ _ rfl fun _ same _ _ =>
    (State.messages_masterWrite ..).trans same

@[simp] theorem State.messages_wakeLines (s : State) (hit : Nat → Bool) :
    (s.wakeLines hit).messages = s.messages := (rfl)

@[simp] theorem State.messages_wakeAddrs (s : State) (p : Path) (vf : Nat) (as : List Nat) :
    (s.wakeAddrs p vf as).messages = s.messages := (rfl)

@[simp] theorem State.messages_masterWrites (s : State) (p : Path) (vf : Nat) (kindle : Bool) (ws : List
    (Nat × Byte × Byte)) :
    (s.masterWrites p vf kindle ws).1.messages = s.messages := by
  unfold State.masterWrites
  split <;> simp

@[simp] theorem State.messages_microUse (s : State) (p : Path) (e : TlbEntry) :
    (s.microUse p e).messages = s.messages := by
  unfold State.microUse
  split <;> simp

@[simp] theorem State.messages_tlbFill (s : State) (pool : Nat) (e : TlbEntry) :
    (s.tlbFill pool e).messages = s.messages := (rfl)

@[simp] theorem State.messages_touch (s : State) (p : Path) (vf va : Nat) :
    (s.touch p vf va).messages = s.messages := by
  unfold State.touch
  (repeat' (first | split | dsimp only)) <;> simp

@[simp] theorem State.messages_touchAll (s : State) (p : Path) (vf : Nat) (as : List Nat) :
    (s.touchAll p vf as).messages = s.messages := by
  simp [State.touchAll]

@[simp] theorem State.messages_visitAddrs (s : State) (p : Path) (vf : Nat) (as : List Nat) (hint : BitVec 2) :
    (s.visitAddrs p vf as hint).messages = s.messages := by
  simp [State.visitAddrs]

@[simp] theorem State.messages_addPending (s : State) (n : Nat) (p : Pending) :
    (s.addPending n p).messages = s.messages := by
  unfold State.addPending
  split <;> simp

@[simp] theorem State.messages_setSem (s : State) (n h v : Nat) :
    (s.setSem n h v).messages = s.messages := (rfl)

@[simp] theorem State.messages_addSem (s : State) (n h v : Nat) :
    (s.addSem n h v).messages = s.messages := (rfl)

@[simp] theorem State.messages_raiseSem (s : State) (n h v : Nat) :
    (s.raiseSem n h v).messages = s.messages := by
  simp [State.raiseSem]

/-! ## Frames -/

variable {e : EthFrame} {vf : Nat}

/-- A frame that a port takes for a VF: its port's counter runs on. -/
theorem execEthernetFrameReceive_owned {u : State} (clocked : { s with portClocks := assocSet e.port (s.portClock e) s.portClocks } = u) (takes : s.portTakes e = true) (owner : s.macOwner e.port e.dest = some vf) :
    execEthernetFrameReceive e s =
      (if isRoce e.body && !(e.secure && (s.macsec vf).isSome) then .next u
      else if isNotice e.body then .next (u.congest vf e.ecn e.body)
      else if !(u.congest vf e.ecn e.body).requestOk vf e.body then .next
          ((u.congest vf e.ecn e.body).sendRoce vf [.nakInvalid])
      else .next { u.congest vf e.ecn e.body with
        frames := (u.congest vf e.ecn e.body).frames ++ [((u.congest vf e.ecn e.body).nextId, vf, e.port, stampBody
            (s.portClock e) e.body)]
        nextId := (u.congest vf e.ecn e.body).nextId + 1 }) := by
  subst clocked
  have owner : State.macOwner { s with portClocks := assocSet e.port (s.portClock e) s.portClocks } e.port e.dest = some vf := owner
  unfold execEthernetFrameReceive
  simp only [takes, Bool.not_true, Bool.false_eq_true, if_false, owner]
  rfl

/-- An answer leaves under the key of a VF. -/
theorem State.sendRoce_key {key : Nat × Bool} (held : s.macsec vf = some key) (xs : List RoceOut) :
    s.sendRoce vf xs = { s with outbox := s.outbox ++ xs.map (.roce vf key) } := by
  rw [State.sendRoce, held]

/-! ## Messages -/

/-- A message that is closed leaves no trace among the messages, and the VFs stand. -/
theorem State.closeMessage_keeps (s : State) (m : Message) (counted : Bool) :
    (s.closeMessage m counted).messages = s.messages.filter (fun x => x.id != m.id) ∧
        (s.closeMessage m counted).vfs = s.vfs := by
  unfold State.closeMessage
  dsimp only
  split <;> exact ⟨rfl, rfl⟩

/-- The semaphore that an acceptance raises leaves messages and VFs. -/
theorem State.notifyRing_keeps (s : State) (vf : Nat) (r : Ring) :
    (s.notifyRing vf r).messages = s.messages ∧ (s.notifyRing vf r).vfs = s.vfs := by
  unfold State.notifyRing
  split
  · exact ⟨rfl, rfl⟩
  · dsimp only
    split
    · exact ⟨State.messages_raiseSem .., State.vfs_raiseSem ..⟩
    · exact ⟨rfl, rfl⟩

theorem State.ring?_of_vfs (same : t.vfs = s.vfs) (vf k : Nat) : t.ring? vf k = s.ring? vf k := by
  rw [State.ring?, State.ring?, State.vf, State.vf, same]

/-- A message dropped under a counter of its ring. -/
theorem State.dropMessage_counts {m : Message} (only : s.messages = [m]) (g : Ring) (k : Nat) :
    (s.dropMessage m g k).messages = [] ∧ (s.dropMessage m g k).ring? m.vf m.head.ring = some
        (g.outcome k m.head.total) := by
  obtain ⟨messages, vfs⟩ := (s.setRing m.vf m.head.ring (g.outcome k m.head.total)).closeMessage_keeps m true
  refine ⟨messages.trans ?_, (State.ring?_of_vfs vfs ..).trans (State.ring?_setRing ..)⟩
  rw [show (s.setRing m.vf m.head.ring (g.outcome k m.head.total)).messages = [m] from only]
  simp

/-- The state in which a packet has joined its message. -/
def State.withMessage (s : State) (frame : Nat) (m : Message) : State :=
  { s.dropFrame frame with nextId := s.nextId + 1, messages := s.messages.filter (fun x => x.id != m.id) ++ [m] }

/-- A packet of no reliable message joins its message, which is settled once it is whole. -/
theorem execUetPacketReceive_joins {frame port : Nat} {p : UetPacket} (framed : s.frame frame = some
    (vf, port, .uet p)) (rud : p.rud = false) :
    execUetPacketReceive frame s =
      if !(s.messageWith vf port p).whole then .next (s.withMessage frame (s.messageWith vf port p))
      else .next (((s.withMessage frame (s.messageWith vf port p)).settleMessage (s.messageWith vf port p)
          true).getD s) := by
  simp only [execUetPacketReceive, framed, rud, Bool.false_and, Bool.false_eq_true, if_false]
  rfl

/-- A message accepted: its ring takes its units. -/
theorem State.acceptMessage_advances {m : Message} (only : s.messages = [m]) (g : Ring) (units : Nat) :
    (s.acceptMessage m g units).messages = [] ∧
      ((s.acceptMessage m g units).ring? m.vf m.head.ring).map (fun y => (y.next, y.p, y.used)) =
        some (g.next + 1, (g.p + units) % g.size, g.used + units) := by
  let ws := ((g.unitAddrs g.p units).zip (m.record g units s.free)).map fun (x : Nat × Byte) => (x.1, (0xFF : Byte), x.2)
  let u : State := (s.masterWrites (ioPath m.vf) m.vf true ws).1.visitAddrs (ioPath m.vf) m.vf (g.unitAddrs g.p units) 0
  let r : Ring := { g.outcome 0 m.head.total with
    p := (g.p + units) % g.size, used := g.used + units
    recs := g.recs ++ [{ seq := g.next, units := units, first := g.p, len := m.head.total }], next := g.next + 1, dropb := false }
  let v : State := ({ u with free := s.free + 64 } : State).setRing m.vf m.head.ring r
  have here : u.messages = [m] := by
    simp only [u, State.messages_visitAddrs, State.messages_masterWrites, only]
  obtain ⟨messages, vfs⟩ := v.closeMessage_keeps m true
  obtain ⟨messages', vfs'⟩ := (v.closeMessage m true).notifyRing_keeps m.vf r
  have ring : (s.acceptMessage m g units).ring? m.vf m.head.ring = some r :=
    (State.ring?_of_vfs (vfs'.trans vfs) ..).trans (State.ring?_setRing ..)
  refine ⟨messages'.trans (messages.trans ?_), congrArg (Option.map fun y : Ring => (y.next, y.p, y.used)) ring⟩
  rw [show v.messages = [m] from here]
  simp

end Sys2Proof.Machine

open Sys2Proof Sys2Proof.Machine

/-- Settles O53: a frame by its body, and a message by its classification. -/
theorem framesAndMessages : Obligations.FramesAndMessages := by
  intro s e frame vf port p x g units k m comes
  refine ⟨fun refused => ?_, fun takes unowned => ?_, fun takes owner body => ?_,
      fun key takes owner body secure plain held => ?_,
    fun rdma takes owner body => ⟨fun open_ => ?_, fun key secure held good => ?_⟩,
        fun key qp takes owner body secure held => ?_,
    fun ⟨framed, empty⟩ rud counted => ?_, fun ⟨framed, empty⟩ rud part => ?_,
        fun ⟨framed, empty⟩ rud whole accepts ready => ?_,
    fun only drops => ?_⟩
  · show execEthernetFrameReceive e s = _
    simp [execEthernetFrameReceive, refused]
  · have unowned : State.macOwner { s with portClocks := assocSet e.port (s.portClock e) s.portClocks } e.port e.dest = none := unowned
    refine ⟨{ s with portClocks := assocSet e.port (s.portClock e) s.portClocks
                     unknown := assocSet e.port (lookupD 0 e.port s.unknown + 1) s.unknown }, ?_, rfl, ?_⟩
    · show execEthernetFrameReceive e s = _
      simp [execEthernetFrameReceive, takes, unowned]
    · simp
  · let u : State := { s with portClocks := assocSet e.port (s.portClock e) s.portClocks }
    refine ⟨{ u with frames := s.frames ++ [(s.nextId, vf, e.port, .uet { p with ts := s.portClock e })], nextId := s.nextId + 1 }, ?_, rfl, ?_⟩
    · refine (execEthernetFrameReceive_owned (u := u) rfl takes owner).trans ?_
      simp [body, isRoce, isNotice, State.congest, State.pairOf, State.requestOk, stampBody, u]
    · simp [u]
  · let u : State := { s with portClocks := assocSet e.port (s.portClock e) s.portClocks }
    have held' : u.macsec vf = some key := held
    refine ⟨{ u with outbox := s.outbox ++ [.roce vf key .nakInvalid] }, ?_, rfl⟩
    refine (execEthernetFrameReceive_owned (u := u) rfl takes owner).trans ?_
    simp [body, isRoce, isNotice, State.congest, State.pairOf, State.requestOk, secure, held, State.sendRoce_key held', u]
  · let u : State := { s with portClocks := assocSet e.port (s.portClock e) s.portClocks }
    refine ⟨u, ?_, rfl, rfl⟩
    refine (execEthernetFrameReceive_owned (u := u) rfl takes owner).trans ?_
    simp [body, isRoce, open_]
  · let u : State := { s with portClocks := assocSet e.port (s.portClock e) s.portClocks }
    have held' : u.macsec vf = some key := held
    let w : State := { u with outbox := s.outbox ++ if e.ecn then [.roce vf key (.cnp rdma.qp)] else [] }
    have good' : w.requestOk vf (.write rdma) = true := good
    have marked : u.congest vf e.ecn (.write rdma) = w := by
      cases ecn : e.ecn <;> simp [State.congest, State.pairOf, State.sendRoce_key held', w, ecn, u]
    refine ⟨{ w with frames := s.frames ++ [(s.nextId, vf, e.port, .write rdma)], nextId := s.nextId + 1 }, ?_, rfl, rfl⟩
    refine (execEthernetFrameReceive_owned (u := u) rfl takes owner).trans ?_
    simp only [body, marked, good', isRoce, isNotice, secure, held]
    rfl
  · let u : State := { s with portClocks := assocSet e.port (s.portClock e) s.portClocks }
    refine ⟨u.setSlow vf qp true, ?_, rfl, ?_⟩
    · refine (execEthernetFrameReceive_owned (u := u) rfl takes owner).trans ?_
      simp [body, isRoce, isNotice, State.congest, State.pairOf, secure, held]
    · rw [State.queuePair, State.setSlow, State.vf_onVf_same]
      simp
  · refine ⟨{ s.dropFrame frame with outbox := s.outbox ++ [s.ackOf vf p p.ecn] }, ?_, empty, rfl⟩
    have again : s.counted.contains (messageKey vf p) = true := by simpa [messageKey] using counted
    show execUetPacketReceive frame s = _
    simp only [execUetPacketReceive, framed, rud, again, Bool.and_true, if_true]
    rfl
  · refine ⟨_, execUetPacketReceive_joins framed rud |>.trans (if_pos (by simp [m, part])), ?_⟩
    simp [State.withMessage, State.dropFrame, empty, m]
  · let u := s.withMessage frame m
    have only : u.messages = [m] := by simp [u, State.withMessage, State.dropFrame, empty]
    obtain ⟨gone, ring⟩ := State.acceptMessage_advances only g units
    have head : m.vf = vf ∧ m.head.ring = p.ring := by simp [m, State.messageWith, empty]
    rw [head.1, head.2] at ring
    have accepted : u.settleMessage m true = some (u.acceptMessage m g units) := by
      have accepts : u.classify m true = .accept g units := accepts
      have ready : u.checkWrite m.vf (g.unitAddrs g.p units) = .ready := by rw [head.1]; exact ready
      rw [State.settleMessage, accepts]
      simp only [ready]
    refine ⟨u.acceptMessage m g units, (execUetPacketReceive_joins framed rud).trans ?_, gone, ring⟩
    rw [if_neg (by simp [m, whole])]
    exact congrArg (fun o => Host.Outcome.next (o.getD s)) accepted
  · obtain ⟨empty, counted⟩ := State.dropMessage_counts only g k
    refine ⟨s.dropMessage x g k, ?_, empty, counted⟩
    show execReassemblyTimeout x.id s = _
    simp [execReassemblyTimeout, only, State.settleMessage, drops]
end
section
/-!
PROOFS. Flits, links and packets on the fabric (R393 to R397, R482; O54).
-/
namespace Sys2Proof.Machine
open Sys2Proof

variable {s t : State} {n : Nat}

@[simp] theorem State.links_onCtx (s : State) (n : Nat) (f : Ctx → Ctx) : (s.onCtx n f).links = s.links := rfl
@[simp] theorem State.links_onCore (s : State) (n : Nat) (f : Core → Core) : (s.onCore n f).links = s.links := rfl
@[simp] theorem State.links_onVf (s : State) (n : Nat) (f : Vf → Vf) : (s.onVf n f).links = s.links := rfl
@[simp] theorem State.links_onJob (s : State) (n : Nat) (f : Job → Job) : (s.onJob n f).links = s.links := rfl
@[simp] theorem State.links_onSet (s : State) (n : Nat) (f : SetEntry → SetEntry) : (s.onSet n f).links = s.links := rfl
@[simp] theorem State.links_setBytes (s : State) (pa : Nat) (bs : List Byte) : (s.setBytes pa bs).links = s.links := rfl
@[simp] theorem State.links_ite (c : Prop) [Decidable c] (a b : State) :
    (if c then a else b).links = if c then a.links else b.links :=
  apply_ite ..
@[simp] theorem State.links_foldl {α : Type} {f : State → α → State} (keep : ∀ s a, (f s a).links = s.links) (l :
    List α) (s : State) :
    (l.foldl f s).links = s.links :=
  List.foldlRecOn (motive := fun t : State => t.links = s.links) l f rfl fun t same a _ => (keep t a).trans same

@[simp] theorem State.links_addPending (s : State) (n : Nat) (p : Pending) :
    (s.addPending n p).links = s.links := by
  unfold State.addPending
  split <;> simp

@[simp] theorem State.links_setOutcome (s : State) (eid st cause : Nat) :
    (s.setOutcome eid st cause).links = s.links := by
  simp [State.setOutcome]

@[simp] theorem State.links_onCoord (s : State) (eid : Nat) (f : Coord → Coord) :
    (s.onCoord eid f).links = s.links := (rfl)

@[simp] theorem State.links_send (s : State) (dst : Nat) (m : Msg) :
    (s.send dst m).links = s.links := (rfl)

@[simp] theorem State.links_setSem (s : State) (n h v : Nat) :
    (s.setSem n h v).links = s.links := (rfl)

@[simp] theorem State.links_addSem (s : State) (n h v : Nat) :
    (s.addSem n h v).links = s.links := (rfl)

@[simp] theorem State.links_raiseSem (s : State) (n h v : Nat) :
    (s.raiseSem n h v).links = s.links := by
  simp [State.raiseSem]

@[simp] theorem State.links_completionIncrement (s : State) (j : Job) :
    (s.completionIncrement j).links = s.links := by
  simp [State.completionIncrement]

@[simp] theorem State.links_fireSignal (s : State) (n : Nat) (sig : Option Nat) :
    (s.fireSignal n sig).links = s.links := by
  unfold State.fireSignal
  dsimp only
  (repeat' split) <;> simp

@[simp] theorem State.links_completeJob (s : State) (j : Job) :
    (s.completeJob j).links = s.links := by
  simp [State.completeJob]

@[simp] theorem State.links_subBytes (s : State) (j : Job) (n : Nat) :
    (s.subBytes j n).links = s.links := by
  simp [State.subBytes]

@[simp] theorem State.links_dropSealed (s : State) (eid : Nat) :
    (s.dropSealed eid).links = s.links := by
  simp [State.dropSealed]

@[simp] theorem State.links_decideEnvelope (s : State) (eid cause : Nat) :
    (s.decideEnvelope eid cause).links = s.links := by
  unfold State.decideEnvelope
  dsimp only
  (repeat' split) <;> simp

@[simp] theorem State.links_reportLost (s : State) (k : Packet) :
    (s.reportLost k).links = s.links := by
  unfold State.reportLost
  split <;> simp

@[simp] theorem State.links_voidOpen (s : State) (n cause : Nat) :
    (s.voidOpen n cause).links = s.links := by
  simp [State.voidOpen]

@[simp] theorem State.links_cancelJob (s : State) (j : Job) :
    (s.cancelJob j).links = s.links := (rfl)

@[simp] theorem State.links_endJobs (s : State) (n : Nat) :
    (s.endJobs n).links = s.links := by
  simp [State.endJobs]

@[simp] theorem State.links_setSpByte (s : State) (n : Nat) (w : Nat × Byte) :
    (s.setSpByte n w).links = s.links := (rfl)

@[simp] theorem State.links_setSpBytes (s : State) (n : Nat) (ws : List (Nat × Byte)) :
    (s.setSpBytes n ws).links = s.links := by
  simp [State.setSpBytes]

@[simp] theorem State.links_applyStore (s : State) (n : Nat) (lvl : Bool) (d : Deferred) :
    (s.applyStore n lvl d).links = s.links := by
  unfold State.applyStore
  split <;> simp

theorem State.links_landStore (n : Nat) (lvl : Bool) (s : State) (d : Deferred) : (s.landStore n lvl d).links = s.links := by
  unfold State.landStore
  split
  · rfl
  · split
    · exact State.links_applyStore ..
    · rfl
    · rfl

@[simp] theorem State.links_landStores (s : State) (n : Nat) : (s.landStores n).links = s.links :=
  (State.links_foldl (f := State.landStore n false) (State.links_landStore n false) _ _).trans
    (State.links_foldl (f := State.landStore n true) (State.links_landStore n true) _ _)

@[simp] theorem State.links_meetNeeds (s : State) (n : Nat) :
    (s.meetNeeds n).links = s.links := (rfl)

@[simp] theorem State.links_dropFetches (s : State) (n : Nat) :
    (s.dropFetches n).links = s.links := (rfl)

@[simp] theorem State.links_onSel (s : State) (core : Nat) (f : Selector → Selector) :
    (s.onSel core f).links = s.links := (rfl)

@[simp] theorem State.links_settleRound (s : State) (core : Nat) :
    (s.settleRound core).links = s.links := by
  simp [State.settleRound]

@[simp] theorem State.links_leaveTurn (s : State) (n : Nat) :
    (s.leaveTurn n).links = s.links := by
  simp [State.leaveTurn]

@[simp] theorem State.links_setCause (s : State) (cell cause : Nat) :
    (s.setCause cell cause).links = s.links := (rfl)

@[simp] theorem State.links_setTag (s : State) (cell t : Nat) :
    (s.setTag cell t).links = s.links := (rfl)

@[simp] theorem State.links_portFault (s : State) (n id : Nat) (t : Trapped) :
    (s.portFault n id t).links = s.links := (rfl)

@[simp] theorem State.links_settleLoad (s : State) (n id : Nat) :
    (s.settleLoad n id).links = s.links := by
  unfold State.settleLoad
  dsimp only
  (repeat' split) <;> simp

@[simp] theorem State.links_answer (s : State) (w : EmbWaiter) (r : Except Trapped (List Byte)) :
    (s.answer w r).links = s.links := by
  unfold State.answer
  split <;> simp

@[simp] theorem State.links_answerAll (s : State) (cell : Nat) (r : Nat → Except Trapped (List Byte)) :
    (s.answerAll cell r).links = s.links := by
  simp [State.answerAll]

@[simp] theorem State.links_failCell (s : State) (cell cause : Nat) :
    (s.failCell cell cause).links = s.links := by
  simp [State.failCell]

@[simp] theorem State.links_abandon (s : State) (n : Nat) :
    (s.abandon n).links = s.links := by
  unfold State.abandon
  split <;> simp

@[simp] theorem State.links_abandonDone (s : State) (n : Nat) :
    (s.abandonDone n).links = s.links := by
  simp [State.abandonDone]

@[simp] theorem State.links_leaveSets (s : State) (n : Nat) :
    (s.leaveSets n).links = s.links := (rfl)

@[simp] theorem State.links_withdraw (s : State) (n : Nat) :
    (s.withdraw n).links = s.links := (rfl)

@[simp] theorem State.links_endContext (s : State) (n : Nat) (mute : Bool) : (s.endContext n mute).links = s.links := by
  simp [State.endContext]

@[simp] theorem State.links_postRecord (s : State) (vf : Nat) (r : List Byte) :
    (s.postRecord vf r).links = s.links := (rfl)

@[simp] theorem State.links_retireFatal (s : State) (n : Nat) (x : Trapped) (pc : Dword) (extra : Nat) (tail : List Byte) :
    (s.retireFatal n x pc extra tail).links = s.links := by
  unfold State.retireFatal
  exact (State.links_endContext _ n true).trans rfl

@[simp] theorem State.links_doubtStores (s : State) (n port : Nat) :
    (s.doubtStores n port).links = s.links := by
  unfold State.doubtStores
  dsimp only
  (repeat' split) <;> simp

@[simp] theorem State.links_dropSaved (s : State) (n : Nat) :
    (s.dropSaved n).links = s.links := (rfl)

@[simp] theorem State.links_jobFault (s : State) (j : Job) (t : Trapped) (tail : List Byte) :
    (s.jobFault j t tail).links = s.links := by
  simp [State.jobFault]

@[simp] theorem State.links_doubtJob (s : State) (id port : Nat) :
    (s.doubtJob id port).links = s.links := by
  unfold State.doubtJob
  dsimp only
  (repeat' split) <;> simp

@[simp] theorem State.links_dropUnreachable (s : State) (p : Nat × Packet) : (s.dropUnreachable p).links = s.links := by
  have fails (t : State) (x : Stream) : ((t.job? x.job).elim t fun j => t.jobFault j ⟨.remote, 4⟩).links = t.links := by
    cases t.job? x.job with
    | none => rfl
    | some j => exact State.links_jobFault ..
  unfold State.dropUnreachable
  dsimp only
  split
  · rfl
  · split
    · exact State.links_foldl (fun t x => fails t x) _ _
    · split
      · exact State.links_decideEnvelope ..
      · exact fails ..
    · rfl

@[simp] theorem State.links_reapCoord (s : State) :
    (s.reapCoord).links = s.links := (rfl)

@[simp] theorem State.links_noteLink (s : State) (m : Msg) (port : Nat) : (s.noteLink m port).links = s.links := by
  unfold State.noteLink
  dsimp only
  split
  · split <;> rfl
  · refine State.links_foldl (fun _ _ => ?_) _ s
    rfl
  · rfl

/-! ## Links and the flits sent on them -/

variable {port : Nat} {x : Flit}

@[simp] theorem State.link_setLink (s : State) (port : Nat) (l : Link) : (s.setLink port l).link port = l := by
  simp [State.link, State.setLink]

theorem State.link_of_links (same : t.links = s.links) (port : Nat) :
    t.link port = s.link port := by rw [State.link, same, State.link]

/-- A flit of a replay buffer as it leaves a port of a device. -/
def Sent.out (xy port : Nat) (y : Sent) : Outward :=
  .flit port { seq := y.seq, ack := y.ack, epoch := y.epoch, kind := y.kind, vc := y.vc, valid := true, pkt := y.pkt, part := y.part, parts := y.parts }
    (flitIv xy port y)

/-- Flits sent out one after the other: each in its turn, and nothing else changes. -/
theorem State.foldl_emitFlit (port : Nat) (xs : List Sent) (s : State) : xs.foldl (fun s x => s.emitFlit port x) s =
    { s with outbox := s.outbox ++ xs.map (Sent.out s.fabxy port) } := by
  induction xs generalizing s with
  | nil => simp
  | cons y xs ih =>
    rw [List.foldl_cons, ih]
    simp [State.emitFlit, Sent.out]

/-- A link that fails is down. -/
theorem State.failLink_down (s : State) (port : Nat) : ((s.failLink port).link port).up = false ∧
    ((s.failLink port).link port).buffer = [] := by
  have links : (s.failLink port).links = (s.setLink port { s.link port with up := false, buffer := [], nack := false, next := none }).links := by
    have lost (t : State) (y : Sent) : (match y.pkt with
        | some k => t.reportLost k
        | none => t).links = t.links := by
      cases y.pkt with
      | none => rfl
      | some k => exact State.links_reportLost ..
    unfold State.failLink
    exact (State.links_reapCoord _).trans <| (State.links_foldl (f := State.dropUnreachable)
        State.links_dropUnreachable _ _).trans <|
      (State.links_foldl (f := fun s eid => s.decideEnvelope eid 4) (fun _ _ => State.links_decideEnvelope ..) _ _).trans <|
      (State.links_foldl (f := fun s id => s.doubtJob id port) (fun _ _ => State.links_doubtJob ..) _ _).trans <|
      (State.links_foldl (f := fun s n => s.doubtStores n port) (fun _ _ => State.links_doubtStores ..) _ _).trans <|
      State.links_foldl lost _ _
  rw [State.link_of_links links, State.link_setLink]
  exact ⟨rfl, rfl⟩

/-- New flits of a link. -/
theorem State.newFlits_eq (s : State) (port kind vc : Nat) (pkt : Option Packet) (n : Nat) : s.newFlits port kind vc pkt n =
    { s.setLink port { s.link port with tx := ((s.link port).tx + n) % 2 ^ 32, count := (s.link port).count + n
                                        buffer := (s.link port).buffer ++ (s.link port).newFlits kind vc pkt n } with
      outbox := s.outbox ++ ((s.link port).newFlits kind vc pkt n).map (Sent.out s.fabxy port) } :=
  State.foldl_emitFlit ..

/-- The link once it has new flits. -/
theorem State.link_newFlits (s : State) (port kind vc : Nat) (pkt : Option Packet) (n : Nat) :
    (s.newFlits port kind vc pkt n).link port =
    { s.link port with tx := ((s.link port).tx + n) % 2 ^ 32, count := (s.link port).count + n
                       buffer := (s.link port).buffer ++ (s.link port).newFlits kind vc pkt n } := by
  rw [State.newFlits_eq]
  exact State.link_setLink ..

/-- What asking for a replay makes of a link: its numbers and keys stand, and it has asked. -/
structure Link.Asked (l m : Link) : Prop where
  rx     : m.rx = l.rx
  nack   : m.nack = true
  epoch  : m.epoch = l.epoch
  keys   : m.keys = l.keys
  rxKeys : m.rxKeys = l.rxKeys
  last   : ∃ y, y.kind = 2 ∧ y.seq = l.tx % 2 ^ 32 ∧ y.epoch = l.epoch ∧ m.buffer.getLast? = some y

/-- A replay request sent. -/
theorem State.askReplay_asks (room : (s.link port).hasRoom 1 = true) : (s.link port).Asked ((s.askReplay port).link port) ∧
    (s.askReplay port).packets = s.packets ∧ (s.askReplay port).outbox.length = s.outbox.length + 1 := by
  have sends : s.askReplay port = (s.setLink port { s.link port with nack := true, asks := false }).newFlits port 2 0 none 1 := by
    simp [State.askReplay, room]
  rw [sends, State.link_newFlits, State.newFlits_eq, State.link_setLink]
  refine ⟨⟨rfl, rfl, rfl, rfl, rfl, ?_⟩, rfl, ?_⟩
  · exact ⟨{ seq := (s.link port).tx % 2 ^ 32, ack := ((s.link port).rx + (2 ^ 32 - 1)) % 2 ^ 32, epoch :=
      (s.link port).epoch
             kind := 2, vc := 0, pkt := none, part := 0, parts := 1 }, rfl, rfl, rfl, by simp [Link.newFlits]⟩
  · simp [Link.newFlits, State.setLink]

/-- One that must wait. -/
theorem State.askReplay_waits (full : (s.link port).hasRoom 1 = false) :
    s.askReplay port = s.setLink port { s.link port with asks := true } := by
  simp [State.askReplay, full]

/-- A link worn from a place on fails instead of a replay. -/
theorem State.replayOrFail_worn {k : Nat} (worn : (s.link port).worn k = true) :
    s.replayOrFail port k = s.failLink port := if_pos worn

/-- A replay. -/
theorem State.replayOrFail_again {k : Nat} (fresh : (s.link port).worn k = false) : s.replayOrFail port k =
    { s.setLink port { s.link port with buffer := (s.link port).buffer.take k ++
        ((s.link port).buffer.drop k).map fun y => { y with replays := y.replays + 1 } } with
      outbox := s.outbox ++ ((s.link port).buffer.drop k).map (Sent.out s.fabxy port) } := by
  refine (if_neg (Bool.eq_false_iff.1 fresh)).trans ?_
  exact State.foldl_emitFlit ..

/-! ## Flits received -/

/-- A key that a filter keeps. -/
theorem lookup?_filter_key {α : Type} {k : Nat} {p : Nat × α → Bool} (keep : ∀ v, p (k, v) = true) (l : List (Nat × α)) :
    lookup? k (l.filter p) = lookup? k l := by
  induction l with
  | nil => rfl
  | cons a l ih =>
    obtain ⟨i, v⟩ := a
    by_cases same : i = k
    · subst same
      rw [List.filter_cons, if_pos (keep v), lookup?, lookup?, if_pos rfl, if_pos rfl]
    · rw [List.filter_cons]
      split
      · rw [lookup?, lookup?, if_neg same, if_neg same, ih]
      · rw [lookup?, if_neg same, ih]

/-- A link that has taken a flit. -/
def Link.received (l : Link) (x : Flit) : Link := ((l.took x.epoch).acked x.ack).gather x

theorem Link.received_rx (l : Link) (x : Flit) : (l.received x).rx = (l.rx + 1) % 2 ^ 32 := by
  unfold Link.received Link.gather
  split <;> rfl

/-- The number of parts that have come. -/
theorem Link.received_got (l : Link) {x : Flit} (data : x.kind = 0) : (l.received x).got =
    if x.part + 1 = x.parts then 0 else if x.part = 0 then 1 else if x.part = l.got then l.got + 1 else 0 := by
  unfold Link.received Link.gather
  rw [if_neg (by simp [data])]
  rfl

/-- A replay request that covers all before the one flit held leaves it, with the key of its epoch. -/
theorem Link.received_request {l : Link} {x : Flit} {b : Sent} (kind : x.kind = 2) (one : l.buffer = [b]) (next :
    (x.ack + 1) % 2 ^ 32 = b.seq) :
    (l.received x).buffer = [b] ∧ (lookup? b.epoch (l.received x).keys).isSome = (lookup? b.epoch l.keys).isSome := by
  have late : 2 ^ 31 ≤ (x.ack + 2 ^ 32 - b.seq) % 2 ^ 32 := by omega
  have kept : (l.took x.epoch).buffer.filter (fun b => decide (2 ^ 31 ≤ (x.ack + 2 ^ 32 - b.seq) % 2 ^ 32)) = [b] := by
    rw [show (l.took x.epoch).buffer = [b] from one]
    simpa using late
  unfold Link.received Link.gather
  rw [if_pos (by simp [kind])]
  refine ⟨kept, ?_⟩
  simp only [Link.acked, Link.dropKeys, kept]
  rw [lookup?_filter_key fun _ => by simp]
  rfl

theorem execFlitReceive_discards (up : (s.link port).up = true) (bad : (s.link port).takes x = false) :
    execFlitReceive port x s = .next (s.discardFlit port x) := by
  simp [execFlitReceive, up, bad]

/-- A data flit that is not its packet's last part. -/
theorem execFlitReceive_part {k : Packet} (up : (s.link port).up = true) (takes : (s.link port).takes x = true)
    (kind : x.kind = 0) (pkt : x.pkt = some k)
    (more : x.part + 1 ≠ x.parts) : execFlitReceive port x s = .next (s.setLink port ((s.link port).received x)) := by
  simp only [execFlitReceive, up, takes, kind, pkt, Bool.not_true, Bool.false_eq_true, if_false]
  exact congrArg Host.Outcome.next (if_pos (by simp [more]))

/-- A data flit that completes its packet. -/
theorem execFlitReceive_last {k : Packet} (up : (s.link port).up = true) (takes : (s.link port).takes x = true)
    (kind : x.kind = 0) (pkt : x.pkt = some k)
    (last : x.part + 1 = x.parts) (part : x.part = (s.link port).got) : execFlitReceive port x s =
      .next { s.setLink port ((s.link port).received x) with
        packets := s.packets ++ [(s.nextId, { k with hops := x.vc % 8 })], nextId := s.nextId + 1 } := by
  simp only [execFlitReceive, up, takes, kind, pkt, Bool.not_true, Bool.false_eq_true, if_false]
  exact congrArg Host.Outcome.next (if_neg (by rw [part] at last; simp [part, last]))

/-- A replay request. -/
theorem execFlitReceive_request (up : (s.link port).up = true) (takes : (s.link port).takes x = true) (kind : x.kind = 2) :
    execFlitReceive port x s = .next ((s.setLink port ((s.link port).received x)).replayOrFail port 0) := by
  simp only [execFlitReceive, up, takes, kind, Bool.not_true, Bool.false_eq_true, if_false]
  rfl

/-- A flit that fails its tag asks for a replay; one only out of order first counts its ACK. -/
theorem State.discardFlit_forged (bad : (s.link port).authentic x = false) : s.discardFlit port x = s.askReplay port := by
  simp [State.discardFlit, bad]

theorem State.discardFlit_early (true_ : (s.link port).authentic x = true) : s.discardFlit port x =
    if (s.link port).nack then (s.setLink port ((s.link port).acked x.ack)).askWaiting port
    else (s.setLink port ((s.link port).acked x.ack)).askReplay port := by
  simp [State.discardFlit, true_]

/-- Whether it asks or waits, a replay request leaves packets and the receiver. -/
theorem State.askReplay_keeps (s : State) (port : Nat) :
    (s.askReplay port).packets = s.packets ∧ ((s.askReplay port).link port).rx = (s.link port).rx := by
  by_cases room : (s.link port).hasRoom 1 = true
  · obtain ⟨asked, packets, -⟩ := State.askReplay_asks room
    exact ⟨packets, asked.rx⟩
  · rw [State.askReplay_waits (Bool.eq_false_iff.2 room), State.link_setLink]
    exact ⟨rfl, rfl⟩

theorem State.askWaiting_keeps (s : State) (port : Nat) :
    (s.askWaiting port).packets = s.packets ∧ ((s.askWaiting port).link port).rx = (s.link port).rx := by
  unfold State.askWaiting
  split
  · exact s.askReplay_keeps port
  · exact ⟨rfl, rfl⟩

/-- So does a discarded flit. -/
theorem State.discardFlit_keeps (s : State) (port : Nat) (x : Flit) :
    (s.discardFlit port x).packets = s.packets ∧ ((s.discardFlit port x).link port).rx = (s.link port).rx := by
  cases true_ : (s.link port).authentic x with
  | false => rw [State.discardFlit_forged true_]; exact s.askReplay_keeps port
  | true =>
    have acked : ((s.setLink port ((s.link port).acked x.ack)).link port).rx =
        (s.link port).rx := by rw [State.link_setLink]; rfl
    rw [State.discardFlit_early true_]
    split
    · obtain ⟨packets, rx⟩ := (s.setLink port ((s.link port).acked x.ack)).askWaiting_keeps port
      exact ⟨packets, rx.trans acked⟩
    · obtain ⟨packets, rx⟩ := (s.setLink port ((s.link port).acked x.ack)).askReplay_keeps port
      exact ⟨packets, rx.trans acked⟩

/-! ## Replays and keys -/

/-- A replay request from the first flit of a number on. -/
theorem execReplayRequest_from {seq : Nat} {b : Sent} {old rest : List Sent} (up : (s.link port).up = true)
    (buffer : (s.link port).buffer = old ++ b :: rest) (at_ : b.seq = seq) (first : ∀ y ∈ old, y.seq ≠ seq) :
    execReplayRequest port seq s = .next (s.replayOrFail port old.length) := by
  have none : old.findIdx? (fun b => b.seq == seq) = none := List.findIdx?_eq_none_iff.2
      fun y there => by simp [first y there]
  have place : (s.link port).buffer.findIdx? (fun b => b.seq == seq) = some old.length := by
    rw [buffer, List.findIdx?_append, none]
    simp [List.findIdx?_cons, at_]
  simp [execReplayRequest, place, up]

/-- Noting the port by which a request leaves keeps the packets. -/
theorem State.packets_noteLink (s : State) (m : Msg) (port : Nat) : (s.noteLink m port).packets = s.packets := by
  unfold State.noteLink
  dsimp only
  split
  · split <;> rfl
  · exact List.foldlRecOn (motive := fun t : State => t.packets = s.packets) _ _ rfl fun _ same _ _ => same
  · rfl

/-- The first phase of a rotation. -/
theorem execLinkKeyRotation_first (up : (s.link port).up = true) (none : (s.link port).next = none) (peer :
    List Byte) (signed : Bool) :
    execLinkKeyRotation { port := port, peer := peer, signed := signed } s = .next (if signed then
      (s.sendValue port).setLink port { s.link port with
        next := some (s.linkKey peer), rxKeys := assocSet (((s.link port).epoch + 1) % 256) (s.linkKey peer)
            (s.link port).rxKeys } else s) := by
  simp only [execLinkKeyRotation, up, none, Bool.not_true, Bool.false_eq_true, if_false]

/-- A replay request that waited leaves the keys. -/
theorem State.askWaiting_keys (s : State) (port : Nat) : ((s.askWaiting port).link port).epoch = (s.link port).epoch ∧
    ((s.askWaiting port).link port).keys = (s.link port).keys ∧ ((s.askWaiting port).link port).rxKeys =
        (s.link port).rxKeys := by
  unfold State.askWaiting
  split
  next both =>
    obtain ⟨⟨-, -, epoch, keys, rxKeys, -⟩, -⟩ := State.askReplay_asks (Bool.and_eq_true_iff.1 both).2
    exact ⟨epoch, keys, rxKeys⟩
  next => exact ⟨rfl, rfl, rfl⟩

/-- The second phase: the sender changes to the new key. -/
theorem execLinkKeyRotation_second {key : BitVec 256} (up : (s.link port).up = true) (next :
    (s.link port).next = some key) (peer : List Byte)
    (signed : Bool) : ∃ t : State, execLinkKeyRotation { port := port, peer := peer, signed := signed } s = .next t ∧
      (t.link port).epoch = ((s.link port).epoch + 1) % 256 ∧ lookup? (((s.link port).epoch + 1) % 256)
          (t.link port).keys = some key ∧
        (t.link port).rxKeys = (s.link port).rxKeys := by
  let m : Link := { s.link port with
    epoch := ((s.link port).epoch + 1) % 256, count := 0, keys := assocSet (((s.link port).epoch + 1) % 256) key
        (s.link port).keys, next := none }
  obtain ⟨epoch, keys, rxKeys⟩ := (s.setLink port m.dropKeys).askWaiting_keys port
  rw [State.link_setLink] at epoch keys rxKeys
  refine ⟨(s.setLink port m.dropKeys).askWaiting port, ?_, epoch, ?_, rxKeys⟩
  · refine (if_neg (by simp [up])).trans ?_
    dsimp only
    split
    next none => exact absurd (none.symm.trans next) nofun
    next k is =>
      obtain rfl : k = key := Option.some.inj (is.symm.trans next)
      rfl
  · rw [keys]
    refine (lookup?_filter_key (fun _ => by simp [m]) m.keys).trans ?_
    simp only [m, lookup?_assocSet, if_true]

end Sys2Proof.Machine

open Sys2Proof Sys2Proof.Machine

/-- Settles O54: each event by what it makes of its link. -/
theorem fabricEvents : Obligations.FabricEvents := by
  intro s port id seq x k peer key b old rest l authentic good asks value shared tells again flit
  have genuine : l.authentic x = true ↔ authentic := Bool.and_eq_true_iff
  have accepts (ok : good) : l.takes x = true :=
    Bool.and_eq_true_iff.2 ⟨genuine.2 ok.1, beq_iff_eq.2 ok.2⟩
  have refuses (bad : ¬ good) : l.takes x = false := Bool.eq_false_iff.2 fun takes =>
    bad ⟨genuine.1 (Bool.and_eq_true_iff.1 takes).1, eq_of_beq (Bool.and_eq_true_iff.1 takes).2⟩
  refine ⟨fun up ok kind pkt part last => ?_, fun up ok kind pkt part more => ?_, fun up ok kind one next worn => ?_,
    fun up ok kind one next fresh held => ?_, fun up bad => ?_, fun up bad full => ?_, fun up bad room => ?_,
    fun up true_ bad nack waits room => ?_, fun up true_ bad nack idle => ?_, fun up true_ bad nack room => ?_,
    fun up buffer at_ first worn => ?_, fun up buffer at_ first fresh => ?_, fun up there worn => ?_, fun up => ?_,
    fun down known => ?_, fun down => ?_, fun up none => ⟨?_, ?_⟩, fun up next => ?_, fun there route room => ?_⟩
  · refine ⟨_, execFlitReceive_last up (accepts ok) kind pkt last part, rfl, ?_, ?_⟩
    · exact (congrArg Link.rx (State.link_setLink s port (l.received x))).trans (l.received_rx x)
    · exact (congrArg Link.got (State.link_setLink s port (l.received x))).trans ((l.received_got kind).trans (if_pos last))
  · refine ⟨_, execFlitReceive_part up (accepts ok) kind pkt more.ne, rfl, ?_, ?_⟩
    · exact (congrArg Link.rx (State.link_setLink s port (l.received x))).trans (l.received_rx x)
    · refine (congrArg Link.got (State.link_setLink s port (l.received x))).trans ((l.received_got kind).trans
        ((if_neg more.ne).trans ?_))
      split
      next zero => omega
      next => rfl
  · obtain ⟨buffer, -⟩ := Link.received_request kind one next
    have worn : ((s.setLink port (l.received x)).link port).worn 0 = true := by
      rw [State.link_setLink, Link.worn, buffer]
      simp [worn]
    exact ⟨_, (execFlitReceive_request up (accepts ok) kind).trans (congrArg Host.Outcome.next
        (State.replayOrFail_worn worn)),
      (State.failLink_down ..).1⟩
  · obtain ⟨buffer, keys⟩ := Link.received_request kind one next
    have sound : ((s.setLink port (l.received x)).link port).worn 0 = false := by
      obtain ⟨key, is⟩ := Option.isSome_iff_exists.1 (keys.trans held)
      rw [State.link_setLink, Link.worn, buffer]
      simp [Nat.not_le.2 fresh, is]
    refine ⟨_, (execFlitReceive_request up (accepts ok) kind).trans (congrArg Host.Outcome.next
        (State.replayOrFail_again sound)), ?_, rfl, ?_⟩
    · refine (congrArg Link.buffer (State.link_setLink (s.setLink port (l.received x)) port _)).trans ?_
      rw [State.link_setLink, buffer]
      rfl
    · rw [State.link_setLink, buffer]
      simp [State.setLink]
  · obtain ⟨packets, rx⟩ := s.discardFlit_keeps port x
    exact ⟨_, execFlitReceive_discards up (refuses bad), packets, rx⟩
  · have forged : l.authentic x = false := Bool.eq_false_iff.2 fun ok => bad (genuine.1 ok)
    refine ⟨_, (execFlitReceive_discards up (refuses fun ok => bad ok.1)).trans (congrArg Host.Outcome.next
      ((State.discardFlit_forged forged).trans (State.askReplay_waits full))), ?_, ?_, rfl⟩
    · rw [State.link_setLink]
    · rw [State.link_setLink]
  · have forged : l.authentic x = false := Bool.eq_false_iff.2 fun ok => bad (genuine.1 ok)
    obtain ⟨⟨-, nack, -, -, -, y, kind, number, epoch, last⟩, -, sent⟩ := State.askReplay_asks room
    exact ⟨_, (execFlitReceive_discards up (refuses fun ok => bad ok.1)).trans (congrArg Host.Outcome.next
      (State.discardFlit_forged forged)), nack, y, kind, number, epoch, last, sent⟩
  · let u := s.setLink port (l.acked x.ack)
    have here : u.link port = l.acked x.ack := State.link_setLink ..
    have waiting : (u.link port).asks = true ∧ (u.link port).hasRoom 1 = true := by rw [here]; exact ⟨waits, room⟩
    have run : s.discardFlit port x = u.askReplay port := by
      refine (State.discardFlit_early (genuine.2 true_)).trans ((if_pos nack).trans (if_pos ?_))
      exact Bool.and_eq_true_iff.2 waiting
    obtain ⟨⟨-, nack, -, -, -, y, kind, number, epoch, last⟩, -, sent⟩ := State.askReplay_asks waiting.2
    rw [here] at number epoch
    exact ⟨_, (execFlitReceive_discards up (refuses bad)).trans
        (congrArg Host.Outcome.next run), nack, y, kind, number, epoch, last, sent⟩
  · let u := s.setLink port (l.acked x.ack)
    have here : u.link port = l.acked x.ack := State.link_setLink ..
    have run : s.discardFlit port x = u := by
      refine (State.discardFlit_early (genuine.2 true_)).trans ((if_pos nack).trans (if_neg ?_))
      rw [here]
      exact fun both => Bool.false_ne_true (idle.symm.trans (Bool.and_eq_true_iff.1 both).1)
    refine ⟨u, (execFlitReceive_discards up (refuses bad)).trans (congrArg Host.Outcome.next run), rfl, ?_⟩
    rw [here]
    exact nack
  · let u := s.setLink port (l.acked x.ack)
    have here : u.link port = l.acked x.ack := State.link_setLink ..
    have run : s.discardFlit port x = u.askReplay port :=
      (State.discardFlit_early (genuine.2 true_)).trans (if_neg (Bool.eq_false_iff.1 nack))
    obtain ⟨⟨-, nack, -, -, -, y, kind, number, epoch, last⟩, -, sent⟩ := State.askReplay_asks (s := u)
        (by rw [here]; exact room)
    rw [here] at number epoch
    exact ⟨_, (execFlitReceive_discards up (refuses bad)).trans
        (congrArg Host.Outcome.next run), nack, y, kind, number, epoch, last, sent⟩
  · have worn : l.worn old.length = true := by
      obtain ⟨y, is, many⟩ := worn
      rw [Link.worn, buffer, List.drop_left]
      exact List.any_eq_true.2 ⟨y, is, by simp [many]⟩
    exact ⟨s.failLink port, (execReplayRequest_from up buffer at_ first).trans (congrArg Host.Outcome.next
        (State.replayOrFail_worn worn)),
      (State.failLink_down ..).1⟩
  · have sound : l.worn old.length = false := by
      rw [Link.worn, buffer, List.drop_left]
      refine List.any_eq_false.2 fun y is => ?_
      obtain ⟨few, held⟩ := fresh y is
      obtain ⟨key, is⟩ := Option.isSome_iff_exists.1 held
      simp [Nat.not_le.2 few, is]
    refine ⟨_, (execReplayRequest_from up buffer at_ first).trans (congrArg Host.Outcome.next
        (State.replayOrFail_again sound)), ?_, ?_⟩
    · refine (congrArg Link.buffer (State.link_setLink s port _)).trans ?_
      dsimp only
      rw [buffer, List.take_left, List.drop_left]
    · dsimp only
      rw [buffer, List.drop_left]
      rfl
  · have worn : l.worn 0 = true := List.any_eq_true.2 ⟨b, there, by simp [worn]⟩
    refine ⟨s.failLink port, congrArg Host.Outcome.next (if_pos ?_), (State.failLink_down ..).1⟩
    exact Bool.and_eq_true_iff.2 ⟨up, worn⟩
  · exact ⟨s.failLink port, congrArg Host.Outcome.next (if_pos up), State.failLink_down ..⟩
  · obtain ⟨m, is⟩ := Option.isSome_iff_exists.1 known
    have same : l = m := by simp only [l, State.link, lookupD, is, Option.getD_some]
    have at_ := State.link_setLink (s.sendValue port) port { up := true, keys := [(0, shared)], rxKeys := [(0, shared)] }
    refine ⟨(s.sendValue port).setLink port { up := true, keys := [(0, shared)], rxKeys := [(0, shared)] }, ?_, ?_⟩
    · show execLinkKeyEstablish port peer true s = _
      simp only [execLinkKeyEstablish, is, ← same, down]
      rfl
    · rw [at_]
      exact ⟨rfl, rfl, rfl, rfl, rfl, rfl⟩
  · show execLinkKeyEstablish port peer false s = _
    rw [execLinkKeyEstablish]
    split <;> simp
  · exact execLinkKeyRotation_first up none peer false
  · let m : Link := { l with next := some shared, rxKeys := assocSet ((l.epoch + 1) % 256) shared l.rxKeys }
    have at_ : ((s.sendValue port).setLink port m).link port = m := State.link_setLink ..
    refine ⟨(s.sendValue port).setLink port m, execLinkKeyRotation_first up none peer true, ?_⟩
    rw [at_]
    exact ⟨rfl, rfl, rfl, by simp [m]⟩
  · obtain ⟨t, run, epoch, keys, rxKeys⟩ := execLinkKeyRotation_second up next peer true
    rw [← epoch] at keys
    exact ⟨t, run, epoch, keys, rxKeys⟩
  · intro sent
    let u := (s.dropPacket id).newFlits port 0 (channelOf sent) (some sent) (flitsOf sent.msg)
    have run : exec (.packetForward id port none) s = .next (u.noteLink sent.msg port) := by
      show execPacketForward id port none s = _
      have room : (s.link port).hasRoom (flitsOf k.msg) = true := room
      simp only [execPacketForward, there, route, room]
      rfl
    have packets : (u.noteLink sent.msg port).packets = s.packets.filter fun p => p.1 != id := by
      rw [State.packets_noteLink]
      simp only [u, State.newFlits_eq]
      rfl
    refine ⟨_, run, ?_, ?_⟩
    · rw [State.packet, packets]
      exact lookup?_absent fun p is => by simpa using (List.mem_filter.1 is).2
    · rw [State.link_of_links (State.links_noteLink ..), State.link_newFlits]
      rfl
end
section
/-!
PROOFS. Bound routines and the Courier (R337, R341, R344 to R351, R358 to R360; O58).
-/
namespace Sys2Proof.Machine
open Sys2Proof

variable {s t : State} {n m : Nat}

/-! ## The routines of a context that ends -/

theorem State.routines_onCtx {f : Ctx → Ctx} (keep : ∀ c, (f c).routines = c.routines) (s : State) (n m : Nat) :
    ((s.onCtx n f).ctx m).routines = (s.ctx m).routines := by
  rw [State.onCtx_eq, State.ctx_setCtx]
  split
  next h => rw [keep, h]
  next => rfl

theorem State.routines_portFault (s : State) (n m id : Nat) (x : Trapped) : ((s.portFault n id x).ctx m).routines =
    (s.ctx m).routines := by
  refine State.routines_onCtx (fun c => ?_) s n m
  split <;> rfl

theorem Ctx.routines_acquiredBy (c : Ctx) (r : PortReq) (x : Bool) : (c.acquiredBy r x).routines = c.routines := by
  rw [Ctx.acquiredBy]
  exact (apply_ite Ctx.routines _ _ _).trans (ite_self _)

theorem State.routines_settleLoad (s : State) (n m id : Nat) : ((s.settleLoad n id).ctx m).routines =
    (s.ctx m).routines := by
  unfold State.settleLoad
  split
  · rfl
  · dsimp only
    split <;> split
    · exact State.routines_portFault ..
    · rfl
    · refine State.routines_onCtx (fun c => ?_) s n m
      exact Ctx.routines_acquiredBy ..
    · rfl

theorem State.routines_failCell (s : State) (cell cause m : Nat) : ((s.failCell cell cause).ctx m).routines =
    (s.ctx m).routines := by
  have answered (t : State) (w : EmbWaiter) (x : Except Trapped (List Byte)) : ((t.answer w x).ctx m).routines =
      (t.ctx m).routines := by
    unfold State.answer
    split
    · rw [State.routines_settleLoad]
      refine State.routines_onCtx (fun c => ?_) t _ m
      rfl
    · rfl
    · rfl
  have all : (((s.setTag cell 3).setCause cell cause).ctx m).routines = (s.ctx m).routines := by
    rw [State.ctx_setCause]
    rfl
  unfold State.failCell State.answerAll
  exact List.foldlRecOn (motive := fun t : State => (t.ctx m).routines = (s.ctx m).routines) _ _ all
      fun t same w _ => (answered ..).trans same

theorem State.routines_abandonDone (s : State) (n m : Nat) : ((s.abandonDone n).ctx m).routines = (s.ctx m).routines := by
  simp only [State.abandonDone, State.abandon]
  split
  · rfl
  · split
    · exact State.routines_failCell ..
    · rfl

/-- A context that has ended runs no routine. -/
theorem State.endContext_routines (s : State) (n : Nat) (mute : Bool) : ((s.endContext n mute).ctx n).routines = [] := by
  have ends : ∃ (u : State) (f : Ctx → Ctx), (∀ c, (f c).routines = []) ∧
      s.endContext n mute = ((((u.onCtx n f).withdraw n).leaveSets n).abandonDone n).leaveTurn n := ⟨_, _, fun _ => rfl, rfl⟩
  obtain ⟨u, f, none, ends⟩ := ends
  rw [ends, State.ctx_leaveTurn, State.routines_abandonDone]
  change ((u.onCtx n f).ctx n).routines = _
  rw [State.ctx_onCtx_same]
  exact none _

/-- Nor does one that a cause has struck between its routines. -/
theorem State.takeTrap_routines (none : (s.ctx n).routines = []) (x : Trapped) (pc : Dword) :
    ((s.takeTrap n x pc).ctx n).routines = [] := by
  by_cases ends : x.cause.isFatal = true ∨ (s.ctx n).trap.tl = true ∨ (s.ctx n).trap.handler = 0
  · obtain ⟨y, extra, same⟩ := State.takeTrap_retires ends pc
    rw [same, State.retireFatal]
    exact State.endContext_routines ..
  · simp only [not_or, Bool.not_eq_true] at ends
    obtain ⟨mild, outside, handler⟩ := ends
    rw [State.ctx_takeTrap_handler mild outside handler]
    exact none

/-- The causes that meet at a boundary start no routine. -/
theorem State.boundary_routines (none : (s.ctx n).routines = []) (ts : List Trapped) (pc : Dword) :
    ((s.boundary n ts pc).ctx n).routines = [] := by
  unfold State.boundary
  dsimp only
  split
  · exact State.takeTrap_routines none ..
  · exact none
  · rw [State.ctx_onCtx_same]
    split <;> exact State.takeTrap_routines none ..

/-- Frames given back leave the contexts. -/
theorem State.ctx_foldl_freeFrames (s : State) (rs : List Routine) (n m : Nat) : (rs.foldl
    (fun s r => s.freeFrames n r.bind.key) s).ctx m = s.ctx m :=
  List.foldlRecOn (motive := fun t : State => t.ctx m = s.ctx m) rs _ rfl fun t same r _ => by
    refine Eq.trans ?_ same
    unfold State.freeFrames
    split <;> rfl

/-- Closed routines are gone. -/
theorem State.closeRoutines_routines (s : State) (n : Nat) (raised : Option Trapped) :
    ((s.closeRoutines n raised).ctx n).routines = [] := by
  have none : ∀ t : State, t.ctx n = { (s.meetNeeds n).ctx n with routines := [], after := [], afterPost := [] } →
      ((if (s.ctx n).life.halting then t.haltContext n
        else t.boundary n ((s.ctx n).after ++ raised.toList ++ (s.ctx n).afterPost)
            (s.ctx n).pc).ctx n).routines = [] := fun t here => by
    split
    · exact State.endContext_routines ..
    · exact State.boundary_routines (by rw [here]) ..
  exact none _ ((State.ctx_foldl_freeFrames ..).trans (State.ctx_onCtx_same ..))

/-! ## One step of a routine -/

variable {r : Routine} {rest : List Routine}

theorem State.ctx_chargeTurn (s : State) (core n cost : Nat) (mayEnd : Bool) (m : Nat) :
    (s.chargeTurn core n cost mayEnd).ctx m = s.ctx m := by
  have ends (t : State) : (t.endTurn core n).ctx m = t.ctx m := by
    unfold State.endTurn
    dsimp only
    split
    · exact State.ctx_settleRound ..
    · rfl
  unfold State.chargeTurn
  dsimp only
  split
  · exact ends _
  · rfl

theorem Micro.steps_setFlags (m : Micro) (flag : Bool) (act : BitVec 128) (result : List Word) :
    (m.setFlags flag act result).steps = m.steps := by
  unfold Micro.setFlags
  split <;> rfl

theorem Micro.steps_advance (m : Micro) (w : MicroWord) : (m.advance w).steps = m.steps := by
  unfold Micro.advance
  dsimp only
  split
  case h_2 => split <;> rfl
  case h_3 => split <;> rfl
  all_goals rfl

theorem State.micro_microWrite (s : State) (n : Nat) (r : Routine) (w : MicroWord) (view : Ctx) (act : BitVec 128)
    (ws : List LaneWrite)
    (result : List Word) : (s.microWrite n r w view act ws result).2.micro = r.micro := by
  unfold State.microWrite
  split
  case h_6 => dsimp only; split <;> rfl
  all_goals rfl

/-- A word executed is one step. -/
theorem State.steps_executeWord (s : State) (n : Nat) (r : Routine) (w : MicroWord) :
    (s.executeWord n r w).2.micro.steps = r.micro.steps + 1 := by
  unfold State.executeWord
  dsimp only
  rw [Micro.finish, Micro.steps_advance]
  dsimp only
  rw [Micro.steps_setFlags, State.micro_microWrite]

section
variable (first : (s.ctx n).routines = r :: rest) (started : r.started = true) (turn : s.hasTurn n = true) (free :
    s.routineWait n = .none)
  (going : r.refuse = none)
include first started turn free going

/-- A step that passes its checks executes its word. -/
theorem execMicroStep_runs (steps : r.micro.steps < r.bind.steps) (words : r.micro.mpc < r.bind.words) (good :
    s.stepBad n r (s.word n r) = none) :
    ∃ (u : State) (q : Routine) (b : Bool), q.micro.steps = r.micro.steps + 1 ∧
        (u.ctx n).routines = q :: rest ∧ execMicroStep n s =
      .next (((if (s.word n r).seq = 9 then u.exitRoutine n q else u).passCycles (coreOf n) 1).chargeTurn (coreOf n)
          n 1 b) := by
  let x := ((s.switchTo (coreOf n) n).useFrame (coreOf n) r.bind.key r.page false).executeWord n r (s.word n r)
  refine ⟨(x.1.noteHeld n r x.2).onCtx n fun c => { c with routines := x.2 :: rest }, x.2, ((s.word n r).seq = 9 || 256 < r.bind.steps),
    State.steps_executeWord .., ?_, ?_⟩
  · rw [State.ctx_onCtx_same]
  · unfold execMicroStep
    dsimp only
    rw [first]
    simp only [started, turn, free, going, Bool.not_true, Bool.false_or, ne_eq, not_true_eq_false, decide_false, Bool.false_eq_true, if_false,
      Nat.not_le.2 steps, Nat.not_le.2 words, good]
    rfl

/-- One that does not ends the bundle's routines. -/
theorem execMicroStep_stops {e : Trapped} (bad : (r.bind.steps ≤ r.micro.steps ∧ e = ⟨.stepover, r.info 0⟩) ∨
    (r.micro.steps < r.bind.steps ∧ r.bind.words ≤ r.micro.mpc ∧ e = ⟨.refused, r.info 2⟩) ∨
    (∃ reason, r.micro.steps < r.bind.steps ∧ r.micro.mpc < r.bind.words ∧ s.stepBad n r (s.word n r) = some reason ∧
      e = ⟨.refused, r.info reason⟩)) : execMicroStep n s = .next (s.stopRoutine n r e) := by
  unfold execMicroStep
  dsimp only
  rw [first]
  simp only [started, turn, free, going, Bool.not_true, Bool.false_or, ne_eq, not_true_eq_false, decide_false, Bool.false_eq_true, if_false]
  obtain ⟨many, rfl⟩ | ⟨few, past, rfl⟩ | ⟨reason, few, inside, bad, rfl⟩ := bad
  · rw [if_pos many]
  · rw [if_neg (Nat.not_le.2 few), if_pos past]
  · rw [if_neg (Nat.not_le.2 few), if_neg (Nat.not_le.2 inside), bad]

end

theorem State.ctx_freeFrames (s : State) (n key m : Nat) : (s.freeFrames n key).ctx m = s.ctx m := by
  unfold State.freeFrames
  split <;> rfl

theorem Ctx.routines_onLevel (c : Ctx) (f : Level → Level) : (c.onLevel f).routines = c.routines := by
  unfold Ctx.onLevel Ctx.setLevel
  split <;> rfl

theorem Ctx.routines_sampleStop (c : Ctx) : c.sampleStop.routines = c.routines := by
  unfold Ctx.sampleStop
  split <;> rfl

theorem Ctx.routines_completeSignal (c : Ctx) (sig : Option Nat) :
    (c.completeSignal sig).routines = c.routines := by cases sig <;> rfl

/-- A routine's exit leaves those that follow it. -/
theorem State.exitRoutine_length (first : (s.ctx n).routines = r :: rest) (q : Routine) :
    ((s.exitRoutine n q).ctx n).routines.length = rest.length := by
  unfold State.exitRoutine
  dsimp only
  generalize exits : (s.onCtx n _).freeFrames n q.bind.key = t
  have length : (t.ctx n).routines.length = rest.length := by
    rw [← exits, State.ctx_freeFrames, State.ctx_onCtx_same, Ctx.routines_completeSignal, Ctx.routines_onLevel]
    rw [Ctx.routines_sampleStop, first]
    simp
  split
  next none =>
    rw [List.isEmpty_iff.1 none] at length
    rw [State.closeRoutines_routines]
    exact length
  next => exact length

/-- A started routine that cannot go on takes the others of its bundle with it. -/
theorem State.stopRoutine_closes (started : r.started = true) (going : r.refuse = none) (e : Trapped) : ∃ (u : State)
    (q : List PortReq),
    u.ctx n = { s.ctx n with port := { (s.ctx n).port with queue := q } } ∧ ∀ m, (s.stopRoutine n r e).ctx m = (u.closeRoutines n (some e)).ctx m := by
  let sigs := (s.ctx n).routines.filterMap (·.sig)
  refine ⟨s.onCtx n fun c => { c with port := { c.port with queue := c.port.queue.filter fun q => !sigs.contains q.id } }, _,
    State.ctx_onCtx_same .., fun m => ?_⟩
  rw [State.stopRoutine, State.ctx_chargeTurn, State.endRefused]
  dsimp only
  rw [if_neg (by simp [started, going])]

/-- A cause that strikes as its bundle's routines are closed, with none before it and the handler free. -/
theorem State.closeRoutines_delivers {e : Trapped} (mild : e.cause.isFatal = false) (after : (s.ctx n).after = [])
    (post : (s.ctx n).afterPost = [])
    (halting : (s.ctx n).life.halting = false) (tl : (s.ctx n).trap.tl = false) (handler : (s.ctx n).trap.handler ≠ 0) :
    ∃ l x, (s.closeRoutines n (some e)).ctx n =
      { ({ s.ctx n with routines := [], after := [], afterPost := [] } : Ctx).enterHandler e (s.ctx n).pc with life := l, ctl := x } := by
  have closed : ∀ u : State, u.ctx n = { s.ctx n with routines := [], after := [], afterPost := [] } →
      ∃ l x, (u.boundary n ((s.ctx n).after ++ [e] ++ (s.ctx n).afterPost) (s.ctx n).pc).ctx n =
        { ({ s.ctx n with routines := [], after := [], afterPost := [] } : Ctx).enterHandler e (s.ctx n).pc with life := l, ctl := x } :=
      fun u here => by
    have enters : (u.takeTrap n e (s.ctx n).pc).ctx n = _ :=
      State.ctx_takeTrap_handler mild (by rw [here]; exact tl) (by rw [here]; exact handler) _
    refine ⟨((u.takeTrap n e (s.ctx n).pc).ctx n).life, { (u.ctx n).ctl with sinceTest := 0 }, ?_⟩
    have one : u.boundary n ([] ++ [e] ++ []) (s.ctx n).pc = (u.takeTrap n e (s.ctx n).pc).onCtx n fun c =>
        if c.trap.tl then { c with trap := { c.trap with held := c.trap.held ++ [] } } else c := by
      simp [State.boundary, mild, sortKey]
    rw [after, post, one, State.ctx_onCtx_same, List.append_nil, ite_self, enters, here]
  unfold State.closeRoutines
  dsimp only
  rw [halting, if_neg Bool.false_ne_true]
  exact closed _ ((State.ctx_foldl_freeFrames ..).trans (State.ctx_onCtx_same ..))

/-! ## The Courier -/

variable {core vf : Nat} {f : Fetch}

theorem State.core_onCore_same (s : State) (core : Nat) (f : Core → Core) : (s.onCore core f).core core = f
    (s.core core) := by
  rw [State.onCore_eq, State.core_setCore, if_pos rfl]

/-- A store trimmed keeps only frames that it had. -/
theorem State.trimFrames_core (s : State) (core : Nat) :
    ∃ fs, fs.Sublist (s.core core).frames ∧ (s.trimFrames core).core core = { s.core core with frames := fs } := by
  refine ⟨_, ?_, State.core_onCore_same ..⟩
  exact List.foldlRecOn (motive := fun fs : List Frame => fs.Sublist (s.core core).frames) _ _ (.refl _)
    fun fs sub vf _ => List.filter_sublist.trans sub

/-- The oldest need of a VF, once it is being fetched. -/
theorem find?_started {fs : List Fetch} (next : fs.find? (fun f => f.vf == vf) = some f) :
    (fs.map fun g => if g = f then { g with started := true } else g).find? (fun f => f.vf == vf) = some { f with started := true } := by
  have mine : (f.vf == vf) = true := List.find?_some (p := fun f : Fetch => f.vf == vf) next
  induction fs with
  | nil => cases next
  | cons g fs ih =>
    rw [List.find?_cons] at next
    rw [List.map_cons, List.find?_cons]
    split at next
    next own =>
      obtain rfl := Option.some.inj next
      rw [if_pos rfl]
      simp [mine]
    next other =>
      have ne : g ≠ f := fun same => by rw [same] at other; exact Bool.false_ne_true (other.symm.trans mine)
      rw [if_neg ne, other]
      exact ih next

/-- A fetch is taken up. -/
theorem execCourierFetch_takes {b : Binding} (next : s.nextFetch core vf = some f) (idle : f.started = false)
    (thawed : vf ∉ (s.core core).frozen)
    (plain : f.forHash = false) (bound : (s.ctx f.ctx).bindingOf f.key = some b) (needs : (s.ctx f.ctx).needs f = true)
    (absent : (s.core core).frame f.key f.page = none) (room : (s.trimFrames core).frameRoom core f = true) :
    ∃ t, execCourierFetch core vf s = .next t ∧ t.nextFetch core vf = some { f with started := true } := by
  obtain ⟨fs, sub, here⟩ := s.trimFrames_core core
  let u := s.trimFrames core
  have next' : u.nextFetch core vf = some f := by rw [State.nextFetch, here]; exact next
  have absent' : ((u.core core).frame f.key f.page).isSome = false := by
    rw [here, Core.frame, Option.isSome_eq_false_iff, Option.isNone_iff_eq_none, List.find?_eq_none]
    exact fun x there => List.find?_eq_none.1 absent x (sub.subset there)
  have thawed' : (u.core core).frozen.contains vf = false := by
    rw [here]
    simpa using thawed
  have same (n : Nat) : u.ctx n = s.ctx n := rfl
  refine ⟨u.onCore core fun k => { k with fetches := k.fetches.map fun g => if g = f then { g with started := true } else g }, ?_, ?_⟩
  · unfold execCourierFetch
    dsimp only
    rw [next']
    simp only [thawed', idle, same, bound, needs, plain, absent', room, u, Option.isNone_some, Bool.not_true, Bool.not_false, Bool.and_false,
      Bool.false_and, Bool.or_false, Bool.false_eq_true, if_false, if_true]
  · rw [State.nextFetch, State.core_onCore_same]
    exact find?_started next'

/-- Whether a frame is to be had turns on the contexts, and on the frames and quotas of the core. -/
theorem State.frameRoom_congr {u : State} (ctxs : ∀ m, u.ctx m = s.ctx m) (frames : (u.core core).frames =
    (s.core core).frames)
    (quotas : (u.core core).quotas = (s.core core).quotas) (g : Fetch) : u.frameRoom core g = s.frameRoom core g := by
  have replaceable : u.replaceable core g.vf (some g.ctx) = s.replaceable core g.vf (some g.ctx) := funext fun x => by
    simp only [State.replaceable, State.frameInUse, State.awaitsFirst, ctxs]
  simp only [State.frameRoom, State.framesFull, State.frameQuota, State.vfsOn, State.frameVictim, replaceable, ctxs, frames, quotas]

/-- A page put into a frame that is to be had is in the store. -/
theorem State.putFrame_core (room : s.frameRoom core f = true) (x : Frame) :
    ∃ fs, (s.putFrame core f x).core core = { s.core core with frames := x :: fs } := by
  rw [State.putFrame, State.core_onCore_same]
  dsimp only
  split
  · exact ⟨_, rfl⟩
  next full =>
    rw [State.frameRoom, eq_false_of_ne_true full, Bool.false_or] at room
    obtain ⟨v, victim⟩ := Option.isSome_iff_exists.1 room
    exact ⟨_, by rw [victim]; rfl⟩

theorem State.dropFetch_frames (s : State) (core : Nat) (f : Fetch) : ((s.dropFetch core f).core core).frames =
    (s.core core).frames := by
  rw [State.dropFetch, State.core_onCore_same]

/-- The first time that a page arrives, it stands in a frame. -/
theorem State.pageArrived_frame {b : Binding} (room : s.frameRoom core f = true) (new : lookup? f.page b.tags = none)
    (bs : List Byte) :
    (((s.pageArrived core vf f b bs).core core).frame f.key f.page).map (·.bytes) = some bs := by
  let x : Frame :=
    { vf := vf, key := f.key, page := f.page, bytes := bs, needed := !f.forHash, first := if f.forHash && b.launch then some f.ctx else none }
  obtain ⟨fs, put⟩ := State.putFrame_core room x
  have arrived : ((s.pageArrived core vf f b bs).core core).frames = x :: fs := by
    unfold State.pageArrived
    dsimp only
    rw [new]
    exact (State.dropFetch_frames (s.putFrame core f x) core f).trans (congrArg Core.frames put)
  rw [Core.frame, arrived, List.find?_cons_of_pos (by simp [x])]
  rfl

end Sys2Proof.Machine

open Sys2Proof Sys2Proof.Machine

/-- Settles O58: a step of a routine either executes its word, leaving the micro state with one step more, or closes the bundle's routines
and delivers the cause; the Courier's fetch keeps the fetch that it takes up, and puts the page that arrives in a frame that is to be had. -/
theorem routinesRun : Obligations.RoutinesRun := by
  intro s n core vf r rest f b
  refine ⟨fun first idle ready free going sound => ?_, fun first started turn free going => ⟨fun steps words good more => ?_,
    fun steps words good last => ?_, fun e bad => ?_⟩, fun next idle thawed plain bound needs absent room => ?_,
    fun fetching thawed mapped sound room dests good new => ?_⟩
  · let u := (s.beforeReady n).onCtx n fun c => { c with life := { c.life with state := .ready, wait := .none } }
    refine ⟨(u.useFrame (coreOf n) r.bind.key r.page false).onCtx n fun c => { c with routines := { r with started := true } :: rest }, ?_, ?_⟩
    · show execBoundRoutineStart n s = _
      simp only [execBoundRoutineStart, first, idle, ready, free, going, sound, beq_self_eq_true, Bool.true_or, Bool.not_true, Bool.or_self,
        ne_eq, not_true_eq_false, decide_false, Bool.false_eq_true, if_false, Option.isSome_none]
      rfl
    · rw [State.ctx_onCtx_same]
  · obtain ⟨u, q, b, counted, routines, run⟩ := execMicroStep_runs first started turn free going steps words good
    rw [if_neg more] at run
    refine ⟨_, run, ?_⟩
    rw [State.ctx_chargeTurn, show (u.passCycles (coreOf n) 1).ctx n = u.ctx n from rfl, routines]
    exact congrArg some counted
  · obtain ⟨u, q, b, -, routines, run⟩ := execMicroStep_runs first started turn free going steps words good
    rw [if_pos last] at run
    refine ⟨_, run, ?_⟩
    rw [State.ctx_chargeTurn]
    exact State.exitRoutine_length routines q
  · refine ⟨_, execMicroStep_stops first started turn free going bad, ?_, fun after post halting tl handler => ?_⟩
    · obtain ⟨u, q, here, same⟩ := State.stopRoutine_closes (s := s) (n := n) started going e
      rw [same, State.closeRoutines_routines]
    · obtain ⟨u, q, here, same⟩ := State.stopRoutine_closes (s := s) (n := n) started going e
      have mild : e.cause.isFatal = false := by
        obtain ⟨-, rfl⟩ | ⟨-, -, rfl⟩ | ⟨_, -, -, -, rfl⟩ := bad <;> rfl
      obtain ⟨l, x, delivered⟩ := State.closeRoutines_delivers (s := u) (n := n) mild (by rw [here]; exact after)
          (by rw [here]; exact post)
        (by rw [here]; exact halting) (by rw [here]; exact tl) (by rw [here]; exact handler)
      rw [same, delivered, here]
      exact ⟨rfl, rfl, rfl, rfl⟩
  · exact execCourierFetch_takes next idle thawed plain bound needs absent room
  · have thawed' : (s.core core).frozen.contains vf = false := by simpa using thawed
    let as := (List.range (b.pageBytes f.page)).map fun i => b.pageAddr f.page + i
    let u := s.visitAddrs (corePath core) vf as 0
    have room' : u.frameRoom core f = true := by
      obtain ⟨l, same⟩ := State.core_visitAddrs s (corePath core) vf as 0 core
      exact (State.frameRoom_congr (State.ctx_visitAddrs s _ vf as 0) (by rw [same]) (by rw [same]) f).trans room
    refine ⟨u.pageArrived core vf f b (s.courierBytes core vf (b.pageAddr f.page)
        (b.pageBytes f.page)), ?_, State.pageArrived_frame room' new _⟩
    show execCourierFetchComplete core vf s = _
    unfold execCourierFetchComplete
    rw [fetching]
    simp only [thawed', mapped, sound, room, State.anyHeld_none dests, State.badMet_none good, Option.isSome_none, Bool.not_true, Bool.or_false,
      Bool.false_eq_true, if_false]
    rfl
end

section
/-!
PROOFS. Obligation O60: drained slots, stop flags, saves and restores.
-/
namespace Sys2Proof.Machine
open Sys2Proof

variable {s : State} {n : Nat}

/-! ## Drained slots -/

theorem State.abandon_idle (hearths : s.hearths = []) (n : Nat) : s.abandon n = s := by
  rw [State.abandon, State.ownHearth, hearths]
  rfl

/-- With no hearth record, no slot is offered one. -/
theorem State.offerSlot_idle (hearths : s.hearths = []) (n : Nat) : s.offerSlot n = s := by
  have heads : ∀ k, s.queueHead k = none := fun k => by rw [State.queueHead, hearths]; rfl
  simp [State.offerSlot, heads]

theorem State.ctxs_dropKey (s : State) (n : Nat) : ({ s with ctxs := dropKey n s.ctxs } : State).ctx n = {} := by
  rw [State.ctx, lookupD, lookup?_dropKey, if_pos rfl]
  rfl

/-- Sets that a slot joins leave contexts and hearth records. -/
theorem State.joinSets_keeps (s : State) (f : Nat → SetEntry → SetEntry) (ks : List Nat) :
    (ks.foldl (fun s k => s.onSet k (f k)) s).ctxs = s.ctxs ∧ (ks.foldl (fun s k => s.onSet k (f k))
        s).hearths = s.hearths :=
  List.foldlRecOn (motive := fun t : State => t.ctxs = s.ctxs ∧ t.hearths = s.hearths) ks _ ⟨rfl, rfl⟩ fun _ ih _ _ => ih

theorem execSlotDrainComplete_frees (draining : (s.ctx n).life.state = .draining) (reset : (s.ctx n).life.reset = false)
    (quar : (s.ctx n).quar = []) (drained : s.slotDrained n = true) (hearths : s.hearths = []) :
    ∃ t, execSlotDrainComplete n s = .next t ∧ (t.ctx n).life.state = if
        (s.ctx n).id.kind = .eval then .idle else .free := by
  unfold execSlotDrainComplete
  simp only [draining, reset, quar, drained, State.abandon_idle hearths, bne_self_eq_false, Bool.false_eq_true, Bool.or_self, if_false,
    List.isEmpty_nil, Bool.not_true]
  split
  · refine ⟨_, rfl, ?_⟩
    obtain ⟨ctxs, left⟩ := State.joinSets_keeps ((s.forget n).setCtx n
      { life := { state := .idle }, id := (s.ctx n).id, binds := (s.ctx n).binds,
        ctl := { redlog := (s.ctx n).ctl.redlog, overrun := (s.ctx n).ctl.overrun } })
      (fun _ e => if e.members.contains n then e else { e with members := e.members ++ [n] }) (s.ctx n).id.sets
    rw [State.offerSlot_idle (left.trans hearths), State.ctx, ctxs, ← State.ctx, State.ctx_setCtx, if_pos rfl]
  · exact ⟨_, rfl, by rw [State.ctxs_dropKey]⟩

/-! ## Stop flags -/

theorem Ctx.sampleStop_keeps (c : Ctx) :
    c.sampleStop.life.stop = c.life.stop ∧ c.sampleStop.life.state = c.life.state ∧ c.sampleStop.regs = c.regs := by
  unfold Ctx.sampleStop
  split <;> exact ⟨rfl, rfl, rfl⟩

/-! ## Saves -/

/-- Bytes of a VF placed in memory leave saved areas, and a context that awaits no word. -/
theorem State.placeBytes_keeps (idle : ∀ e ∈ (s.ctx n).port.queue, e.isWaitingWta = false) (vf a : Nat) (bs : List Byte) :
    (s.placeBytes vf a bs).ctx n = s.ctx n := by
  refine List.foldlRecOn (motive := fun t : State => t.ctx n = s.ctx n) _ _ rfl fun t same x _ => ?_
  split
  · exact (State.ctx_homeWrite (t := t) (by rw [same]; exact idle) ..).trans same
  · exact same

/-- Blocks of an area placed one after the other leave such a context. -/
theorem State.placeBlocks_keeps (idle : ∀ e ∈ (s.ctx n).port.queue, e.isWaitingWta = false) (vf : Nat) (at' : Nat → Nat)
    (block : Nat → List Byte) (l : List Nat) : (l.foldl (fun s b => s.placeBytes vf (at' b) (block b)) s).ctx n = s.ctx n :=
  List.foldlRecOn (motive := fun t : State => t.ctx n = s.ctx n) l _ rfl fun _ same _ _ =>
    (State.placeBytes_keeps (by rw [same]; exact idle) ..).trans same

theorem State.saved_leaveTurn (s : State) (n : Nat) : (s.leaveTurn n).saved = s.saved := by
  rw [State.leaveTurn, State.settleRound]
  split <;> rfl

/-- What ends a save: the record of it, and the context off its core. -/
def State.fileSave (s : State) (n : Nat) (sv : Saved) : State :=
  let s := { s with saved := assocSet n sv s.saved, seqs := assocSet n sv.seq s.seqs }
  let s := s.onCore (coreOf n) fun k => { k with board := k.board.filter fun e => e.ctx != n }
  (s.onCtx n fun c =>
    { c with life := { c.life with state := .saved, wait := .none, stop := none, stopping := false, fetchFault := none } }).leaveTurn n

theorem State.fileSave_files (s : State) (n : Nat) (sv : Saved) :
    ((s.fileSave n sv).ctx n).life.state = .saved ∧ ((s.fileSave n sv).ctx n).regs = (s.ctx n).regs ∧
      lookup? n (s.fileSave n sv).saved = some sv := by
  unfold State.fileSave
  dsimp only
  rw [State.ctx_leaveTurn, State.ctx_onCtx_same, State.saved_leaveTurn]
  exact ⟨rfl, rfl, (lookup?_assocSet n n sv s.saved).trans (if_pos rfl)⟩

/-- A saved context keeps its registers; the record of its save names the area. -/
theorem State.saveContext_saves (queue : (s.ctx n).port.queue = []) (l1 : (s.core (coreOf n)).l1 = []) (area : Dword) :
    ((s.saveContext n area).ctx n).life.state = .saved ∧ ((s.saveContext n area).ctx n).regs = (s.ctx n).regs ∧
      (lookup? n (s.saveContext n area).saved).map (·.area) = some area := by
  have unflushed : s.flushCtx n = s := State.writeBackIf_none l1 _
  let u := (s.dropFetches n).dropFetchWaits n
  have idle : ∀ e ∈ (u.ctx n).port.queue, e.isWaitingWta = false := by
    rw [show u.ctx n = s.ctx n from rfl, queue]
    simp
  obtain ⟨w, sv, placed, named, filed⟩ : ∃ (w : State) (sv : Saved), w.ctx n = s.ctx n ∧ sv.area = area ∧
      s.saveContext n area = w.fileSave n sv := by
    unfold State.saveContext State.fileSave
    rw [unflushed]
    exact ⟨_, { area := area, seq := _, tags := _ }, State.placeBlocks_keeps (s := u) idle .., rfl, rfl⟩
  obtain ⟨state, regs, record⟩ := w.fileSave_files n sv
  rw [filed]
  exact ⟨state, regs.trans (congrArg Ctx.regs placed), by rw [record, Option.map_some, named]⟩

theorem execSaveComplete_saves {area : Dword} (stopped : s.hasStopped n = true) (flag : (s.ctx n).life.stop = some area)
    (mapped : s.areaMapped (s.ctx n).id.vf area.toNat = true) (queue : (s.ctx n).port.queue = []) (landings :
        (s.ctx n).port.landings = [])
    (faults : (s.ctx n).port.faults = []) (array : (s.ctx n).mat.queue = []) (jobs : s.jobs = []) (l1 : (s.core
        (coreOf n)).l1 = []) :
    execSaveComplete n s = .next (s.saveContext n area) := by
  have withdrawn : s.withdrawOps n = s := by rw [State.withdrawOps, queue]; rfl
  have cancelled : s.cancelWaits n = s := by rw [State.cancelWaits, queue]; rfl
  have still : s.stopBeats n = s := by rw [State.stopBeats, jobs]; rfl
  have drained : s.isDrained n = true := by
    simp [State.isDrained, State.canFlush, State.canWriteBack, queue, landings, faults, array, jobs, l1]
  unfold execSaveComplete
  rw [if_pos stopped, withdrawn, cancelled, still]
  simp only [flag, drained, mapped, Bool.and_self, if_true]

/-! ## Restores -/

/-- Lines written back leave a context that awaits no word. -/
theorem State.ctx_setBlocks (idle : ∀ e ∈ (s.ctx n).port.queue, e.isWaitingWta = false) (core b : Nat) :
    (s.setBlocks core b).ctx n = s.ctx n := by
  unfold State.setBlocks
  split
  · rfl
  · rw [State.ctx_onCore, State.writeBackIf]
    refine List.foldlRecOn (motive := fun t : State => t.ctx n = s.ctx n) _ _ rfl fun t same l _ => ?_
    unfold State.writeBack
    split
    · exact same
    · exact (State.ctx_homeWrite (t := t) (by rw [same]; exact idle) ..).trans same

theorem Ctx.deferredOfArea_queue (c : Ctx) (f : Nat → Nat → Nat) : (c.deferredOfArea f).port.queue = c.port.queue := by
  rw [Ctx.deferredOfArea]
  refine List.foldlRecOn (motive := fun a : Ctx × Nat => a.1.port.queue = c.port.queue) _ _ rfl fun a same x _ => ?_
  dsimp only
  split <;> exact same

/-- The state that an area holds: its counter and registers; the lists stay as long as they were. -/
theorem Ctx.ofArea_empty {c : Ctx} (quar : c.quar = []) (list : c.trap.list = []) (queue : c.port.queue = []) (f :
    Nat → Nat → Nat) :
    (c.ofArea f).quar = [] ∧ (c.ofArea f).trap.list = [] ∧ (c.ofArea f).port.queue = [] := by
  refine ⟨?_, ?_, (Ctx.deferredOfArea_queue c f).trans queue⟩
  · rw [Ctx.ofArea, quar]
    rfl
  · rw [Ctx.ofArea, list]
    rfl

theorem Ctx.ofArea_pc (c : Ctx) (f : Nat → Nat → Nat) : (c.ofArea f).pc = BitVec.ofNat 64 (f 0x10 8) := rfl

theorem Ctx.ofArea_regs (c : Ctx) (f : Nat → Nat → Nat) : (c.ofArea f).regs = regsOfArea f := rfl

theorem State.ctx_setSems (s : State) (n : Nat) (l : List (Nat × Nat)) (m : Nat) :
    (l.foldl (fun s p => s.setSem n p.1 p.2) s).ctx m = s.ctx m :=
  List.foldlRecOn (motive := fun t : State => t.ctx m = s.ctx m) l _ rfl fun _ same _ _ => same

/-- The words of an area, as a VF's memory holds them. -/
def State.areaWords (s : State) (vf area off k : Nat) : Nat := natOfBytes ((s.vfBytes vf (area + off) k).getD [])

theorem State.areaWords_saved (s : State) (l : List (Nat × Saved)) (vf area : Nat) :
    ({ s with saved := l } : State).areaWords vf area = s.areaWords vf area := by
  funext off k
  rw [State.areaWords, Tests.vfBytes_saved, State.areaWords]

theorem State.ctx_saved (s : State) (l : List (Nat × Saved)) (n : Nat) : ({ s with saved := l } : State).ctx n = s.ctx n := rfl

theorem State.ctx_loadArea (s : State) (r : RestoreCmd) :
    (s.loadArea r).ctx r.old = (s.ctx r.old).ofArea (s.areaWords (s.ctx r.old).id.vf r.area) := by
  rw [State.loadArea]
  dsimp only
  rw [State.ctx_setSems, State.ctx_onCtx_same]
  rfl

/-- The context moved to the slot of its restore: READY, with what it held. -/
theorem State.moveContext_moves (s : State) (r : RestoreCmd) :
    let c := s.ctx r.old
    let d := (s.moveContext r).ctx r.ctx
    d.life.state = .ready ∧ d.pc = c.pc ∧ d.regs = c.regs ∧ d.quar = c.quar ∧ d.trap = c.trap ∧ d.port.queue = c.port.queue := by
  intro c d
  simp only [d]
  rw [State.moveContext]
  dsimp only
  rw [State.ctx_setSems, State.ctx_setSpBytes, State.ctx_setCtx, if_pos rfl]
  exact ⟨rfl, rfl, rfl, rfl, rfl, rfl⟩

theorem State.drainQuarantine_empty (quar : (s.ctx n).quar = []) : s.drainQuarantine n = s.onCtx n fun c => { c with quar := [] } := by
  rw [State.drainQuarantine, quar]
  rfl

theorem State.replayImmed_empty (list : (s.ctx n).trap.list = []) : s.replayImmed n = s := by
  unfold State.replayImmed
  dsimp only
  rw [list]
  rfl

theorem State.ctx_resumeHashes (s : State) (n m : Nat) : (s.resumeHashes n).ctx m = s.ctx m := by
  rw [State.resumeHashes]
  refine List.foldlRecOn (motive := fun t : State => t.ctx m = s.ctx m) _ _ rfl fun t same b _ => ?_
  split
  · exact same
  · exact same

/-- What follows the move leaves the context's state, counter and registers. -/
theorem State.settled_restore (quar : (s.ctx n).quar = []) (list : (s.ctx n).trap.list = []) (queue :
    (s.ctx n).port.queue = []) :
    ((((s.drainQuarantine n).replayImmed n).resumeHashes n).settlePort n).ctx n = { s.ctx n with quar := [] } := by
  let u := s.onCtx n fun c => { c with quar := [] }
  have here : u.ctx n = { s.ctx n with quar := [] } := State.ctx_onCtx_same ..
  rw [State.drainQuarantine_empty quar, State.replayImmed_empty (s := u) (by rw [here]; exact list),
    State.settlePort_empty (by rw [State.ctx_resumeHashes, here]; exact queue), State.ctx_resumeHashes, here]

/-- The state from which an area is read: with the split of its core as the restore names it. -/
def State.splitFor (s : State) (r : RestoreCmd) : State :=
  if s.splitFixed (coreOf r.ctx) then s else s.setBlocks (coreOf r.ctx) r.spBlk

theorem State.ctx_dropPages (s : State) (n m : Nat) : (s.dropPages n).ctx m = s.ctx m := rfl

theorem State.ctx_trimMicro (s : State) (core m : Nat) : (s.trimMicro core).ctx m = s.ctx m := State.ctx_onCore ..

theorem State.ctx_takeBoard (s : State) (n m : Nat) : (s.takeBoard n).ctx m = s.ctx m := State.ctx_onCore ..

/-- The state with the area loaded and the context moved, before the effects that it owes. -/
def State.loaded (s : State) (r : RestoreCmd) : State := { s.splitFor r with saved := dropKey r.old (s.splitFor r).saved }.loadArea r

theorem State.ctx_loaded (s : State) (r : RestoreCmd) : (s.loaded r).ctx r.old =
    ((s.splitFor r).ctx r.old).ofArea ((s.splitFor r).areaWords ((s.splitFor r).ctx r.old).id.vf r.area) := by
  rw [State.loaded, State.ctx_loadArea, State.areaWords_saved, State.ctx_saved]

/-- That state with the context in its slot and its entries on the board. -/
def State.broughtBack (s : State) (r : RestoreCmd) : State :=
  ((((s.loaded r).moveContext r).dropPages r.ctx).trimMicro (coreOf r.ctx)).takeBoard r.ctx

theorem State.ctx_broughtBack (s : State) (r : RestoreCmd) : (s.broughtBack r).ctx r.ctx =
    ((s.loaded r).moveContext r).ctx r.ctx := by
  rw [State.broughtBack, State.ctx_takeBoard, State.ctx_trimMicro, State.ctx_dropPages]

theorem State.bringBack_eq {r : RestoreCmd} {sv : Saved} (pend : sv.pend = []) : s.bringBack r sv =
    ((((s.broughtBack r).drainQuarantine r.ctx).replayImmed r.ctx).resumeHashes r.ctx).settlePort r.ctx := by
  unfold State.bringBack State.broughtBack State.loaded State.splitFor
  simp only [pend, List.foldl_nil]

theorem State.bringBack_restores {r : RestoreCmd} {sv : Saved} (pend : sv.pend = []) (quar : (s.ctx r.old).quar = [])
    (list : (s.ctx r.old).trap.list = []) (queue : (s.ctx r.old).port.queue = []) :
    let f := (s.splitFor r).areaWords (s.ctx r.old).id.vf r.area
    ((s.bringBack r sv).ctx r.ctx).life.state = .ready ∧ ((s.bringBack r sv).ctx r.ctx).pc = BitVec.ofNat 64 (f 0x10 8) ∧
      ((s.bringBack r sv).ctx r.ctx).regs = regsOfArea f := by
  intro f
  have same : (s.splitFor r).ctx r.old = s.ctx r.old := by
    unfold State.splitFor
    split
    · rfl
    · exact State.ctx_setBlocks (by simp [queue]) ..
  have loaded : (s.loaded r).ctx r.old = (s.ctx r.old).ofArea f := by
    rw [State.ctx_loaded, same]
  clear_value f
  obtain ⟨quar', list', queue'⟩ := Ctx.ofArea_empty quar list queue f
  obtain ⟨ready, pc, regs, quar'', trap, queue''⟩ := State.moveContext_moves (s.loaded r) r
  rw [loaded, ← State.ctx_broughtBack] at pc regs quar'' trap queue''
  rw [← State.ctx_broughtBack] at ready
  rw [State.bringBack_eq pend,
    State.settled_restore (quar''.trans quar') ((congrArg (·.list) trap).trans list') (queue''.trans queue')]
  dsimp only
  rw [ready, pc, regs, Ctx.ofArea_pc, Ctx.ofArea_regs]
  exact ⟨rfl, rfl, rfl⟩

theorem State.brokenBlock_none (good : s.bad = []) (vf area : Nat) : s.brokenBlock vf area = none := by
  rw [State.brokenBlock, good]
  rfl

theorem State.life_endJobs (s : State) (n m : Nat) : ((s.endJobs n).ctx m).life = (s.ctx m).life :=
  State.life_foldl _ s m fun t j => by
    exact State.life_onCtx (fun c => Ctx.life_subCounter c j.bb j.bytes) t j.ctx m

/-- A saved context that ends is lost if it was. -/
theorem State.endContext_lost (saved : (s.ctx n).life.state = .saved) (mute : Bool) :
    ((s.endContext n mute).ctx n).life.lost = (s.ctx n).life.lost := by
  have void : ∀ k, ((s.voidOpen n k).ctx n).life = (s.ctx n).life := fun k => State.life_foldl _ s n
      fun _ _ => State.life_decideEnvelope ..
  let v := if mute then (s.voidOpen n (if mute then 7 else 6)).endJobs n else s.voidOpen n (if mute then 7 else 6)
  have before : (v.ctx n).life = (s.ctx n).life := by
    simp only [v]
    split
    · exact (State.life_endJobs ..).trans (void _)
    · exact void _
  have skipped : (if (v.ctx n).life.state = .saved then v else v.landStores n) = v := if_pos (by rw [before, saved])
  obtain ⟨f, lost, ended⟩ : ∃ f : Ctx → Ctx, (∀ c, (f c).life.lost = c.life.lost) ∧
      s.endContext n mute = (((((v.dropFetches n).onCtx n f).withdraw n).leaveSets n).abandonDone n).leaveTurn n := by
    refine ⟨fun c => { c.endLife (v.liveSignals n) mute with lv0 := { (c.endLife (v.liveSignals n) mute).lv0 with deferred := c.tileWrites } },
      fun _ => rfl, ?_⟩
    unfold State.endContext
    dsimp only
    rw [skipped]
  rw [ended, State.ctx_leaveTurn, State.life_abandonDone]
  show (((v.dropFetches n).onCtx n f).ctx n).life.lost = _
  rw [State.ctx_onCtx_same, lost]
  exact congrArg Life.lost before

/-- A context whose saved area is lost ends. -/
theorem State.loseSaved_ends (s : State) (n : Nat) (x : Trapped) (extra : Nat) (saved : (s.ctx n).life.state = .saved) :
    ((s.loseSaved n x extra).ctx n).life.state = .draining ∧ ((s.loseSaved n x extra).ctx n).life.lost = true := by
  rw [State.loseSaved]
  dsimp only
  refine ⟨(State.endContext_life ..).1, ?_⟩
  rw [State.endContext_lost]
  · rw [State.ctx_onCtx_same]
  · rw [State.ctx_onCtx_same]
    exact saved

end Sys2Proof.Machine

open Sys2Proof Sys2Proof.Machine

/-- Settles O60: no hearth record is left to offer, an idle context saves without a wait, and a restore keeps through its later steps the
counter and the registers that the area gave. -/
theorem contextUnitEvents : Obligations.ContextUnitEvents := by
  intro s n area r sv c
  refine ⟨execSlotDrainComplete_frees, fun ready none aligned => ?_,
      fun stopped flag mapped queue landings faults array jobs l1 => ?_,
    fun saved old part there ok good => ?_⟩
  · refine ⟨_, (show execStopFlagSet n area s = _ by
      unfold execStopFlagSet
      simp only [show (s.ctx n).life.state = .ready from ready, show
          (s.ctx n).life.stop = Option.none from none, aligned, beq_self_eq_true,
        Bool.true_or, Option.isNone_none, Bool.and_self, decide_true, if_true]
      rfl), ?_⟩
    rw [State.ctx_onCtx_same]
    obtain ⟨flag, state, regs⟩ := Ctx.sampleStop_keeps
      { c with life := { c.life with stop := some area, stopping := c.life.state == .stalled } }
    exact ⟨flag, state.trans ready, regs⟩
  · exact ⟨_, execSaveComplete_saves stopped flag mapped queue landings faults array jobs l1, State.saveContext_saves queue l1 area⟩
  · subst old
    have lookup : (if (s.ctx r.old).life.state = .saved ∧ partOf
        (s.ctx r.old).id.vf = r.part then lookup? r.old s.saved else none) = some sv := by
      rw [if_pos ⟨saved, part⟩, there]
    have run : execRestore r s = if s.restoreWaits r then .next s else match s.badBlock r.old sv r.area with
        | some b => .next (s.loseSaved r.old ⟨.savetag, 0⟩ b)
        | none => .next (s.bringBack r sv) := by
      unfold execRestore
      simp only [lookup, ok, State.brokenBlock_none good, Bool.not_true, Bool.false_eq_true, if_false]
      cases s.badBlock r.old sv r.area <;> rfl
    refine ⟨fun waits => ?_,
        fun now sound pend quar list queue => ⟨s.bringBack r sv, ?_, State.bringBack_restores pend quar list queue⟩,
      fun k now broken => ⟨s.loseSaved r.old ⟨.savetag, 0⟩ k, ?_, State.loseSaved_ends _ _ _ _ saved⟩⟩
    · exact run.trans (by rw [waits]; rfl)
    · exact run.trans (by rw [now, sound]; rfl)
    · exact run.trans (by rw [now, broken]; rfl)
end

section
/-!
PROOFS. The beats of the copy engines and the steps of a collective
    (R211 to R239, R364; O59): what they leave of a context's window and
tiles, and of the jobs.
-/
namespace Sys2Proof.Machine
open Sys2Proof

variable {s t : State} {n : Nat}

/-! ## What a context holds outside its registers -/

/-- The identity of a context, and its array state with the tiles. -/
def Ctx.stored (c : Ctx) : Ident × MatSt := (c.id, c.mat)

@[simp] theorem Ctx.stored_respond (c : Ctx) (l : Landing) : (c.respond l).stored = c.stored := rfl

@[simp] theorem Ctx.stored_addDamage (c : Ctx) (a b d : Nat) : (c.addDamage a b d).stored = c.stored := rfl

@[simp] theorem Ctx.stored_wakeWta (c : Ctx) (hit : Nat → Bool) (read : Nat → Dword) :
    (c.wakeWta hit read).stored = c.stored :=
  List.foldlRecOn (motive := fun d : Ctx => d.stored = c.stored) _ _ rfl fun d same q _ => by
    split
    · exact same
    · exact same

@[simp] theorem Ctx.stored_subCounter (c : Ctx) (bb : Option Nat) (k : Nat) : (c.subCounter bb k).stored = c.stored := by
  have woken : ∀ (d : Ctx) (k : Nat), (d.wakeBbw k).stored = d.stored := fun d k => by
    unfold Ctx.wakeBbw
    split
    · rfl
    · exact List.foldlRecOn (motive := fun x : Ctx => x.stored = d.stored) _ _ rfl fun x same r _ => same
  cases bb with
  | none => rfl
  | some k => exact woken ..

/-- What a context holds in its window and its tiles, and where its window lies. -/
def State.stored (s : State) (n : Nat) : (Ident × MatSt) × Sparse Byte × List Nat :=
  ((s.ctx n).stored, (s.core (coreOf n)).scratch, (s.core (coreOf n)).bad)

theorem State.stored_onCtx {f : Ctx → Ctx} (keep : ∀ c, (f c).stored = c.stored) (s : State) (m n : Nat) :
    (s.onCtx m f).stored n = s.stored n := by
  have same : ((s.onCtx m f).ctx n).stored = (s.ctx n).stored := by
    rw [State.onCtx_eq, State.ctx_setCtx]
    split
    next e => rw [keep, e]
    next => rfl
  exact congrArg (·, _) same

theorem State.stored_onCore {f : Core → Core} (keep : ∀ k, ((f k).scratch, (f k).bad) = (k.scratch, k.bad)) (s :
    State) (m n : Nat) :
    (s.onCore m f).stored n = s.stored n := by
  have same : (((s.onCore m f).core (coreOf n)).scratch, ((s.onCore m f).core (coreOf n)).bad) =
      ((s.core (coreOf n)).scratch, (s.core (coreOf n)).bad) := by
    rw [State.onCore_eq, State.core_setCore]
    split
    next e => rw [keep, e]
    next => rfl
  exact congrArg (_, ·) same

theorem State.stored_foldl {α : Type} {f : State → α → State} (keep : ∀ s a, (f s a).stored n = s.stored n) (l :
    List α) (s : State) :
    (l.foldl f s).stored n = s.stored n :=
  List.foldlRecOn (motive := fun t : State => t.stored n = s.stored n) l f rfl fun t same a _ => (keep t a).trans same

@[simp] theorem State.stored_onJob (s : State) (id : Nat) (f : Job → Job) (n : Nat) :
    (s.onJob id f).stored n = s.stored n := rfl

@[simp] theorem State.stored_visit (s : State) (vf : Nat) (va : Option Nat) (pa : Nat) (hint : BitVec 2) (n : Nat) :
    (s.visit vf va pa hint).stored n = s.stored n := rfl

theorem State.stored_wakeLines (s : State) (hit : Nat → Bool) (n : Nat) : (s.wakeLines hit).stored n = s.stored n := by
  have same : ((s.wakeLines hit).ctx n).stored = (s.ctx n).stored := by
    have woken : lookup? n (s.wakeLines hit).ctxs = (lookup? n s.ctxs).map fun c => c.wakeWta hit s.dword :=
      lookup?_map_snd (fun c : Ctx => c.wakeWta hit s.dword) n s.ctxs
    rw [State.ctx, lookupD, woken, State.ctx, lookupD]
    cases lookup? n s.ctxs with
    | none => rfl
    | some c => exact Ctx.stored_wakeWta ..
  exact congrArg (·, _) same

@[simp] theorem State.stored_wakeAddrs (s : State) (p : Path) (vf : Nat) (as : List Nat) (n : Nat) :
    (s.wakeAddrs p vf as).stored n = s.stored n := State.stored_wakeLines ..

theorem State.stored_homeWrite (s : State) (pa : Nat) (bs : List Byte) (n : Nat) :
    (s.homeWrite pa bs).stored n = s.stored n := by
  unfold State.homeWrite
  split
  · rfl
  · exact State.stored_wakeLines ..

theorem State.stored_writeBack (s : State) (core : Nat) (l : L1Line) (n : Nat) :
    (s.writeBack core l).stored n = s.stored n := by
  unfold State.writeBack
  split
  · rfl
  · dsimp only
    refine (State.stored_onCore (fun _ => by rfl) _ _ _).trans ?_
    exact State.stored_homeWrite ..

@[simp] theorem State.stored_flushCtx (s : State) (m n : Nat) : (s.flushCtx m).stored n = s.stored n :=
  State.stored_foldl (fun _ _ => State.stored_writeBack ..) _ s

@[simp] theorem State.stored_visitAddrs (s : State) (p : Path) (vf : Nat) (as : List Nat) (h : BitVec 2) (n : Nat) :
    (s.visitAddrs p vf as h).stored n = s.stored n := by
  obtain ⟨l, same⟩ := State.core_visitAddrs s p vf as h (coreOf n)
  rw [State.stored, State.ctx_visitAddrs, same, State.stored]

theorem State.stored_addPending (s : State) (m : Nat) (p : Pending) (n : Nat) :
    (s.addPending m p).stored n = s.stored n := by
  unfold State.addPending
  split <;> rfl

theorem State.stored_raiseSem (s : State) (m h v n : Nat) : (s.raiseSem m h v).stored n = s.stored n := by
  unfold State.raiseSem
  split
  · exact State.stored_addPending ..
  · exact State.stored_onCore (fun _ => by rfl) ..

theorem State.stored_completionIncrement (s : State) (j : Job) (n : Nat) :
    (s.completionIncrement j).stored n = s.stored n := by
  unfold State.completionIncrement
  dsimp only
  split_ifs
  · rfl
  · rfl
  · exact State.stored_raiseSem ..
  · refine State.stored_foldl (fun t m => ?_) _ s
    split
    · exact State.stored_raiseSem ..
    · rfl
  · rfl

theorem State.stored_fireSignal (s : State) (m : Nat) (sig : Option Nat) (n : Nat) :
    (s.fireSignal m sig).stored n = s.stored n := by
  unfold State.fireSignal
  split
  next r _ =>
    have left := State.stored_onCtx
      (f := fun c => { c with port := { c.port with queue := c.port.queue.filter fun q => q.id != r.id } }) (fun _ => rfl) s m n
    dsimp only
    split
    · split
      · exact left
      · exact (State.stored_raiseSem ..).trans left
    · exact left
  · rfl

@[simp] theorem State.stored_completeJob (s : State) (j : Job) (n : Nat) : (s.completeJob j).stored n = s.stored n := by
  have counted := State.stored_completionIncrement s j n
  have closed : ∀ u : State, u.stored n = s.stored n →
      ({ u.onCore (coreOf j.ctx) (fun k => { k with board := k.board.filter fun e => e.job != j.id }) with
        jobs := u.jobs.filter fun k => k.id != j.id } : State).stored n = s.stored n := fun u same =>
    (State.stored_onCore (f := fun k => { k with board := k.board.filter fun e => e.job != j.id }) (fun _ => rfl) u (coreOf j.ctx) n).trans same
  unfold State.completeJob
  refine closed _ ?_
  split
  · exact counted
  split
  · exact (State.stored_addPending ..).trans ((State.stored_addPending ..).trans counted)
  · exact (State.stored_fireSignal ..).trans ((State.stored_onCtx (fun _ => Ctx.stored_addDamage ..) ..).trans counted)

@[simp] theorem State.stored_subBytes (s : State) (j : Job) (k n : Nat) : (s.subBytes j k).stored n = s.stored n := by
  unfold State.subBytes
  dsimp only
  split_ifs
  · rfl
  · exact State.stored_addPending ..
  · exact State.stored_onCtx (fun _ => Ctx.stored_subCounter ..) _ _ _

@[simp] theorem State.stored_freeDrain (s : State) (id n : Nat) : (s.freeDrain id).stored n = s.stored n := by
  unfold State.freeDrain
  split
  · split
    · exact State.stored_onCore (fun _ => by rfl) _ _ _
    · rfl
  · rfl

@[simp] theorem State.stored_beatDone (s : State) (job beat bytes n : Nat) :
    (s.beatDone job beat bytes).stored n = s.stored n := by
  unfold State.beatDone
  split
  · rfl
  · split
    · rfl
    · dsimp only
      split
      · split
        · exact (State.stored_completeJob ..).trans (State.stored_subBytes ..)
        · exact State.stored_subBytes ..
      · exact State.stored_subBytes ..

/-! ### Bytes of the window and of the tiles -/

theorem State.spByte_of_stored (same : t.stored n = s.stored n) (a : Nat) : t.spByte n a = s.spByte n a := by
  have id := congrArg (fun x => x.1.1) same
  have scratch := congrArg (fun x => x.2.1) same
  change (t.ctx n).id = (s.ctx n).id at id
  change (t.core (coreOf n)).scratch = (s.core (coreOf n)).scratch at scratch
  rw [State.spByte, id, scratch, State.spByte]

theorem State.spBad_of_stored (same : t.stored n = s.stored n) (a : Nat) : t.spBad n a = s.spBad n a := by
  have id := congrArg (fun x => x.1.1) same
  have bad := congrArg (fun x => x.2.2) same
  change (t.ctx n).id = (s.ctx n).id at id
  change (t.core (coreOf n)).bad = (s.core (coreOf n)).bad at bad
  rw [State.spBad, id, bad, State.spBad]

theorem State.mat_of_stored (same : t.stored n = s.stored n) : (t.ctx n).mat = (s.ctx n).mat := congrArg
    (fun x => x.1.2) same

end Sys2Proof.Machine
end

section
namespace Sys2Proof.Machine
open Sys2Proof

variable {s t : State} {j : Job}

/-! ## Jobs -/

theorem State.find?_map_kept {js : List Job} {id : Nat} (g : Job → Job) (keep : ∀ j, (g j).id = j.id) :
    (js.map g).find? (fun j => j.id == id) = (js.find? fun j => j.id == id).map g := by
  rw [List.find?_map]
  congr 2
  exact funext fun j => by simp [keep]

/-- A job looked up after a change of the jobs of its number. -/
theorem State.job?_onJob {f : Job → Job} {id : Nat} (keep : ∀ j, (f j).id = j.id) (here : s.job? id = some j) :
    (s.onJob id f).job? id = some (f j) := by
  have same : (j.id == id) = true := List.find?_some (p := fun j : Job => j.id == id) here
  rw [State.job?, State.onJob, State.find?_map_kept _
      fun j => by split <;> simp [keep], ← State.job?, here, Option.map_some, if_pos same]

theorem State.job?_id {id : Nat} (here : s.job? id = some j) : j.id = id := by simpa using List.find?_some here

theorem State.job?_of_jobs (same : t.jobs = s.jobs) (id : Nat) :
    t.job? id = s.job? id := by rw [State.job?, same, State.job?]

theorem State.jobs_visitAddrs (s : State) (p : Path) (vf : Nat) (as : List Nat) (h : BitVec 2) :
    (s.visitAddrs p vf as h).jobs = s.jobs := by
  obtain ⟨_, _, touched⟩ := State.touchAll_eq s p vf as
  rw [State.visitAddrs, touched]

theorem State.jobs_freeDrain (s : State) (id : Nat) : (s.freeDrain id).jobs = s.jobs := by
  unfold State.freeDrain
  split
  · split <;> rfl
  · rfl

theorem State.jobs_landLocal (s : State) (n : Nat) (tile : Option Nat) (ws : List (Nat × Byte × Byte)) :
    (s.landLocal n tile ws).jobs = s.jobs :=
  List.foldlRecOn (motive := fun t : State => t.jobs = s.jobs) ws _ rfl fun t same w _ => by
    split
    · exact same
    · exact same

theorem State.jobs_flushCtx (s : State) (n : Nat) : (s.flushCtx n).jobs = s.jobs :=
  List.foldlRecOn (motive := fun t : State => t.jobs = s.jobs) _ _ rfl fun t same l _ => by
    unfold State.writeBack
    split
    · exact same
    · refine Eq.trans ?_ same
      unfold State.homeWrite
      dsimp only
      split <;> rfl

theorem State.jobs_subBytes (s : State) (j : Job) (k : Nat) :
    (s.subBytes j k).jobs = (s.onJob j.id fun j => { j with bytes := j.bytes - k }).jobs := by
  unfold State.subBytes State.addPending
  dsimp only
  repeat' split
  all_goals rfl

/-- A job that completes is gone. -/
theorem State.job?_completeJob (s : State) (j : Job) : (s.completeJob j).job? j.id = none := by
  unfold State.completeJob
  dsimp only
  rw [State.job?, List.find?_eq_none]
  intro i hi
  simpa using (List.mem_filter.1 hi).2

/-- A beat done is done of its job, as long as the job is there. -/
theorem State.beatDone_ends {job : Nat} (here : s.job? job = some j) (beat bytes : Nat) :
    (((s.beatDone job beat bytes).job? job).all fun i => i.done.contains beat) = true := by
  obtain rfl := State.job?_id here
  unfold State.beatDone
  simp only [here]
  split
  next done => rw [here]; exact done
  next =>
    have less : (s.subBytes j bytes).job? j.id = some { j with bytes := j.bytes - bytes } := by
      rw [State.job?_of_jobs (State.jobs_subBytes ..)]
      exact State.job?_onJob (f := fun j => { j with bytes := j.bytes - bytes }) (fun _ => rfl) here
    rw [State.job?_onJob (fun _ => by rfl) less]
    dsimp only
    split
    · exact congrArg (fun o : Option Job => o.all fun i => i.done.contains beat) (State.job?_completeJob ..)
    · rw [State.job?_onJob (fun _ => by rfl) less]
      simp

/-! ## Bytes written in a window and a tile -/

/-- What a byte becomes under writes with masks, of those at the places that count for it. -/
def bytesMade (ws : List (Nat × Byte × Byte)) (hit : Nat → Bool) (old : Byte) : Byte :=
  ws.foldl (fun v w => if hit w.1 then maskedByte v w else v) old

theorem bytesMade_out {ws : List (Nat × Byte × Byte)} {hit : Nat → Bool} (out : ∀ w ∈ ws, hit w.1 = false) (old : Byte) :
    bytesMade ws hit old = old :=
  List.foldlRecOn (motive := fun v : Byte => v = old) ws _ rfl fun v same w hw => by rw [out w hw]; exact same

/-- A whole byte written once is what the write gives. -/
theorem bytesMade_once {ws : List (Nat × Byte × Byte)} (once : (ws.map (·.1)).Nodup) {w : Nat × Byte × Byte} (hw : w ∈ ws)
    (whole : w.2.1 = 0xFF) (old : Byte) : bytesMade ws (· == w.1) old = w.2.2 := by
  induction ws generalizing old with
  | nil => cases hw
  | cons x xs ih =>
    obtain ⟨fresh, once⟩ := List.nodup_cons.1 once
    rcases List.mem_cons.1 hw with rfl | hw
    · obtain ⟨a, m, v⟩ := w
      subst whole
      have out : ∀ y ∈ xs, (y.1 == a) = false := fun y hy =>
        beq_eq_false_iff_ne.2 fun same => fresh (List.mem_map.2 ⟨y, hy, same⟩)
      rw [bytesMade, List.foldl_cons, beq_self_eq_true, if_pos rfl, maskedByte_whole]
      exact bytesMade_out (hit := (· == a)) out v
    · have ne : (x.1 == w.1) = false := beq_eq_false_iff_ne.2 fun same => fresh (List.mem_map.2 ⟨w, hw, same.symm⟩)
      rw [bytesMade, List.foldl_cons, ne]
      exact ih once hw old

theorem State.spByte_landByte (s : State) (n : Nat) (w : Nat × Byte × Byte) (a : Nat) :
    (s.landByte n w).spByte n a = if w.1 == a then maskedByte (s.spByte n a) w else s.spByte n a := by
  rw [State.landByte, State.spByte_onCtx (fun _ => by rfl), State.spByte_setSpByte]
  by_cases same : a = w.1
  · rw [if_pos same, if_pos (by simp [same]), same]
  · rw [if_neg same, if_neg (by simpa using Ne.symm same)]

/-- Writes landed in a window make its bytes. -/
theorem State.spByte_landLocal (s : State) (n : Nat) (ws : List (Nat × Byte × Byte)) (a : Nat) :
    (s.landLocal n none ws).spByte n a = bytesMade ws (· == a) (s.spByte n a) := by
  induction ws generalizing s with
  | nil => rfl
  | cons w ws ih => exact (ih (s.landByte n w)).trans (by rw [State.spByte_landByte]; rfl)

/-- Writes landed in a tile make its bytes. -/
theorem State.tileByte_landLocal (s : State) (n i : Nat) (ws : List (Nat × Byte × Byte)) (a : Nat) :
    ((s.landLocal n (some i) ws).ctx n).tileByte i a = bytesMade ws (· == a) ((s.ctx n).tileByte i a) := by
  induction ws generalizing s with
  | nil => rfl
  | cons w ws ih =>
    have one : ((s.onCtx n fun c => c.setTileByte i (w.1, maskedByte (c.tileByte i w.1) w)).ctx n).tileByte i a =
        if w.1 == a then maskedByte ((s.ctx n).tileByte i a) w else (s.ctx n).tileByte i a := by
      have key : 8192 * i + a = 8192 * i + w.1 ↔ w.1 = a := by omega
      rw [State.ctx_onCtx_same, Ctx.tileByte, Ctx.setTileByte]
      dsimp only
      rw [lookupD_sparseSet]
      by_cases same : w.1 = a
      · rw [if_pos (key.2 same), if_pos (beq_iff_eq.2 same), same]
      · rw [if_neg fun h => same (key.1 h), if_neg (by simpa using same)]
        rfl
    refine (ih _).trans ?_
    rw [one]
    rfl

end Sys2Proof.Machine
end

section
namespace Sys2Proof.Machine
open Sys2Proof

variable {s t : State} {j : Job} {beat : Nat} {b : Nat × Nat} {x : Beat} {order : List Nat}

/-! ## A beat whose bytes are there (R211, R221, R224 to R226) -/

/-- The damage of a beat counted for its job. -/
def State.damaged (s : State) (j : Job) (c : Carried) : State :=
  s.onJob j.id fun j => { j with damage := Damage.add j.damage (j.beatDamage c) }

/-- A beat with its bytes there goes on to its landing. -/
theorem execBeatComplete_finishes (here : s.job? j.id = some j) (cut : j.beatList[beat]? = some b)
    (found : j.beats.find? (fun y => y.num == beat) = some x) (running : j.frozen = false) (clean : x.fault = none)
        (going : x.parked = false)
    (whole : ∀ a ∈ j.sourceBytes b, (lookup? a x.bytes).isSome = true) (packets : s.packets = []) (frames : s.frames = []) :
    ∃ js i, ({ s with jobs := js } : State).job? j.id = some i ∧
      execBeatComplete j.id beat order s = .next ((({ s with jobs := js } : State).finishBeat j x b order).freeDrain j.id) := by
  let u := s.onBeat j.id beat fun x => { x with parked := false }
  let i : Job := { j with beats := j.beats.map fun y => if y.num == beat then { y with parked := false } else y }
  have taken : u.takeAnswer j beat (j.sourceBytes b) = u := by
    unfold State.takeAnswer State.answerFor State.hostAnswer
    rw [show u.packets = [] from packets, show u.frames = [] from frames]
    rfl
  have jobs : u.job? j.id = some i :=
    State.job?_onJob (f := fun j => { j with beats := j.beats.map fun y => if y.num == beat then { y with parked := false } else y })
      (fun _ => rfl) here
  have kept : i.beats.find? (fun y => y.num == beat) = some x := by
    have mine : (x.num == beat) = true := List.find?_some (p := fun y : Beat => y.num == beat) found
    have same : (fun y : Beat => y.num == beat) ∘ (fun y : Beat => if y.num == beat then { y with parked := false } else y) =
        fun y => y.num == beat := funext fun y => by
      simp only [Function.comp]
      split <;> rfl
    rw [List.find?_map, same, found, Option.map_some, if_pos mine, ← going]
  refine ⟨u.jobs, i, jobs, ?_⟩
  unfold execBeatComplete
  simp only [here, found, cut, running, State.beatWaits, going, Bool.false_and, Bool.false_eq_true, if_false]
  rw [show (s.onBeat j.id beat fun x => { x with parked := false }) = u from rfl, taken]
  simp only [jobs, Option.bind_some, kept, clean]
  rw [if_pos (List.all_eq_true.2 whole)]
  rfl

/-- A beat within the device whose writes may be made lands. -/
theorem State.finishBeat_lands (near : j.dst.space ≠ 2 ∧ j.dst.space ≠ 3) (may : s.mayLand j (j.landAddrs b
    (j.carry b x.bytes) order) = true)
    (clean : (if j.dst.space = 0 then s.engineViolation j .write (j.landAddrs b (j.carry b x.bytes) order) else none) = none)
    (landed : (s.damaged j (j.carry b x.bytes)).landBeat j x.num b (j.carry b x.bytes) order = (t, none)) :
    ∃ k, s.finishBeat j x b order = { t with free := k } := by
  refine ⟨t.free + 4096, ?_⟩
  obtain ⟨peer, host⟩ := near
  have inside : (decide (j.dst.space = 2) || decide (j.dst.space = 3)) = false := by simp [peer, host]
  unfold State.finishBeat
  simp only [inside, Bool.false_and, Bool.false_eq_true, if_false, may, Bool.not_true, clean]
  rw [show (s.onJob j.id fun i => { i with damage := Damage.add i.damage (i.beatDamage (j.carry b x.bytes)) }) = s.damaged j (j.carry b x.bytes)
    from rfl, landed]

/-- A beat for a window or a tile of a running context is landed there. -/
theorem State.landBeat_local (space : j.dst.space = 1 ∨ j.dst.space = 4) (starts : s.startsFor j.ctx = true) (c : Carried) :
    ∃ owed, s.landBeat j beat b c order = ((s.landLocal j.ctx (if j.dst.space = 4 then some j.dst.tile else none)
      (j.copyWrites b c order s.free)).beatDone j.id beat owed, none) := by
  refine ⟨j.owed b (j.done.filterMap fun i => j.beatList[i]?), ?_⟩
  unfold State.landBeat
  obtain space | space := space
  · simp only [space, starts, if_true]
  · simp only [space, starts, if_true]

/-- A master that may write ordinary memory meets no ember cell there, whether or not it may read it. -/
theorem State.emberMet_written {p : Path} {vf : Nat} {as : List Nat} {phys : Nat → Nat}
    (maps : ∀ a ∈ as, s.xlate p vf a .write = .ok (phys a) false) : s.emberMet p vf as = none := by
  rw [State.emberMet, List.find?_eq_none]
  intro a ha
  have writes := maps a ha
  unfold State.xlate at writes ⊢
  split at writes
  · cases writes
  next e _ =>
    split at writes
    · cases writes
    · injection writes with _ plain
      rw [plain]
      cases Need.read.refused e.bits <;> exact Bool.false_ne_true

/-- Writes at addresses that translate to ordinary memory are made there. -/
theorem State.masterWrites_mapped {p : Path} {vf : Nat} {ws : List (Nat × Byte × Byte)} (kindle : Bool) (phys : Nat → Nat)
    (maps : ∀ w ∈ ws, s.xlate p vf w.1 .write = .ok (phys w.1) false) :
    ∃ bad, s.masterWrites p vf kindle ws =
      (({ s with mem := (s.putMasked phys ws).mem, bad := bad } : State).wakeAddrs p vf (ws.map (·.1)), none) := by
  obtain ⟨bad, made⟩ := State.masterBytes_mapped (s := s) (p := p) (vf := vf) kindle phys _ maps
  have met : (if kindle then none else s.emberMet p vf (ws.map (·.1))) = none := by
    split
    · rfl
    · exact State.emberMet_written (phys := phys) fun a ha => by
        obtain ⟨w, hw, rfl⟩ := List.mem_map.1 ha
        exact maps w hw
  refine ⟨bad, ?_⟩
  rw [State.masterWrites, met]
  dsimp only
  rw [made]
  rfl

/-- A beat for device memory is landed in the bytes that its addresses name. -/
theorem State.landBeat_mem (space : j.dst.space = 0) (plain : j.k.redop = 0) (c : Carried) (phys : Nat → Nat)
    (maps : ∀ w ∈ j.copyWrites b c order s.free, s.xlate j.path j.vf w.1 .write = .ok (phys w.1) false) :
    ∃ owed bad, s.landBeat j beat b c order =
      ((((({ s with mem := (s.putMasked phys (j.copyWrites b c order s.free)).mem, bad := bad } : State).wakeAddrs j.path j.vf
        ((j.copyWrites b c order s.free).map (·.1))).visitAddrs j.path j.vf (dedupAdj
            ((j.copyWrites b c order s.free).map (·.1)))
          j.dst.hint).beatDone j.id beat owed), none) := by
  obtain ⟨bad, written⟩ := State.masterWrites_mapped (s := s) j.k.kindle phys maps
  refine ⟨j.owed b (j.done.filterMap fun i => j.beatList[i]?), bad, ?_⟩
  unfold State.landBeat
  simp only [space, plain, written, if_true, Option.isSome_none, Bool.false_eq_true, if_false]

/-- Of writes to the bytes that their addresses name, each byte is made by those that name it. -/
theorem State.byte_putMasked (s : State) (phys : Nat → Nat) (ws : List (Nat × Byte × Byte)) (pa : Nat) :
    (s.putMasked phys ws).byte pa = bytesMade ws (fun a => phys a == pa) (s.byte pa) := by
  induction ws generalizing s with
  | nil => rfl
  | cons w ws ih =>
    refine (ih (s.setBytes (phys w.1) [maskedByte (s.byte (phys w.1)) w])).trans ?_
    have one : (s.setBytes (phys w.1) [maskedByte (s.byte (phys w.1)) w]).byte pa =
        if phys w.1 == pa then maskedByte (s.byte pa) w else s.byte pa := by
      by_cases same : phys w.1 = pa
      · rw [if_pos (by simpa using same), ← same]
        rw [State.byte_setBytes, if_pos ⟨Nat.le_refl _, Nat.lt_succ_self _⟩, Nat.sub_self]
        rfl
      · rw [if_neg (by simpa using same), State.byte_setBytes, if_neg fun h => same (Nat.le_antisymm h.1
          (Nat.le_of_lt_succ h.2))]
    rw [one]
    rfl

/-- An engine whose addresses all translate meets no violation there. -/
theorem State.engineViolation_none {need : Need} {as : List Nat} {phys : Nat → Nat}
    (maps : ∀ a ∈ as, s.xlate j.path j.vf a need = .ok (phys a) false) : s.engineViolation j need as = none := by
  rw [State.engineViolation, List.findSome?_eq_none_iff]
  intro a ha
  rw [maps a ha]

theorem State.mayLand_mem {as : List Nat} (space : j.dst.space = 0) (dests : s.dests = []) (met :
    s.engineMissing j as = none) :
    s.mayLand j as = true := by
  simp only [State.mayLand, space, met, Option.isNone_none, Bool.true_and, Bool.not_eq_true', List.any_eq_false]
  intro a _
  split
  · rw [State.isHeld_of_none dests]
    exact Bool.false_ne_true
  · exact Bool.false_ne_true

/-- A beat is done, and what follows its landing leaves memory and what the posting context holds. -/
theorem State.landed_keeps {u : State} {i : Job} {owed n k : Nat} (here : u.job? j.id = some i) :
    let t := ({ u.beatDone j.id beat owed with free := k } : State).freeDrain j.id
    ((t.job? j.id).all fun i => i.done.contains beat) = true ∧ t.mem = u.mem ∧ t.stored n = u.stored n := by
  intro t
  refine ⟨?_, ?_, ?_⟩
  · rw [State.job?_of_jobs (State.jobs_freeDrain ..)]
    exact State.beatDone_ends here beat owed
  · exact (State.mem_freeDrain ..).trans (State.mem_beatDone ..)
  · exact (State.stored_freeDrain ..).trans (State.stored_beatDone ..)

section
variable (here : s.job? j.id = some j) (cut : j.beatList[beat]? = some b) (found : j.beats.find?
    (fun y => y.num == beat) = some x)
  (running : j.frozen = false) (clean : x.fault = none) (going : x.parked = false)
  (whole : ∀ a ∈ j.sourceBytes b, (lookup? a x.bytes).isSome = true) (packets : s.packets = []) (frames : s.frames = [])
include here cut found running clean going whole packets frames

/-- A beat for a window or a tile: done, memory as it was, and its writes made. -/
theorem execBeatComplete_local (space : j.dst.space = 1 ∨ j.dst.space = 4) (starts : s.startsFor j.ctx = true) :
    ∃ (t : State) (js : List Job), execBeatComplete j.id beat order s = .next t ∧
      ((t.job? j.id).all fun i => i.done.contains beat) = true ∧ s.sameMemory t ∧
      t.stored j.ctx = (({ s with jobs := js } : State).landLocal j.ctx (if j.dst.space = 4 then some j.dst.tile else none)
        (j.copyWrites b (j.carry b x.bytes) order s.free)).stored j.ctx := by
  obtain rfl : x.num = beat := by simpa using List.find?_some found
  obtain ⟨js, i, job, run⟩ := execBeatComplete_finishes (order := order)
      here cut found running clean going whole packets frames
  let u : State := { s with jobs := js }
  let v := u.damaged j (j.carry b x.bytes)
  obtain ⟨owed, landed⟩ := State.landBeat_local (s := v) (beat := x.num) (b := b) (order := order) space starts
      (j.carry b x.bytes)
  rw [show v.free = s.free from rfl] at landed
  obtain ⟨k, finished⟩ := State.finishBeat_lands (s := u) (x := x) (b := b) (order := order) (j := j) (by omega)
    (by obtain space | space := space <;> simp only [State.mayLand, space]) (if_neg (by omega)) (landed)
  have job' : v.job? j.id = some { i with damage := Damage.add i.damage (i.beatDamage (j.carry b x.bytes)) } :=
    State.job?_onJob (f := fun i => { i with damage := Damage.add i.damage (i.beatDamage (j.carry b x.bytes)) }) (fun _ => rfl) job
  obtain ⟨done, mem, held⟩ := State.landed_keeps (u := v.landLocal j.ctx (if j.dst.space = 4 then some j.dst.tile else none)
    (j.copyWrites b (j.carry b x.bytes) order s.free)) (beat := x.num) (owed := owed) (n := j.ctx) (k := k)
    ((State.job?_of_jobs (State.jobs_landLocal ..) _).trans job')
  refine ⟨_, v.jobs, run.trans (congrArg (fun t : State => Host.Outcome.next (t.freeDrain j.id)) finished), done,
    State.sameMemory_of_mem (mem.trans (State.mem_landLocal ..)), held⟩

/-- A beat for device memory: done, and the bytes that its addresses name as its writes make them. -/
theorem execBeatComplete_mem (space : j.dst.space = 0) (plain : j.k.redop = 0) (dests : s.dests = [])
    (met : s.engineMissing j (j.landAddrs b (j.carry b x.bytes) order) = none) (phys : Nat → Nat)
    (maps : ∀ a ∈ (j.copyWrites b (j.carry b x.bytes) order s.free).map (·.1) ++ j.landAddrs b (j.carry b x.bytes) order,
      s.xlate j.path j.vf a .write = .ok (phys a) false) :
    ∃ t : State, execBeatComplete j.id beat order s = .next t ∧ ((t.job? j.id).all fun i => i.done.contains beat) = true ∧
      ∀ pa, t.byte pa = bytesMade (j.copyWrites b (j.carry b x.bytes) order s.free) (fun a => phys a == pa) (s.byte pa) := by
  obtain rfl : x.num = beat := by simpa using List.find?_some found
  obtain ⟨js, i, job, run⟩ := execBeatComplete_finishes (order := order)
      here cut found running clean going whole packets frames
  let u : State := { s with jobs := js }
  let v := u.damaged j (j.carry b x.bytes)
  obtain ⟨owed, bad, landed⟩ := State.landBeat_mem (s := v) (beat := x.num) (b := b) (order := order) space plain
      (j.carry b x.bytes) phys
    fun w hw => maps w.1 (List.mem_append_left _ (List.mem_map.2 ⟨w, hw, rfl⟩))
  rw [show v.free = s.free from rfl] at landed
  have sound : u.engineViolation j .write (j.landAddrs b (j.carry b x.bytes) order) = none :=
    State.engineViolation_none (phys := phys) fun a ha => maps a (List.mem_append_right _ ha)
  have may : u.mayLand j (j.landAddrs b (j.carry b x.bytes) order) = true := State.mayLand_mem space dests met
  obtain ⟨k, finished⟩ := State.finishBeat_lands (s := u) (x := x) (b := b) (order := order) (j := j) (by omega) may
    ((if_pos space).trans sound) (landed)
  have job' : v.job? j.id = some { i with damage := Damage.add i.damage (i.beatDamage (j.carry b x.bytes)) } :=
    State.job?_onJob (f := fun i => { i with damage := Damage.add i.damage (i.beatDamage (j.carry b x.bytes)) }) (fun _ => rfl) job
  let w : State := ({ v with mem := (v.putMasked phys (j.copyWrites b (j.carry b x.bytes) order s.free)).mem, bad := bad } : State).wakeAddrs
    j.path j.vf ((j.copyWrites b (j.carry b x.bytes) order s.free).map (·.1))
  obtain ⟨done, mem, -⟩ := State.landed_keeps (u := w.visitAddrs j.path j.vf
      (dedupAdj ((j.copyWrites b (j.carry b x.bytes) order s.free).map (·.1))) j.dst.hint) (beat := x.num)
          (owed := owed) (n := j.ctx) (k := k)
    ((State.job?_of_jobs (State.jobs_visitAddrs ..) _).trans job')
  refine ⟨_, run.trans (congrArg (fun t : State => Host.Outcome.next (t.freeDrain j.id)) finished), done, fun pa => ?_⟩
  exact (State.sameMemory_of_mem (s := w) (mem.trans (State.visitAddrs_mem ..)) pa).trans (State.byte_putMasked v phys _ pa)

end

end Sys2Proof.Machine
end

section
namespace Sys2Proof.Machine
open Sys2Proof

variable {s t : State} {i j : Job} {beat : Nat} {b : Nat × Nat} {y : Beat}

/-! ## A beat that starts reads its source (R211, R221, R233) -/

theorem lookup?_putBytes {as : List Nat} (f : Nat → Byte) {a : Nat} (l : Assoc Byte) :
    lookup? a (putBytes as (as.map f) l) = if a ∈ as then some (f a) else lookup? a l := by
  rw [putBytes]
  induction as generalizing l with
  | nil => rfl
  | cons x xs ih =>
    refine (ih _).trans ?_
    rw [lookup?_assocSet]
    by_cases same : a = x
    · simp [same]
    · simp [same]

theorem find?_onBeats {bs : List Beat} {f : Beat → Beat} (keep : ∀ b, (f b).num = b.num) (found : bs.find?
    (fun b => b.num == beat) = some y) :
    (bs.map fun b => if b.num == beat then f b else b).find? (fun b => b.num == beat) = some (f y) := by
  have mine : (y.num == beat) = true := List.find?_some (p := fun b : Beat => b.num == beat) found
  have same : (fun b : Beat => b.num == beat) ∘ (fun b : Beat => if b.num == beat then f b else b) =
      fun b => b.num == beat :=
    funext fun b => by
      simp only [Function.comp]
      split
      · rw [keep]
      · rfl
  rw [List.find?_map, same, found, Option.map_some, if_pos mine]

theorem State.job?_onBeat {bs : List Beat} (f : Beat → Beat) (here : t.job? i.id = some { i with beats := bs }) :
    (t.onBeat i.id beat f).job? i.id = some { i with beats := bs.map fun b => if b.num == beat then f b else b } :=
  State.job?_onJob (f := fun j => { j with beats := j.beats.map fun b => if b.num == beat then f b else b }) (fun _ => rfl) here

/-- The job as it reads: its beats alone have changed, and the bytes that the beat holds are those of memory. -/
structure State.Reads (s : State) (i : Job) (beat : Nat) (byte : Nat → Byte) (as : List Nat) (t : State) : Prop where
  frame : ∃ js, t = { s with jobs := js }
  read : ∃ bs y, t.job? i.id = some { i with beats := bs } ∧ bs.find? (fun b => b.num == beat) = some y ∧ y.num = beat ∧ y.fault = none ∧
    (∀ a v, lookup? a y.bytes = some v → v = byte a) ∧ ∀ a ∈ as, (lookup? a y.bytes).isSome = true

/-- A byte of ordinary memory read for a beat. -/
theorem State.Reads.byte {byte : Nat → Byte} {as : List Nat} (h : s.Reads i beat byte as t) {a : Nat} (as' : List Nat)
    (new : ∀ x ∈ as', x = a ∨ x ∈ as) :
    s.Reads i beat byte as' (t.onBeat i.id beat fun b => { b with bytes := assocSet a (byte a) b.bytes }) := by
  obtain ⟨⟨js, rfl⟩, bs, y, job, found, num, clean, right, there⟩ := h
  let f : Beat → Beat := fun b => { b with bytes := assocSet a (byte a) b.bytes }
  refine ⟨⟨_, rfl⟩, _, f y, State.job?_onBeat f job, find?_onBeats (fun _ => rfl) found, num, clean,
      fun x v hv => ?_, fun x hx => ?_⟩
  · rw [lookup?_assocSet] at hv
    split at hv
    next e => rw [e]; exact (Option.some.inj hv).symm
    next => exact right x v hv
  · rw [lookup?_assocSet]
    split
    · rfl
    next ne => exact there x ((new x hx).resolve_left ne)

/-- The bytes of a beat hold one for the address. -/
def State.hasByte (s : State) (id beat a : Nat) : Bool :=
  ((s.job? id).bind fun j => j.beats.find? fun b => b.num == beat).any fun b => (lookup? a b.bytes).isSome

/-- A byte of ordinary memory, with no envelope and no error in the way, is read unless it is there. -/
theorem State.readLocal_cons (a : Nat) (as : List Nat) {pa : Nat} (maps : s.xlate j.path j.vf a .read = .ok pa false)
    (dests : s.dests = [])
    (bad : s.bad = []) (waiters : s.waiters = []) :
    s.readLocal j beat (a :: as) = (if s.hasByte j.id beat a then s else
      s.onBeat j.id beat fun b => { b with bytes := assocSet a (s.byte pa) b.bytes }).readLocal j beat as := by
  unfold State.readLocal
  rw [List.foldl_cons]
  congr 1
  dsimp only
  rw [maps]
  simp only [waiters, List.any_nil, Bool.or_false, State.isHeld_of_none dests, bad, List.contains_nil, Bool.false_eq_true, if_false,
    Bool.not_false, Bool.true_or, if_true]
  rw [← State.hasByte]
  split <;> rfl

/-- A list of addresses of ordinary memory is read for a beat. -/
theorem State.readLocal_reads (same : j.id = i.id) (phys : Nat → Nat) (dests : s.dests = []) (bad : s.bad = [])
    (waiters : s.waiters = [])
    (todo : List Nat) (maps : ∀ a ∈ todo, s.xlate j.path j.vf a .read = .ok (phys a) false) :
    ∀ (done : List Nat) (t : State), s.Reads i beat (fun a => s.byte (phys a)) done t →
      ∃ u, t.readLocal j beat todo = some (.ok u) ∧ s.Reads i beat (fun a => s.byte (phys a)) (done ++ todo) u := by
  induction todo with
  | nil => exact fun done t reads => ⟨t, rfl, by rwa [List.append_nil]⟩
  | cons a todo ih =>
    intro done t reads
    have next := ih fun x hx => maps x (List.mem_cons_of_mem _ hx)
    obtain ⟨⟨js, eq⟩, bs, y, job, found, num, clean, right, there⟩ := id reads
    have reads' : s.Reads i beat (fun a => s.byte (phys a)) (done ++ [a]) (if t.hasByte j.id beat a then t else
        t.onBeat j.id beat fun b => { b with bytes := assocSet a (t.byte (phys a)) b.bytes }) := by
      split
      next has =>
        rw [State.hasByte, same, job, Option.bind_some, found, Option.any_some] at has
        refine ⟨⟨js, eq⟩, bs, y, job, found, num, clean, right, fun x hx => ?_⟩
        rcases List.mem_append.1 hx with hx | hx
        · exact there x hx
        · rwa [List.mem_singleton.1 hx]
      next =>
        rw [same, show t.byte (phys a) = s.byte (phys a) by rw [eq]; rfl]
        exact State.Reads.byte (byte := fun a => s.byte (phys a)) reads _ fun x hx => by simpa [or_comm] using hx
    obtain ⟨u, run, all⟩ := next _ _ reads'
    refine ⟨u, ?_, by simpa using all⟩
    subst eq
    exact (State.readLocal_cons (s := { s with jobs := js }) a todo (maps a List.mem_cons_self) dests bad waiters).trans run

/-- The state in which a started beat reads: the lines of the context written back, the turn of the engine taken, the beat in flight. -/
def State.beatBegun (s : State) (j : Job) (beat : Nat) : State :=
  let rot := lookupD {} (coreOf j.ctx / 4) s.rots
  let u := { s.flushCtx j.ctx with
    rots := assocSet (coreOf j.ctx / 4) { vf := some j.vf, ctx := assocSet j.vf j.ctx rot.ctx } s.rots }
  u.onJob j.id fun j => { j with started := true, beats := j.beats ++ [{ num := beat }] }

theorem State.beatBegun_job (here : s.job? j.id = some j) (beat : Nat) :
    (s.beatBegun j beat).job? j.id = some { j with started := true, beats := j.beats ++ [{ num := beat }] } :=
  State.job?_onJob (f := fun j => { j with started := true, beats := j.beats ++ [{ num := beat }] }) (fun _ => rfl)
    ((State.job?_of_jobs (State.jobs_flushCtx s j.ctx) j.id).trans here)

/-- The next beat of a job is not in flight. -/
theorem Job.nextBeat_fresh (next : j.nextBeat = some beat) : ∀ y ∈ j.beats, y.num ≠ beat := by
  intro y hy same
  have free := List.find?_some next
  simp only [Bool.and_eq_true, Bool.not_eq_true', List.any_eq_false] at free
  exact free.2 y hy (by simpa using same)

theorem find?_append_fresh {bs : List Beat} (fresh : ∀ y ∈ bs, y.num ≠ beat) :
    (bs ++ [({ num := beat } : Beat)]).find? (fun b => b.num == beat) = some { num := beat } := by
  rw [List.find?_append, List.find?_eq_none.2 fun y hy => by simpa using fresh y hy]
  simp

theorem State.stored_beatBegun (s : State) (j : Job) (beat n : Nat) : (s.beatBegun j beat).stored n = s.stored n :=
  State.stored_flushCtx s j.ctx n

/-- A beat whose read is made is started. -/
theorem execBeatStart_starts (here : s.job? j.id = some j) (cut : j.beatList[beat]? = some b)
    (turn : s.nextJob (coreOf j.ctx / 4) = some j) (next : j.nextBeat = some beat) (near : j.src.space ≠ 3)
    (host : j.dst.space = 3 → s.hostEntry j ≠ none)
    (clean : (if j.src.space = 0 then (s.beatBegun j beat).engineViolation j .read (j.sourceBytes b) else none) = none)
    (read : (s.beatBegun j beat).readBeat j beat b = some (.ok t)) : execBeatStart j.id beat s = .next
        (t.freeDrain j.id) := by
  have kept : (s.beatBegun j beat).hostEntry j = s.hostEntry j := by
    have vfs : (s.beatBegun j beat).vfs = s.vfs := State.vfs_writeBackIf ..
    rw [State.hostEntry, State.vf, vfs, State.hostEntry, State.vf]
  have entry : ((j.src.space == 3 || j.dst.space == 3) && ((s.beatBegun j beat).hostEntry j).isNone) = false := by
    rw [kept, Bool.and_eq_false_iff]
    by_cases out : j.dst.space = 3
    · exact .inr (Option.isNone_eq_false_iff.2 (Option.isSome_iff_ne_none.2 (host out)))
    · exact .inl (by simp [near, out])
  unfold execBeatStart
  simp only [here, turn, next, cut, Option.map_some, ne_eq, not_true_eq_false, if_false]
  unfold State.beatBegun at clean entry read
  simp only [clean, entry, Bool.false_eq_true, if_false, read]

/-- The job has started and a beat of it holds the byte of each address. -/
def State.HasRead (s : State) (id beat : Nat) (as : List Nat) (byte : Nat → Byte) : Prop :=
  ∃ i y, s.job? id = some i ∧ i.started = true ∧ y ∈ i.beats ∧ y.num = beat ∧ ∀ a ∈ as, lookup? a y.bytes = some (byte a)

theorem State.HasRead.of_jobs {u : State} {as : List Nat} {byte : Nat → Byte} {id : Nat} (h :
    s.HasRead id beat as byte) (same : u.jobs = s.jobs) :
    u.HasRead id beat as byte := by
  obtain ⟨i, y, job, rest⟩ := h
  exact ⟨i, y, (State.job?_of_jobs same id).trans job, rest⟩

section
variable (here : s.job? j.id = some j) (cut : j.beatList[beat]? = some b)
  (turn : s.nextJob (coreOf j.ctx / 4) = some j) (next : j.nextBeat = some beat) (host :
      j.dst.space = 3 → s.hostEntry j ≠ none)
include here cut turn next host

/-- Bytes of a window or a tile given to a beat that starts. -/
theorem execBeatStart_gives (space : j.src.space = 1 ∨ j.src.space = 4) (byte : Nat → Byte)
    (read : (s.beatBegun j beat).readBeat j beat b = some (.ok ((s.beatBegun j beat).onBeat j.id beat fun x =>
      { x with bytes := putBytes (j.sourceBytes b) ((j.sourceBytes b).map byte) x.bytes }))) :
    ∃ t, execBeatStart j.id beat s = .next t ∧ t.HasRead j.id beat (j.sourceBytes b) byte := by
  let f : Beat → Beat := fun x => { x with bytes := putBytes (j.sourceBytes b) ((j.sourceBytes b).map byte) x.bytes }
  let i : Job := { j with started := true }
  refine ⟨_, execBeatStart_starts here cut turn next (by omega) host (if_neg (by omega)) read,
    State.HasRead.of_jobs (s := (s.beatBegun j beat).onBeat i.id beat f) ?_ (State.jobs_freeDrain ..)⟩
  have job := State.job?_onBeat (i := i) (beat := beat) f (State.beatBegun_job here beat)
  have found := find?_onBeats (f := f) (fun _ => rfl) (find?_append_fresh (Job.nextBeat_fresh next))
  exact ⟨_, f { num := beat }, job, rfl, List.mem_of_find?_eq_some found, rfl, fun a ha => by
    rw [lookup?_putBytes, if_pos ha]⟩

theorem execBeatStart_window (space : j.src.space = 1) (good : ∀ a ∈ j.sourceBytes b, s.spBad j.ctx a = false) :
    ∃ t, execBeatStart j.id beat s = .next t ∧ t.HasRead j.id beat (j.sourceBytes b) (s.spByte j.ctx) := by
  refine execBeatStart_gives here cut turn next host (.inl space) _ ?_
  have same := State.stored_beatBegun s j beat j.ctx
  have none : (j.sourceBytes b).find? ((s.beatBegun j beat).spBad j.ctx) = none :=
    List.find?_eq_none.2 fun a ha => by rw [State.spBad_of_stored same, good a ha]; exact Bool.false_ne_true
  unfold State.readBeat
  simp only [space, none]
  rw [show (s.beatBegun j beat).spByte j.ctx = s.spByte j.ctx from funext (State.spByte_of_stored same)]

theorem execBeatStart_tile (space : j.src.space = 4) (good : ∀ a ∈ j.sourceBytes b, 8192 * j.src.tile + a ∉
    (s.ctx j.ctx).mat.bad) :
    ∃ t, execBeatStart j.id beat s = .next t ∧ t.HasRead j.id beat (j.sourceBytes b)
        ((s.ctx j.ctx).tileByte j.src.tile) := by
  refine execBeatStart_gives here cut turn next host (.inr space) _ ?_
  have same := State.mat_of_stored (State.stored_beatBegun s j beat j.ctx)
  have none : (j.sourceBytes b).find? (fun a => ((s.beatBegun j beat).ctx j.ctx).mat.bad.contains
      (8192 * j.src.tile + a)) = none :=
    List.find?_eq_none.2 fun a ha => by rw [same]; simpa using good a ha
  unfold State.readBeat
  simp only [space, none]
  rw [show ((s.beatBegun j beat).ctx j.ctx).tileByte j.src.tile = (s.ctx j.ctx).tileByte j.src.tile from funext fun a => by
    rw [Ctx.tileByte, same, Ctx.tileByte]]

theorem execBeatStart_mem (space : j.src.space = 0) (l1 : (s.core (coreOf j.ctx)).l1 = []) (dests : s.dests = [])
    (bad : s.bad = [])
    (waiters : s.waiters = []) (phys : Nat → Nat) (maps : ∀ a ∈ j.sourceBytes b, s.xlate j.path j.vf a .read = .ok
        (phys a) false) :
    ∃ t, execBeatStart j.id beat s = .next t ∧ t.HasRead j.id beat (j.sourceBytes b) fun a => s.byte (phys a) := by
  have unflushed : s.flushCtx j.ctx = s := State.writeBackIf_none l1 _
  let i : Job := { j with started := true, beats := j.beats ++ [{ num := beat }] }
  obtain ⟨js, rs, begun⟩ : ∃ js rs, s.beatBegun j beat = { s with jobs := js, rots := rs } := by
    unfold State.beatBegun
    rw [unflushed]
    exact ⟨_, _, rfl⟩
  have job : (s.beatBegun j beat).job? j.id = some i := State.beatBegun_job here beat
  rw [begun] at job
  let u : State := { s with jobs := js, rots := rs }
  have fresh := find?_append_fresh (Job.nextBeat_fresh next)
  obtain ⟨t, read, ⟨js', eq⟩, bs, y, job', found, num, -, right, there⟩ := State.readLocal_reads (s := u) (i := i)
      (j := j) (beat := beat) rfl
    phys dests bad waiters (j.sourceBytes b) maps [] u ⟨⟨js, rfl⟩, i.beats, _, job, fresh, rfl, rfl, fun a v h =>
        (by cases h),
      fun _ h => absurd h List.not_mem_nil⟩
  refine ⟨(u.visitRead t j beat (j.sourceBytes b)).freeDrain j.id, execBeatStart_starts here cut turn next (by omega)
      host ?_ ?_,
    State.HasRead.of_jobs (s := t) ⟨_, y, job', rfl, List.mem_of_find?_eq_some found, num, fun a ha => ?_⟩
      ((State.jobs_freeDrain ..).trans (State.jobs_visitAddrs ..))⟩
  · rw [if_pos space, begun]
    exact State.engineViolation_none (s := u) maps
  · unfold State.readBeat
    simp only [space]
    rw [begun, read]
    rfl
  · obtain ⟨v, has⟩ := Option.isSome_iff_exists.1 (there a ha)
    rw [has, right a v has]
    rfl

end

end Sys2Proof.Machine
end

section
namespace Sys2Proof.Machine
open Sys2Proof

variable {s t : State} {i j : Job} {st : Step} {w : MicroWord}

/-! ## A step of a collective executes its word (R239, R364) -/

/-- The lanes of a source of a word, from the units received and the bytes of the input tensor. -/
def stepSource (st : Step) (w : MicroWord) (units : List (Nat × List Byte)) (input : List Byte) (k : Nat) : List Word :=
  match (w.src k).1 with
  | 3 => lookupList (0 : Word) (128 * (w.src k).2) 128 st.mt
  | 5 => bytesLanes 128 input
  | 6 => List.replicate 128 (BitVec.ofNat 32 w.imm)
  | 7 => bytesLanes 128 ((units.take w.receives.length).getD (w.receives.findIdx (· == k)) (0, [])).2
  | _ => List.replicate 128 0

def stepLanes (st : Step) (w : MicroWord) (units : List (Nat × List Byte)) (input : List Byte) : List LaneWrite :=
  let source := stepSource st w units input
  (laneResult w.alu w.aty w.mode w.imm (BitVec.allOnes 128) (source 0) (source 1) (source 2)).1

def stepResult (st : Step) (w : MicroWord) (lanes : List LaneWrite) : List Word :=
  applyLanes (if w.dst.1 = 3 then lookupList (0 : Word) (128 * w.dst.2) 128 st.mt else List.replicate 128 0) lanes

/-- The bytes that a word writes into the output tensor. -/
def Job.stepStores (j : Job) (st : Step) (lanes : List LaneWrite) : List (Nat × Byte × Byte) :=
  (laneByteWrites lanes).map fun y => (j.dst.portAddr st.micro.ag1.addr + y.1, y.2)

/-- The step after its word. -/
def Step.after (st : Step) (w : MicroWord) (result : List Word) : Step :=
  { st with
    micro := (st.micro.setFlags (w.bit 62) (BitVec.allOnes 128) result).finish w fun _ => 0
    mt := if w.dst.1 = 3 then sparseSetList 0 (128 * w.dst.2) result st.mt else st.mt }

theorem Step.steps_after (st : Step) (w : MicroWord) (result : List Word) :
    (st.after w result).micro.steps = st.micro.steps + 1 := by
  show Micro.steps (Micro.finish _ _ _) = _
  rw [Micro.finish, Micro.steps_advance]
  exact congrArg (· + 1) (Micro.steps_setFlags ..)

theorem length_stepResult (st : Step) (w : MicroWord) (lanes : List LaneWrite) : (stepResult st w lanes).length = 128 := by
  refine List.foldlRecOn (motive := fun ls : List Word => ls.length = 128) lanes _ ?_ fun ls long x _ => ?_
  · split
    · simp [lookupList]
    · simp
  · rw [List.length_modify, long]

/-- The state with the units taken, the step on, and the unit sent. -/
def State.stepSent (s : State) (j : Job) (st : Step) (w : MicroWord) (result : List Word) : State :=
  let taken := (s.unitsFor (partOf j.vf) st.list).take w.receives.length
  let s := taken.foldl (fun s u => s.dropPacket u.1) s
  let s := s.onJob j.id fun j => { j with step := some (st.after w result), beats := j.beats.filter fun b => b.num != st.micro.steps }
  if w.sends then
    match s.collDevice j st.list w.sendTo with
    | some (d, v) => s.send d (.unit (partOf v) st.list (laneBytes result))
    | none => s
  else s

/-- A word executed: what is sent, and then what is written. -/
theorem State.runStep_eq (s : State) (j : Job) (st : Step) (w : MicroWord) :
    let lanes := stepLanes st w (s.unitsFor (partOf j.vf) st.list) (s.stepInput j st)
    let u := s.stepSent j st w (stepResult st w lanes)
    s.runStep j st w = if w.dst.1 = 5 then
        if j.dst.space = 0 then
          ((u.masterWrites j.path j.vf j.k.kindle (j.stepStores st lanes)).1.visitAddrs j.path j.vf
            ((List.range 8).map fun i => j.dst.portAddr st.micro.ag1.addr + 64 * i) j.dst.hint,
            (u.masterWrites j.path j.vf j.k.kindle (j.stepStores st lanes)).2)
        else (u.landLocal j.ctx none (j.stepStores st lanes), none)
      else (u, none) := by
  intro lanes u
  unfold State.runStep
  simp only [u, lanes, State.stepSent, stepResult, Job.stepStores, Step.after, stepLanes]
  rfl

/-- Taking units and sending one changes the packets and the job alone. -/
theorem State.stepSent_keeps (s : State) (j : Job) (st : Step) (w : MicroWord) (result : List Word) :
    ∃ ps k, s.stepSent j st w result = { s with
      packets := ps, nextId := k
      jobs := (s.onJob j.id fun j => { j with step := some (st.after w result), beats := j.beats.filter fun b => b.num != st.micro.steps }).jobs } ∧
      (w.sends = true → ∀ d v, s.collDevice j st.list w.sendTo = some (d, v) →
        ∃ p ∈ ps, p.2.dst = d ∧ p.2.msg = .unit (partOf v) st.list (laneBytes result)) := by
  obtain ⟨ps, taken⟩ : ∃ ps, ((s.unitsFor (partOf j.vf) st.list).take w.receives.length).foldl
      (fun s u => s.dropPacket u.1) s =
      { s with packets := ps } :=
    List.foldlRecOn (motive := fun t : State => ∃ ps, t = { s with packets := ps }) _ _ ⟨s.packets, rfl⟩ fun t same u _ => by
      obtain ⟨ps, rfl⟩ := same
      exact ⟨_, rfl⟩
  unfold State.stepSent
  dsimp only
  rw [taken]
  have same : State.collDevice (State.onJob { s with packets := ps } j.id fun j => { j with
      step := some (st.after w result), beats := j.beats.filter fun b => b.num != st.micro.steps }) j st.list w.sendTo =
        s.collDevice j st.list w.sendTo := rfl
  rw [same]
  split
  next sends =>
    cases device : s.collDevice j st.list w.sendTo with
    | none => exact ⟨_, _, rfl, fun _ d v h => by cases h⟩
    | some x =>
      refine ⟨_, _, rfl, fun _ d v h => ?_⟩
      obtain rfl := Option.some.inj h
      exact ⟨_, List.mem_append_right _ (List.mem_singleton.2 rfl), rfl, rfl⟩
  next quiet => exact ⟨_, _, rfl, fun sends => absurd sends quiet⟩

/-- The addresses of the output are those that a word writes. -/
theorem Job.stepStores_mem (space : j.dst.space = 0) (out : w.dst.1 = 5) (lanes : List LaneWrite) :
    ∀ y ∈ j.stepStores st lanes, y.1 ∈ j.stepWrites st w := by
  intro y hy
  obtain ⟨x, hx, rfl⟩ := List.mem_map.1 hy
  obtain ⟨k, hk, some⟩ := List.mem_filterMap.1 hx
  have place : x.1 = k := by
    dsimp only at some
    split at some
    · cases some
    · exact (congrArg (·.1) (Option.some.inj some)).symm
  rw [Job.stepWrites, if_pos (by simp [space, out])]
  exact List.mem_map.2 ⟨k, hk, by rw [place]⟩

/-- A word executed: its step is on, its unit is sent, and its stores are made where the output tensor lies, and nowhere else. -/
structure State.Executed (s : State) (i : Job) (st : Step) (w : MicroWord) (phys : Nat → Nat) (lanes :
    List LaneWrite) (u : State) : Prop where
  job : u.job? i.id = some { i with
    step := some (st.after w (stepResult st w lanes)), beats := i.beats.filter fun b => b.num != st.micro.steps }
  window : ∀ a, u.spByte i.ctx a = if w.dst.1 = 5 ∧ i.dst.space ≠ 0 then bytesMade (i.stepStores st lanes) (· == a)
      (s.spByte i.ctx a)
    else s.spByte i.ctx a
  memory : ∀ pa, u.byte pa = if w.dst.1 = 5 ∧ i.dst.space = 0 then bytesMade (i.stepStores st lanes)
      (fun a => phys a == pa) (s.byte pa)
    else s.byte pa
  sent : w.sends = true → ∀ d v, s.collDevice i st.list w.sendTo = some (d, v) →
    ∃ p ∈ u.packets, p.2.dst = d ∧ p.2.msg = .unit (partOf v) st.list (laneBytes (stepResult st w lanes))

theorem State.packets_visitAddrs (s : State) (p : Path) (vf : Nat) (as : List Nat) (h : BitVec 2) :
    (s.visitAddrs p vf as h).packets = s.packets := by
  obtain ⟨_, _, touched⟩ := State.touchAll_eq s p vf as
  rw [State.visitAddrs, touched]

theorem State.packets_landLocal (s : State) (n : Nat) (tile : Option Nat) (ws : List (Nat × Byte × Byte)) :
    (s.landLocal n tile ws).packets = s.packets :=
  List.foldlRecOn (motive := fun t : State => t.packets = s.packets) ws _ rfl fun t same w _ => by
    split
    · exact same
    · exact same

/-- Bytes written by a master, and the uses of its lines: jobs, packets and what contexts hold stay. -/
theorem State.written_keeps (s : State) (m : Memory) (bad : List Nat) (p : Path) (vf : Nat) (as lines : List Nat)
    (h : BitVec 2) :
    let v := (({ s with mem := m, bad := bad } : State).wakeAddrs p vf as).visitAddrs p vf lines h
    v.jobs = s.jobs ∧ v.packets = s.packets ∧ (∀ n, v.stored n = s.stored n) ∧ v.mem = m :=
  ⟨State.jobs_visitAddrs .., State.packets_visitAddrs .., fun _ => (State.stored_visitAddrs ..).trans
      (State.stored_wakeAddrs ..),
    State.visitAddrs_mem ..⟩

theorem State.runStep_executes (here : s.job? i.id = some i) (phys : Nat → Nat)
    (maps : ∀ a ∈ i.stepWrites st w, s.xlate i.path i.vf a .write = .ok (phys a) false) :
    ∃ u, s.runStep i st w = (u, none) ∧
      s.Executed i st w phys (stepLanes st w (s.unitsFor (partOf i.vf) st.list) (s.stepInput i st)) u := by
  rw [State.runStep_eq]
  generalize stepLanes st w (s.unitsFor (partOf i.vf) st.list) (s.stepInput i st) = lanes
  obtain ⟨ps, k, eq, sent⟩ := s.stepSent_keeps i st w (stepResult st w lanes)
  generalize s.stepSent i st w (stepResult st w lanes) = u at eq
  have job : u.job? i.id = some { i with
      step := some (st.after w (stepResult st w lanes)), beats := i.beats.filter fun b => b.num != st.micro.steps } := by
    rw [State.job?_of_jobs (congrArg State.jobs eq)]
    exact State.job?_onJob (f := fun i => { i with
      step := some (st.after w (stepResult st w lanes)), beats := i.beats.filter fun b => b.num != st.micro.steps })
          (fun _ => rfl) here
  have window : ∀ a, u.spByte i.ctx a = s.spByte i.ctx a := State.spByte_of_stored (by rw [show u = _ from eq]; rfl)
  have memory : ∀ pa, u.byte pa = s.byte pa := State.sameMemory_of_mem (by rw [show u = _ from eq])
  have packets : u.packets = ps := congrArg State.packets eq
  rw [← packets] at sent
  by_cases out : w.dst.1 = 5
  · by_cases space : i.dst.space = 0
    · have maps' : ∀ y ∈ i.stepStores st lanes, u.xlate i.path i.vf y.1 .write = .ok (phys y.1) false := fun y hy => by
        rw [show u = _ from eq]
        exact maps y.1 (Job.stepStores_mem space out lanes y hy)
      obtain ⟨bad, written⟩ := State.masterWrites_mapped i.k.kindle phys maps'
      obtain ⟨jobs, packets', held, mem⟩ := u.written_keeps (u.putMasked phys (i.stepStores st lanes)).mem bad i.path i.vf
        ((i.stepStores st lanes).map (·.1)) ((List.range 8).map fun k => i.dst.portAddr st.micro.ag1.addr + 64 * k)
            i.dst.hint
      refine ⟨_, by rw [if_pos out, if_pos space, written], (State.job?_of_jobs jobs _).trans job, fun a => ?_, fun pa => ?_,
        by rw [packets']; exact sent⟩
      · rw [if_neg fun h => h.2 space, State.spByte_of_stored (held i.ctx), window]
      · rw [if_pos ⟨out, space⟩, ← memory, ← State.byte_putMasked]
        exact State.sameMemory_of_mem mem pa
    · refine ⟨u.landLocal i.ctx none (i.stepStores st lanes), by rw [if_pos out, if_neg space], ?_, fun a => ?_,
        fun pa => ?_, ?_⟩
      · exact (State.job?_of_jobs (State.jobs_landLocal ..) _).trans job
      · rw [State.spByte_landLocal, if_pos ⟨out, space⟩, window]
      · rw [if_neg fun h => space h.2]
        exact (State.sameMemory_of_mem (State.mem_landLocal ..) pa).trans (memory pa)
      · rw [State.packets_landLocal]
        exact sent
  · refine ⟨u, if_neg out, job, fun a => ?_, fun pa => ?_, sent⟩
    · rw [if_neg fun h => out h.1, window]
    · rw [if_neg fun h => out h.1, memory]

end Sys2Proof.Machine
end

section
namespace Sys2Proof.Machine
open Sys2Proof

variable {s t : State} {i j : Job} {st : Step} {w : MicroWord}

/-- The bytes that a word takes from its input tensor, in the window or in device memory. -/
def State.stepPort (s : State) (j : Job) (st : Step) (w : MicroWord) (phys : Nat → Nat) : List Byte :=
  (List.range 512).map fun k =>
    let a := j.src.portAddr st.micro.ag0.addr + k
    if j.src.space ≠ 0 then s.spByte j.ctx a else if j.stepReads st w = [] then 0 else s.byte (phys a)

/-- The read of a word's input is made: the state that it leaves, and its job. -/
structure State.InputRead (s : State) (i : Job) (st : Step) (w : MicroWord) (phys : Nat → Nat) (t : State) (bs :
    List Beat) : Prop where
  frame : ∃ js, t = { s with jobs := js }
  job : t.job? i.id = some { i with beats := bs }
  clean : (bs.find? fun b => b.num == st.micro.steps).bind (·.fault) = none
  whole : ∀ a ∈ i.stepReads st w, ((bs.find? fun b => b.num == st.micro.steps).any fun b =>
      (lookup? a b.bytes).isSome) = true
  input : t.stepInput { i with beats := bs } st = s.stepPort i st w phys

/-- The state in which a word reads: with a beat for its input, where it reads device memory. -/
def State.inputBegun (s : State) (j : Job) (st : Step) (w : MicroWord) : State :=
  if j.beats.any (fun b => b.num == st.micro.steps) || (j.stepReads st w).isEmpty then s
  else s.onJob j.id fun j => { j with beats := j.beats ++ [{ num := st.micro.steps }] }

/-- Without a read, the input is the window's bytes, or zeros. -/
theorem State.inputRead_none (here : s.job? i.id = some i) (fresh : ∀ y ∈ i.beats, y.num ≠ st.micro.steps) (none :
    i.stepReads st w = [])
    (phys : Nat → Nat) : s.InputRead i st w phys s i.beats := by
  have absent : (i.beats.find? fun b => b.num == st.micro.steps) = .none := List.find?_eq_none.2
      fun y hy => by simpa using fresh y hy
  refine ⟨⟨s.jobs, rfl⟩, here, by rw [absent]; rfl, fun a ha => ?_, ?_⟩
  · rw [none] at ha
    cases ha
  · unfold State.stepInput State.stepPort
    dsimp only
    by_cases space : i.src.space = 0
    · rw [if_pos space, absent]
      refine List.map_congr_left fun k _ => ?_
      rw [if_neg (not_not.2 space), if_pos none]
      rfl
    · rw [if_neg space, State.spBytes]
      refine List.map_congr_left fun k _ => ?_
      rw [if_pos space]

/-- A read of device memory gives the bytes of memory. -/
theorem State.inputRead_mem (reads : i.stepReads st w ≠ []) (phys : Nat → Nat)
    (read : s.Reads i st.micro.steps (fun a => s.byte (phys a)) (i.stepReads st w) t) :
        ∃ bs, s.InputRead i st w phys t bs := by
  obtain ⟨frame, bs, y, job, found, num, clean, right, there⟩ := read
  have cond : (w.sprd && i.src.space == 0 && w.sources.any fun o => o.1 == 5) = true := by
    by_contra off
    exact reads (if_neg off)
  have list : i.stepReads st w = (List.range 512).map fun k => i.src.portAddr st.micro.ag0.addr + k := if_pos cond
  have space : i.src.space = 0 := by simp at cond; exact cond.1.2
  refine ⟨bs, frame, job, by rw [found]; exact clean, fun a ha => by rw [found]; exact there a ha, ?_⟩
  unfold State.stepInput State.stepPort
  dsimp only
  rw [if_pos space, found]
  refine List.map_congr_left fun k hk => ?_
  obtain ⟨v, has⟩ := Option.isSome_iff_exists.1 (there _ (list ▸ List.mem_map.2 ⟨k, hk, rfl⟩))
  rw [if_neg (not_not.2 space), if_neg reads, ← right _ v has]
  show (lookup? _ y.bytes).getD 0 = v
  rw [has]
  rfl

/-- A word whose input is there, and whose window holds no error, goes on to its execution. -/
theorem State.stepOn_executes {phys : Nat → Nat} {bs : List Beat} {u : State} (read : s.InputRead i st w phys t bs)
    (good : ∀ a ∈ i.stepWindow st w, s.spBad i.ctx a = false) (run : t.runStep { i with beats := bs } st w = (u, none)) :
    t.stepOn { i with beats := bs } st w (i.stepReads st w) = if w.seq = 9 then u.exitStep { i with beats := bs } else u := by
  obtain ⟨js, frame⟩ := read.frame
  have window : (Job.stepWindow { i with beats := bs } st w).find? (t.spBad i.ctx) = none :=
    List.find?_eq_none.2 fun a ha => by rw [frame]; exact fun bad => Bool.false_ne_true ((good a ha).symm.trans bad)
  unfold State.stepOn
  dsimp only
  rw [read.clean, window]
  dsimp only
  rw [if_pos (List.all_eq_true.2 read.whole), run]

/-- A job whose routine has exited is gone; memory, packets and what contexts hold stay. -/
theorem State.exitStep_ends {k : Job} (here : s.job? i.id = some k) :
    (s.exitStep i).job? i.id = none ∧ (s.exitStep i).mem = s.mem ∧ (s.exitStep i).packets = s.packets ∧
      ∀ n, (s.exitStep i).stored n = s.stored n := by
  let u := s.subBytes i i.bytes
  have less : u.job? i.id = some { k with bytes := k.bytes - i.bytes } := by
    rw [State.job?_of_jobs (State.jobs_subBytes ..)]
    exact State.job?_onJob (f := fun k => { k with bytes := k.bytes - i.bytes }) (fun _ => rfl) here
  have run : s.exitStep i = u.completeJob { k with bytes := k.bytes - i.bytes, step := none } := by
    unfold State.exitStep
    dsimp only
    rw [less]
  have id : k.id = i.id := State.job?_id here
  refine ⟨?_, State.mem_exitStep .., ?_, fun n => ?_⟩
  · rw [run, ← id]
    exact State.job?_completeJob ..
  · rw [run]
    exact congrArg (·.2.2.2) ((State.fabric_completeJob ..).trans (State.fabric_subBytes ..))
  · rw [run]
    exact (State.stored_completeJob ..).trans (State.stored_subBytes ..)

section
variable (here : s.job? j.id = some { j with started := true }) (fresh : ∀ y ∈ j.beats, y.num ≠ st.micro.steps) (phys : Nat → Nat)
  (dests : s.dests = []) (bad : s.bad = []) (waiters : s.waiters = [])
  (reads : ∀ a ∈ j.stepReads st w, s.xlate j.path j.vf a .read = .ok (phys a) false)
include here fresh dests bad waiters reads

/-- The input of a word is read, with its bytes as memory holds them. -/
theorem State.input_reads : ∃ t bs, (if (j.stepReads st w).isEmpty then some (.ok (s.inputBegun j st w))
      else (s.inputBegun j st w).readLocal j st.micro.steps (j.stepReads st w)) = some (.ok t) ∧
    s.InputRead { j with started := true } st w phys t bs := by
  let i : Job := { j with started := true }
  by_cases none : j.stepReads st w = []
  · have begun : s.inputBegun j st w = s := by
      rw [State.inputBegun, none]
      simp
    rw [begun, none]
    exact ⟨s, j.beats, rfl, State.inputRead_none (i := i) here fresh none phys⟩
  · have unread : (j.beats.any fun b => b.num == st.micro.steps) = false := List.any_eq_false.2
      fun y hy => by simpa using fresh y hy
    have full : (j.stepReads st w).isEmpty = false := by simpa using none
    let u := s.onJob j.id fun j => { j with beats := j.beats ++ [{ num := st.micro.steps }] }
    have begun : s.inputBegun j st w = u := by
      rw [State.inputBegun, unread, full]
      rfl
    have job : u.job? j.id = some { i with beats := j.beats ++ [{ num := st.micro.steps }] } :=
      State.job?_onJob (f := fun j => { j with beats := j.beats ++ [{ num := st.micro.steps }] }) (fun _ => rfl) here
    obtain ⟨t, read, ⟨js, frame⟩, rest⟩ := State.readLocal_reads (s := u) (i := i) (j := j) (beat := st.micro.steps)
        rfl phys dests bad waiters
      (j.stepReads st w) reads [] u ⟨⟨u.jobs, rfl⟩, _, _, job, find?_append_fresh fresh, rfl, rfl, fun a v h => (by cases h),
        fun _ h => absurd h List.not_mem_nil⟩
    obtain ⟨bs, input⟩ := State.inputRead_mem (s := s) (i := i) none phys ⟨⟨js, frame⟩, rest⟩
    rw [full, begun]
    exact ⟨t, bs, read, input⟩

/-- A word that passes its checks is executed, and the routine's last one ends its job. -/
theorem State.performStep_executes (units : w.receives.length ≤ (s.unitsFor (partOf j.vf) st.list).length)
    (met : s.engineMissing j (j.stepReads st w ++ j.stepWrites st w) = none) (may : s.mayLand j (j.stepWrites st w) = true)
    (reach : w.sends = true → ((s.collDevice j st.list w.sendTo).any fun d => s.reachable d.1) = true)
    (writes : ∀ a ∈ j.stepWrites st w, s.xlate j.path j.vf a .write = .ok (phys a) false)
    (good : ∀ a ∈ j.stepWindow st w, s.spBad j.ctx a = false) :
    ∃ (bs : List Beat) (u : State) (as : List Nat),
      s.performStep j st w = (if w.seq = 9 then u.exitStep { j with started := true, beats := bs } else u).visitAddrs j.path j.vf as j.src.hint ∧
      s.Executed { j with started := true, beats := bs } st w phys
        (stepLanes st w (s.unitsFor (partOf j.vf) st.list) (s.stepPort j st w phys)) u := by
  obtain ⟨t, bs, read, input⟩ := State.input_reads here fresh phys dests bad waiters reads
  obtain ⟨js, frame⟩ := input.frame
  let i : Job := { j with started := true, beats := bs }
  obtain ⟨u, run, executed⟩ := State.runStep_executes (s := t) (i := i) (st := st) (w := w) input.job phys
      (by rw [frame]; exact writes)
  have checked : ((s.unitsFor (partOf j.vf) st.list).length < w.receives.length || (s.engineMissing j
      (j.stepReads st w ++ j.stepWrites st w)).isSome ||
      !s.mayLand j (j.stepWrites st w) || (w.sends && !(s.collDevice j st.list w.sendTo).any
          fun d => s.reachable d.1)) = false := by
    cases sends : w.sends with
    | false => simp [met, may, units]
    | true => simp [met, may, units, reach sends]
  have sound : (s.engineViolation j .read (j.stepReads st w)).or (s.engineViolation j .write (j.stepWrites st w))
      = none := by
    rw [State.engineViolation_none reads, State.engineViolation_none writes]
    rfl
  have on := State.stepOn_executes input good run
  refine ⟨bs, u, s.inputBegun j st w |>.readBetween t j st.micro.steps (j.stepReads st w), ?_, ?_⟩
  · unfold State.performStep
    dsimp only
    rw [if_neg (by rw [checked]; exact Bool.false_ne_true), sound]
    dsimp only
    rw [← State.inputBegun, read]
    dsimp only
    rw [show t.job? j.id = some i from input.job]
    dsimp only
    rw [show t.stepOn i st w (j.stepReads st w) = if w.seq = 9 then u.exitStep i else u from on]
  · rw [show t.stepInput i st = s.stepPort j st w phys from input.input] at executed
    subst frame
    exact ⟨executed.job, executed.window, executed.memory, executed.sent⟩

end

end Sys2Proof.Machine
end

section
namespace Sys2Proof.Machine
open Sys2Proof

variable {s t : State} {j : Job} {st : Step} {w : MicroWord}

/-- Lines written back change memory, the marks of errors, the L2, contexts and cores alone. -/
theorem State.flushCtx_eq (s : State) (n : Nat) :
    ∃ m b l cs ks, s.flushCtx n = { s with mem := m, bad := b, l2 := l, ctxs := cs, cores := ks } := by
  refine List.foldlRecOn (motive := fun t : State => ∃ m b l cs ks, t = { s with mem := m, bad := b, l2 := l, ctxs := cs, cores := ks }) _ _
    ⟨s.mem, s.bad, s.l2, s.ctxs, s.cores, rfl⟩ fun t same x _ => ?_
  obtain ⟨m, b, l, cs, ks, rfl⟩ := same
  unfold State.writeBack State.homeWrite
  dsimp only
  split
  · exact ⟨m, b, l, cs, ks, rfl⟩
  · split
    · exact ⟨_, _, _, _, _, rfl⟩
    · exact ⟨_, _, _, _, _, rfl⟩

/-- The state in which a step's word is looked up: the first time, the lines of the context written back. -/
def State.stepBegun (s : State) (j : Job) : State :=
  if j.started then s else (s.flushCtx j.ctx).onJob j.id fun j => { j with started := true }

theorem State.stepBegun_eq (s : State) (j : Job) :
    ∃ m b l cs ks js, s.stepBegun j = { s with mem := m, bad := b, l2 := l, ctxs := cs, cores := ks, jobs := js } := by
  unfold State.stepBegun
  split
  · exact ⟨s.mem, s.bad, s.l2, s.ctxs, s.cores, s.jobs, rfl⟩
  · obtain ⟨m, b, l, cs, ks, eq⟩ := s.flushCtx_eq j.ctx
    exact ⟨m, b, l, cs, ks, _, by rw [eq]; rfl⟩

theorem State.life_stepBegun (s : State) (j : Job) (n : Nat) : ((s.stepBegun j).ctx n).life = (s.ctx n).life := by
  unfold State.stepBegun
  split
  · rfl
  · exact State.life_writeBackIf ..

theorem State.collWord_stepBegun (s : State) (j : Job) (mpc : Nat) : (s.stepBegun j).collWord j mpc = s.collWord j mpc := by
  obtain ⟨_, _, _, _, _, _, eq⟩ := s.stepBegun_eq j
  rw [eq]
  rfl

theorem State.collBad_stepBegun (s : State) (j : Job) (st : Step) (w : MicroWord) :
    (s.stepBegun j).collBad j st w = s.collBad j st w := by
  obtain ⟨_, _, _, _, _, _, eq⟩ := s.stepBegun_eq j
  rw [eq]
  rfl

/-- With no line to write back, what has begun is the job alone. -/
theorem State.stepBegun_quiet (here : s.job? j.id = some j) (quiet : j.started = true ∨ (s.core (coreOf j.ctx)).l1 = []) :
    ∃ js, s.stepBegun j = { s with jobs := js } ∧ (s.stepBegun j).job? j.id = some { j with started := true } := by
  unfold State.stepBegun
  split
  next started =>
    refine ⟨s.jobs, rfl, here.trans (congrArg some ?_)⟩
    rw [← started]
  next idle =>
    rw [show s.flushCtx j.ctx = s from State.writeBackIf_none (quiet.resolve_left idle) _]
    exact ⟨_, rfl, State.job?_onJob (f := fun j => { j with started := true }) (fun _ => rfl) here⟩

section
variable (here : s.job? j.id = some j) (step : j.step = some st) (running : j.frozen = false) (ready : s.stepReady j = true)
include here step running ready

theorem execCollectiveMicroStep_runs (more : st.micro.steps < st.bound) (word : s.collWord j st.micro.mpc = some w)
    (good : s.collBad j st w = none) : execCollectiveMicroStep j.id s = .next ((s.stepBegun j).performStep j st w) := by
  unfold execCollectiveMicroStep
  simp only [here, step, running, ready, Bool.not_true, Bool.or_self, Bool.false_eq_true, if_false]
  rw [← State.stepBegun, if_neg (Nat.not_le.2 more), State.collWord_stepBegun, word]
  dsimp only
  rw [State.collBad_stepBegun, good]

/-- A word that fails its checks, and a step too many, fault the job. -/
theorem execCollectiveMicroStep_faults (stops : st.bound ≤ st.micro.steps ∨ s.collWord j st.micro.mpc = none ∨
      ∃ r, s.collWord j st.micro.mpc = some w ∧ s.collBad j st w = some r) :
    ∃ (u : State) (x : Trapped), execCollectiveMicroStep j.id s = .next (u.jobFault j x) ∧ (u.ctx j.ctx).life =
        (s.ctx j.ctx).life := by
  have life := s.life_stepBegun j j.ctx
  unfold execCollectiveMicroStep
  simp only [here, step, running, ready, Bool.not_true, Bool.or_self, Bool.false_eq_true, if_false]
  rw [← State.stepBegun]
  by_cases past : st.bound ≤ st.micro.steps
  · rw [if_pos past]
    exact ⟨_, _, rfl, life⟩
  · rw [if_neg past, State.collWord_stepBegun]
    obtain none | ⟨r, word, bad⟩ := stops.resolve_left past
    · rw [none]
      exact ⟨_, _, rfl, life⟩
    · rw [word]
      dsimp only
      rw [State.collBad_stepBegun, bad]
      exact ⟨_, _, rfl, life⟩

end

/-- After the routine's last word the job is gone; what was executed stands. -/
theorem State.Executed.finishes {u : State} {i : Job} {phys : Nat → Nat} {lanes : List LaneWrite} (done :
    s.Executed i st w phys lanes u)
    (p : Path) (vf : Nat) (as : List Nat) (h : BitVec 2) :
    let t := (if w.seq = 9 then u.exitStep i else u).visitAddrs p vf as h
    (w.seq = 9 → t.job? i.id = none) ∧ (w.seq ≠ 9 → t.job? i.id = u.job? i.id) ∧ (∀ a, t.spByte i.ctx a = u.spByte i.ctx a) ∧
      (∀ pa, t.byte pa = u.byte pa) ∧ t.packets = u.packets := by
  obtain ⟨gone, mem, packets, held⟩ := State.exitStep_ends (i := i) done.job
  intro t
  have job : t.job? i.id = (if w.seq = 9 then u.exitStep i else u).job? i.id := State.job?_of_jobs
      (State.jobs_visitAddrs ..) _
  refine ⟨fun last => ?_, fun more => ?_, fun a => ?_, fun pa => ?_, (State.packets_visitAddrs ..).trans ?_⟩
  · rw [job, if_pos last, gone]
  · rw [job, if_neg more]
  · refine (State.spByte_of_stored (State.stored_visitAddrs ..) a).trans ?_
    split
    · exact State.spByte_of_stored (held _) a
    · rfl
  · refine (State.sameMemory_of_mem (State.visitAddrs_mem ..) pa).trans ?_
    split
    · exact State.sameMemory_of_mem mem pa
    · rfl
  · split
    · exact packets
    · rfl

end Sys2Proof.Machine

open Sys2Proof Sys2Proof.Machine

/-- Settles O59: the bytes of a window or a tile outlast a write back of lines, a read of device memory keeps only bytes of memory in its
beat, the fold of the masked writes is what each byte becomes, and what completes a job leaves memory, packets and windows. -/
theorem engineBeats : Obligations.EngineBeats := by
  intro s j beat b x order st w phys here made mapped open'
  refine ⟨fun cut turn next host => ⟨fun space good => ?_, fun space good => ?_, fun space l1 quiet maps => ?_⟩,
    fun cut found running clean going whole packets frames => ⟨fun space starts => ?_, fun space starts => ?_,
      fun space plain quiet met maps => ?_⟩, ?_, fun step running ready stops => ?_⟩
  · obtain ⟨t, run, i, y, read⟩ := execBeatStart_window here cut turn next host space good
    exact ⟨t, i, y, run, read⟩
  · obtain ⟨t, run, i, y, read⟩ := execBeatStart_tile here cut turn next host space good
    exact ⟨t, i, y, run, read⟩
  · obtain ⟨dests, bad, waiters⟩ := quiet
    obtain ⟨t, run, i, y, read⟩ := execBeatStart_mem here cut turn next host space l1 dests bad waiters phys maps
    exact ⟨t, i, y, run, read⟩
  · obtain ⟨t, js, run, done, memory, held⟩ := execBeatComplete_local (order := order)
      here cut found running clean going whole packets frames
      (.inl space) starts
    have window : ∀ a, t.spByte j.ctx a = bytesMade (j.copyWrites b (j.carry b x.bytes) order s.free) (· == a)
        (s.spByte j.ctx a) := fun a => by
      rw [State.spByte_of_stored held, if_neg (by omega), State.spByte_landLocal]
      rfl
    refine ⟨t, run, done, memory, window, fun a out => ?_, fun once y hy all => ?_⟩
    · rw [window]
      exact bytesMade_out (hit := (· == a)) (fun y hy => beq_eq_false_iff_ne.2 (out y hy)) _
    · rw [window]
      exact bytesMade_once once hy all _
  · obtain ⟨t, js, run, done, memory, held⟩ := execBeatComplete_local (order := order)
      here cut found running clean going whole packets frames
      (.inr space) starts
    refine ⟨t, run, done, memory, fun a => ?_⟩
    rw [Ctx.tileByte, State.mat_of_stored held, if_pos space]
    exact State.tileByte_landLocal ..
  · obtain ⟨dests, -, -⟩ := quiet
    exact execBeatComplete_mem here cut found running clean going whole packets frames space plain dests met phys maps
  · intro step running ready quiet more word good units ins outs received device opened may met reads writes window fresh mt port source ws
      result stores
    obtain ⟨dests, bad, waiters⟩ := opened
    obtain ⟨js, begun, job⟩ := State.stepBegun_quiet here quiet
    obtain ⟨bs, u, as, run, executed⟩ := State.performStep_executes (s := s.stepBegun j) (j := j) (st := st) (w := w)
        job fresh phys
      (by rw [begun]; exact dests) (by rw [begun]; exact bad) (by rw [begun]; exact waiters) (by rw [begun]; exact reads)
      (by rw [begun]; exact received) (by rw [begun]; exact met) (by rw [begun]; exact may)
      (fun sends => by obtain ⟨d, v, found, reach⟩ := device sends; rw [begun]; exact
          (Option.any_eq_true _ _).2 ⟨(d, v), found, reach⟩)
      (by rw [begun]; exact writes) (by rw [begun]; exact window)
    have lanes : stepLanes st w ((s.stepBegun j).unitsFor (partOf j.vf) st.list)
        ((s.stepBegun j).stepPort j st w phys) = ws := by
      rw [begun]
      rfl
    rw [lanes, begun] at executed
    obtain ⟨last, more', window', memory, packets⟩ := executed.finishes j.path j.vf as j.src.hint
    refine ⟨_, (execCollectiveMicroStep_runs here step running ready more word good).trans (congrArg _ run), last,
      fun going => ⟨_, _, (more' going).trans executed.job, rfl, Step.steps_after .., fun out => ?_⟩,
          fun a => ?_, fun pa => ?_, fun sends => ?_⟩
    · show lookupList 0 (128 * w.dst.2) 128 (if w.dst.1 = 3 then sparseSetList 0 (128 * w.dst.2)
        result st.mt else st.mt) = result
      rw [if_pos out]
      have whole := lookupList_sparseSetList (0 : Word) (128 * w.dst.2) result st.mt
      rwa [show result.length = 128 from length_stepResult st w ws] at whole
    · rw [window', executed.window]
      rfl
    · rw [memory, executed.memory]
      rfl
    · obtain ⟨d, v, found, -⟩ := device sends
      obtain ⟨p, there, place, unit⟩ := executed.sent sends d v found
      exact ⟨d, v, p, packets ▸ there, found, place, unit⟩
  · obtain ⟨u, y, run, life⟩ := execCollectiveMicroStep_faults here step running ready stops
    obtain ⟨gone, ends⟩ := State.jobFault_ends (s := u) (j := j) rfl y
    exact ⟨_, run, State.job_none gone, fun owned live => ends owned (by rw [life]; exact live)⟩
end
